-- ==== Sys2Proof/Word.lean ====
section
/-! DEFINITION. The word types of the block (R21) and their plainest arithmetic. -/

namespace Sys2Proof

/-- A byte is 8 bits (R21). -/
abbrev Byte := BitVec 8
/-- A word is 32 bits (R21). -/
abbrev Word := BitVec 32
/-- A doubleword is 64 bits (R21). -/
abbrev Dword := BitVec 64
/-- The 64-byte granule in which slices and the crossbar move data (R306). -/
abbrev Granule := BitVec 512

/-- A physical core number: quadrant, cluster and core (R16). -/
abbrev CoreNum := BitVec 10
/-- A slice port, which is also a pseudo-channel and the window port of the core of that number (R308). -/
abbrev PortNum := BitVec 10
/-- A thread of a core (R273). -/
abbrev ThreadNum := BitVec 6
/-- A mailbox (R365). -/
abbrev MailboxNum := BitVec 6
/-- A job handle (R379). -/
abbrev Handle := BitVec 16

end Sys2Proof
end

