-- ==== Sys2Proof/Syntax.lean ====
section
/-! DEFINITION. The commands of the block: one constructor for each row of spec/opcode_table.json, with the operands that
the row's rule needs. A command of an engine takes its words from the engine's command slot, where ISSUE (R278) put
them; a mailbox command takes its words from the mailbox, where MB_COMMAND_TAKE (R367) copied them. An event from
outside the module carries what the outside brings: a frame, a sample, a reading, the data of a bus access. -/

namespace Sys2Proof

/-- What a transfer's 64 bytes meet on their way (R307, R324): which of the eight words carry a single-bit error, which a
double-bit error, and whether the stack reported a command/address parity error. -/
structure XferErr where
  ce : BitVec 8
  ue : BitVec 8
  capar : Bool
  deriving DecidableEq, Repr

/-- The errors of the table's LOGIC_FAULT row (R471): of a core's logic (code 0x08), a router (0x09), the control network (0x1A), the
root of trust (0x1C), a core's storage (0x06, 0x07) and the UCIe link (0x19). -/
inductive LogicFault where
  | coreLogic (core : CoreNum)
  | router (core : CoreNum)
  | controlNetwork
  | rootOfTrust
  /-- Storage of a core meets an error in the word at this window offset, in an access of this engine: one bit, or two. -/
  | storage (core : CoreNum) (engine : BitVec 3) (offset : BitVec 24) (double : Bool)
  /-- The UCIe link retries. -/
  | ucieRetry
  deriving DecidableEq, Repr

/-- One reading of the power monitor: millivolts, units of 10 mA and units of 10 mW (Table 17-16). -/
structure PowerReading where
  v : BitVec 16
  i : BitVec 20
  p : BitVec 20
  deriving DecidableEq, Repr

/-- The commands. -/
inductive Instr where
  | beatBoundary
  | deadlockDetect (core : CoreNum)
  | issue (core : CoreNum) (thread : ThreadNum)
  | wait (core : CoreNum) (thread : ThreadNum)
  | waitRelease (core : CoreNum) (thread : ThreadNum)
  | sig (core : CoreNum) (thread : ThreadNum)
  | scoreboardIncrement (core : CoreNum)
  | arrive (core : CoreNum) (thread : ThreadNum)
  | rwait (core : CoreNum) (thread : ThreadNum)
  | rwaitRelease (core : CoreNum) (thread : ThreadNum)
  | rally (core : CoreNum) (thread : ThreadNum)
  | mark (core : CoreNum) (thread : ThreadNum)
  | feltRun (core : CoreNum)
  | feltQscan (core : CoreNum)
  | feltQconv (core : CoreNum)
  | rotStore (core : CoreNum)
  | rotLoad (core : CoreNum)
  | exchSend (core : CoreNum)
  | feltBetaSet (core : CoreNum)
  | exchangeBeat (handle : Handle)
  | replicaExchangeDecide (handle : Handle)
  | stagingMove (core : CoreNum)
  | feMma (core : CoreNum)
  | feOut (core : CoreNum)
  | feBern (core : CoreNum)
  | napFill (core : CoreNum)
  | catDraw (core : CoreNum)
  | accStore (core : CoreNum)
  | accLoad (core : CoreNum)
  | accRed (core : CoreNum)
  | nodeAdd (port : PortNum)
  | lsMove (core : CoreNum)
  | sliceWriteLand (port : PortNum) (err : XferErr)
  | readDataDeliver (core : CoreNum) (err : XferErr)
  | hbmAccess (pc : PortNum) (err : XferErr)
  | hbmRefresh (pc : PortNum)
  | phyMaintenance (pc : PortNum)
  /-- A steward read or write of `size` bytes at steward physical address `addr` (R361, R362), with what its words meet on
  their way (R476). -/
  | stewardAccess (write : Bool) (size : Nat) (addr : BitVec 48) (data : Granule) (err : XferErr)
  /-- A write of `size` bytes to a register, at its steward physical address. -/
  | registerWrite (size : Nat) (addr : BitVec 48) (value : Dword)
  | jobContainedEnd (handle : Handle)
  | fatalEnd
  | fenceApply (core : CoreNum)
  | clusterFence (cluster : BitVec 6)
  | doorbell (mb : MailboxNum)
  | ack (mb : MailboxNum)
  | mbCommandTake
  | mbResponseWrite (mb : MailboxNum)
  | jobAdmit (mb : MailboxNum)
  | jobCancel (mb : MailboxNum)
  | jobStatus (mb : MailboxNum)
  | schedInfo (mb : MailboxNum)
  | ctxSave (mb : MailboxNum)
  | ctxSuspend (handle : Handle)
  | ctxSaveDone (handle : Handle)
  | ctxRestore (mb : MailboxNum)
  | admission (handle : Handle)
  | launchDeadlineWithdraw (handle : Handle)
  | jobStart (handle : Handle)
  | jobDone (handle : Handle)
  /-- The master sends GO for the set that armed with this token. -/
  | goSend (token : Dword)
  | goTimeoutWithdraw (handle : Handle)
  /-- The master sends the engine bases of the set with this token. -/
  | baseSend (token : Dword)
  | cfgOverlay (mb : MailboxNum)
  | overlayApply
  | entRead (mb : MailboxNum)
  | entReadComplete (mb : MailboxNum)
  | entRestart (mb : MailboxNum)
  | napEval (mb : MailboxNum)
  | coreFence (mb : MailboxNum)
  | distRead (mb : MailboxNum)
  /-- The 64 latched oscillator bits of one edge of the sample clock (R245). -/
  | entSample (sample : Dword)
  /-- The known-answer tests end, with their outcome (R251). -/
  | startupTestEnd (katOk : Bool)
  | drbgInstantiate
  | estWindow
  /-- `link` false: the key block asks; true: the link cipher asks (R262). -/
  | privateWireRequest (link : Bool)
  | privateWireServe
  | entTrimWrite (fromCp : Bool) (n : BitVec 2) (value : Dword)
  | entTestWrite (value : Word)
  | linkFrameTx (port : BitVec 4)
  /-- The 64,000 bytes received, and the numbers of the codewords not decoded in time (R343, R346). -/
  | linkFrameRx (port : BitVec 4) (frame : List Byte) (late : List Nat)
  /-- Training ended: the 1,024 measurements, each a round trip and the peer's hold within it, in cycles (R348), and the peer's module
  and port. -/
  | linkUp (port : BitVec 4) (rounds : List (Nat × Nat)) (peerModule : BitVec 6) (peerPort : BitVec 4)
  | linkDown (port : BitVec 4)
  /-- Lock over the upstream port, with the measured alignment in cycles (R349). -/
  | beatLock (align : BitVec 8)
  | beatLockLoss
  | counterLoad
  | lockstepCompare
  | sidelineFrame
  | dieEventSend (source : BitVec 9)
  | dieInterruptMessage
  | stewardEdge (source : BitVec 9)
  | levelSourceChange (source : BitVec 9) (asserted : Bool)
  | icClaim (ctx : BitVec 5)
  | icComplete (ctx : BitVec 5) (source : BitVec 9)
  | icSwset (source : BitVec 9)
  | icSrcWrite (source : BitVec 9) (value : Word)
  | icThreshWrite (ctx : BitVec 5) (value : Word)
  | fabricClockStop
  | fabricClockRestart
  | ucieLinkDown
  | ucieLinkUp
  | bootGo
  | fwVerifyDone
  /-- HBM training has ended: bit s of `trained` says that stack s trained (R389); bit q of `faulty`, that the CP's checks at boot
  found a fault in a router of cluster q (R330). -/
  | bootReady (trained : Word) (faulty : Dword)
  | whistleSound (source : BitVec 3)
  | whistleStop
  | hangSnapshot (core : CoreNum)
  | dbgWhistle (mb : MailboxNum)
  | dbgScanout (mb : MailboxNum)
  | dbgRelease (mb : MailboxNum)
  | dbgSnapshot (mb : MailboxNum)
  | dbgWatch (mb : MailboxNum)
  | dbgWatchread (mb : MailboxNum)
  | secSpdm (mb : MailboxNum)
  | secReport (mb : MailboxNum)
  | secCtrread (mb : MailboxNum)
  | secLifecycle (mb : MailboxNum)
  | secKeyset (mb : MailboxNum)
  | secKeydel (mb : MailboxNum)
  | secImport (mb : MailboxNum)
  | secExport (mb : MailboxNum)
  | scrubStart (part : BitVec 3)
  | scrubDone (part : BitVec 3)
  | errAck (mb : MailboxNum)
  | errInject (mb : MailboxNum)
  | stwReset (mb : MailboxNum)
  | stewardReset
  /-- `cause`: the bit of RST_CAUSE that names the source, 0 to 4. -/
  | coldResetAssert (cause : BitVec 3)
  | coldResetRelease
  | clockLoss
  | tapReset
  /-- The rail's index in Table 17-6. -/
  | railPowerGood (rail : BitVec 4)
  /-- `index`: the rail or sensor index of the record, 0xFF for the input (R479). -/
  | shutdown (index : Byte)
  /-- The 1 ms means of the input and of rails 0 to 10, in units of 10 mW (R482). -/
  | powerWindow (input : BitVec 20) (rails : List (BitVec 20))
  /-- The 40-beat means of the input, the four parts and the eleven rails (R481). -/
  | powerReadingWindow (input : PowerReading) (parts : List PowerReading) (rails : List PowerReading)
  /-- Sensor 0 to 88 of Table 17-7, or 128 + s for HBM stack s; a signed reading in quarters of a degree. -/
  | thermalThreshold (sensor : Byte) (temp : BitVec 12)
  /-- The byte that a PMBus write carries; the address of the transfer is on the bus, which State holds (R488). -/
  | operation (value : Byte)
  | clearFaults
  | capability
  | pmbusRevision
  | statusWord
  | readVin
  | readIin
  | readPin
  | readTemperature1
  | readTemperature2
  | readTemperature3
  | mfrId
  | mfrModel
  | mfrSerial
  | mfrGradeMap
  | mfrDclass
  | mfrRstCause
  | mfrColdReset (value : Byte)
  | mfrWhistle (value : Byte)
  | mfrStwReset (value : Byte)
  | mfrLastFatal
  | mfrPartPower
  | pmbusInvalidCommand (code : Byte)
  | flCmd (value : Word)
  /-- The device ends its operation: whether it reported an error, and the bytes that it returned to a read. -/
  | flashOpDone (err : Bool) (data : List Byte)
  | ethTransmit (port : BitVec 1)
  /-- A frame arrives; `fcsOk`: its frame check sequence is good; `codewords`: FEC codewords not corrected. -/
  | ethReceive (port : BitVec 1) (frame : List Byte) (fcsOk : Bool) (codewords : BitVec 16)
  | scanoutDone
  | secImportDone (mb : MailboxNum)
  | secExportDone (mb : MailboxNum)
  | sidelineTrainDone
  | ethLinkChange (port : BitVec 1) (link : Bool) (pcsLock : Bool)
  | vin48Loss
  | cpFault
  | logicFault (fault : LogicFault)
  deriving DecidableEq, Repr

end Sys2Proof
end

