-- ==== Sys2Proof/Config.lean ====
section
/-! DEFINITION. What an implementation fixes and the spec leaves open: opaque constants without a body, so that nothing can
be proved of their values and every claim holds whatever they are. Each is named in a log entry. -/

namespace Sys2Proof

/-- The i-th free value, a doubleword (DESIGN CHOICE, log entry 2). -/
opaque Config.freeValue : Nat → Dword

/-- What an SPDM message is, for the messages that went before (a number that is never used twice), the session's keys and the
number of secured messages received: 1 KEY_EXCHANGE, 2 a
FINISH that completes, 3 END_SESSION, 4 a secured message with application data, 5 a secured message that fails
authentication, any other number another message. DSP0274 and DSP0277, which the spec names and does not give, fix
it (DESIGN CHOICE, log entry 20). -/
opaque Config.spdmKind : Nat → BitVec 512 → Nat → List Byte → Nat

/-- The bytes that the responder answers to a message, from what Table 15-7 gives it beside: the certificates of its chain, the
measurement blocks, and the alias key that signs (DESIGN CHOICE, log entry 20). -/
opaque Config.spdmReply : Nat → BitVec 512 → Nat → List (List Byte) → List (List Byte) → Nat → List Byte → List Byte

/-- The session keys that a key exchange fixes, from the responder's entropy and the message (DESIGN CHOICE, log entry 20). -/
opaque Config.spdmKeys : Nat → BitVec 256 → List Byte → BitVec 512

/-- The application data of a secured message (DESIGN CHOICE, log entry 20). -/
opaque Config.spdmOpen : BitVec 512 → Nat → List Byte → List Byte

/-- The secured message that carries application data (DESIGN CHOICE, log entry 20). -/
opaque Config.spdmSeal : BitVec 512 → Nat → List Byte → List Byte

/-- The alias private key from DEVICE_SECRET and FWHASH: R417 names HKDF and not its salt, its info or the step from its
output to a scalar (DESIGN CHOICE, log entry 46). -/
opaque Config.aliasKey : BitVec 256 → BitVec 384 → Nat

/-- The device private key from DEVICE_SECRET alone (R417; DESIGN CHOICE, log entry 46). -/
opaque Config.deviceKey : BitVec 256 → Nat

/-- What the alias certificate says before its signature, of the alias key and FWHASH: R417 names what it carries and Table 15-7 its
format (DESIGN CHOICE, log entry 46). -/
opaque Config.aliasBody : Nat → BitVec 384 → List Byte

/-- The usable-core map of another module in a beat: the spec names no path on which a module learns it (R85; DESIGN CHOICE, log
entry 86). -/
opaque Config.peerUsable : Nat → Nat → BitVec 1024

/-- The public key that a return token is checked with: SEC_LIFECYCLE brings a signature alone, and the fuse holds the hash of the
key alone (R440; DESIGN CHOICE, log entry 47). -/
opaque Config.returnKey : List Byte

/-- The exponent that a LINEAR11 reading uses for a magnitude (R488 names the format, which leaves the choice;
PRESUMED, log entry 21). -/
opaque Config.linear11Exponent : Nat → BitVec 5

/-- Whether the mantissa of a LINEAR11 reading of this magnitude is rounded up: the format leaves the rounding (PRESUMED, log entry 21). -/
opaque Config.linear11Up : Nat → Bool

/-- What the serial-flash device does on an instruction: 0 neither reads nor changes its array, 1 programs, 2 erases
(R396 leaves the instructions to the device's JESD216 table; DESIGN CHOICE, log entry 22). -/
opaque Config.flashKind : Byte → Nat

/-- How many bytes an erase instruction of the device erases (DESIGN CHOICE, log entry 22). -/
opaque Config.flashErase : Byte → Nat

/-- The standard reply bytes of a PMBus command whose content the PMBus standard fixes (CAPABILITY,
PMBUS_REVISION, MFR_ID; PRESUMED, log entry 21). -/
opaque Config.pmbusConstant : Byte → List Byte

/-- The sensor index that a THERM_TRIP or SHUTDOWN record gives for HBM stack s (R471 says "sensor index", and
Table 17-7 gives the stacks none; DESIGN CHOICE, log entry 23). -/
opaque Config.hbmSensorIndex : Nat → Nat

/-- The syndrome byte of a corrected or uncorrectable word (Table 17-3 names it and the code's matrix is not given;
DESIGN CHOICE, log entry 24). -/
opaque Config.syndrome : Nat → Byte

end Sys2Proof
end

