-- ==== Sys2Proof/Machine/State.lean ====
section
/-! DEFINITION. The state of the block as plain data, its faults and refusals, and the state right after reset.
Registers that the spec's tables give are held in register files, by offset; the offsets have names in
Machine/RegMap.lean. What is no register has a field of its own. INVENTORY.md lists every piece with its rule. -/

namespace Sys2Proof.Machine

/-- A table of values by number, kept in rising order and without entries equal to the table's default value
(`Tab.get`, `Tab.set` in Machine/Ops.lean). -/
abbrev Tab (β : Type) : Type := List (Nat × β)

/-- A register file: the 64-bit content of a register by its offset. -/
abbrev RegFile : Type := Tab Dword

/-- Bytes of storage by address, in the host's form of a cell. -/
abbrev Bytes : Type := List Host.Cell

/-! ## A core (Table 10-1) -/

/-- A command that ISSUE handed to an engine (R278): its words after the queue patch, its issue cycle and thread, the
stamp of its instruction (R277), and the scoreboard count that it signals (R284; true: CONS). -/
structure Issued where
  opcode : Byte
  words : List Dword
  beat : Nat
  cycle : Nat
  thread : Nat
  stampBeat : Nat
  stampCycle : Nat
  late : Bool
  sig : Option (Nat × Bool)
  deriving DecidableEq, Repr

/-- One engine: the command handed over and not yet carried out, and the cycles [busyFrom, busyUntil) of beat
`busyBeat` that the last command occupies (R446). `operand` holds the granules that the command's reads have brought, by
transfer (R310, R314); `stepped` is the cycle up to which the steps of a FELT_RUN have been made; `before` holds CNT_CMDS,
CNT_LAST and CNT_CMDCYC as they stood at the start of the issue cycle (R447). -/
structure EngineSlot where
  cmd : Option Issued
  busyBeat : Nat
  busyFrom : Nat
  busyUntil : Nat
  issueBeat : Nat
  issueCycle : Nat
  operand : Tab Granule
  stepped : Nat
  before : List Dword
  deriving DecidableEq, Repr

/-- A scoreboard increment that is not yet in force (R284, R285): scoreboard, count (true: CONS), amount, due time. -/
structure Inc where
  sb : Nat
  cons : Bool
  amount : Nat
  beat : Nat
  cycle : Nat
  deriving DecidableEq, Repr

/-- One byte written into Felt storage that waits for the boundary (R44): which side wrote it (true: the load/store
engine), its offset in the core window, the bits written and their values. -/
structure FeltWrite where
  fromLs : Bool
  offset : Nat
  mask : Byte
  value : Byte
  deriving DecidableEq, Repr

/-- A register value that comes into force at the boundary of beat `beat`, in the bits of `mask` (R113, R131, R145). -/
structure RegNext where
  beat : Nat
  offset : Nat
  value : Dword
  mask : Dword
  deriving DecidableEq, Repr

/-- A tensor-watch unit (R454, R455): its selection and its statistics. `digest` is the running digest state, `half` the
encoding of an element that waits for the other half of its 16-byte block. -/
structure Watch where
  armed : Bool
  handle : Handle
  srcAcc : Bool
  tile : BitVec 4
  any : Bool
  matchBeat : Byte
  matchCycle : BitVec 10
  count : Dword
  sat : Dword
  ncmd : Word
  minV : Dword
  maxV : Dword
  sumM : Dword
  sumE : Word
  digest : BitVec 128
  half : Option Dword
  bytes : Nat
  /-- The cycle, from 0:0, in which the unit was armed (R465). -/
  since : Nat
  deriving DecidableEq, Repr

/-- One core: everything its window shows and what stands behind it. `store` holds, by window offset, scratch,
accumulators, conditioning planes, couplings, edge arrays, base bias, boundary and staging buffers, the sampler's row
buffer and histogram, the active bank of the schedule store and the hang snapshot; spin planes, their snapshot and the
hold masks are one 4,096-bit value per plane, bit 64r + c for cell (r, c) (Table 3-2). `regs0` is what the registers held
after the boundary of the beat (R130), `staged` which halves of a direction's exchanged data are staged (R141). Times in `readyAt` (a thread's
earliest next cycle), `releaseAt` (the cycle in which a blocked thread retires), `sbOld` (a count's value at the start of
the cycle of its last change) and `phaseAt` (the cycle of a Rally unit's last completion) count cycles from 0:0. `fenceAt` is
the beat at whose boundary a fence of the core takes effect (R329). -/
structure CoreState where
  regs : RegFile
  rws : RegFile
  store : Bytes
  shadow : Bytes
  spins : Tab (BitVec 4096)
  snap : Tab (BitVec 4096)
  hold : Tab (BitVec 4096)
  feltWrites : List FeltWrite
  regNext : List RegNext
  energyExp : Nat
  /-- The exchange beats, as job beats, whose decision has not been made, with FELT_XROUND as it stood there (R113). -/
  rounds : List (Nat × Dword)
  descriptors : Tab (BitVec 128)
  staged : Tab Nat
  regs0 : RegFile
  job : Option Handle
  jobCodes : List Byte
  engines : Tab EngineSlot
  slots : Tab Word
  incs : List Inc
  arrivals : Tab Nat
  departures : Tab Nat
  phases : Tab Nat
  threadIter : Tab Nat
  readyAt : Tab Nat
  releaseAt : Tab Nat
  sbOld : Tab (Nat × Nat)
  phaseAt : Tab Nat
  stopped : Tab Bool
  ranInstr : Bool
  ranEngine : Bool
  allFree : Bool
  watches : Tab Watch
  fenceAt : Option Nat
  cntBase : Dword
  /-- By window offset: scratch and accumulator bytes written in this cycle, as they stood at its start (R494). -/
  old : Bytes
  /-- The hang snapshot of cycle 0 of this beat, of a core that a DBG_SNAPSHOT waits for (R462). -/
  hangHeld : List Byte
  /-- By granule of scratch: the words stored with an uncorrectable code (R476). -/
  bad : Tab Byte
  /-- By register: bits that hardware has set in this cycle (R26). -/
  setNow : RegFile
  payloads : List (Nat × Granule)
  deriving DecidableEq, Repr

/-! ## Transfers (R310) and nodes (R316) -/

/-- Where the data of a read goes when it reaches the core. -/
inductive ReadDest where
  /-- To scratch at this offset, that many bytes. -/
  | scratch (offset : Nat) (bytes : Nat)
  /-- To the engine, as operand granule `n` of the command that it holds. -/
  | operand (n : Nat)
  deriving DecidableEq, Repr

/-- Where the data of a write comes from; it is read in the cycle of the transfer's slot (R187, R318). -/
inductive WriteData where
  /-- It is there. -/
  | ready
  /-- 64 bytes of scratch from this offset. -/
  | scratch (offset : Nat)
  /-- Slot `n` of four elements of an accumulator tile. -/
  | tile (tile : Nat) (n : Nat)
  /-- The granule at this device address (R191, SRCK = 1). -/
  | copy (addr : Nat)
  deriving DecidableEq, Repr

/-- What a write lands in. -/
inductive WriteTarget where
  /-- The granule that its address decodes to. -/
  | memory
  /-- The operand buffer of the slice port's node adder (R316): side, operation, and whether it was read from memory. -/
  | node (side : Bool) (op : BitVec 2) (fromMem : Bool)
  /-- The staging buffer of the window that its address lies in: the direction and which half (R141). -/
  | staging (dir : Nat) (half : Nat)
  /-- A link tap: the payload position in the frame of the beat (R341, R342). -/
  | tap (position : Nat)
  deriving DecidableEq, Repr

/-- A transfer in flight: the core port that owns it and the slot it left in, its declared and decoded ports, the
device address of its granule, the write data with its byte mask and where it comes from, or the data that the read took when
its access was made (`taken`). `due` is the cycle of its access: the slice-port slot, or the access slot of the pseudo-channel. -/
structure Transfer where
  core : Nat
  engine : Nat
  handle : Handle
  write : Bool
  hbm : Bool
  port : Nat
  addr : Nat
  beat : Nat
  slot : Nat
  due : Nat
  mask : BitVec 64
  data : Granule
  taken : Bool
  /-- A member of a merged read whose addresses differ (R315). -/
  bad : Bool
  dest : ReadDest
  fill : WriteData
  target : WriteTarget
  deriving DecidableEq, Repr

/-- One operand granule held by a slice port's node adder (R316). -/
structure NodeOperand where
  dest : Nat
  side : Bool
  op : BitVec 2
  fromMem : Bool
  core : Nat
  handle : Handle
  data : Granule
  /-- Words that arrived with an uncorrectable code (R476). -/
  bad : Byte
  deriving DecidableEq, Repr

/-! ## Jobs -/

/-- The states of JOB_STATUS (Table 13-8). -/
inductive JobSt where
  | waiting | armed | admitted | running | done | contained | cancelled | suspended | withdrawn | ended
  deriving DecidableEq, Repr

/-- What the CP read of one engine record of the program image (Table 13-19). -/
structure EngineRec where
  prog : List Dword
  exp : Word
  thrProg : List Word
  members : List Dword
  origin : Dword
  size : Word
  xcfg : Word
  nbr : List Word
  page : List Nat
  qcfg : List Dword
  deriving DecidableEq, Repr

/-- One landing of the receive table (Table 13-21): port, beat of the period, payload position, entry. -/
structure Landing where
  port : Nat
  beat : Nat
  position : Nat
  entry : Dword
  deriving DecidableEq, Repr

/-- What the CP read of a program image (R495 to R498). -/
structure Image where
  abi : BitVec 16
  flags : BitVec 16
  e : Nat
  p : Nat
  tc : Nat
  l : Nat
  anneal : Dword
  beta : List (BitVec 16)
  perm : Dword
  xchg : Word
  engines : List EngineRec
  pages : List (List Word)
  landings : List Landing
  deriving DecidableEq, Repr

/-- A CTX_SAVE that a job holds (R296): the mailbox that asked, the beat in which the CP took it, the form, where the
records go, whether the job has been suspended with its records being written, and the records, by logical engine, as the state
stood at b:0. -/
structure SaveReq where
  mb : Nat
  since : Nat
  portable : Bool
  dest : Nat
  stride : Nat
  suspended : Bool
  k0 : Nat
  records : List (Nat × Bytes)
  deriving DecidableEq, Repr

/-- The context records that a CTX_RESTORE names (R299), the beat by which the CP has loaded them, and what it loaded, by logical
engine (R300). -/
structure RestoreReq where
  src : Nat
  stride : Nat
  portable : Bool
  k0 : Nat
  beats : Nat
  loadedAt : Nat
  records : List (Nat × Bytes)
  deriving DecidableEq, Repr

/-- A job (R74 to R78, R373 to R380). `compatRows` is true for 16 rows (R70). `engines` maps each logical engine held by this module to its core. `pendingEnd` is an end
that waits for a boundary: the end state, the record that it names and the beat that the boundary opens. -/
structure Job where
  mailbox : Nat
  st : JobSt
  image : Image
  parts : Byte
  modset : Dword
  launch : Nat
  nowait : Bool
  key : BitVec 128
  entropySeed : Bool
  linkEnc : Bool
  linkKey : BitVec 256
  keySlot : Option Nat
  xmap : Bool
  mapWords : List Word
  lockstep : Option Nat
  compat : Bool
  compatClock : BitVec 2
  compatRows : Bool
  engines : List (Nat × Nat)
  base : Option Nat
  census : Nat
  token : Dword
  keyRecord : Bool
  takenBeat : Nat
  startBeat : Nat
  compBeat : Nat
  endBeat : Nat
  record : Word
  pendingEnd : Option (JobSt × Word × Nat)
  startK : Nat
  save : Option SaveReq
  restore : Option RestoreReq
  keyset : Option (Nat × Nat)
  deriving DecidableEq, Repr

/-! ## Mailboxes (R365) -/

/-- A command that the CP has taken: header and argument words, and, when a secured message carried it, the partition,
the key set of its wrapper (R430) and the TAG of the SEC_SPDM that carried the message. -/
structure TakenCmd where
  header : Word
  args : List Word
  session : Option (Nat × Nat × Byte)
  deriving DecidableEq, Repr

/-- A response that is ready (R368). `active`: it answers the accepted command, for which ACTIVE is set (R367). -/
structure Response where
  active : Bool
  status : Byte
  tag : Byte
  words : List Word
  record : Word
  session : Option (Nat × Nat × Byte)
  deriving DecidableEq, Repr

structure Mailbox where
  cmd : Tab Word
  rsp : Tab Word
  pend : Bool
  active : Bool
  done : Bool
  armed : Bool
  wrdrop : Bool
  tag : Byte
  handle : Handle
  taken : Option TakenCmd
  waiting : Option TakenCmd
  ready : List Response
  deriving DecidableEq, Repr

/-- One configuration overlay (R384). -/
structure Overlay where
  kind : Byte
  entries : List (Nat × Word × Word)
  deriving DecidableEq, Repr

/-- What the CP holds beside the mailboxes: the doorbells in their order, each as 64 times its cycle plus the mailbox (R370), handles (R379), privileges and bindings (R371),
overlays and those in force from a boundary (R384 to R386), each DBG_SNAPSHOT that waits, with its mailbox, job, beat and the
cores still to come (R463), the boundary of a DBG_RELEASE (R461) and the clusters whose fence waits for a boundary, with its beat (R330). -/
structure Cp where
  doorbells : List Nat
  nextHandle : Nat
  handles : List Nat
  privMb : Dword
  mbPart : Tab Byte
  overlays : Tab Overlay
  overlayNext : Option (Byte × Nat)
  snapshots : List (Nat × Handle × Nat × List Nat)
  release : Option Nat
  clusterNext : List (Nat × Nat)
  stwReset : Bool
  deriving DecidableEq, Repr

/-! ## Entropy source -/

/-- The health tests and the estimator of one oscillator (R249, R252). -/
structure Osc where
  ra : Bool
  rb : Nat
  aa : Bool
  ab : Nat
  ai : Nat
  ones : Nat
  same : Nat
  pair : Nat
  winOnes : Nat
  winSame : Nat
  winPair : Nat
  deriving DecidableEq, Repr

/-- An accepted ENT_READ that waits for its bits (R264), or the seed draw of a job that waits for its blocks (R270). -/
structure EntWait where
  mb : Nat
  form : Nat
  len : Nat
  pr : Bool
  got : List Dword
  job : Option Handle
  deriving DecidableEq, Repr

structure Entropy where
  oscs : Tab Osc
  started : Nat
  prev : Dword
  estCount : Nat
  block : List Dword
  buffer : List (BitVec 256)
  fsr : Dword
  fsrOdd : Bool
  key : BitVec 256
  v : BitVec 128
  reads : List EntWait
  wires : List Bool
  wireKey : List (Option (BitVec 256))
  wireLink : List (Option (BitVec 256))
  recorded : Bool
  windowEnded : Bool
  katPassed : Bool
  restart : Bool
  /-- A health failure has uninstantiated the DRBG, and it has not been instantiated since (R267). -/
  lost : Bool
  deriving DecidableEq, Repr

/-! ## Link ports -/

/-- The control fields that a port sends or relays (Table 12-3): TOKEN or CENSUS upwards, GO or BASE downwards. -/
structure CtlMsg where
  token : Dword
  word : Dword
  special : Bool
  deriving DecidableEq, Repr

/-- An addressed message of free exchange, or a key record (R345, R436). -/
structure FreeMsg where
  header : Granule
  data : List Granule
  deriving DecidableEq, Repr

/-- A link port (R337 to R349): what it echoes, the lost frames in a row, what the last header from the peer said and when it
came (`peerAt`, in cycles from 0:0), the messages that wait, the payload of the running beat with the job of each
position, the last frame sent and the beat of it. -/
structure LinkPort where
  echoBeat : Dword
  echoCycle : Nat
  lostRun : Nat
  peerLocked : Bool
  peerMaster : Bool
  peerBeat : Dword
  up : List CtlMsg
  down : List CtlMsg
  free : List FreeMsg
  payload : Tab Granule
  payloadJob : Tab Nat
  out : List Byte
  sent : Option Nat
  peerAt : Option Nat
  deriving DecidableEq, Repr

/-- What the module holds for the whole tree: the master's armed tokens, each with its LAUNCH_BEAT and the beat of its arrival, and
census entries (R83, R499), digests. -/
structure LinkSys where
  tokens : List (Dword × Nat × Nat)
  census : List (Dword × Nat × Nat)
  ownDigests : List (Dword × Dword)
  peerDigests : List (Dword × Dword)
  keySlots : Tab (BitVec 256)
  deriving DecidableEq, Repr

/-! ## Interrupt controller (R399) -/

structure IcSource where
  prio : BitVec 4
  mode : Bool
  elig : BitVec 16
  pend : Bool
  active : Bool
  latch : Bool
  bound : Bool
  ctx : BitVec 5
  events : BitVec 16
  asserted : Bool
  deriving DecidableEq, Repr

structure IcContext where
  thr : BitVec 4
  en : Bool
  claimed : List Nat
  deriving DecidableEq, Repr

structure Ic where
  sources : Tab IcSource
  contexts : Tab IcContext
  last : BitVec 4
  badmsg : Word
  flags : BitVec 3
  stopen : Bool
  stops : BitVec 16
  clock : Bool
  latches : Tab Nat
  messages : List Word
  ucieUp : Bool
  /-- The source that the last claim returned. -/
  claimed : Word
  deriving DecidableEq, Repr

/-! ## Steward units -/

/-- A steward access that waits in the UCIe port's queue for its reserved slot, or for the flash (R323, R396). -/
structure StewardReq where
  write : Bool
  size : Nat
  addr : Nat
  data : Granule
  err : XferErr
  deriving DecidableEq, Repr

/-- An Ethernet MAC: its registers, the fused station address, and the frames sent. -/
structure Mac where
  regs : RegFile
  fused : BitVec 48
  sent : List (List Byte)
  deriving DecidableEq, Repr

/-- A flash operation that runs (R396): the FL_CMD that started it, with FL_ADDR and FL_BUF as they stood then. -/
structure FlashOp where
  cmd : Word
  addr : Nat
  buf : Bytes
  deriving DecidableEq, Repr

structure Flash where
  regs : RegFile
  buf : Bytes
  array : Bytes
  op : Option FlashOp
  deriving DecidableEq, Repr

/-! ## Errors (R468 to R475) -/

/-- An error record (Table 17-2), and the beat of its entry, which no path shows (R473). -/
structure ErrRec where
  id : Word
  code : Byte
  flags : Byte
  handle : Handle
  beat : Dword
  cycleEngine : BitVec 16
  detail : BitVec 16
  core : Word
  addr : Dword
  entry : Nat
  deriving DecidableEq, Repr

/-- A unit's queue, oldest first, with its sequence number, its overflow fields and the beat of its last record of each
code (R472). -/
structure ErrUnit where
  recs : List ErrRec
  seq : Nat
  ovf : Nat
  ovfClass : Nat
  entered : Tab (Option Nat)
  inject : Option Byte
  deriving DecidableEq, Repr

structure Errors where
  units : Tab ErrUnit
  last : Option ErrRec
  fatalNext : Option (Word × Nat)
  deriving DecidableEq, Repr

/-! ## Root of trust -/

/-- A key set of a session (R432). -/
structure KeySet where
  wkey : BitVec 256
  xkey : BitVec 256
  tkey : BitVec 256
  installed : Bool
  lastIv : Nat
  exports : Nat
  bound : Option Handle
  deriving DecidableEq, Repr

/-- A transfer of SEC_IMPORT or SEC_EXPORT that has been accepted (R433, R434). -/
structure CryptXfer where
  import_ : Bool
  part : Nat
  keyset : Nat
  src : Nat
  dest : Nat
  len : Nat
  iv : BitVec 96
  tag : BitVec 128
  deriving DecidableEq, Repr

/-- What the root of trust holds: the device key and the alias key with its certificate are derived at each boot, the device
certificate lies in its one-time memory (R417). -/
structure Security where
  keysets : Tab KeySet
  sessionKeys : Tab (BitVec 512)
  handshake : Tab (BitVec 256)
  kex : Tab Bool
  seqIn : Tab Nat
  seqOut : Tab Nat
  xfers : Tab (Option CryptXfer)
  challenge : List Byte
  deviceSecret : BitVec 256
  deviceCert : List Byte
  deviceKey : Nat
  aliasKey : Nat
  aliasCert : List Byte
  fwHash : BitVec 384
  cfgHash : BitVec 384
  scrub : Tab (Option Nat)
  deriving DecidableEq, Repr

/-! ## Trace (R449) and Whistle (R457) -/

structure Trace where
  buffer : List (BitVec 128)
  beatRecs : List (Nat × BitVec 128)
  jobRecs : List (Nat × BitVec 128)
  digestRecs : List (BitVec 128)
  dropped : Nat
  dropFirst : Dword
  dropLast : Dword
  frame : List Byte
  deriving DecidableEq, Repr

structure Whistle where
  pending : Bool
  beat : Nat
  cycle : Nat
  stopBeat : Nat
  stopCycle : Nat
  deriving DecidableEq, Repr

/-! ## Power, resets and the management bus -/

structure Power where
  railGood : BitVec 11
  on : Bool
  shutdown : Bool
  coldReset : Bool
  resetN : Bool
  refclk : Bool
  vin48 : Bool
  winInput : BitVec 20
  winRails : Tab (BitVec 20)
  warnArmed : Bool
  tripHold : Bool
  thermTrip : Bool
  temps : Tab (BitVec 12)
  tempHigh : Tab Bool
  operation : Byte
  statusBits : BitVec 16
  reply : List Byte
  invalid : Bool
  tapReset : Bool
  /-- MADDR[2:0] as sampled when VSTBY became good (Table 17-13). -/
  maddr : BitVec 3
  /-- The pins MADDR[2:0], which the board straps (R2); no command drives them (DESIGN CHOICE, log entry 10). -/
  maddrPins : BitVec 3
  /-- The 7-bit address that the management bus carries with a command (R488); no command drives it (DESIGN CHOICE, log entry 10). -/
  busAddr : BitVec 7
  deriving DecidableEq, Repr

/-! ## The state of the block -/

structure State where
  /-- The beat: BEAT_CTR is this count modulo 2^64 (R53), so that nothing else changes when it wraps (log entry 71). -/
  beat : Nat
  /-- The cycle within the beat, 0 to 749 (R52). -/
  cycle : Nat
  /-- The MODEL's own counter: which free value comes next (DESIGN CHOICE, log entry 2). -/
  free : Nat
  /-- The commands that wait, first in, first out. -/
  pending : List Instr
  /-- Cycles in which the engine counters have counted since cold reset (R448). -/
  runCycles : Dword
  /-- Busy cycles and issued commands of the running beat per engine (R448). -/
  devTally : Tab (Nat × Nat)
  /-- Registers of the device control block, by offset from 0x300_0000_0000. -/
  dcb : RegFile
  /-- Shadow copies of its RWS fields (R25). -/
  dcbRws : RegFile
  /-- By register: bits that hardware has set in this cycle (R26). Registers of the device control block stand under their
  offset, those of the steward die under their steward physical address. -/
  setNow : RegFile
  cores : Tab CoreState
  /-- HBM, shared memory, the staging areas and the firmware load window, by device address. -/
  mem : Bytes
  /-- By granule number: the words stored with an uncorrectable code (R476). -/
  badWords : Tab Byte
  transfers : List Transfer
  nodes : Tab (List NodeOperand)
  jobs : Tab Job
  mbs : Tab Mailbox
  cp : Cp
  ent : Entropy
  links : Tab LinkPort
  linkSys : LinkSys
  ic : Ic
  macs : Tab Mac
  flash : Flash
  /-- Boot ROM and SRAM of the steward die, by steward physical address. -/
  sram : Bytes
  err : Errors
  sec : Security
  trace : Trace
  whistle : Whistle
  power : Power
  /-- The steward accesses that wait, first in, first out. -/
  stewardQ : List StewardReq
  /-- The data of the last steward read. -/
  readData : Granule
  deriving DecidableEq, Repr

/-- What a step can stop with. -/
inductive Fault where
  /-- Raised by the steward-access meanings for a size or an alignment that the UCIe streaming protocol does not carry
  (R362: aligned accesses of 4, 8 and 64 bytes). Safe: the model stops where the spec describes no access. -/
  | unsupportedAccess
  deriving DecidableEq, Repr

/-- Why a step has no meaning for a command. -/
inductive Refusal where
  /-- Raised by Dispatch for a command that has no meaning yet. Safe: nothing can be proved of its effect. -/
  | notModelled (mnemonic : String)
  /-- Raised by the meaning of a command that `Instr.wf` refuses (`whenFormed`): its operands name nothing that the spec has. Safe. -/
  | illFormed
  deriving DecidableEq, Repr

/-! ## Reset -/

/-- A core right after reset. -/
def CoreState.reset : CoreState where
  regs := []
  rws := []
  store := []
  shadow := []
  spins := []
  snap := []
  hold := []
  feltWrites := []
  regNext := []
  energyExp := 0
  rounds := []
  descriptors := []
  staged := []
  regs0 := []
  job := none
  jobCodes := []
  engines := []
  slots := []
  incs := []
  arrivals := []
  departures := []
  phases := []
  threadIter := []
  readyAt := []
  releaseAt := []
  sbOld := []
  phaseAt := []
  stopped := []
  ranInstr := false
  ranEngine := false
  allFree := false
  watches := []
  fenceAt := none
  cntBase := 0
  old := []
  bad := []
  hangHeld := []
  setNow := []
  payloads := []

def EngineSlot.reset : EngineSlot := ⟨none, 0, 0, 0, 0, 0, [], 0, []⟩

def Watch.reset : Watch := ⟨false, 0, false, 0, false, 0, 0, 0, 0, 0, 0, 0, 0, 0, 0, none, 0, 0⟩

def Mailbox.reset : Mailbox := ⟨[], [], false, false, false, false, false, 0, 0, none, none, []⟩

def Osc.reset : Osc := ⟨false, 0, false, 0, 0, 0, 0, 0, 0, 0, 0⟩

def LinkPort.reset : LinkPort := ⟨0, 0, 0, false, false, 0, [], [], [], [], [], [], none, none⟩

def IcSource.reset : IcSource := ⟨0, false, 0, false, false, false, false, 0, 0, false⟩

def IcContext.reset : IcContext := ⟨0, false, []⟩

def Mac.reset : Mac := ⟨[], 0, []⟩

def Flash.reset : Flash := ⟨[], [], [], none⟩

def ErrUnit.reset : ErrUnit := ⟨[], 1, 0, 0, [], none⟩

def KeySet.reset : KeySet := ⟨0, 0, 0, false, 0, 1, none⟩

def Overlay.reset : Overlay := ⟨0, []⟩

/-- The CP with the default base configuration of Table 13-10: mailbox 0 privileged. -/
def Cp.reset : Cp where
  doorbells := []
  nextHandle := 1
  handles := []
  privMb := 1
  mbPart := []
  overlays := []
  overlayNext := none
  snapshots := []
  release := none
  clusterNext := []
  stwReset := false

/-- The source enters STARTUP at the release of cold reset, with every conditioner cleared (R251, R255, R260). -/
def Entropy.reset : Entropy where
  oscs := []
  started := 0
  prev := 0
  estCount := 0
  block := []
  buffer := []
  fsr := 0
  fsrOdd := false
  key := 0
  v := 0
  reads := []
  wires := []
  wireKey := []
  wireLink := []
  recorded := false
  windowEnded := false
  katPassed := false
  restart := false
  lost := false

/-- Table 14-6; the fabric clock runs, and UCIe is up (DESIGN CHOICE, log entry 9). -/
def Ic.reset : Ic where
  sources := []
  contexts := []
  last := 0
  badmsg := 0
  flags := 0
  stopen := false
  stops := 0
  clock := true
  latches := []
  messages := []
  ucieUp := true
  claimed := 0

def Security.reset : Security where
  keysets := []
  sessionKeys := []
  handshake := []
  kex := []
  seqIn := []
  seqOut := []
  xfers := []
  challenge := []
  deviceSecret := 0
  deviceCert := []
  deviceKey := 0
  aliasKey := 0
  aliasCert := []
  fwHash := 0
  cfgHash := 0
  scrub := []

/-- Cold reset has been released: every rail is good, REFCLK and RESET_N are there (R487). -/
def Power.reset : Power where
  railGood := 0x7FF
  on := true
  shutdown := false
  coldReset := false
  resetN := true
  refclk := true
  vin48 := true
  winInput := 0
  winRails := []
  warnArmed := true
  tripHold := false
  thermTrip := false
  temps := []
  tempHigh := []
  operation := 0x80
  statusBits := 0
  reply := []
  invalid := false
  tapReset := true
  maddr := 0
  maddrPins := 0
  busAddr := 0x40

/-- The module right after the release of cold reset, at 0:0 (R53). Registers whose reset value is not zero read it
from `dcbDefault` and its like (Machine/RegMap.lean): a register file lists only what differs from reset. -/
def State.reset : State where
  beat := 0
  cycle := 0
  free := 0
  pending := []
  runCycles := 0
  devTally := []
  dcb := []
  dcbRws := []
  setNow := []
  cores := []
  mem := []
  badWords := []
  transfers := []
  nodes := []
  jobs := []
  mbs := []
  cp := Cp.reset
  ent := Entropy.reset
  links := []
  linkSys := ⟨[], [], [], [], []⟩
  ic := Ic.reset
  macs := []
  flash := Flash.reset
  sram := []
  err := ⟨[], none, none⟩
  sec := Security.reset
  trace := ⟨[], [], [], [], 0, 0, 0, []⟩
  whistle := ⟨false, 0, 0, 0, 0⟩
  power := Power.reset
  stewardQ := []
  readData := 0

end Sys2Proof.Machine
end

