-- ==== Sys2Proof/Machine/RegMap.lean ====
section
/-! DEFINITION. The register map: the offsets of every register in a core window (Tables 3-6, 4-10, 5-12, 6-8, 7-8, 8-10,
10-8, 16-6) and in the device control block (Tables 2-6, 9-6, 11-13, 12-7, 13-17, 15-11, 16-8, 17-15), the values that
they read after reset, and which of their bits software may write (R24). -/

namespace Sys2Proof.Machine

/-! ## Core registers, by offset in the core window -/

def Reg.coreId : Nat := 0xF00000
def Reg.coreStat : Nat := 0xF00004
def Reg.coreErrcnt : Nat := 0xF00008
def Reg.thrActive : Nat := 0xF00010
def Reg.thrWaiting : Nat := 0xF00018
def Reg.schedIter : Nat := 0xF00020
def Reg.dlkCount : Nat := 0xF00028
def Reg.thrState (t : Nat) : Nat := 0xF00100 + 8 * t
def Reg.thrProg (t : Nat) : Nat := 0xF00300 + 4 * t
def Reg.feltExp : Nat := 0xF01000
def Reg.feltQerr : Nat := 0xF01004
def Reg.feltQacc : Nat := 0xF01008
def Reg.feltPos : Nat := 0xF0100C
def Reg.feltOrigin : Nat := 0xF01010
def Reg.feltSize : Nat := 0xF01018
def Reg.feltNbrA : Nat := 0xF01020
def Reg.feltNbrB : Nat := 0xF01028
def Reg.feltXchg : Nat := 0xF01030
def Reg.feltXround : Nat := 0xF01038
def Reg.feltPerm : Nat := 0xF01040
def Reg.feltBeta (s : Nat) : Nat := 0xF01080 + 4 * s
def Reg.feltFlips : Nat := 0xF010C0
def Reg.feltCoinc : Nat := 0xF010C8
def Reg.feltFlags : Nat := 0xF010CC
def Reg.feltSweep (p c : Nat) : Nat := 0xF01100 + 16 * p + 8 * c
def Reg.feltEnergy (p : Nat) : Nat := 0xF01200 + 4 * p
def Reg.feltXcfg : Nat := 0xF01400
def Reg.feltXstat : Nat := 0xF01408
def Reg.feltXlast : Nat := 0xF01410
def Reg.feltImg : Nat := 0xF01418
def Reg.feltImgstat : Nat := 0xF01420
def Reg.feltAnneal : Nat := 0xF01428
def Reg.feFlags : Nat := 0xF02000
def Reg.feBadin : Nat := 0xF02008
def Reg.feOsat : Nat := 0xF02010
def Reg.feSrdraw : Nat := 0xF02018
def Reg.feMaskdraw : Nat := 0xF02020
def Reg.accSat : Nat := 0xF03000
def Reg.accFlags : Nat := 0xF03004
def Reg.accSatcnt : Nat := 0xF03008
def Reg.accEclamp : Nat := 0xF03010
def Reg.accBadld : Nat := 0xF03018
def Reg.catFlags : Nat := 0xF04000
def Reg.catBadin : Nat := 0xF04008
def Reg.catWsat : Nat := 0xF04010
def Reg.catDraws : Nat := 0xF04018
def Reg.catRows : Nat := 0xF04020
def Reg.catLrow : Nat := 0xF04028
def Reg.catLbest : Nat := 0xF04030
def Reg.catLsel : Nat := 0xF04038
def Reg.napKey0 : Nat := 0xF05000
def Reg.napKey1 : Nat := 0xF05008
def Reg.napUser : Nat := 0xF05010
def Reg.napXchg : Nat := 0xF05018
def Reg.sbProd (n : Nat) : Nat := 0xF06000 + 16 * n
def Reg.sbCons (n : Nat) : Nat := 0xF06004 + 16 * n
def Reg.sbCfg (n : Nat) : Nat := 0xF06008 + 16 * n
def Reg.sbFlags (n : Nat) : Nat := 0xF0600C + 16 * n
def Reg.rlyMembers (r : Nat) : Nat := 0xF07000 + 64 * r
def Reg.rlyPhase (r : Nat) : Nat := 0xF07008 + 64 * r
def Reg.rlyFlags (r : Nat) : Nat := 0xF0700C + 64 * r
def Reg.rlyStat (r w : Nat) : Nat := 0xF07020 + 64 * r + 8 * w
def Reg.qCfg (q : Nat) : Nat := 0xF08000 + 16 * q
def Reg.qPtr (q : Nat) : Nat := 0xF08008 + 16 * q
def Reg.cntBusy (e : Nat) : Nat := 0xF0A000 + 0x80 * e
def Reg.cntStallSb (e : Nat) : Nat := 0xF0A008 + 0x80 * e
def Reg.cntStallRly (e : Nat) : Nat := 0xF0A010 + 0x80 * e
def Reg.cntStallLate (e : Nat) : Nat := 0xF0A018 + 0x80 * e
def Reg.cntIdle (e : Nat) : Nat := 0xF0A020 + 0x80 * e
def Reg.cntCmds (e : Nat) : Nat := 0xF0A028 + 0x80 * e
def Reg.cntCmdcyc (e : Nat) : Nat := 0xF0A030 + 0x80 * e
def Reg.cntLast (e : Nat) : Nat := 0xF0A034 + 0x80 * e
def Reg.cntState (e : Nat) : Nat := 0xF0A038 + 0x80 * e
def Reg.dbgSnapstat : Nat := 0xF0A400
/-- The hang snapshot, 8 KiB (Table 16-3). -/
def Reg.hang : Nat := 0xF0C000

/-! ## Storage of the core window (Tables 3-2, 4-5, 7-7, 11-2) -/

def Win.scratch : Nat := 0x000000
def Win.acc : Nat := 0x400000
def Win.spins : Nat := 0x800000
def Win.hold : Nat := 0x802000
def Win.cond : Nat := 0x804000
def Win.coupling : Nat := 0x900000
def Win.edgeW : Nat := 0x904000
def Win.edgeN : Nat := 0x904040
def Win.edgeNW : Nat := 0x904080
def Win.edgeNE : Nat := 0x904100
def Win.boundary : Nat := 0x905000
def Win.staging : Nat := 0x905400
def Win.base : Nat := 0x908000
def Win.rowBuffer : Nat := 0xA00000
def Win.histogram : Nat := 0xA20000
def Win.knotsL : Nat := 0xA20400
def Win.knotsH : Nat := 0xA20800
def Win.schedule : Nat := 0xE00000

/-! ## Device control block, by offset from 0x300_0000_0000 -/

/-- The device address of the block (Table 11-1). -/
def dcbBase : Nat := 0x30000000000

def Dcb.bootCtrl : Nat := 0x000000
def Dcb.bootStat : Nat := 0x000004
def Dcb.bootTime : Nat := 0x000008
def Dcb.cfgActive : Nat := 0x001000
def Dcb.cfgStat : Nat := 0x001004
def Dcb.cfgLs : Nat := 0x001008
def Dcb.beatCtr : Nat := 0x002000
def Dcb.beatSync : Nat := 0x002008
def Dcb.dclass : Nat := 0x002010
def Dcb.abiId : Nat := 0x002014
def Dcb.fwId : Nat := 0x002018
def Dcb.lockstepStat : Nat := 0x002020
def Dcb.lockstepBeat : Nat := 0x002028
def Dcb.lockstepOwn : Nat := 0x002030
def Dcb.lockstepPeer : Nat := 0x002038
def Dcb.entStat : Nat := 0x003000
def Dcb.entFlags : Nat := 0x003004
def Dcb.entCutoff : Nat := 0x003008
def Dcb.entSamples : Nat := 0x003010
def Dcb.entFails : Nat := 0x003018
def Dcb.entReseeds : Nat := 0x00301C
def Dcb.entReqs : Nat := 0x003020
def Dcb.entDivert : Nat := 0x003028
def Dcb.entEstSel : Nat := 0x003030
def Dcb.entEstWin : Nat := 0x003034
def Dcb.entEst : Nat := 0x003038
def Dcb.entTrim (n : Nat) : Nat := 0x003040 + 8 * n
def Dcb.entTest : Nat := 0x003060
def Dcb.entTestpat : Nat := 0x003068
def Dcb.gradeMap : Nat := 0x004000
def Dcb.clusterFence : Nat := 0x004008
def Dcb.stwRegion : Nat := 0x004010
def Dcb.memFlags : Nat := 0x004014
def Dcb.memSloterr : Nat := 0x004018
def Dcb.memUnmapped : Nat := 0x004020
def Dcb.smemCe : Nat := 0x004028
def Dcb.smemUe : Nat := 0x004030
def Dcb.hbmCe : Nat := 0x004038
def Dcb.hbmUe : Nat := 0x004040
def Dcb.memUndef : Nat := 0x004048
def Dcb.coreFenceMap (i : Nat) : Nat := 0x004080 + 8 * i
def Dcb.hbmStat (k : Nat) : Nat := 0x004100 + 4 * k
def Dcb.linkCtrl (l : Nat) : Nat := 0x005000 + 0x40 * l
def Dcb.linkStat (l : Nat) : Nat := 0x005004 + 0x40 * l
def Dcb.linkDelay (l : Nat) : Nat := 0x005008 + 0x40 * l
def Dcb.linkFlags (l : Nat) : Nat := 0x00500C + 0x40 * l
def Dcb.linkCe (l : Nat) : Nat := 0x005010 + 0x40 * l
def Dcb.linkUe (l : Nat) : Nat := 0x005018 + 0x40 * l
def Dcb.linkLost (l : Nat) : Nat := 0x005020 + 0x40 * l
def Dcb.linkFreedrop (l : Nat) : Nat := 0x005024 + 0x40 * l
def Dcb.linkTagerr (l : Nat) : Nat := 0x005028 + 0x40 * l
def Dcb.linkSys : Nat := 0x005400
def Dcb.sideStat : Nat := 0x005408
def Dcb.sideDrop : Nat := 0x005410
def Dcb.sideFrames : Nat := 0x005418
def Dcb.mailbox (m : Nat) : Nat := 0x010000 + 0x1000 * m
def Dcb.traceCtrl : Nat := 0x100000
def Dcb.traceStat : Nat := 0x100004
def Dcb.traceRecs : Nat := 0x100008
def Dcb.whistleCtrl : Nat := 0x100010
def Dcb.whistleStat : Nat := 0x100014
def Dcb.whistleBeat : Nat := 0x100018
def Dcb.devBusy (e : Nat) : Nat := 0x101000 + 16 * e
def Dcb.devCmds (e : Nat) : Nat := 0x101008 + 16 * e
def Dcb.errRec : Nat := 0x200000
def Dcb.errQstat : Nat := 0x2D0000
def Dcb.errGlobal : Nat := 0x2E0000
def Dcb.errCnt (c : Nat) : Nat := 0x2E0008 + 8 * c
def Dcb.errLastFatal : Nat := 0x2E0020
def Dcb.pwrIn : Nat := 0x2F0000
def Dcb.pwrPart (k : Nat) : Nat := 0x2F0008 + 8 * k
def Dcb.pwrRail (i : Nat) : Nat := 0x2F0040 + 8 * i
def Dcb.pwrCtrl : Nat := 0x2F0100
def Dcb.pwrFlags : Nat := 0x2F0104
def Dcb.therm (i : Nat) : Nat := 0x2F0200 + 4 * i
def Dcb.thermCtrl : Nat := 0x2F0380
def Dcb.rstCause : Nat := 0x2F0400
def Dcb.secLcs : Nat := 0x300000
def Dcb.secSerial : Nat := 0x300008
def Dcb.secFlags : Nat := 0x300010
def Dcb.secBlocked : Nat := 0x300018
def Dcb.secTagfail : Nat := 0x300020
def Dcb.secFwkey (w : Nat) : Nat := 0x300040 + 4 * w
def Dcb.secRetkey (w : Nat) : Nat := 0x300080 + 4 * w
def Dcb.secPstat (i : Nat) : Nat := 0x300100 + 32 * i
def Dcb.secPclu (i : Nat) : Nat := 0x300108 + 32 * i
def Dcb.secPres (i : Nat) : Nat := 0x300110 + 32 * i
def Dcb.cfgStaging : Nat := 0x400000
def Dcb.calStaging : Nat := 0x410000
def Dcb.loadWindow : Nat := 0x800000

/-! ## Reset values (the Reset columns); LIVE bits are not stored, they read from the shadow copies -/

/-- The reset value of a core register. -/
def coreDefault (o : Nat) : Dword :=
  if o = Reg.feltExp then 0x20
  else if o = Reg.feltSize then 0x4040
  else if o = Reg.feltPerm then 0xFEDCBA9876543210
  else if Reg.feltBeta 0 ≤ o ∧ o ≤ Reg.feltBeta 15 then 0x1000
  else if o = Reg.feltXcfg then 0x200
  else if Reg.qCfg 0 ≤ o ∧ o ≤ Reg.qPtr 255 ∧ o % 16 = 0 then 0x3F000000000000
  else 0

/-- The reset value of a register of the device control block. Fused values and the standby register are the model's
(DESIGN CHOICE, log entries 3 and 4). -/
def dcbDefault (o : Nat) : Dword :=
  if o = Dcb.dclass then 0x1000
  else if o = Dcb.entStat then 0x1
  else if o = Dcb.entCutoff then 0x0334006C
  else if o = Dcb.entTrim 0 ∨ o = Dcb.entTrim 1 ∨ o = Dcb.entTrim 2 ∨ o = Dcb.entTrim 3 then 0x8888888888888888
  else if o = Dcb.stwRegion then 0x002002E0
  else if o = Dcb.linkSys then 0x3
  else if o = Dcb.traceCtrl then 0x7F
  else if o = Dcb.pwrCtrl then 0xAC3
  else if o = Dcb.thermCtrl then 0x4B5F
  else if o = Dcb.rstCause then 0x1
  else if o = Dcb.secLcs then 0x1
  else 0

/-- The reset value of an Ethernet MAC register (Table 13-15). -/
def macDefault (o : Nat) : Dword :=
  if o = 0x0C then 0x5EE
  else if o = 0x18 ∨ o = 0x20 then 0x4000000000000
  else 0

/-! ## Which offsets hold a register -/

/-- A row of registers of one width, at a fixed stride. -/
structure RegRange where
  base : Nat
  stride : Nat
  count : Nat
  width : Nat
  deriving DecidableEq, Repr

/-- The register of a range that covers offset `o`: its own offset and its width in bytes. -/
def RegRange.at? (r : RegRange) (o : Nat) : Option (Nat × Nat) :=
  if o < r.base then none
  else
    let i := (o - r.base) / r.stride
    if i < r.count ∧ (o - r.base) % r.stride < r.width then some (r.base + i * r.stride, r.width) else none

/-- The first register of a list of ranges that covers `o`. -/
def regAt (rs : List RegRange) (o : Nat) : Option (Nat × Nat) :=
  rs.findSome? fun r => r.at? o

def seqRanges : List RegRange :=
  [⟨0xF00000, 4, 2, 4⟩, ⟨0xF00008, 8, 4, 8⟩, ⟨0xF00028, 4, 1, 4⟩, ⟨0xF00100, 8, 64, 8⟩, ⟨0xF00300, 4, 64, 4⟩,
   ⟨0xF06000, 4, 192, 4⟩, ⟨0xF07000, 64, 8, 8⟩, ⟨0xF07008, 64, 8, 4⟩, ⟨0xF0700C, 64, 8, 4⟩, ⟨0xF07020, 64, 8, 8⟩,
   ⟨0xF07028, 64, 8, 8⟩, ⟨0xF07030, 64, 8, 8⟩, ⟨0xF07038, 64, 8, 8⟩, ⟨0xF08000, 8, 512, 8⟩]

def feltRanges : List RegRange :=
  [⟨0xF01000, 4, 4, 4⟩, ⟨0xF01010, 8, 1, 8⟩, ⟨0xF01018, 4, 1, 4⟩, ⟨0xF01020, 8, 2, 8⟩, ⟨0xF01030, 4, 1, 4⟩,
   ⟨0xF01038, 8, 2, 8⟩, ⟨0xF01080, 4, 16, 4⟩, ⟨0xF010C0, 8, 1, 8⟩, ⟨0xF010C8, 4, 2, 4⟩, ⟨0xF01100, 8, 32, 8⟩,
   ⟨0xF01200, 4, 16, 4⟩, ⟨0xF01400, 4, 1, 4⟩, ⟨0xF01408, 4, 1, 4⟩, ⟨0xF01410, 8, 2, 8⟩, ⟨0xF01420, 4, 1, 4⟩,
   ⟨0xF01428, 8, 1, 8⟩]

def engineRanges : List RegRange :=
  [⟨0xF02000, 4, 1, 4⟩, ⟨0xF02008, 8, 4, 8⟩, ⟨0xF03000, 4, 2, 4⟩, ⟨0xF03008, 8, 3, 8⟩, ⟨0xF04000, 4, 1, 4⟩,
   ⟨0xF04008, 8, 7, 8⟩, ⟨0xF05000, 8, 4, 8⟩, ⟨0xF0A000, 0x80, 5, 8⟩, ⟨0xF0A008, 0x80, 5, 8⟩, ⟨0xF0A010, 0x80, 5, 8⟩,
   ⟨0xF0A018, 0x80, 5, 8⟩, ⟨0xF0A020, 0x80, 5, 8⟩, ⟨0xF0A028, 0x80, 5, 8⟩, ⟨0xF0A030, 0x80, 5, 4⟩,
   ⟨0xF0A034, 0x80, 5, 4⟩, ⟨0xF0A038, 0x80, 5, 4⟩, ⟨0xF0A400, 4, 1, 4⟩]

/-- The registers of a core window. -/
def coreRegAt (o : Nat) : Option (Nat × Nat) := regAt (seqRanges ++ feltRanges ++ engineRanges) o

/-- The registers of the device control block, less mailboxes and error records. -/
def dcbRegAt (o : Nat) : Option (Nat × Nat) :=
  regAt
    [⟨0x000000, 4, 2, 4⟩, ⟨0x000008, 8, 1, 8⟩, ⟨0x001000, 4, 3, 4⟩, ⟨0x002000, 8, 1, 8⟩, ⟨0x002008, 4, 1, 4⟩,
     ⟨0x002010, 4, 3, 4⟩, ⟨0x002020, 4, 1, 4⟩, ⟨0x002028, 8, 3, 8⟩, ⟨0x003000, 4, 3, 4⟩, ⟨0x003010, 8, 1, 8⟩,
     ⟨0x003018, 4, 2, 4⟩, ⟨0x003020, 8, 2, 8⟩, ⟨0x003030, 4, 2, 4⟩, ⟨0x003038, 8, 5, 8⟩, ⟨0x003060, 4, 1, 4⟩,
     ⟨0x003068, 8, 1, 8⟩, ⟨0x004000, 8, 2, 8⟩, ⟨0x004010, 4, 2, 4⟩, ⟨0x004018, 8, 7, 8⟩, ⟨0x004080, 8, 16, 8⟩,
     ⟨0x004100, 4, 32, 4⟩, ⟨0x005000, 0x40, 16, 4⟩, ⟨0x005004, 0x40, 16, 4⟩, ⟨0x005008, 0x40, 16, 4⟩,
     ⟨0x00500C, 0x40, 16, 4⟩, ⟨0x005010, 0x40, 16, 8⟩, ⟨0x005018, 0x40, 16, 8⟩, ⟨0x005020, 0x40, 16, 4⟩,
     ⟨0x005024, 0x40, 16, 4⟩, ⟨0x005028, 0x40, 16, 4⟩, ⟨0x005400, 4, 1, 4⟩, ⟨0x005408, 4, 1, 4⟩, ⟨0x005410, 8, 2, 8⟩,
     ⟨0x100000, 4, 2, 4⟩, ⟨0x100008, 8, 1, 8⟩, ⟨0x100010, 4, 2, 4⟩, ⟨0x100018, 8, 1, 8⟩, ⟨0x101000, 8, 10, 8⟩,
     ⟨0x2E0000, 4, 1, 4⟩, ⟨0x2E0008, 8, 3, 8⟩, ⟨0x2F0000, 8, 5, 8⟩, ⟨0x2F0040, 8, 11, 8⟩, ⟨0x2F0100, 4, 2, 4⟩,
     ⟨0x2F0200, 4, 89, 4⟩, ⟨0x2F0380, 4, 1, 4⟩, ⟨0x2F0400, 4, 1, 4⟩, ⟨0x300000, 4, 1, 4⟩, ⟨0x300008, 8, 1, 8⟩,
     ⟨0x300010, 4, 1, 4⟩, ⟨0x300018, 8, 1, 8⟩, ⟨0x300020, 4, 1, 4⟩, ⟨0x300040, 4, 12, 4⟩, ⟨0x300080, 4, 12, 4⟩,
     ⟨0x300100, 32, 8, 4⟩, ⟨0x300108, 32, 8, 8⟩, ⟨0x300110, 32, 8, 8⟩] o

/-- A global counter (Table 15-8): the counters of Tables 11-13 and 12-7, device-wide utilisation, and ERR_CNT (R467, Table
17-16). -/
def globalCounter (o : Nat) : Bool :=
  o == Dcb.memSloterr || o == Dcb.memUnmapped || o == Dcb.smemCe || o == Dcb.smemUe || o == Dcb.hbmCe || o == Dcb.hbmUe ||
    o == Dcb.memUndef || o == Dcb.sideDrop || o == Dcb.sideFrames ||
    ((List.range 16).any fun l => o == Dcb.linkCe l || o == Dcb.linkUe l || o == Dcb.linkLost l || o == Dcb.linkFreedrop l ||
      o == Dcb.linkTagerr l) ||
    ((List.range 5).any fun e => o == Dcb.devBusy e || o == Dcb.devCmds e) || (List.range 3).any fun c => o == Dcb.errCnt c

/-! ## Access codes (Table 0-4) -/

/-- Which bits of a register are RW, W1C and RWS; the others ignore writes. -/
structure Access where
  rw : Dword
  w1c : Dword
  rws : Dword
  deriving DecidableEq, Repr

/-- The access of a core register from the steward window (Tables 3-7, 4-11, 5-13, 6-9, 7-9, 8-11, 10-9, 16-7). -/
def coreAccess (o : Nat) : Access :=
  if o = Reg.feltExp then ⟨0, 0, 0x3F⟩
  else if Reg.feltBeta 0 ≤ o ∧ o ≤ Reg.feltBeta 15 then ⟨0, 0, 0xFFFF⟩
  else if o = Reg.feltPos then ⟨0x1F, 0, 0⟩
  else if o = Reg.feltOrigin then ⟨0xFFFFFFFFFFFFFF, 0, 0⟩
  else if o = Reg.feltSize then ⟨0x7F7F, 0, 0⟩
  else if o = Reg.feltNbrA ∨ o = Reg.feltNbrB then ⟨0x33FF33FF33FF33FF, 0, 0⟩
  else if o = Reg.feltXchg then ⟨0xFFFFFFFF, 0, 0⟩
  else if o = Reg.feltXround ∨ o = Reg.feltPerm then ⟨0xFFFFFFFFFFFFFFFF, 0, 0⟩
  else if Reg.feltSweep 0 0 ≤ o ∧ o ≤ Reg.feltSweep 15 1 then ⟨0xFFFFFFFFFFFFFFFF, 0, 0⟩
  else if o = Reg.feltFlags then ⟨0, 0xF, 0⟩
  else if o = Reg.feltXcfg then ⟨0xFF3F03, 0, 0⟩
  else if o = Reg.feltXstat then ⟨0, 0x3FF00, 0⟩
  else if o = Reg.feltImgstat then ⟨0, 0xE, 0⟩
  else if o = Reg.feltAnneal then ⟨0xFFFF0FFFFFFFFFFF, 0, 0⟩
  else if o = Reg.feFlags then ⟨0, 0x3, 0⟩
  else if o = Reg.accSat then ⟨0, 0xFFFF, 0⟩
  else if o = Reg.accFlags then ⟨0, 0x7, 0⟩
  else if o = Reg.catFlags then ⟨0, 0x7, 0⟩
  else if o = Reg.coreStat then ⟨0, 0x3E, 0⟩
  else if 0xF06000 ≤ o ∧ o < 0xF06300 ∧ o % 16 = 12 then ⟨0, 0x7, 0⟩
  else if 0xF07000 ≤ o ∧ o < 0xF07200 ∧ o % 64 = 12 then ⟨0, 0x3, 0⟩
  else ⟨0, 0, 0⟩

/-- The bits of a core register that its table gives to a field; the others are reserved and read as zero (R27). -/
def coreBits (o : Nat) : Dword :=
  if o = Reg.coreStat then 0x3E
  else if o = Reg.dlkCount then 0x7
  else if Reg.thrState 0 ≤ o ∧ o ≤ Reg.thrState 63 then 0xFFFFFFFF00FFFFFF
  else if Reg.thrProg 0 ≤ o ∧ o ≤ Reg.thrProg 63 then 0x3FFF3FFF
  else if o = Reg.feltExp then 0x3F
  else if o = Reg.feltQacc then 0x13F
  else if o = Reg.feltPos then 0x1F
  else if o = Reg.feltOrigin then 0xFFFFFFFFFFFFFF
  else if o = Reg.feltSize then 0x7F7F
  else if o = Reg.feltNbrA ∨ o = Reg.feltNbrB then 0x33FF33FF33FF33FF
  else if Reg.feltBeta 0 ≤ o ∧ o ≤ Reg.feltBeta 15 then 0xFFFF
  else if o = Reg.feltFlags then 0xF
  else if o = Reg.feltXcfg then 0xFF3F03
  else if o = Reg.feltXstat then 0x3FFFF
  else if o = Reg.feltImg then 0xFFFFFFFFFFF
  else if o = Reg.feltImgstat then 0xF
  else if o = Reg.feltAnneal then 0xFFFF0FFFFFFFFFFF
  else if o = Reg.feFlags then 0x3
  else if o = Reg.accSat then 0xFFFF
  else if o = Reg.accFlags ∨ o = Reg.catFlags then 0x7
  else if o = Reg.catLrow then 0xFFFF3FF7
  else if 0xF06000 ≤ o ∧ o < 0xF06300 ∧ o % 16 = 8 then 0xFFFF
  else if 0xF06000 ≤ o ∧ o < 0xF06300 ∧ o % 16 = 12 then 0x7
  else if 0xF07000 ≤ o ∧ o < 0xF07200 ∧ o % 64 = 12 then 0x3
  else if Reg.qCfg 0 ≤ o ∧ o ≤ Reg.qPtr 255 ∧ o % 16 = 0 then 0x803FFFFFFFF3FFFF
  else 0xFFFFFFFFFFFFFFFF

/-- The access of a register of the device control block (Tables 2-7, 9-7, 11-14, 12-8, 13-17, 15-12, 16-9, 17-16). -/
def dcbAccess (o : Nat) : Access :=
  if o = Dcb.beatSync then ⟨0, 0x8, 0⟩
  else if o = Dcb.lockstepStat then ⟨0, 0x6, 0⟩
  else if o = Dcb.entFlags then ⟨0, 0x7, 0⟩
  else if o = Dcb.entEstSel then ⟨0x3F, 0, 0⟩
  else if o = Dcb.entTestpat then ⟨0xFFFFFFFFFFFFFFFF, 0, 0⟩
  else if o = Dcb.memFlags then ⟨0, 0xFF, 0⟩
  else if 0x5000 ≤ o ∧ o < 0x5400 ∧ o % 0x40 = 0xC then ⟨0, 0x3F, 0⟩
  else if o = Dcb.sideStat then ⟨0, 0x4, 0⟩
  else if o = Dcb.bootStat then ⟨0, 0x10, 0⟩
  else if o = Dcb.cfgStat then ⟨0, 0x200, 0⟩
  else if o = Dcb.cfgLs then ⟨0, 0, 0x1⟩
  else if o = Dcb.traceCtrl then ⟨0, 0, 0x7F⟩
  else if o = Dcb.traceStat then ⟨0, 0x100000, 0⟩
  else if o = Dcb.whistleCtrl then ⟨0x1, 0, 0⟩
  else if o = Dcb.pwrCtrl then ⟨0xFFF, 0, 0⟩
  else if o = Dcb.pwrFlags then ⟨0, 0x7, 0⟩
  else if o = Dcb.thermCtrl then ⟨0xFFFF, 0, 0⟩
  else if o = Dcb.secFlags then ⟨0, 0x7, 0⟩
  else ⟨0, 0, 0⟩

/-- The access of an Ethernet MAC register (Table 13-15). -/
def macAccess (o : Nat) : Access :=
  if o = 0x00 then ⟨0x7, 0, 0⟩
  else if o = 0x08 then ⟨0, 0xF, 0⟩
  else if o = 0x0C then ⟨0x3FFF, 0, 0⟩
  else if o = 0x10 then ⟨0xFFFFFFFFFFFF, 0, 0⟩
  else if o = 0x18 ∨ o = 0x20 then ⟨0xFFFFFFFFFFFFF, 0, 0⟩
  else if o = 0x2C ∨ o = 0x34 then ⟨0xFFFF, 0, 0⟩
  else ⟨0, 0, 0⟩

/-- The registers of an Ethernet MAC. -/
def macRegAt (o : Nat) : Option (Nat × Nat) :=
  regAt [⟨0x00, 4, 4, 4⟩, ⟨0x10, 8, 3, 8⟩, ⟨0x28, 4, 4, 4⟩, ⟨0x40, 8, 5, 8⟩] o

end Sys2Proof.Machine
end

