-- ==== Sys2Proof/WellFormed.lean ====
section
/-! DEFINITION. Which commands name something that the spec has. The meaning of a command that fails refuses it by name (`illFormed`): its
operands describe no event of the module. A steward access moves 1 to 64 bytes, a register write 1 to 8; which of them the UCIe link
supports is no question of form: R362 says so, and the meaning faults on the others. -/

namespace Sys2Proof

/-- A word has a single-bit error or a double-bit error, not both (R307). -/
def XferErr.wf (e : XferErr) : Bool := e.ce &&& e.ue == 0

/-- The operands name what the spec's tables have. -/
def Instr.wf : Instr → Bool
  | .sliceWriteLand _ err => err.wf
  | .readDataDeliver _ err => err.wf
  | .hbmAccess _ err => err.wf
  | .stewardAccess _ size _ _ err => err.wf && decide (1 ≤ size ∧ size ≤ 64)
  | .registerWrite size _ _ => decide (1 ≤ size ∧ size ≤ 8)
  -- A frame is 64,000 bytes (R337).
  | .linkFrameRx _ frame _ => decide (frame.length = 64000)
  -- 1,024 measurements, each a round trip and the peer's hold within it, of a distance that LINK_DELAY holds (R348).
  | .linkUp _ rounds _ _ =>
    decide (rounds.length = 1024) && rounds.all fun x => decide (x.2 ≤ x.1) && decide (x.1 ≤ x.2 + 131070)
  -- ALIGN is -4 to +4 (Table 2-7).
  | .beatLock align => decide (align.toNat ≤ 4) || decide (252 ≤ align.toNat)
  -- Sources 1 to 255 have a latch on the die (R400).
  | .dieEventSend source => decide (1 ≤ source.toNat ∧ source.toNat ≤ 255)
  -- Steward edge sources other than the software sources (Table 14-1).
  | .stewardEdge source => decide (264 ≤ source.toNat ∧ source.toNat ≤ 266)
  -- The level sources (Table 14-1).
  | .levelSourceChange source _ => decide (256 ≤ source.toNat ∧ source.toNat ≤ 263)
  -- The codes of R457.
  | .whistleSound source => decide (1 ≤ source.toNat ∧ source.toNat ≤ 5)
  -- The causes of RST_CAUSE (Table 17-16).
  | .coldResetAssert cause => decide (cause.toNat ≤ 4)
  -- Engines 0 to 4 (Table 10-1), and an offset in a core window.
  | .logicFault (.storage _ engine _ _) => decide (engine.toNat ≤ 4)
  -- The rails of Table 17-6.
  | .railPowerGood rail => decide (rail.toNat ≤ 10)
  | .powerWindow _ rails => decide (rails.length = 11)
  | .powerReadingWindow _ parts rails => decide (parts.length = 4 ∧ rails.length = 11)
  -- Sensors 0 to 88 of Table 17-7, or 128 + s for stack s.
  | .thermalThreshold sensor _ => decide (sensor.toNat ≤ 88 ∨ (128 ≤ sensor.toNat ∧ sensor.toNat < 160))
  -- FL_BUF holds 256 bytes (Table 13-16).
  | .flashOpDone _ data => decide (data.length ≤ 256)
  | _ => true

end Sys2Proof
end

