-- ==== Sys2Proof/Machine/Ops.lean ====
section
/-! DEFINITION. The named operations over the state: tables, bytes, bit fields, registers and counters; partitions; the
entry of an error record (R468 to R475), interrupt events of the die (R400), the Whistle (R457), ends of jobs and
responses of mailboxes. Every meaning is written over these. -/

namespace Sys2Proof.Machine

/-! ## Form -/

/-- The outcome of a command whose operands name what the spec has; another is refused. -/
def whenFormed (c : Instr) (o : Host.Outcome State Fault Refusal) : Host.Outcome State Fault Refusal :=
  if c.wf then o else .refused .illFormed

/-! ## Tables -/

/-- The entry of number `k`, if the table lists one. -/
def tabFind {β : Type} : Tab β → Nat → Option β
  | [], _ => none
  | (a, v) :: r, k => if a = k then some v else tabFind r k

/-- The value of number `k`; an unlisted number holds the default. -/
def tabGet {β : Type} (d : β) (t : Tab β) (k : Nat) : β := (tabFind t k).getD d

/-- Insertion in front of the first larger number. -/
def tabIns {β : Type} : Tab β → Nat → β → Tab β
  | [], k, v => [(k, v)]
  | (a, b) :: r, k, v => if k < a then (k, v) :: (a, b) :: r else (a, b) :: tabIns r k v

/-- The table without number `k`. -/
def tabDel {β : Type} (t : Tab β) (k : Nat) : Tab β := t.filter fun e => e.1 != k

/-- The table with `v` at `k`, listed whatever `v` is (tables of things that exist or not: jobs). -/
def tabPut {β : Type} (t : Tab β) (k : Nat) (v : β) : Tab β := tabIns (tabDel t k) k v

/-- The table with `v` at `k`; the default is not listed. -/
def tabSet {β : Type} [DecidableEq β] (d : β) (t : Tab β) (k : Nat) (v : β) : Tab β :=
  if v = d then tabDel t k else tabIns (tabDel t k) k v

/-- Canonical form: numbers strictly rise and no entry holds the default. -/
def tabWf {β : Type} [DecidableEq β] (d : β) : Tab β → Bool
  | [] => true
  | [(_, v)] => v ≠ d
  | (a, v) :: (b, w) :: r => decide (a < b) && decide (v ≠ d) && tabWf d ((b, w) :: r)

/-! ## Bytes -/

/-- The byte at `a`; an unlisted byte reads as 0 (DESIGN CHOICE, log entry 6). -/
def byteAt (m : Bytes) (a : Nat) : Byte := tabGet 0 m a

/-- The cells of a run of bytes from `a`, zero bytes unlisted. -/
def cellsOf : Nat → List Byte → Bytes
  | _, [] => []
  | a, b :: r => if b = 0 then cellsOf (a + 1) r else (a, b) :: cellsOf (a + 1) r

/-- The cells of a range. -/
def cellsIn (m : Bytes) (a n : Nat) : Bytes := m.filter fun e => decide (a ≤ e.1) && decide (e.1 < a + n)

/-- The bytes `bs` written from address `a`. -/
def bytesWrite (m : Bytes) (a : Nat) (bs : List Byte) : Bytes :=
  m.filter (fun e => decide (e.1 < a)) ++ cellsOf a bs ++ m.filter (fun e => decide (a + bs.length ≤ e.1))

/-- `n` bytes from address `a` set to zero. -/
def bytesClear (m : Bytes) (a n : Nat) : Bytes := m.filter fun e => decide (e.1 < a) || decide (a + n ≤ e.1)

/-- `n` bytes from address `a`. -/
def bytesRead (m : Bytes) (a n : Nat) : List Byte := (List.range n).map fun i => byteAt m (a + i)

/-- Memory's canonical form: addresses strictly rise, no byte is the one that an unlisted address reads as. -/
abbrev Memory.wf (m : Bytes) : Bool := tabWf 0 m

/-- The number that bytes spell, little-endian (R21). -/
def natOf (bs : List Byte) : Nat := bs.foldr (fun b n => b.toNat + 256 * n) 0

/-- `n` bytes of a number, little-endian (R21). -/
def bytesOf (n v : Nat) : List Byte := (List.range n).map fun i => BitVec.ofNat 8 (v >>> (8 * i))

/-- The number in `n` bytes from address `a`, little-endian. -/
def natAt (m : Bytes) (a n : Nat) : Nat := natOf (bytesRead m a n)

/-- A number written into `n` bytes from address `a`, little-endian. -/
def natWrite (m : Bytes) (a n v : Nat) : Bytes := bytesWrite m a (bytesOf n v)

/-- A run of bytes with those of the mask taken from `new` (R306: bytes outside the mask are unchanged). -/
def maskBytes (mask : Nat) (old new : List Byte) : List Byte :=
  (List.range old.length).map fun i => if mask.testBit i then new.getD i 0 else old.getD i 0

/-! ## Bits -/

/-- Bits [lo+n-1:lo]. -/
def bitsOf (x lo n : Nat) : Nat := (x >>> lo) % 2 ^ n

/-- `x` with bits [lo+n-1:lo] replaced. -/
def putBits (x lo n v : Nat) : Nat := x - (bitsOf x lo n) <<< lo + (v % 2 ^ n) <<< lo

/-- A number of `w` bits read as two's complement (R21). -/
def signed (w x : Nat) : Int := if x % 2 ^ w < 2 ^ (w - 1) then (x % 2 ^ w : Nat) else (x % 2 ^ w : Nat) - 2 ^ w

/-- An integer as two's complement of `w` bits. -/
def unsigned (w : Nat) (x : Int) : Nat := (x % (2 ^ w : Nat)).toNat

/-- Bit `b` of a truth value. -/
def bit (p : Bool) : Nat := if p then 1 else 0

/-- How many bits of a number below bit `n` are set. -/
def popcount (n x : Nat) : Nat := ((List.range n).filter fun i => x.testBit i).length

/-- The lowest set bit below bit `n`. -/
def lowestBit (n x : Nat) : Option Nat := (List.range n).find? fun i => x.testBit i

/-- A 64-bit word with bits [lo+n-1:lo] replaced. -/
def putF (x : Dword) (lo n v : Nat) : Dword := BitVec.ofNat 64 (putBits x.toNat lo n v)

/-- A count that saturates at `w` bits. -/
def satAdd (w x n : Nat) : Nat := min (x + n) (2 ^ w - 1)

/-- Two words as one doubleword, the first the low one. -/
def dwordOf (lo hi : Word) : Nat := lo.toNat + hi.toNat * 2 ^ 32

/-- A doubleword as two words, the low one first. -/
def wordsOf (v : Nat) : List Word := [BitVec.ofNat 32 v, BitVec.ofNat 32 (v >>> 32)]

/-! ## Cores -/

def State.core (s : State) (c : Nat) : CoreState := tabGet CoreState.reset s.cores c

def State.setCore (s : State) (c : Nat) (k : CoreState) : State :=
  { s with cores := tabSet CoreState.reset s.cores c k }

def State.modCore (s : State) (c : Nat) (f : CoreState → CoreState) : State := s.setCore c (f (s.core c))

def CoreState.reg (k : CoreState) (o : Nat) : Dword := tabGet (coreDefault o) k.regs o

def CoreState.setReg (k : CoreState) (o : Nat) (v : Dword) : CoreState :=
  { k with regs := tabSet (coreDefault o) k.regs o v }

def CoreState.regF (k : CoreState) (o lo n : Nat) : Nat := bitsOf (k.reg o).toNat lo n

def CoreState.setRegF (k : CoreState) (o lo n v : Nat) : CoreState := k.setReg o (putF (k.reg o) lo n v)

/-- A saturating 64-bit counter of the core. -/
def CoreState.count (k : CoreState) (o n : Nat) : CoreState := k.setReg o (BitVec.ofNat 64 (satAdd 64 (k.reg o).toNat n))

/-- A saturating 32-bit counter of the core. -/
def CoreState.count32 (k : CoreState) (o n : Nat) : CoreState := k.setReg o (BitVec.ofNat 64 (satAdd 32 (k.reg o).toNat n))

/-- A byte of scratch or of the accumulators as it stood at the start of this cycle (R158, R494). -/
def CoreState.startByte (k : CoreState) (o : Nat) : Byte := (tabFind k.old o).getD (byteAt k.store o)

/-- `n` bytes of scratch or of the accumulators as they stood at the start of this cycle. -/
def CoreState.startBytes (k : CoreState) (o n : Nat) : List Byte := (List.range n).map fun i => k.startByte (o + i)

/-- The number in `n` bytes, as they stood at the start of this cycle. -/
def CoreState.startNat (k : CoreState) (o n : Nat) : Nat := natOf (k.startBytes o n)

/-- The words of granule `g` that bytes [lo, hi) do not cover whole. -/
def wordsOutside (g lo hi : Nat) : Byte :=
  BitVec.ofNat 8 ((List.range 8).foldl (fun v i =>
    v + bit (decide (64 * g + 8 * i < lo) || decide (hi < 64 * g + 8 * i + 8)) * 2 ^ i) 0)

/-- Bytes of scratch or of the accumulators are written; every read of this cycle still sees what they held (R494). A word of
scratch written whole has a good code (R476). -/
def CoreState.putBytes (k : CoreState) (o : Nat) (bs : List Byte) : CoreState :=
  { k with
    store := bytesWrite k.store o bs
    bad := (k.bad.map fun e => (e.1, e.2 &&& wordsOutside e.1 o (o + bs.length))).filter fun e => e.2 != 0
    old := k.old ++ (List.range bs.length).map fun i => (o + i, byteAt k.store (o + i)) }

def CoreState.scratch (k : CoreState) (o n : Nat) : List Byte := k.startBytes (Win.scratch + o) n

def CoreState.writeScratch (k : CoreState) (o : Nat) (bs : List Byte) : CoreState := k.putBytes (Win.scratch + o) bs

def CoreState.spin (k : CoreState) (p : Nat) : BitVec 4096 := tabGet 0 k.spins p

def CoreState.snapshot (k : CoreState) (p : Nat) : BitVec 4096 := tabGet 0 k.snap p

def CoreState.holdMask (k : CoreState) (p : Nat) : BitVec 4096 := tabGet 0 k.hold p

def CoreState.engine (k : CoreState) (e : Nat) : EngineSlot := tabGet EngineSlot.reset k.engines e

def CoreState.setEngine (k : CoreState) (e : Nat) (x : EngineSlot) : CoreState :=
  { k with engines := tabSet EngineSlot.reset k.engines e x }

/-! ## Device control block -/

def State.dcbReg (s : State) (o : Nat) : Dword := tabGet (dcbDefault o) s.dcb o

def State.setDcb (s : State) (o : Nat) (v : Dword) : State := { s with dcb := tabSet (dcbDefault o) s.dcb o v }

def State.dcbF (s : State) (o lo n : Nat) : Nat := bitsOf (s.dcbReg o).toNat lo n

def State.setDcbF (s : State) (o lo n v : Nat) : State := s.setDcb o (putF (s.dcbReg o) lo n v)

/-- A saturating 64-bit counter of the device control block. -/
def State.countDcb (s : State) (o n : Nat) : State := s.setDcb o (BitVec.ofNat 64 (satAdd 64 (s.dcbReg o).toNat n))

/-- A saturating 32-bit counter of the device control block. -/
def State.countDcb32 (s : State) (o n : Nat) : State := s.setDcb o (BitVec.ofNat 64 (satAdd 32 (s.dcbReg o).toNat n))

/-! ## Time -/

/-- Cycles of a beat (R52). -/
def beatCycles : Nat := 750

/-- Cycles since 0:0, by the beat counter. -/
def State.now (s : State) : Nat := s.beat * beatCycles + s.cycle

/-- BEAT_CTR: the beat modulo 2^64 (R53). -/
def State.beatCtr (s : State) : Dword := BitVec.ofNat 64 s.beat

/-- The beat that a 64-bit beat count names: of the beats with this count, the nearest to the present one (log entry 71). -/
def State.beatOf64 (s : State) (v : Nat) : Nat :=
  let ahead := (v + (2 ^ 64 - s.beat % 2 ^ 64)) % 2 ^ 64
  if ahead < 2 ^ 63 then s.beat + ahead
  else if 2 ^ 64 - ahead ≤ s.beat then s.beat - (2 ^ 64 - ahead) else s.beat + ahead

/-- The next free value (DESIGN CHOICE, log entry 2). -/
def State.freeVal (s : State) : Dword := Config.freeValue s.free

def State.stepFree (s : State) : State := { s with free := s.free + 1 }

/-- The die is halted by the Whistle (R458). -/
def State.halted (s : State) : Bool := s.dcbF Dcb.whistleStat 0 1 == 1

/-- BOOT_STAT.STATE (Table 13-17). -/
def State.bootState (s : State) : Nat := s.dcbF Dcb.bootStat 0 3

/-- The CP firmware runs: INIT or READY, and cold reset is not asserted (R392). -/
def State.cpRuns (s : State) : Bool := (s.bootState == 3 || s.bootState == 4) && !s.power.coldReset

/-- What happens outside cold reset: while it is asserted, everything but the standby domain is held (R486, R487). -/
def State.outOfReset (s : State) (f : State → State) : State := if s.power.coldReset then s else f s

/-- ERR_GLOBAL.FATAL (R475). -/
def State.fatal (s : State) : Bool := s.dcbF Dcb.errGlobal 0 1 == 1

/-- BEAT_SYNC.MODULE_ID. -/
def State.moduleId (s : State) : Nat := s.dcbF Dcb.beatSync 24 6

/-! ## Clusters, fences and partitions -/

/-- The cluster of a core, 16 x quadrant + cluster. -/
def clusterOf (c : Nat) : Nat := c / 16

/-- The core's cluster is not disabled in the grade map (R8). -/
def State.enabled (s : State) (c : Nat) : Bool := !(s.dcbReg Dcb.gradeMap).toNat.testBit (clusterOf c)

/-- CORE_FENCE_MAP records the core (R329). -/
def State.fenced (s : State) (c : Nat) : Bool := (s.dcbReg (Dcb.coreFenceMap (c / 64))).toNat.testBit (c % 64)

/-- The core is enabled and not fenced (R64). -/
def State.usable (s : State) (c : Nat) : Bool := s.enabled c && !s.fenced c

def State.partValid (s : State) (p : Nat) : Bool := s.dcbF (Dcb.secPstat p) 0 1 == 1
def State.partConf (s : State) (p : Nat) : Bool := s.partValid p && s.dcbF (Dcb.secPstat p) 1 1 == 1
/-- 0 IDLE, 1 SESSION, 2 SCRUB (R426). -/
def State.partState (s : State) (p : Nat) : Nat := s.dcbF (Dcb.secPstat p) 2 2
/-- A confidential partition is active while it is in SESSION or SCRUB (R426). -/
def State.partActive (s : State) (p : Nat) : Bool := s.partConf p && s.partState p != 0
def State.anyConf (s : State) : Bool := s.dcbF Dcb.secLcs 3 1 == 1

def State.partHasCluster (s : State) (p k : Nat) : Bool := s.partValid p && (s.dcbReg (Dcb.secPclu p)).toNat.testBit k
def State.partHasSlice (s : State) (p x : Nat) : Bool := s.partValid p && (s.dcbReg (Dcb.secPres p)).toNat.testBit (x / 64)
def State.partHasStack (s : State) (p g : Nat) : Bool := s.partValid p && (s.dcbReg (Dcb.secPres p)).toNat.testBit (16 + g)
def State.partHasLink (s : State) (p l : Nat) : Bool := s.partValid p && (s.dcbReg (Dcb.secPres p)).toNat.testBit (24 + l)

def State.partOf (s : State) (has : Nat → Bool) : Option Nat :=
  (List.range 8).find? fun p => s.partValid p && has p

/-- The partition that holds core `c`, slice `x`, stack group `g`, link port `l` (R421). -/
def State.corePart (s : State) (c : Nat) : Option Nat := s.partOf fun p => s.partHasCluster p (clusterOf c)
def State.slicePart (s : State) (x : Nat) : Option Nat := s.partOf fun p => s.partHasSlice p x
def State.stackPart (s : State) (g : Nat) : Option Nat := s.partOf fun p => s.partHasStack p g
def State.linkPart (s : State) (l : Nat) : Option Nat := s.partOf fun p => s.partHasLink p l

/-- ANYCONF is 1 while any partition is active (R426). -/
def State.setAnyConf (s : State) : State :=
  s.setDcbF Dcb.secLcs 3 1 (bit ((List.range 8).any fun p => s.partActive p))

def State.setPartState (s : State) (p v : Nat) : State := (s.setDcbF (Dcb.secPstat p) 2 2 v).setAnyConf

/-! ## Interrupt events of the Uzonar die (R400) -/

/-- An event sets the latch's flag and adds one to its count, which saturates at 255; a count above 0 is the flag. -/
def State.dieEvent (s : State) (src : Nat) : State :=
  { s with ic := { s.ic with latches := tabSet 0 s.ic.latches src (min (tabGet 0 s.ic.latches src + 1) 255) } }

/-! ## Jobs -/

def State.job (s : State) (h : Handle) : Option Job := tabFind s.jobs h.toNat

def State.setJob (s : State) (h : Handle) (j : Job) : State := { s with jobs := tabPut s.jobs h.toNat j }

def State.modJob (s : State) (h : Handle) (f : Job → Job) : State :=
  match s.job h with
  | none => s
  | some j => s.setJob h (f j)

/-- The lowest partition of a job (Table 16-1). -/
def Job.part (j : Job) : Nat := (lowestBit 8 j.parts.toNat).getD 0

/-- The job lies in an active confidential partition. -/
def State.jobConf (s : State) (j : Job) : Bool := (List.range 8).any fun p => j.parts.toNat.testBit p && s.partActive p

/-- The end that waits for a boundary has come due. -/
def State.endDue (s : State) (j : Job) : Bool :=
  match j.pendingEnd with
  | none => false
  | some e => decide (e.2.2 ≤ s.beat)

/-- Job beat k (R58). -/
def State.jobBeat (s : State) (j : Job) : Nat := j.startK + (s.beat - j.startBeat)

/-- The last cycle that a sounded Whistle leaves to the deterministic domain, 23 after the sounding, has passed (R458). -/
def State.stopPassed (s : State) : Bool :=
  s.whistle.pending && decide (s.whistle.beat * beatCycles + s.whistle.cycle + 23 < s.now)

/-- The deterministic domain executes this cycle. -/
def State.domainRuns (s : State) : Bool := !s.halted && !s.stopPassed && !s.power.coldReset

/-- The job executes in this cycle: it is running, its completion beat has not passed, no end has come due and the die
is not stopped (R63, R458). -/
def State.jobRuns (s : State) (j : Job) : Bool :=
  j.st == .running && decide (s.beat ≤ j.compBeat) && !s.endDue j && s.domainRuns

/-- The running job that owns core `c`, with its handle. -/
def State.coreJob (s : State) (c : Nat) : Option (Handle × Job) :=
  match (s.core c).job with
  | none => none
  | some h =>
    match s.job h with
    | none => none
    | some j => if s.jobRuns j && s.usable c then some (h, j) else none

/-- An end of this state can still be marked: the job has not ended, and a running job has not completed (R76). -/
def State.canEnd (s : State) (j : Job) : Bool :=
  match j.st with
  | .waiting | .armed | .admitted => true
  | .running => decide (s.beat ≤ j.compBeat)
  | _ => false

/-- Marks a job for an end at the boundary that opens the next beat. A fatal end prevails over any other (R492); of
the others the first stands (R475). -/
def State.markEnd (s : State) (h : Handle) (st : JobSt) (record : Word) : State :=
  s.modJob h fun j =>
    if s.canEnd j then
      match j.pendingEnd with
      | none => { j with pendingEnd := some (st, record, s.beat + 1) }
      | some (.ended, _, _) => j
      | some _ => if st = .ended then { j with pendingEnd := some (st, record, s.beat + 1) } else j
    else j

/-- Marks every job that runs. -/
def State.markRunning (s : State) (st : JobSt) (record : Word) : State :=
  (s.jobs.map (·.1)).foldl (fun t h =>
    match tabFind t.jobs h with
    | some j => if j.st = .running then t.markEnd (BitVec.ofNat 16 h) st record else t
    | none => t) s

/-! ## The Whistle (R457) -/

/-- Sounds the Whistle from a source. A sounding before the stop of an earlier one, or while halted, is ignored; of
soundings in one cycle the lowest source is recorded. -/
def State.soundWhistle (s : State) (src : Nat) : State :=
  if s.halted then s
  else if s.whistle.pending then
    if s.whistle.beat = s.beat ∧ s.whistle.cycle = s.cycle ∧ src < s.dcbF Dcb.whistleStat 1 3 then
      s.setDcbF Dcb.whistleStat 1 3 src
    else s
  else
    (((({ s with whistle := { s.whistle with pending := true, beat := s.beat, cycle := s.cycle } }).setDcbF
      Dcb.whistleStat 1 3 src).setDcbF Dcb.whistleStat 4 10 s.cycle).setDcbF Dcb.whistleStat 14 2 0).setDcb
      Dcb.whistleBeat s.beatCtr

/-! ## Error records (R468 to R475) -/

/-- Units of Table 17-1. -/
def UnitNo.core (c : Nat) : Nat := c
def UnitNo.slice (p : Nat) : Nat := 0x400 + p
def UnitNo.hbm (p : Nat) : Nat := 0x800 + p
def UnitNo.link (l : Nat) : Nat := 0xC00 + l
def UnitNo.cp : Nat := 0xC20
def UnitNo.entropy : Nat := 0xC21
def UnitNo.rot : Nat := 0xC22
def UnitNo.ucie : Nat := 0xC23
def UnitNo.power : Nat := 0xC24

/-- Table 17-1 names the unit. -/
def unitExists (u : Nat) : Bool := decide (u < 0xC00) || decide (0xC00 ≤ u ∧ u ≤ 0xC10) || decide (0xC20 ≤ u ∧ u ≤ 0xC24)

/-- The base class of a code (Table 17-3): 0 corrected, 1 contained, 2 fatal. -/
def errBase (code : Nat) : Nat :=
  if code = 0x01 ∨ code = 0x03 ∨ code = 0x06 ∨ code = 0x10 ∨ code = 0x19 then 0
  else if code = 0x1A ∨ code = 0x1B ∨ code = 0x1C ∨ code = 0x1F then 2
  else 1

def ErrRec.cls (r : ErrRec) : Nat := bitsOf r.flags.toNat 0 2

/-- The 32 bytes of Table 17-2. -/
def ErrRec.bytes (r : ErrRec) : List Byte :=
  bytesOf 4 r.id.toNat ++ [r.code, r.flags] ++ bytesOf 2 r.handle.toNat ++ bytesOf 8 r.beat.toNat ++
    bytesOf 2 r.cycleEngine.toNat ++ bytesOf 2 r.detail.toNat ++ bytesOf 4 r.core.toNat ++ bytesOf 8 r.addr.toNat

/-- What an entry names beside its unit and code. -/
structure ErrInfo where
  handle : Handle := 0
  detail : Nat := 0
  core : Nat := 0
  addr : Nat := 0
  engine : Nat := 0
  deriving DecidableEq, Repr

/-- The partition that holds an error unit (Table 15-4). -/
def State.unitPart (s : State) (unit : Nat) : Option Nat :=
  if unit < 0x400 then s.corePart unit
  else if unit < 0x800 then s.slicePart (unit - 0x400)
  else if unit < 0xC00 then s.stackPart ((unit - 0x800) / 128)
  else if unit < 0xC10 then s.linkPart (unit - 0xC00)
  else none

/-- The partition that a record names: the lowest of the job it marks, else the one that holds the unit (DEDUCED, log entry 30). -/
def State.errPart (s : State) (unit : Nat) (i : ErrInfo) : Option Nat :=
  match s.job i.handle with
  | some j => some j.part
  | none => s.unitPart unit

def State.errUnit (s : State) (u : Nat) : ErrUnit := tabGet ErrUnit.reset s.err.units u

def State.setErrUnit (s : State) (u : Nat) (x : ErrUnit) : State :=
  { s with err := { s.err with units := tabSet ErrUnit.reset s.err.units u x } }

/-- The sequence number after `q` (R469). -/
def nextSeq (q : Nat) : Nat := if q ≥ 0xFFFFF then 1 else q + 1

/-- The queue without its youngest corrected record (R474). -/
def dropYoungestCorrected (rs : List ErrRec) : List ErrRec :=
  match rs.reverse.findIdx? (fun r => r.cls == 0) with
  | none => rs
  | some i => rs.eraseIdx (rs.length - 1 - i)

/-- A record joins its unit's queue of 8 (R474). -/
def ErrUnit.push (u : ErrUnit) (r : ErrRec) : ErrUnit :=
  if u.recs.length < 8 then { u with recs := u.recs ++ [r] }
  else if r.cls ≠ 0 ∧ u.recs.any (fun x => x.cls == 0) then
    { u with recs := dropYoungestCorrected u.recs ++ [r], ovf := min (u.ovf + 1) 0xFFF }
  else { u with ovf := min (u.ovf + 1) 0xFFF, ovfClass := max u.ovfClass r.cls }

/-- The record that an event at a unit makes (R469 to R473). -/
def State.makeRecord (s : State) (unit code : Nat) (i : ErrInfo) : ErrRec :=
  let u := s.errUnit unit
  let esc := tabGet none u.entered code == some s.beat
  let cls := if esc then min (errBase code + 1) 2 else errBase code
  let sec := u.recs.any fun r => r.cls != 0
  let part := s.errPart unit i
  let flags := cls + 4 * bit esc + 8 * bit sec + 16 * part.getD 0 + 128 * bit part.isSome
  let id := BitVec.ofNat 32 (unit * 2 ^ 20 + u.seq)
  if part.any fun p => s.partActive p then ⟨id, 0, BitVec.ofNat 8 flags, 0, 0, 0, 0, 0, 0, s.beat⟩
  else ⟨id, BitVec.ofNat 8 code, BitVec.ofNat 8 flags, i.handle, s.beatCtr, BitVec.ofNat 16 (s.cycle + i.engine * 1024),
    BitVec.ofNat 16 i.detail, BitVec.ofNat 32 i.core, BitVec.ofNat 64 i.addr, s.beat⟩

/-- Entry of an error record with its consequences (R469 to R475). -/
def State.enterError (s : State) (unit code : Nat) (i : ErrInfo) : State :=
  let r := s.makeRecord unit code i
  let u := s.errUnit unit
  let u := { u.push r with seq := nextSeq u.seq, entered := tabSet none u.entered code (some s.beat) }
  let s := ((s.setErrUnit unit u).countDcb (Dcb.errCnt r.cls) 1).dieEvent (169 + r.cls)
  if r.cls = 0 then s
  else if r.cls = 1 then s.markEnd i.handle .contained r.id
  else
    let s : State := (s.setDcbF Dcb.errGlobal 0 1 1).markEnd i.handle .ended r.id
    let s : State := { s with err := { s.err with last := some r, fatalNext := s.err.fatalNext.orElse fun _ => some (r.id, s.beat + 1) } }
    if s.dcbF Dcb.whistleCtrl 0 1 = 1 then s.soundWhistle 5 else s

/-- Entry of one of the codes 0x0A to 0x0D of a core: at most one record of each code for one job (R472). -/
def State.enterJobFault (s : State) (c code detail addr engine : Nat) : State :=
  let k := s.core c
  if k.jobCodes.contains (BitVec.ofNat 8 code) then s
  else
    (s.enterError (UnitNo.core c) code { handle := k.job.getD 0, detail, core := c, addr, engine }).modCore c fun k =>
      { k with jobCodes := k.jobCodes ++ [BitVec.ofNat 8 code] }

/-! ## Mailboxes (R365 to R371) -/

def State.mb (s : State) (m : Nat) : Mailbox := tabGet Mailbox.reset s.mbs m

def State.setMb (s : State) (m : Nat) (x : Mailbox) : State := { s with mbs := tabSet Mailbox.reset s.mbs m x }

def State.modMb (s : State) (m : Nat) (f : Mailbox → Mailbox) : State := s.setMb m (f (s.mb m))

/-- Status codes (Table 0-6). -/
def Status.ok : Nat := 0
def Status.notReady : Nat := 1
def Status.busy : Nat := 2
def Status.refused : Nat := 3
def Status.badArg : Nat := 4
def Status.denied : Nat := 5
def Status.fault : Nat := 6

def TakenCmd.opcode (t : TakenCmd) : Nat := bitsOf t.header.toNat 0 8
def TakenCmd.form (t : TakenCmd) : Nat := bitsOf t.header.toNat 8 1
def TakenCmd.tag (t : TakenCmd) : Byte := BitVec.ofNat 8 (t.header.toNat >>> 24)
def TakenCmd.arg (t : TakenCmd) (i : Nat) : Nat := (t.args.getD i 0).toNat
def TakenCmd.arg64 (t : TakenCmd) (i : Nat) : Nat := t.arg i + t.arg (i + 1) * 2 ^ 32

/-- The TAG of the mailbox command: of the SEC_SPDM, for a command that a secured message carried. -/
def TakenCmd.outerTag (t : TakenCmd) : Byte :=
  match t.session with
  | some (_, _, g) => g
  | none => t.tag

/-- A response becomes ready (R368). -/
def State.respond (s : State) (m : Nat) (t : TakenCmd) (active : Bool) (status : Nat) (words : List Word) (record : Word) :
    State :=
  s.modMb m fun b => { b with ready := b.ready ++ [⟨active, BitVec.ofNat 8 status, t.tag, words, record, t.session⟩] }

/-- The taken command of mailbox `m` is answered and no longer held. -/
def State.answer (s : State) (m : Nat) (t : TakenCmd) (status : Nat) (words : List Word) : State :=
  (s.modMb m fun b => { b with taken := none }).respond m t false status words 0

/-- The taken command of mailbox `m` is accepted and waits (R367 step 4). -/
def State.accept (s : State) (m : Nat) (t : TakenCmd) : State :=
  s.modMb m fun b => { b with taken := none, waiting := some t, active := true, tag := t.outerTag }

/-- The accepted command of mailbox `m` is answered; ACTIVE falls when the response is written (R367). -/
def State.complete (s : State) (m : Nat) (status : Nat) (words : List Word) (record : Word) : State :=
  match (s.mb m).waiting with
  | none => s
  | some t => (s.modMb m fun b => { b with waiting := none }).respond m t true status words record

/-- The mailbox is privileged in the base configuration (R371). -/
def State.privileged (s : State) (m : Nat) : Bool := s.cp.privMb.toNat.testBit m

/-- The partitions bound to a mailbox; the default binds partition 0 (Table 13-10). -/
def State.mbPart (s : State) (m : Nat) : Byte := tabGet 1 s.cp.mbPart m

/-- Every partition of the job is bound to the mailbox. -/
def State.boundTo (s : State) (m : Nat) (parts : Byte) : Bool := parts &&& ~~~(s.mbPart m) == 0

/-- The command is carried by the session of a partition of the job (R431). -/
def TakenCmd.inSessionOf (t : TakenCmd) (parts : Byte) : Bool :=
  match t.session with
  | none => false
  | some x => parts.toNat.testBit x.1

/-- Runs a meaning on the command that the CP took from mailbox `m`, when it has this opcode; else nothing happens
(DEDUCED, log entry 11). -/
def State.onTaken (s : State) (m opcode : Nat) (f : TakenCmd → State) : State :=
  match (s.mb m).taken with
  | none => s
  | some t => if t.opcode = opcode then f t else s

/-! ## Trace records (R449) -/

/-- A 16-byte record: BEAT modulo 2^56, TYPE, PAYLOAD (R449). -/
def traceRec (beat type payload : Nat) : BitVec 128 :=
  BitVec.ofNat 128 (beat % 2 ^ 56 + type * 2 ^ 56 + (payload % 2 ^ 64) * 2 ^ 64)

/-- The order of the records of one beat (R451): END or CYCLE, then MARK, CMD, WHISTLE, then CORE, then ENGINE or
THREAD. -/
def traceKey (time kind core unit : Nat) : Nat := ((time * 4 + kind) * 1024 + core) * 64 + unit

/-- A CMD, MARK or WHISTLE record of the running beat. -/
def State.addTrace (s : State) (key : Nat) (r : BitVec 128) : State :=
  { s with trace := { s.trace with beatRecs := s.trace.beatRecs ++ [(key, r)] } }

def JobSt.code : JobSt → Nat
  | .waiting => 0
  | .armed => 1
  | .admitted => 2
  | .running => 3
  | .done => 4
  | .contained => 5
  | .cancelled => 6
  | .suspended => 7
  | .withdrawn => 8
  | .ended => 9

/-- The JOB record of a job's start or end (Table 16-1 gives a beat for these alone; DEDUCED, log entry 50), when TRACE_CTRL.JOBS is 1 and the job is not confidential (R449, R452). -/
def State.traceJob (s : State) (h : Handle) (j : Job) (beat : Nat) : State :=
  if s.dcbF Dcb.traceCtrl 6 1 = 1 ∧ !s.jobConf j then
    { s with trace := { s.trace with jobRecs := s.trace.jobRecs ++ [(h.toNat,
      traceRec beat 4 (h.toNat + j.st.code * 2 ^ 16 + j.parts.toNat * 2 ^ 20))] } }
  else s

/-- The CMD record of a command (R449, R450), when its engine is traced and its job is not confidential (R452). -/
def State.traceCmd (s : State) (c engine : Nat) (i : Issued) (endCycle : Nat) (cut : Bool) : State :=
  let conf := match (s.core c).job with
    | some h => (s.job h).any fun j => s.jobConf j
    | none => false
  let part := match (s.core c).job with
    | some h => ((s.job h).map Job.part).getD 0
    | none => 0
  if (s.dcbReg Dcb.traceCtrl).toNat.testBit engine && !conf then
    s.addTrace (traceKey endCycle 1 c engine)
      (traceRec i.beat 1 (i.cycle + endCycle * 2 ^ 10 + c * 2 ^ 20 + engine * 2 ^ 30 + i.opcode.toNat * 2 ^ 33 +
        i.thread * 2 ^ 41 + bit i.late * 2 ^ 47 + bit cut * 2 ^ 48 + part * 2 ^ 49))
  else s

end Sys2Proof.Machine
end

