-- ==== Sys2Proof/Machine/Num.lean ====
section
/-! DEFINITION. Exact dyadic numbers, the float formats of the device and their rounding (R151, R164), and the compensated
accumulator arithmetic (R180 to R183). -/

namespace Sys2Proof.Machine

/-! ## Exact dyadic numbers -/

/-- The real number m x 2^e. -/
structure Dyad where
  m : Int
  e : Int
  deriving DecidableEq, Repr

def Dyad.zero : Dyad := ⟨0, 0⟩

/-- An integer. -/
def Dyad.ofInt (n : Int) : Dyad := ⟨n, 0⟩

/-- 2^k. -/
def Dyad.pow (k : Int) : Dyad := ⟨1, k⟩

/-- The mantissa at a lower exponent `q`. -/
def Dyad.at (x : Dyad) (q : Int) : Int := x.m * 2 ^ (x.e - q).toNat

def Dyad.add (x y : Dyad) : Dyad :=
  let q := min x.e y.e
  ⟨x.at q + y.at q, q⟩

def Dyad.neg (x : Dyad) : Dyad := ⟨-x.m, x.e⟩

def Dyad.sub (x y : Dyad) : Dyad := x.add y.neg

def Dyad.mul (x y : Dyad) : Dyad := ⟨x.m * y.m, x.e + y.e⟩

/-- x times 2^k. -/
def Dyad.scale (x : Dyad) (k : Int) : Dyad := ⟨x.m, x.e + k⟩

def Dyad.abs (x : Dyad) : Dyad := ⟨x.m.natAbs, x.e⟩

def Dyad.lt (x y : Dyad) : Bool := decide ((x.sub y).m < 0)

def Dyad.le (x y : Dyad) : Bool := decide ((x.sub y).m ≤ 0)

def Dyad.eq (x y : Dyad) : Bool := decide ((x.sub y).m = 0)

/-- The nearest integer, ties to even (rne of R98). -/
def Dyad.rne (x : Dyad) : Int :=
  if 0 ≤ x.e then x.m * 2 ^ x.e.toNat
  else
    let d : Int := 2 ^ (-x.e).toNat
    let q := x.m / d
    let r := x.m % d
    if 2 * r < d then q else if d < 2 * r then q + 1 else if q % 2 = 0 then q else q + 1

/-- The largest integer that is not above x. -/
def Dyad.floor (x : Dyad) : Int := if 0 ≤ x.e then x.m * 2 ^ x.e.toNat else x.m / (2 ^ (-x.e).toNat : Int)

/-- floor(log2 |x|) of x other than 0. -/
def Dyad.log2 (x : Dyad) : Int := x.e + Nat.log2 x.m.natAbs

/-! ## Float formats -/

/-- A binary interchange format: exponent bits, fraction bits, bias. -/
structure FloatFmt where
  eb : Nat
  fb : Nat
  bias : Nat
  deriving DecidableEq, Repr

def fmtE4M3 : FloatFmt := ⟨4, 3, 7⟩
def fmtE5M2 : FloatFmt := ⟨5, 2, 15⟩
def fmtE2M1 : FloatFmt := ⟨2, 1, 1⟩
def fmtBF16 : FloatFmt := ⟨8, 7, 127⟩
def fmtF32 : FloatFmt := ⟨8, 23, 127⟩
def fmtF64 : FloatFmt := ⟨11, 52, 1023⟩

def FloatFmt.width (f : FloatFmt) : Nat := 1 + f.eb + f.fb

/-- The exponent of the lowest bit of a subnormal. -/
def FloatFmt.qmin (f : FloatFmt) : Int := 1 - (f.bias : Int) - f.fb

def FloatFmt.sign (f : FloatFmt) (b : Nat) : Bool := b.testBit (f.eb + f.fb)
def FloatFmt.exp (f : FloatFmt) (b : Nat) : Nat := bitsOf b f.fb f.eb
def FloatFmt.frac (f : FloatFmt) (b : Nat) : Nat := bitsOf b 0 f.fb

/-- The value of an encoding that is neither an infinity nor a NaN. -/
def FloatFmt.val (f : FloatFmt) (b : Nat) : Dyad :=
  let m : Nat := if f.exp b = 0 then f.frac b else 2 ^ f.fb + f.frac b
  let q : Int := f.qmin + (f.exp b - 1 : Nat)
  ⟨if f.sign b then -(m : Int) else m, q⟩

/-- The encoding of a value of the format; zero is +0. -/
def FloatFmt.enc (f : FloatFmt) (x : Dyad) : Nat :=
  if x.m = 0 then 0
  else
    let s := if x.m < 0 then 2 ^ (f.eb + f.fb) else 0
    let top := x.log2
    if top < 1 - (f.bias : Int) then s + (x.abs.at f.qmin).toNat
    else
      let k := (top + f.bias).toNat
      -- the mantissa at the exponent of its lowest bit
      let q : Int := top - f.fb
      let m := if q ≤ x.e then (x.abs.at q).toNat else x.m.natAbs / 2 ^ (q - x.e).toNat
      s + k * 2 ^ f.fb + (m - 2 ^ f.fb)

/-- All exponent bits set. -/
def FloatFmt.special (f : FloatFmt) (b : Nat) : Bool := f.exp b == 2 ^ f.eb - 1

/-- A NaN of a format with infinities (binary32, binary64, BF16, E5M2). -/
def FloatFmt.isNan (f : FloatFmt) (b : Nat) : Bool := f.special b && f.frac b != 0

def FloatFmt.isInf (f : FloatFmt) (b : Nat) : Bool := f.special b && f.frac b == 0

/-- Nearest-even rounding to the precision of the format with unbounded exponent above. -/
def FloatFmt.rne (f : FloatFmt) (x : Dyad) : Dyad :=
  if x.m = 0 then Dyad.zero
  else
    let q := max (x.log2 - f.fb) f.qmin
    ⟨(x.scale (-q)).rne, q⟩

def rne64 (x : Dyad) : Dyad := fmtF64.rne x
def rne32 (x : Dyad) : Dyad := fmtF32.rne x

/-- The largest finite binary64 and binary32 (R183). -/
def max64 : Dyad := ⟨2 ^ 53 - 1, 971⟩
def max32 : Dyad := ⟨2 ^ 24 - 1, 104⟩
def max64Enc : Nat := 0x7FEFFFFFFFFFFFFF
def max32Enc : Nat := 0x7F7FFFFF

/-- OVF = 2^1024 - 2^970 (R183). -/
def ovf64 : Dyad := ⟨2 ^ 54 - 1, 970⟩

/-- A value rounded to binary64, an overflow giving the largest finite value of its sign (R182). -/
def round64 (x : Dyad) : Dyad :=
  if ovf64.le x.abs then (if x.m < 0 then max64.neg else max64) else rne64 x

/-! ## Accumulator elements -/

/-- An element's encodings: main word M (binary64) and error term e (binary32) (Table 6-1). -/
structure Acc where
  m : Nat
  e : Nat
  deriving DecidableEq, Repr

def Acc.zero : Acc := ⟨0, 0⟩

/-- The exact value V = M + e (R180). -/
def Acc.val (a : Acc) : Dyad := (fmtF64.val a.m).add (fmtF32.val a.e)

/-- read64 (R182). -/
def Acc.read64 (a : Acc) : Dyad := round64 a.val

/-- The result of the node operation: the element, whether it saturated and how many error terms were clamped. -/
structure AccSum where
  acc : Acc
  sat : Bool
  clamp : Nat
  deriving DecidableEq, Repr

def accSaturate (negative : Bool) : AccSum := ⟨⟨max64Enc + (if negative then 2 ^ 63 else 0), 0⟩, true, 0⟩

/-- acc_add (R183). -/
def accAdd (a b : Acc) : AccSum :=
  let x := (fmtF64.val a.m).add (fmtF64.val b.m)
  if ovf64.le x.abs then accSaturate (decide (x.m < 0))
  else
    let s := rne64 x
    let t := x.sub s
    let y := (rne64 ((fmtF32.val a.e).add (fmtF32.val b.e))).add t
    if ovf64.le y.abs then accSaturate (decide (y.m < 0))
    else
      let c := rne64 y
      let z := s.add c
      if ovf64.le z.abs then accSaturate (decide (z.m < 0))
      else
        let m := rne64 z
        let r := z.sub m
        if max32.lt r.abs then ⟨⟨fmtF64.enc m, max32Enc + (if r.m < 0 then 2 ^ 31 else 0)⟩, false, 1⟩
        else ⟨⟨fmtF64.enc m, fmtF32.enc (rne32 r)⟩, false, 0⟩

/-- The fixed tree of R66 over n leaves, the lower-numbered subtree first; `fuel` bounds its depth. -/
def treeFold {α : Type} (combine : α → α → α) (leaf : Nat → α) : Nat → Nat → Nat → α
  | 0, lo, _ => leaf lo
  | f + 1, lo, n => if n ≤ 1 then leaf lo
    else combine (treeFold combine leaf f lo ((n + 1) / 2)) (treeFold combine leaf f (lo + (n + 1) / 2) (n - (n + 1) / 2))

/-- A sum that remembers whether any of its nodes saturated, and how many clamped. -/
def accCombine (a b : AccSum) : AccSum :=
  let r := accAdd a.acc b.acc
  ⟨r.acc, a.sat || b.sat || r.sat, a.clamp + b.clamp + r.clamp⟩

/-- The sum of elements along the tree of R66. -/
def accTree (xs : List AccSum) : AccSum :=
  treeFold accCombine (fun i => xs.getD i ⟨Acc.zero, false, 0⟩) xs.length 0 xs.length

/-- A loaded element with its special values replaced (R190): the element, whether a word was replaced, and whether M
was infinite. -/
def accClean (a : Acc) : Acc × Bool × Bool :=
  if fmtF64.isInf a.m then (⟨max64Enc + (if fmtF64.sign a.m then 2 ^ 63 else 0), 0⟩, true, true)
  else
    let nm := fmtF64.isNan a.m
    let m := if nm then 0 else a.m
    if fmtF32.isNan a.e then (⟨m, 0⟩, true, false)
    else if fmtF32.isInf a.e then (⟨m, max32Enc + (if fmtF32.sign a.e then 2 ^ 31 else 0)⟩, true, false)
    else (⟨m, a.e⟩, nm, false)

/-- The 16-byte slot of an element (Table 6-1) and back. -/
def Acc.slot (a : Acc) : List Byte := bytesOf 8 a.m ++ bytesOf 4 a.e ++ bytesOf 4 0

def accOfSlot (bs : List Byte) : Acc := ⟨natOf (bs.take 8), natOf ((bs.drop 8).take 4)⟩

end Sys2Proof.Machine
end

