-- ==== Sys2Proof/Machine/Operands.lean ====
section
/-! DEFINITION. Every operand form: the words of thread instructions (Table 10-2) and of engine commands (Tables 3-4, 4-7,
5-4, 5-5, 5-7, 6-4, 6-5, 7-2, 8-6, 11-5), core-port slots (Table 13-20), device addresses (Table 11-1), the distances and
times of transfers (R309, R310, R320), the occupancy, the end and the signal of each command (R284, R317, R446, R450),
and the checks of one command's fields that the CP makes at admission (R61). -/

namespace Sys2Proof.Machine

/-! ## Device addresses -/

/-- What a device address decodes to (Table 11-1). -/
inductive Region where
  | hbm (pc : Nat)
  | slice (port : Nat)
  | window (core : Nat) (offset : Nat)
  | dcb (offset : Nat)
  | rot
  | reserved
  deriving DecidableEq, Repr

/-- One stack group is 96 GiB (Table 11-1). -/
def stackGroupBytes : Nat := 0x1800000000

/-- hbm_decode (R319). -/
def hbmPort (a : Nat) : Nat := 128 * (a / stackGroupBytes) + (((a % stackGroupBytes) >>> 8) % 128)

/-- The stack group of an HBM address. -/
def stackGroup (a : Nat) : Nat := a / stackGroupBytes

def regionOf (a : Nat) : Region :=
  if a < 0xC000000000 then .hbm (hbmPort a)
  else if 0x10000000000 ≤ a ∧ a < 0x10020000000 then .slice ((a - 0x10000000000) / 0x80000)
  else if 0x20000000000 ≤ a ∧ a < 0x20400000000 then .window ((a - 0x20000000000) / 0x1000000) (a % 0x1000000)
  else if 0x30000000000 ≤ a ∧ a < 0x30001000000 then .dcb (a - 0x30000000000)
  else if 0x3F000000000 ≤ a ∧ a < 0x3F001000000 then .rot
  else .reserved

/-- The port that an address decodes to, and whether it is a pseudo-channel (R313). -/
def portOf (a : Nat) : Option (Bool × Nat) :=
  match regionOf a with
  | .hbm p => some (true, p)
  | .slice p => some (false, p)
  | .window c _ => some (false, c)
  | _ => none

/-- The first byte of the 64-byte granule. -/
def granuleOf (a : Nat) : Nat := a / 64 * 64

/-! ## Distances (R309) -/

def ring (c : Nat) : Nat := min (c % 4) (c / 4)

/-- One-way distance from core port n to slice port p. -/
def hops (n p : Nat) : Nat :=
  3 + (n % 16) / 4 + ring (n / 16 % 16) + ring (p / 16 % 16) + popcount 2 ((n / 256) ^^^ (p / 256))

/-- The read distance D(n, p). -/
def readDistance (n p : Nat) : Nat := 2 * hops n p + 3

/-- The cycle of access slot k (R320). -/
def accessCycle (k : Nat) : Nat := 15 * (k / 2) + 7 * (k % 2)

/-! ## Core-port slots (Table 13-20) -/

def slotOwner (w : Word) : Nat := bitsOf w.toNat 0 3
def slotKind (w : Word) : Nat := bitsOf w.toNat 3 2
def slotHbm (w : Word) : Bool := w.toNat.testBit 5
def slotMerge (w : Word) : Bool := w.toNat.testBit 6
def slotPort (w : Word) : Nat := bitsOf w.toNat 8 10
def slotK (w : Word) : Nat := bitsOf w.toNat 18 10

/-- The fields are in the ranges of Table 13-20. -/
def slotOk (w : Word) : Bool :=
  (slotOwner w == 0 || slotOwner w == 1 || slotOwner w == 3 || slotOwner w == 4) && slotKind w != 3 &&
    bitsOf w.toNat 7 1 == 0 && bitsOf w.toNat 28 4 == 0 && (!slotMerge w || slotKind w == 0) &&
    (if slotKind w = 2 then !slotHbm w && bitsOf w.toNat 13 5 == 0 && decide (slotK w ≤ 897)
     else if slotHbm w then decide (slotK w ≤ 95) else slotK w == 0)

/-- The cycle in which a transfer makes its access at its slice port or pseudo-channel (Table 11-3). -/
def accessAt (n c : Nat) (w : Word) : Nat :=
  if slotKind w = 2 then c else if slotHbm w then accessCycle (slotK w) else c + hops n (slotPort w) + 1

/-- The cycle in which a transfer is complete (Table 11-3). -/
def completeAt (n c : Nat) (w : Word) : Nat :=
  if slotKind w = 2 then c
  else if slotHbm w then
    (if slotKind w = 0 then accessCycle (slotK w) + hops n (slotPort w) + 42 else accessCycle (slotK w))
  else if slotKind w = 0 then c + readDistance n (slotPort w)
  else c + hops n (slotPort w) + 1

/-- The entries of a core-port page of a beat of the period, in cycle order (R311). -/
def CoreState.page (k : CoreState) (b : Nat) : List (Nat × Word) :=
  (k.slots.filter fun e => e.1 / 1024 == b).map fun e => (e.1 % 1024, e.2)

/-- The first `n` slots of an owner at or after cycle `c` (R314). -/
def slotsFrom (page : List (Nat × Word)) (owner c n : Nat) : List (Nat × Word) :=
  (page.filter fun e => slotOwner e.2 == owner && decide (c ≤ e.1)).take n

/-! ## Landings of the receive table (Table 13-21) -/

def Landing.dkind (x : Landing) : Nat := bitsOf x.entry.toNat 0 2
def Landing.land (x : Landing) : Nat := bitsOf x.entry.toNat 2 10
/-- DKIND 1: the device address. -/
def Landing.addr (x : Landing) : Nat := bitsOf x.entry.toNat 12 44
/-- DKIND 2: the logical engine and the offset in its core window. -/
def Landing.engine (x : Landing) : Nat := bitsOf x.entry.toNat 12 17
def Landing.offset (x : Landing) : Nat := bitsOf x.entry.toNat 29 24

/-! ## Thread instructions (Table 10-2) -/

def insOp (w : Nat) : Nat := bitsOf w 0 4
def insBeat (w : Nat) : Nat := bitsOf w 4 8
def insCycle (w : Nat) : Nat := bitsOf w 12 10
def insEngine (w : Nat) : Nat := bitsOf w 22 3
def insQuse (w : Nat) : Bool := w.testBit 25
def insQrole (w : Nat) : Nat := bitsOf w 26 1
def insQword (w : Nat) : Nat := bitsOf w 27 3
def insQueue (w : Nat) : Nat := bitsOf w 30 8
def insSigen (w : Nat) : Bool := w.testBit 38
def insSigsb (w : Nat) : Nat := bitsOf w 39 6
def insSigctr (w : Nat) : Bool := w.testBit 45
/-- Scoreboard and count of WAIT and SIG. -/
def insSb (w : Nat) : Nat := bitsOf w 22 6
def insCtr (w : Nat) : Bool := w.testBit 28
def insN (w : Nat) : Nat := bitsOf w 29 8
def insRly (w : Nat) : Nat := bitsOf w 22 3
def insMarkKind (w : Nat) : Nat := bitsOf w 22 2
def insMarkValue (w : Nat) : Nat := bitsOf w 24 32

/-! ## Commands of the engines -/

/-- How many words a command has; 0: no command defines the opcode. -/
def cmdLen (op : Nat) : Nat :=
  if op = 0x20 ∨ op = 0x25 ∨ op = 0x26 then 1
  else if op = 0x21 ∨ op = 0x22 ∨ op = 0x23 ∨ op = 0x24 ∨ op = 0x27 ∨ op = 0x28 then 2
  else if op = 0x29 ∨ op = 0x2A ∨ op = 0x30 then 3
  else if op = 0x32 ∨ op = 0x33 then 4
  else if op = 0x31 then 5
  else if op = 0x40 then 7
  else 0

/-- The engine that executes an opcode (Table 10-1). -/
def cmdEngine (op : Nat) : Nat :=
  if op = 0x20 then 0 else if op = 0x30 then 1 else if op = 0x31 ∨ op = 0x32 ∨ op = 0x33 then 2 else if op = 0x40 then 3 else 4

/-- Doublewords of an instruction whose word 0 is `w0` and whose next word is `w1`. -/
def insLen (w0 w1 : Nat) : Nat := if insOp w0 = 1 then 1 + cmdLen (w1 % 256) else if insOp w0 = 2 then 2 else 1

/-- Whether word `k` of a command holds an address or scratch offset that starts at bit 0 (R277). -/
def cmdAddrWord (op k : Nat) : Bool :=
  if op = 0x21 ∨ op = 0x22 ∨ op = 0x23 ∨ op = 0x24 ∨ op = 0x27 ∨ op = 0x28 ∨ op = 0x32 ∨ op = 0x33 then k == 1
  else if op = 0x31 then k == 1
  else if op = 0x29 ∨ op = 0x2A ∨ op = 0x30 then k == 1 || k == 2
  else if op = 0x40 then k == 1 || k == 3
  else false

def Issued.op (i : Issued) : Nat := i.opcode.toNat
def Issued.w (i : Issued) (k : Nat) : Nat := (i.words.getD k 0).toNat
def Issued.f (i : Issued) (k lo n : Nat) : Nat := bitsOf (i.w k) lo n

/-! ### FE_MMA (Tables 5-1 to 5-4) -/

/-- A source of an operand: its format as the rates of Table 5-1 count it (none for a spin operand). -/
def mmaFmt (fmt src : Nat) : Option Nat := if src = 2 then none else some fmt

/-- T, the cycles per chunk, of a pair of formats (Table 5-1); none for a pair that is not permitted. -/
def mmaRate (a b : Option Nat) : Option Nat :=
  let one (f : Nat) : Option Nat :=
    if f = 0 ∨ f = 1 ∨ f = 4 then some 32 else if f = 2 then some 16 else if f = 3 then some 128 else none
  match a, b with
  | none, none => some 32
  | some f, none => one f
  | none, some g => one g
  | some f, some g =>
    if f ≤ 1 ∧ g ≤ 1 then some 32 else if f = g then one f else none

/-- The stride of a chunk (Table 5-3). -/
def chunkStride (fmt : Nat) (scaled : Bool) : Nat :=
  if fmt ≤ 1 then (if scaled then 1088 else 1024) else if fmt = 2 then 576 else if fmt = 3 then 2048 else 1024

structure Mma where
  acc : Nat
  zero : Bool
  afmt : Nat
  bfmt : Nat
  scaled : Bool
  asrc : Nat
  bsrc : Nat
  kt : Nat
  aaddr : Nat
  baddr : Nat
  deriving DecidableEq, Repr

def Issued.mma (i : Issued) : Mma :=
  ⟨i.f 0 8 4, i.f 0 12 1 == 1, i.f 0 13 3, i.f 0 16 3, i.f 0 19 1 == 1, i.f 0 20 2, i.f 0 22 2, i.f 0 24 6 + 1, i.f 1 0 44,
    i.f 2 0 44⟩

/-- Slots that one chunk of the shared-memory operands needs. -/
def Mma.chunkSlots (m : Mma) : Nat :=
  (if m.asrc = 1 then (chunkStride m.afmt m.scaled + 63) / 64 else 0) +
    (if m.bsrc = 1 then (chunkStride m.bfmt m.scaled + 63) / 64 else 0)

/-- LEAD, T' and D (R160). With 16 rows in compatibility mode the array runs at half its rate (R70, log entry 31). -/
def Mma.lead (m : Mma) : Nat := if m.asrc = 1 ∨ m.bsrc = 1 then 32 else 0
def Mma.step (m : Mma) (half : Bool) : Nat :=
  max ((mmaRate (mmaFmt m.afmt m.asrc) (mmaFmt m.bfmt m.bsrc)).getD 32 * (if half then 2 else 1)) m.chunkSlots
def Mma.busy (m : Mma) (half : Bool) : Nat := m.lead + m.kt * m.step half

/-- One operand's fields are malformed (R151, R156, R157). -/
def mmaOperandBad (fmt src kt addr : Nat) (scaled : Bool) : Bool :=
  src == 3 || decide (fmt ≥ 5) || (src == 2 && (fmt != 4 || decide (kt > 2))) ||
    (src != 2 && addr % 64 != 0) ||
    (src == 0 && decide (addr % 2 ^ 18 + kt * chunkStride fmt scaled > 0x40000))

def Mma.bad (m : Mma) (half : Bool) (c : Nat) : Bool :=
  mmaOperandBad m.afmt m.asrc m.kt m.aaddr m.scaled || mmaOperandBad m.bfmt m.bsrc m.kt m.baddr m.scaled ||
    (mmaRate (mmaFmt m.afmt m.asrc) (mmaFmt m.bfmt m.bsrc)).isNone || decide (c + m.busy half + 7 > 749)

/-! ### The output unit (Tables 5-5, 5-7, 8-6) -/

/-- Bytes that a 32 x 32 tile of a destination format takes in scratch (Tables 5-3, 5-6). -/
def outBytes (dfmt : Nat) : Nat :=
  if dfmt ≤ 1 ∨ dfmt = 4 then 1024 else if dfmt = 2 then 544 else if dfmt = 3 ∨ dfmt = 7 then 2048 else if dfmt = 5 then 4096 else 0

structure Out where
  acc : Nat
  dfmt : Nat
  dest : Nat
  sr : Bool
  drop : Bool
  oscale : Int
  keep : Nat
  addr : Nat
  stride : Nat
  base : Nat
  seq : Nat
  keepscale : Nat
  deriving DecidableEq, Repr

def Issued.out (i : Issued) : Out :=
  ⟨i.f 0 8 4, i.f 0 12 3, i.f 0 15 1, i.f 0 16 1 == 1, i.f 0 17 1 == 1, signed 8 (i.f 0 18 8), i.f 0 32 16, i.f 1 0 18,
    i.f 1 32 32, i.f 2 0 56, i.w 3, i.f 4 0 32⟩

def Out.bad (o : Out) (c : Nat) : Bool :=
  ((o.dest == 1) != (o.dfmt == 6)) ||
    (o.drop && (fmtF32.special o.keepscale || decide ((fmtF32.val o.keepscale).m ≤ 0))) ||
    (o.dest == 0 && (o.addr % 64 != 0 || decide (o.addr + outBytes o.dfmt > 0x40000))) || decide (c + 39 > 749)

structure Bern where
  psrc : Nat
  ofmt : Nat
  dest : Nat
  paddr : Nat
  p : Nat
  addr : Nat
  stride : Nat
  base : Nat
  seq : Nat
  deriving DecidableEq, Repr

def Issued.bern (i : Issued) : Bern :=
  ⟨i.f 0 8 1, i.f 0 9 2, i.f 0 11 1, i.f 0 12 18, i.f 0 32 16, i.f 1 0 18, i.f 1 32 32, i.f 2 0 56, i.w 3⟩

/-- R168. PADDR is checked where PSRC gives it a meaning, and OFMT whatever DEST is (DESIGN CHOICE, log entry 82). -/
def Bern.bad (b : Bern) (c : Nat) : Bool :=
  b.ofmt == 3 || (b.psrc == 1 && (b.paddr % 64 != 0 || decide (b.paddr + 2048 > 0x40000))) ||
    (b.dest == 0 && (b.addr % 64 != 0 || decide (b.addr + (if b.ofmt = 2 then 128 else 1024) > 0x40000))) ||
    decide (c + 39 > 749)

structure Fill where
  fmt : Nat
  rows : Nat
  addr : Nat
  stride : Nat
  base : Nat
  seq : Nat
  deriving DecidableEq, Repr

def Issued.fill (i : Issued) : Fill := ⟨i.f 0 8 1, i.f 0 9 5 + 1, i.f 1 0 18, i.f 1 32 32, i.f 2 0 56, i.w 3⟩

def Fill.bad (x : Fill) (c : Nat) : Bool :=
  x.addr % 64 != 0 || decide (x.addr + 512 * x.rows > 0x40000) || decide (c + x.rows + 7 > 749)

/-! ### CAT_DRAW (Table 7-2) -/

structure Cat where
  fmt : Nat
  src : Nat
  mask : Nat
  pass : Nat
  greedy : Bool
  tiled : Bool
  tinv : Nat
  topk : Nat
  addr : Nat
  n : Nat
  rows : Nat
  blk0 : Nat
  nblk : Nat
  out : Nat
  stride : Nat
  base : Nat
  thr : Nat
  seq : Nat
  deriving DecidableEq, Repr

def Issued.cat (i : Issued) : Cat :=
  ⟨i.f 0 8 3, i.f 0 11 2, i.f 0 13 2, i.f 0 15 2, i.f 0 17 1 == 1, i.f 0 18 1 == 1, i.f 0 32 16, i.f 0 48 16, i.f 1 0 44,
    i.f 2 0 16 + 1, i.f 2 16 16 + 1, i.f 2 32 10, i.f 2 42 10, i.f 3 0 18, i.f 3 32 32, i.f 4 0 56, i.f 5 0 32, i.f 6 0 51⟩

/-- Bytes of one score. -/
def Cat.size (x : Cat) : Nat := if x.fmt = 3 then 2 else 1
def Cat.long (x : Cat) : Bool := decide (x.n > 64)

/-- C, the cycles that the sampler is busy (R214, R216). -/
def Cat.busy (x : Cat) : Nat :=
  if x.long then (if x.src = 1 then max x.nblk (x.nblk * x.size) else x.nblk)
  else
    let g := 64 / x.n
    let a := (x.rows + g - 1) / g
    if x.src = 1 then max a ((x.rows * x.n * x.size + 63) / 64) else a

/-- Core-port slots of the operand. -/
def Cat.slots (x : Cat) : Nat :=
  if x.src ≠ 1 then 0 else if x.long then x.nblk * x.size else (x.rows * x.n * x.size + 63) / 64

/-- The address of entry i of row r (R212). -/
def Cat.entryAddr (x : Cat) (r i : Nat) : Nat :=
  if x.tiled then
    x.addr + 1024 * x.size * ((r / 32) * (x.n / 32) + i / 32) + 32 * x.size * (r % 32) + x.size * (i % 32)
  else x.addr + (r * x.n + i) * x.size

/-- Bytes from ADDR to the end of the last entry of the last row, the highest that the command addresses (R212). -/
def Cat.span (x : Cat) : Nat := x.entryAddr (x.rows - 1) (x.n - 1) - x.addr + x.size

/-- The entries of a command's blocks of a long row. -/
def Cat.blockCells (x : Cat) : List (Nat × Nat) :=
  ((List.range (64 * x.nblk)).map fun i => (0, 64 * x.blk0 + i)).filter fun p => decide (p.2 < x.n)

/-- The entries, row and index, that the command takes from its operand, in order (R212, R214, R216). -/
def Cat.cells (x : Cat) : List (Nat × Nat) :=
  if x.long then x.blockCells else (List.range x.rows).flatMap fun r => (List.range x.n).map fun n => (r, n)

/-- R213. A row of one entry (NM1 0) is admitted (DESIGN CHOICE, log entry 82). -/
def Cat.bad (x : Cat) (c : Nat) : Bool :=
  !(x.fmt == 0 || x.fmt == 1 || x.fmt == 3) || x.src == 3 || (x.long && x.pass == 3) ||
    ((x.mask == 1 || x.mask == 3) && x.topk == 0) || (x.tiled && x.n % 32 != 0) || x.addr % 64 != 0 || x.out % 4 != 0 ||
    (x.src == 0 && decide (x.addr % 2 ^ 18 + x.span > 0x40000)) ||
    decide (x.out + 4 * (if x.long then 1 else x.rows) > 0x40000) ||
    (x.long && (x.rows != 1 || x.nblk == 0 || decide (x.blk0 + x.nblk > (x.n + 63) / 64))) ||
    (!x.long && x.src == 2) || decide (c + x.busy + 20 > 749)

/-! ### The load/store engine (Tables 3-4, 4-7, 6-4, 6-5, 11-5) -/

/-- The granules that cover `n` bytes from `a`, in rising order. -/
def granules (a n : Nat) : List Nat := (List.range n).map fun i => (granuleOf a + 64 * i) % 2 ^ 44

/-- The granules of chunk q of the shared-memory operands of an FE_MMA: those of A, then those of B. -/
def Mma.chunkReads (m : Mma) (q : Nat) : List Nat × List Nat :=
  let one (src fmt addr : Nat) : List Nat :=
    if src = 1 then granules (addr + q * chunkStride fmt m.scaled) ((chunkStride fmt m.scaled + 63) / 64) else []
  (one m.asrc m.afmt m.aaddr, one m.bsrc m.bfmt m.baddr)

/-- The granules that hold a CAT_DRAW's operand in shared memory, in rising order. -/
def Cat.granules (x : Cat) : List Nat :=
  ((x.cells.map fun p => granuleOf (x.entryAddr p.1 p.2)).dedup).insertionSort (· ≤ ·)

structure Quant where
  first : Bool
  fixed : Bool
  exp : Nat
  firstRec : Nat
  count : Nat
  source : Nat
  deriving DecidableEq, Repr

def Issued.quant (i : Issued) : Quant :=
  ⟨i.f 0 8 1 == 1, i.f 0 9 1 == 1, i.f 0 10 6, i.f 0 16 12, i.f 0 28 10, i.f 1 0 44⟩

/-- The granules that cover the records (R101). -/
def Quant.granules (q : Quant) : Nat :=
  let lo := 48 * q.firstRec
  let hi := 48 * (q.firstRec + q.count)
  if q.count = 0 then 0 else (hi + 63) / 64 - lo / 64

structure AccRed where
  op : Nat
  side : Nat
  srck : Nat
  tile : Nat
  rows : Nat
  src : Nat
  dest : Nat
  deriving DecidableEq, Repr

def Issued.red (i : Issued) : AccRed :=
  ⟨i.f 0 8 2, i.f 0 10 1, i.f 0 11 1, i.f 0 12 4, i.f 0 16 6, i.f 1 0 44, i.f 2 0 44⟩

structure Move where
  toMem : Bool
  count : Nat
  tail : Nat
  scr : Nat
  gstride : Nat
  addr : Nat
  deriving DecidableEq, Repr

/-- TAIL 0 means 64 (Table 11-5). -/
def Issued.move (i : Issued) : Move :=
  ⟨i.f 0 8 1 == 1, i.f 0 9 10, (if i.f 0 19 6 = 0 then 64 else i.f 0 19 6), i.f 1 0 18, i.f 1 32 32, i.f 2 0 44⟩

/-- The device address of transfer j of an LS_MOVE (R318). -/
def Move.addrOf (m : Move) (j : Nat) : Nat := (m.addr + 64 * j * m.gstride) % 2 ^ 44

/-- Core-port slots of a command, and the engine that owns them (R314). `extra` counts the slots of a ROT_LOAD's fixed
directions, which its image decides (R131). -/
def Issued.slotCount (i : Issued) (extra : Nat) : Nat :=
  if i.op = 0x21 ∨ i.op = 0x22 then i.quant.granules
  else if i.op = 0x23 then 640
  else if i.op = 0x24 then 640 + extra
  else if i.op = 0x25 then 2
  else if i.op = 0x26 then 1
  else if i.op = 0x27 ∨ i.op = 0x28 then 256
  else if i.op = 0x29 then 8 * i.red.rows
  else if i.op = 0x2A then i.move.count
  else if i.op = 0x30 then i.mma.kt * i.mma.chunkSlots
  else if i.op = 0x40 then i.cat.slots
  else 0

/-- The slots that a command takes on the page of its beat (R314). -/
def Issued.slots (i : Issued) (page : List (Nat × Word)) (extra : Nat) : List (Nat × Word) :=
  slotsFrom page (cmdEngine i.op) i.cycle (i.slotCount extra)

/-- The last cycle in which a transfer of the command completes; its issue cycle when it makes none. -/
def Issued.lastComplete (i : Issued) (n : Nat) (page : List (Nat × Word)) (extra : Nat) : Nat :=
  (i.slots page extra).foldl (fun x e => max x (completeAt n e.1 e.2)) i.cycle

/-- The cycle after the last core-port slot. -/
def Issued.slotsEnd (i : Issued) (page : List (Nat × Word)) (extra : Nat) : Nat :=
  (i.slots page extra).foldl (fun x e => max x (e.1 + 1)) (i.cycle + 1)

/-- The cycles [from, until) in which the command occupies its engine (R446). -/
def Issued.busy (i : Issued) (page : List (Nat × Word)) (extra : Nat) (half : Bool) : Nat × Nat :=
  if i.op = 0x20 then (i.f 0 10 10, i.f 0 10 10 + i.f 0 20 10)
  else if i.op = 0x30 then (i.cycle, i.cycle + i.mma.busy half)
  else if i.op = 0x31 ∨ i.op = 0x32 then (i.cycle, i.cycle + 32)
  else if i.op = 0x33 then (i.cycle, i.cycle + i.fill.rows)
  else if i.op = 0x40 then (i.cycle, i.cycle + i.cat.busy)
  else (i.cycle, i.slotsEnd page extra)

/-- END of the command's span (R450). -/
def Issued.endCycle (i : Issued) (n : Nat) (page : List (Nat × Word)) (extra : Nat) (half : Bool) : Nat :=
  if i.op = 0x20 then i.f 0 10 10 + i.f 0 20 10 - 1
  else if i.op = 0x30 then i.cycle + i.mma.busy half + 7
  else if i.op = 0x31 ∨ i.op = 0x32 then i.cycle + 39
  else if i.op = 0x33 then i.cycle + i.fill.rows + 7
  else if i.op = 0x40 then i.cycle + i.cat.busy + 20
  else i.lastComplete n page extra

/-- The cycle, counted from cycle 0 of the issue beat, in which the scoreboard increment takes effect (R284, R317).
`felt`: the command writes Felt storage, which comes into force at the boundary (R44). -/
def Issued.incAt (i : Issued) (n : Nat) (page : List (Nat × Word)) (extra : Nat) (half felt : Bool) : Nat :=
  if i.op = 0x20 ∨ i.op = 0x22 ∨ i.op = 0x24 ∨ i.op = 0x26 ∨ felt then beatCycles
  else if i.op = 0x30 then i.cycle + i.mma.busy half + 8
  else if i.op = 0x31 ∨ i.op = 0x32 then i.cycle + 40
  else if i.op = 0x33 then i.cycle + i.fill.rows + 8
  else if i.op = 0x40 then i.cycle + i.cat.busy + 21
  else if i.op = 0x25 then i.slotsEnd page extra
  else if i.op = 0x21 ∨ i.op = 0x28 then i.lastComplete n page extra + 2
  else i.lastComplete n page extra + 1

/-- The command writes Felt storage of its own core (R44): FE_OUT and FE_BERN with DEST 1, and an LS_MOVE into the Felt
windows (DEDUCED, log entry 32). -/
def Issued.writesFelt (i : Issued) : Bool :=
  if i.op = 0x31 then i.out.dest == 1
  else if i.op = 0x32 then i.bern.dest == 1
  else if i.op = 0x2A then
    i.move.toMem && match regionOf i.move.addr with
      | .window _ o => decide (0x800000 ≤ o ∧ o < 0xA00000)
      | _ => false
  else false

/-- The command is pinned (R279). -/
def Issued.pinned (i : Issued) : Bool :=
  i.op == 0x20 || cmdEngine i.op == 4 || (i.op == 0x30 && (i.mma.asrc == 1 || i.mma.bsrc == 1)) ||
    (i.op == 0x40 && i.cat.src == 1)

/-- The fields of a FELT_RUN (Table 3-4). -/
def Issued.runStart (i : Issued) : Nat := i.f 0 10 10
def Issued.runSteps (i : Issued) : Nat := i.f 0 20 10

/-- The checks of a command's own fields at its issue cycle (R61, and each command's chapter). `half`: 16 rows;
`last`: FELT_ANNEAL.LAST. -/
def Issued.bad (i : Issued) (page : List (Nat × Word)) (n : Nat) (half : Bool) (last : Nat) : Bool :=
  let fits := decide ((i.slots page 0).length = i.slotCount 0) && decide (i.lastComplete n page 0 ≤ 749)
  if i.op = 0x20 then
    decide (i.runStart + i.runSteps > 750) || (i.f 0 32 16 == 0 && decide (i.runSteps > 0)) || decide (i.cycle > i.runStart)
  else if i.op = 0x21 ∨ i.op = 0x22 then
    i.quant.source % 64 != 0 || i.quant.count == 0 || decide (i.quant.count > 1000) ||
      decide (i.quant.firstRec + i.quant.count > 4096) || !fits
  else if i.op = 0x23 ∨ i.op = 0x24 ∨ i.op = 0x27 ∨ i.op = 0x28 then i.f 1 0 44 % 64 != 0 || !fits
  else if i.op = 0x25 then !fits
  else if i.op = 0x26 then decide (i.f 0 8 16 > last) || !fits
  else if i.op = 0x29 then
    i.red.op == 3 || i.red.rows == 0 || decide (i.red.rows > 32) || (i.red.srck == 1 && i.red.src % 64 != 0) ||
      i.red.dest % 64 != 0 || !fits ||
      (match regionOf i.red.dest, regionOf (i.red.dest + 512 * i.red.rows - 1) with
        | .slice p, .slice q => p != q
        | _, _ => true)
  else if i.op = 0x2A then
    i.move.count == 0 || decide (i.move.count > 750) || i.move.scr % 64 != 0 || i.move.addr % 64 != 0 ||
      decide (i.move.scr + 64 * i.move.count > 0x40000) || !fits
  else if i.op = 0x30 then i.mma.bad half i.cycle || !fits
  else if i.op = 0x31 then i.out.bad i.cycle
  else if i.op = 0x32 then i.bern.bad i.cycle
  else if i.op = 0x33 then i.fill.bad i.cycle
  else if i.op = 0x40 then i.cat.bad i.cycle || !fits
  else true

end Sys2Proof.Machine
end

