-- ==== Sys2Proof/Machine/Flags.lean ====
section
/-! DEFINITION. How registers and flags change: the access codes of Table 0-4 and the undefined values of R27, and the
scoreboard counts with their flags (R286) and releases (R288). -/

namespace Sys2Proof.Machine

/-- The register after a write under the mask `m`: RW bits take the value, W1C bits written as 1 are cleared, the other
bits keep theirs (R24). `now` are the bits that hardware sets in this cycle, which stay set (R26). The RWS bits are the
caller's. -/
def Access.write (a : Access) (old v m now : Dword) : Dword :=
  ((old &&& ~~~(a.rw &&& m)) ||| (v &&& a.rw &&& m)) &&& ~~~(v &&& a.w1c &&& m &&& ~~~now)

/-- Sets bits of a register of the core, as hardware does; the bits are noted for the rest of the cycle (R26). -/
def CoreState.setBits (k : CoreState) (o : Nat) (m : Dword) : CoreState :=
  { k.setReg o (k.reg o ||| m) with setNow := tabSet 0 k.setNow o (tabGet 0 k.setNow o ||| m) }

def CoreState.clearBits (k : CoreState) (o : Nat) (m : Dword) : CoreState := k.setReg o (k.reg o &&& ~~~m)

/-- Notes that hardware has set bits of a register in this cycle (R26). -/
def State.noteSet (s : State) (o : Nat) (m : Dword) : State :=
  { s with setNow := tabSet 0 s.setNow o (tabGet 0 s.setNow o ||| m) }

/-- Sets bits of a register of the device control block, as hardware does. -/
def State.setDcbBits (s : State) (o : Nat) (m : Dword) : State := (s.setDcb o (s.dcbReg o ||| m)).noteSet o m

/-- Counts an undefined field value or a dropped write in the core window (R27, R274). -/
def CoreState.errCount (k : CoreState) : CoreState := k.count Reg.coreErrcnt 1

/-- Counts an undefined field value in the device control block (R27). -/
def State.undefCount (s : State) : State := (s.countDcb Dcb.memUndef 1).setDcbBits Dcb.memFlags 0x80

/-- The 16 SLOT fields are a permutation of 0 to 15 (R112). -/
def permOk (v : Nat) : Bool := ((List.range 16).map fun p => bitsOf v (4 * p) 4).Perm (List.range 16)

/-- A neighbour entry with SRC 3 has SRC 0 (R116). -/
def nbrFix (v : Nat) : Nat :=
  (List.range 4).foldl (fun x i => if bitsOf x (16 * i + 12) 2 = 3 then putBits x (16 * i + 12) 2 0 else x) v

/-- The value that a write leaves in a core register, with undefined field values at their reset values, and how many
values were undefined (R27). -/
def coreFix (o v : Nat) : Nat × Nat :=
  if o = Reg.feltSize then
    let r := bitsOf v 0 7
    let c := bitsOf v 8 7
    let fr := decide (r = 0 ∨ r > 64)
    let fc := decide (c = 0 ∨ c > 64)
    ((if fr then 64 else r) + (if fc then 64 else c) * 256, bit fr + bit fc)
  else if o = Reg.feltNbrA ∨ o = Reg.feltNbrB then
    (nbrFix v, ((List.range 4).filter fun i => bitsOf v (16 * i + 12) 2 == 3).length)
  else if o = Reg.feltXchg then
    let p := bitsOf v 0 16
    let q := bitsOf v 16 16
    if 1 ≤ p ∧ p ≤ 3 then (putBits v 0 16 0, 1) else if p ≠ 0 ∧ q ≥ p then (putBits v 16 16 0, 1) else (v, 0)
  else if o = Reg.feltPerm then if permOk v then (v, 0) else (0xFEDCBA9876543210, 1)
  else if o = Reg.feltXcfg then
    let m := bitsOf v 0 2
    let l := bitsOf v 8 6
    ((putBits (putBits v 0 2 (if m = 3 then 0 else m)) 8 6 (if l < 2 then 2 else l)), bit (m == 3) + bit (decide (l < 2)))
  else if o = Reg.feltAnneal then if bitsOf v 0 44 % 32 = 0 then (v, 0) else (putBits v 0 44 0, 1)
  else (v, 0)

/-- The same for a register of the device control block. -/
def dcbFix (o v : Nat) : Nat × Nat :=
  if o = Dcb.pwrCtrl then
    if 1000 ≤ bitsOf v 0 12 ∧ bitsOf v 0 12 ≤ 2900 then (v, 0) else (putBits v 0 12 0xAC3, 1)
  else if o = Dcb.thermCtrl then
    let d := decide (bitsOf v 0 8 > 104)
    let p := decide (bitsOf v 8 8 > 84)
    ((putBits (putBits v 0 8 (if d then 0x5F else bitsOf v 0 8)) 8 8 (if p then 0x4B else bitsOf v 8 8)), bit d + bit p)
  else (v, 0)

/-- The same for a register of an Ethernet MAC; there undefined values are not counted. -/
def macFix (o v : Nat) : Nat :=
  if o = 0x0C then (if 1518 ≤ v ∧ v ≤ 9216 then v else 0x5EE)
  else if o = 0x18 ∨ o = 0x20 then
    let b := if bitsOf v 0 48 % 64 = 0 then bitsOf v 0 48 else 0
    let l := if 4 ≤ bitsOf v 48 4 ∧ bitsOf v 48 4 ≤ 15 then bitsOf v 48 4 else 4
    b + l * 2 ^ 48
  else v

/-! ## Scoreboards (R283 to R288) -/

/-- The number under which `sbOld` notes a count: PROD of scoreboard n is 2n, CONS is 2n + 1. -/
def sbKey (sb : Nat) (cons : Bool) : Nat := 2 * sb + bit cons

def sbReg (sb : Nat) (cons : Bool) : Nat := if cons then Reg.sbCons sb else Reg.sbProd sb

/-- A count as it stands. -/
def CoreState.sbCount (k : CoreState) (sb : Nat) (cons : Bool) : Nat := k.regF (sbReg sb cons) 0 32

/-- A count as it stood at the start of cycle `now` (R287). -/
def CoreState.sbAtStart (k : CoreState) (now sb : Nat) (cons : Bool) : Nat :=
  match tabFind k.sbOld (sbKey sb cons) with
  | some (t, v) => if t = now then v else k.sbCount sb cons
  | none => k.sbCount sb cons

def CoreState.noteSb (k : CoreState) (now sb : Nat) (cons : Bool) : CoreState :=
  { k with sbOld := tabPut k.sbOld (sbKey sb cons) (now, k.sbAtStart now sb cons) }

/-- THR_STATE fields (Table 10-9). -/
def CoreState.thrPc (k : CoreState) (t : Nat) : Nat := k.regF (Reg.thrState t) 0 14
def CoreState.thrSt (k : CoreState) (t : Nat) : Nat := k.regF (Reg.thrState t) 14 2
def CoreState.thrObj (k : CoreState) (t : Nat) : Nat := k.regF (Reg.thrState t) 16 6
def CoreState.thrCtr (k : CoreState) (t : Nat) : Bool := k.regF (Reg.thrState t) 22 1 == 1
def CoreState.thrWthr (k : CoreState) (t : Nat) : Nat := k.regF (Reg.thrState t) 32 32
def CoreState.thrStart (k : CoreState) (t : Nat) : Nat := k.regF (Reg.thrProg t) 0 14
def CoreState.thrLen (k : CoreState) (t : Nat) : Nat := k.regF (Reg.thrProg t) 16 14

/-- Releases every thread that waits on this count and whose threshold it reaches: it retires in the next cycle. -/
def CoreState.releaseWaits (k : CoreState) (now sb : Nat) (cons : Bool) : CoreState :=
  (List.range 64).foldl (fun k t =>
    if k.thrSt t = 2 ∧ k.thrObj t = sb ∧ k.thrCtr t = cons ∧ tabGet 0 k.releaseAt t = 0 ∧
        k.thrWthr t ≤ k.sbCount sb cons then
      { k with releaseAt := tabSet 0 k.releaseAt t (now + 1) }
    else k) k

/-- The increments `p` and `c` of one cycle come into force on a scoreboard, and are checked in the order of R286. The
second part says that the bound was exceeded. -/
def CoreState.sbApply (k : CoreState) (now sb p c : Nat) : CoreState × Bool :=
  let p0 := k.sbCount sb false
  let c0 := k.sbCount sb true
  let p1 := satAdd 32 p0 p
  let c1 := satAdd 32 c0 c
  let sat := decide (p0 + p > 0xFFFFFFFF) || decide (c0 + c > 0xFFFFFFFF)
  let under := decide (c1 > p1)
  let c2 := if under then c0 else c1
  let bufs := k.regF (Reg.sbCfg sb) 0 16
  let bound := bufs != 0 && decide (p1 - c2 > bufs)
  let k := (k.noteSb now sb false).noteSb now sb true
  let k := (k.setRegF (Reg.sbProd sb) 0 32 p1).setRegF (Reg.sbCons sb) 0 32 c2
  let k := k.setBits (Reg.sbFlags sb) (BitVec.ofNat 64 (bit sat + 2 * bit under + 4 * bit bound))
  let k := if under then k.errCount else k
  let k := if bound then k.setBits Reg.coreStat 0x10 else k
  ((k.releaseWaits now sb false).releaseWaits now sb true, bound)

/-- The increments of a core that are due by now, summed per scoreboard, and the rest. -/
def CoreState.incsDue (k : CoreState) (now : Nat) : List Inc × List Inc :=
  k.incs.partition fun i => decide (i.beat * beatCycles + i.cycle ≤ now)

def incSum (is : List Inc) (sb : Nat) (cons : Bool) : Nat :=
  is.foldl (fun n i => if i.sb = sb ∧ i.cons = cons then n + i.amount else n) 0

/-- Every due increment of a core comes into force (R286, R288); an exceeded bound ends the job (code 0x0C, 2). -/
def State.applyIncs (s : State) (c : Nat) : State :=
  let k := s.core c
  let due := (k.incsDue s.now).1
  if due.isEmpty then s
  else
    let s := s.setCore c { k with incs := (k.incsDue s.now).2 }
    (List.range 48).foldl (fun s sb =>
      if due.any fun i => i.sb == sb then
        let r := (s.core c).sbApply s.now sb (incSum due sb false) (incSum due sb true)
        let s := s.setCore c r.1
        if r.2 then s.enterJobFault c 0x0C 2 0 0 else s
      else s) s

end Sys2Proof.Machine
end

