-- ==== Sys2Proof/Machine/Nap.lean ====
section
/-! DEFINITION. Nap-6 (R221 to R226), the digest (R444), and the integer logit and Gumbel functions with their knot tables
(R104, R204). -/

namespace Sys2Proof.Machine

/-! ## Nap-6 -/

/-- The multiplier M and the key advance A (Table 8-1). -/
def napM : Nat := 0xB5E39A1F4C27D86B
def napA : Nat := 0x7D4E2A91C36B05F3

/-- One round on the left half, the right half and the two round keys (R222). -/
def napRound (x : Nat × Nat × Nat × Nat) : Nat × Nat × Nat × Nat :=
  let p := (x.2.1 ^^^ x.2.2.1) * napM
  (p % 2 ^ 64, (p >>> 64) ^^^ x.1 ^^^ x.2.2.2, (x.2.2.1 + napA) % 2 ^ 64, (x.2.2.2 + napA) % 2 ^ 64)

/-- nap6(K, X) (R222). -/
def nap6 (key blk : Nat) : Nat :=
  let y := (List.range 6).foldl (fun x _ => napRound x)
    ((blk >>> 64) % 2 ^ 64, blk % 2 ^ 64, key % 2 ^ 64, (key >>> 64) % 2 ^ 64)
  y.1 * 2 ^ 64 + y.2.1

/-- A counter block (Table 8-2); INDEX and SEQUENCE wrap (R227). -/
def napBlock (domain index seq : Nat) : Nat := domain * 2 ^ 120 + (index % 2 ^ 56) * 2 ^ 64 + seq % 2 ^ 64

/-- Lane n of an output (R223). -/
def lane (y n : Nat) : Nat := bitsOf y (16 * n) 16

/-! ## The digest (R444) -/

/-- One step: h becomes nap6(m, h) xor h. -/
def digestStep (h m : Nat) : Nat := nap6 m h ^^^ h

/-- The blocks of 16 bytes, the last padded with zeros; `fuel` bounds their number. -/
def digestBlocks : Nat → List Byte → Nat → Nat
  | 0, _, h => h
  | _ + 1, [], h => h
  | f + 1, b :: bs, h => digestBlocks f ((b :: bs).drop 16) (digestStep h (natOf ((b :: bs).take 16)))

/-- The last block holds the length; the halves are folded. -/
def digestEnd (h n : Nat) : Nat :=
  let g := digestStep h n
  (g % 2 ^ 64) ^^^ (g >>> 64)

/-- The digest of a byte string. -/
def digest (bs : List Byte) : Nat := digestEnd (digestBlocks bs.length bs 0) bs.length

/-! ## Knot tables -/

/-- K(v), the logit knots (R104), in ascending order of v. -/
def knotK : List Int :=
    [-48265, -43765, -41673, -40295, -39265, -38443, -37759, -37173, -36660, -36204, -35794, -35422, -35080,
     -34765, -34472, -34199, -33942, -33701, -33474, -33258, -33053, -32858, -32672, -32494, -32323, -32159,
     -32001, -31849, -31703, -31562, -31425, -31293, -31165, -30920, -30689, -30471, -30263, -30065, -29877,
     -29697, -29524, -29359, -29199, -29046, -28898, -28756, -28618, -28485, -28355, -28109] ++
    [-27876, -27656, -27447, -27248, -27058, -26877, -26703, -26537, -26376, -26222, -26074, -25930, -25792,
     -25658, -25528, -25280, -25046, -24825, -24615, -24416, -24225, -24043, -23869, -23701, -23541, -23386,
     -23237, -23093, -22954, -22819, -22689, -22440, -22205, -21983, -21773, -21572, -21381, -21198, -21023,
     -20855, -20693, -20538, -20388, -20244, -20104, -19969, -19838, -19588, -19352, -19128] ++
    [-18916, -18715, -18522, -18338, -18162, -17993, -17830, -17674, -17523, -17377, -17237, -17100, -16968,
     -16716, -16478, -16252, -16038, -15835, -15640, -15454, -15275, -15104, -14940, -14781, -14628, -14480,
     -14337, -14199, -14065, -13808, -13566, -13336, -13118, -12909, -12711, -12520, -12338, -12162, -11993,
     -11830, -11673, -11520, -11373, -11230, -11092, -10826, -10575, -10336, -10109, -9892] ++
    [-9684, -9484, -9292, -9107, -8929, -8756, -8590, -8428, -8271, -8118, -7970, -7685, -7414, -7155, -6907,
     -6669, -6440, -6219, -6006, -5799, -5599, -5404, -5214, -5029, -4849, -4672, -4500, -4165, -3843, -3532,
     -3229, -2935, -2648, -2368, -2092, -1821, -1554, -1290, -1029, -770, -513, -256, 0]

/-- KL(v), the lower Gumbel knots (R204). -/
def knotKL : List Int :=
    [-10104, -9703, -9502, -9364, -9258, -9172, -9098, -9034, -8977, -8926, -8879, -8836, -8797, -8760, -8725,
     -8693, -8662, -8633, -8605, -8578, -8553, -8529, -8506, -8483, -8462, -8441, -8421, -8401, -8382, -8364,
     -8346, -8329, -8312, -8280, -8249, -8220, -8192, -8165, -8139, -8115, -8091, -8068, -8046, -8024, -8003,
     -7983, -7963, -7944, -7926, -7890] ++
    [-7856, -7823, -7792, -7763, -7734, -7707, -7680, -7654, -7630, -7606, -7582, -7560, -7538, -7517, -7496,
     -7456, -7418, -7382, -7347, -7314, -7282, -7251, -7221, -7193, -7165, -7138, -7112, -7087, -7062, -7038,
     -7015, -6970, -6927, -6886, -6847, -6809, -6773, -6738, -6704, -6671, -6640, -6609, -6579, -6551, -6522,
     -6495, -6468, -6417, -6368, -6321] ++
    [-6276, -6232, -6191, -6150, -6111, -6073, -6037, -6001, -5967, -5933, -5900, -5868, -5837, -5777, -5720,
     -5665, -5612, -5560, -5511, -5463, -5417, -5373, -5329, -5287, -5246, -5205, -5166, -5128, -5091, -5018,
     -4949, -4882, -4818, -4756, -4696, -4638, -4581, -4526, -4473, -4420, -4369, -4320, -4271, -4223, -4177,
     -4086, -3999, -3915, -3833, -3754] ++
    [-3677, -3602, -3529, -3458, -3388, -3320, -3253, -3188, -3124, -3061, -2999, -2877, -2760, -2645, -2534,
     -2425, -2318, -2213, -2110, -2009, -1909, -1811, -1714, -1619, -1524, -1431, -1338, -1155, -974, -796,
     -619, -443, -269, -95, 79, 253, 428, 603, 780, 957, 1137, 1318, 1501]

/-- KH(w), the upper Gumbel knots (R204). -/
def knotKH : List Int :=
    [48265, 43765, 41673, 40295, 39265, 38443, 37759, 37173, 36660, 36205, 35795, 35422, 35080, 34765, 34472,
     34199, 33943, 33702, 33474, 33259, 33054, 32859, 32672, 32494, 32324, 32160, 32002, 31850, 31704, 31563,
     31426, 31294, 31166, 30921, 30690, 30472, 30264, 30067, 29878, 29698, 29526, 29360, 29201, 29048, 28900,
     28758, 28620, 28486, 28357, 28111] ++
    [27878, 27658, 27449, 27251, 27061, 26880, 26706, 26540, 26380, 26226, 26077, 25934, 25796, 25662, 25532,
     25285, 25051, 24830, 24620, 24421, 24231, 24049, 23875, 23708, 23547, 23393, 23244, 23100, 22961, 22827,
     22697, 22449, 22214, 21993, 21783, 21583, 21392, 21209, 21035, 20867, 20706, 20552, 20402, 20258, 20119,
     19984, 19854, 19605, 19370, 19148] ++
    [18937, 18736, 18545, 18362, 18186, 18018, 17857, 17701, 17551, 17407, 17267, 17132, 17001, 16750, 16514,
     16291, 16079, 15877, 15685, 15500, 15324, 15155, 14992, 14836, 14685, 14539, 14398, 14262, 14130, 13877,
     13639, 13414, 13200, 12996, 12801, 12615, 12436, 12265, 12100, 11941, 11788, 11640, 11497, 11359, 11225,
     10968, 10725, 10495, 10277, 10068] ++
    [9869, 9678, 9495, 9320, 9150, 8987, 8829, 8677, 8529, 8386, 8247, 7980, 7728, 7489, 7260, 7042, 6833, 6632,
     6439, 6252, 6072, 5898, 5730, 5566, 5408, 5253, 5103, 4814, 4538, 4274, 4021, 3777, 3541, 3313, 3092, 2878,
     2668, 2464, 2264, 2068, 1876, 1687, 1501]

/-- The number of the knot v (R104). -/
def knotIndex (v : Nat) : Nat :=
  if v < 32 then v
  else if v ≥ 32768 then 192
  else 32 + (Nat.log2 v - 5) * 16 + ((v - 2 ^ Nat.log2 v) >>> (Nat.log2 v - 4))

def knot (t : List Int) (v : Nat) : Int := t.getD (knotIndex v) 0

/-- The interpolation between knots (R104, R204); the shift floors. -/
def knotInterp (t : List Int) (v : Nat) : Int :=
  if v < 32 then knot t v
  else
    let k := Nat.log2 v
    let s := 2 ^ (k - 4)
    let f := (v - 2 ^ k) % s
    let v0 := v - f
    let k0 := knot t v0
    let k1 := knot t (v0 + s)
    k0 + ((k1 - k0) * f + ((s / 2 : Nat) : Int)) / ((s : Nat) : Int)

/-- logit(u) in units of 2^-12 (R104). -/
def logitQ12 (u : Nat) : Int := if u ≥ 32768 then -knotInterp knotK (65535 - u) else knotInterp knotK u

/-- The Gumbel value in units of 2^-12 (R204). -/
def gumbelQ12 (u : Nat) : Int := if u < 32768 then knotInterp knotKL u else knotInterp knotKH (65535 - u)

end Sys2Proof.Machine
end

