-- ==== Sys2Proof/Machine/Threads.lean ====
section
/-! DEFINITION. Threads and what the window shows of a core: fetching an instruction, its stamp and retirement (R276 to R279),
pending ISSUEs and stalls (R446), Rally counts (R290), the registers as they read (Tables 10-9, 16-7), the hang snapshot
(R462) and the hand-over of commands to engines. -/

namespace Sys2Proof.Machine

/-! ## Instructions -/

/-- Doubleword `n` of the active bank of the schedule store (R274). -/
def CoreState.insWord (k : CoreState) (n : Nat) : Nat := natAt k.store (Win.schedule + 8 * (n % 16384)) 8

/-- Word 0 of the thread's next instruction. -/
def CoreState.insAt (k : CoreState) (t : Nat) : Nat := k.insWord (k.thrPc t)

/-- Cycles from job beat 0, cycle 0, to now (R58). -/
def State.jobNow (s : State) (j : Job) : Nat := s.jobBeat j * beatCycles + s.cycle

/-- The period iteration of the job (R276). -/
def State.jobIter (s : State) (j : Job) : Nat := s.jobBeat j / max j.image.p 1

/-- The stamp of an instruction in the thread's own iteration, in cycles from job beat 0 (R277). -/
def CoreState.stampOf (k : CoreState) (j : Job) (t w : Nat) : Nat :=
  (tabGet 0 k.threadIter t * j.image.p + insBeat w) * beatCycles + insCycle w

/-- COMPAT_CLOCK: the cycles of a beat in which the job's engines issue (R70). -/
def Job.issueCycles (j : Job) : Nat := if j.compat then 375 + 125 * j.compatClock.toNat else beatCycles

/-- The field engine uses 16 rows (R70). -/
def Job.half (j : Job) : Bool := j.compat && j.compatRows

/-- A thread that can execute an instruction of this OP in this cycle (R278): the job, the instruction's word 0, and
whether it is late (R279). -/
def State.threadReady (s : State) (c t op : Nat) : Option (Handle × Job × Nat × Bool) :=
  match s.coreJob c with
  | none => none
  | some (h, j) =>
    let k := s.core c
    let w := k.insAt t
    if k.thrLen t ≠ 0 ∧ k.thrSt t = 1 ∧ tabGet false k.stopped t = false ∧ tabGet 0 k.readyAt t ≤ s.now ∧ insOp w = op ∧
        k.stampOf j t w ≤ s.jobNow j then
      some (h, j, w, decide (k.stampOf j t w < s.jobNow j))
    else none

/-- A late instruction sets LATE and SLIP; an instruction has executed in this beat (R279, R295). -/
def CoreState.executed (k : CoreState) (t : Nat) (late : Bool) : CoreState :=
  let k := { (k.setRegF (Reg.thrState t) 23 1 (bit late)) with ranInstr := true }
  if late then k.setBits Reg.coreStat 0x2 else k

/-- The instruction of `len` doublewords retires in cycle `now`; after the last one the thread waits for its next period
(R276, R278). `iter` is the job's period iteration. -/
def CoreState.retire (k : CoreState) (now t len iter : Nat) : CoreState :=
  let pc := k.thrPc t + len
  let last := decide (k.thrStart t + k.thrLen t ≤ pc)
  let k := (((k.setRegF (Reg.thrState t) 0 14 (if last then k.thrStart t else pc)).setRegF (Reg.thrState t) 16 7 0).setRegF
    (Reg.thrState t) 32 32 0).setRegF (Reg.thrState t) 14 2
      (if last then (if tabGet 0 k.threadIter t + 1 ≤ iter then 1 else 0) else 1)
  { k with
    threadIter := if last then tabSet 0 k.threadIter t (tabGet 0 k.threadIter t + 1) else k.threadIter
    readyAt := tabSet 0 k.readyAt t (now + 1)
    releaseAt := tabSet 0 k.releaseAt t 0 }

/-- The thread blocks in WAIT (2) or RWAIT (3). -/
def CoreState.block (k : CoreState) (t st obj : Nat) (ctr : Bool) (wthr : Nat) : CoreState :=
  (((k.setRegF (Reg.thrState t) 14 2 st).setRegF (Reg.thrState t) 16 6 obj).setRegF (Reg.thrState t) 22 1 (bit ctr)).setRegF
    (Reg.thrState t) 32 32 wthr

/-- The thread stops for good (R279, R291). -/
def CoreState.stop (k : CoreState) (t : Nat) : CoreState := { k with stopped := tabSet false k.stopped t true }

/-! ## Rally (R290 to R293) -/

def CoreState.members (k : CoreState) (r : Nat) : List Nat :=
  (List.range 64).filter fun m => (k.reg (Reg.rlyMembers r)).toNat.testBit m

def rallyKey (r m : Nat) : Nat := 64 * r + m

def CoreState.arrived (k : CoreState) (r m : Nat) : Nat := tabGet 0 k.arrivals (rallyKey r m)
def CoreState.left (k : CoreState) (r m : Nat) : Nat := tabGet 0 k.departures (rallyKey r m)
def CoreState.phase (k : CoreState) (r : Nat) : Nat := tabGet 0 k.phases r

/-- C at the start of cycle `now`. -/
def CoreState.phaseAtStart (k : CoreState) (now r : Nat) : Nat :=
  if tabFind k.phaseAt r = some now then k.phase r - 1 else k.phase r

def CoreState.leave (k : CoreState) (r m : Nat) : CoreState :=
  { k with departures := tabSet 0 k.departures (rallyKey r m) (k.left r m + 1) }

/-- A phase completes when every member has arrived for it; it releases the members that wait for it (R290, R292). -/
def CoreState.completePhase (k : CoreState) (now r : Nat) : CoreState :=
  if !(k.members r).isEmpty ∧ (k.members r).all fun m => decide (k.phase r + 1 ≤ k.arrived r m) then
    let k := { k with phases := tabSet 0 k.phases r (k.phase r + 1), phaseAt := tabPut k.phaseAt r now }
    (k.members r).foldl (fun k m =>
      if k.thrSt m = 3 ∧ k.thrObj m = r ∧ tabGet 0 k.releaseAt m = 0 ∧ k.left r m + 1 ≤ k.phase r then
        { k with releaseAt := tabSet 0 k.releaseAt m (now + 1) }
      else k) k
  else k

/-! ## Stalls (R446) -/

/-- The engine and the stamp of the thread's first ISSUE at or after `pc`, and whether it is the next instruction. -/
def CoreState.firstIssue (k : CoreState) (j : Job) (t : Nat) : Nat → Nat → Bool → Option (Nat × Nat × Bool)
  | 0, _, _ => none
  | n + 1, pc, next =>
    if k.thrStart t + k.thrLen t ≤ pc then none
    else
      let w := k.insWord pc
      if insOp w = 1 then some (insEngine w, k.stampOf j t w, next)
      else k.firstIssue j t n (pc + (if insOp w = 2 then 2 else 1)) false

/-- Why thread `t` stalls engine `e` in this cycle: 1 scoreboard, 2 Rally, 3 late; 0: it does not. -/
def State.threadStall (s : State) (j : Job) (k : CoreState) (e t : Nat) : Nat :=
  if k.thrLen t = 0 ∨ k.thrSt t = 0 then 0
  else
    match k.firstIssue j t (k.thrLen t) (k.thrPc t) true with
    | none => 0
    | some (en, st, next) =>
      if en ≠ e ∨ s.jobNow j < st then 0
      else if k.thrSt t = 2 then 1
      else if k.thrSt t = 3 then 2
      else if next ∧ tabGet 0 k.readyAt t ≤ s.now then 3
      else 0

/-- The reason that the lowest stalling thread gives (R446). -/
def State.stallOf (s : State) (c e : Nat) : Nat :=
  match s.coreJob c with
  | none => 0
  | some (_, j) =>
    ((List.range 64).findSome? fun t =>
      let r := s.threadStall j (s.core c) e t
      if r = 0 then none else some r).getD 0

/-- A command occupies engine `e` in this cycle (R446). -/
def State.engineBusy (s : State) (c e : Nat) : Bool :=
  let x := (s.core c).engine e
  x.busyBeat == s.beat && decide (x.busyFrom ≤ s.cycle) && decide (s.cycle < x.busyUntil)

/-! ## Registers as they read -/

/-- The logical engine that a core holds for its job. -/
def Job.engineOf (j : Job) (c : Nat) : Nat := ((j.engines.find? fun e => e.2 == c).map (·.1)).getD 0

/-- The core that holds a logical engine on this module. -/
def Job.coreOf (j : Job) (e : Nat) : Option Nat := (j.engines.find? fun x => x.1 == e).map (·.2)

/-- RLY_STAT[r][w] (Table 10-9). -/
def CoreState.rlyStat (k : CoreState) (r w : Nat) : Nat :=
  (List.range 16).foldl (fun v i =>
    let m := 16 * w + i
    if (k.members r).contains m then
      v + ((k.arrived r m - k.phase r) % 4 + ((k.arrived r m - k.left r m) % 4) * 4) * 2 ^ (4 * i)
    else v) 0

/-- Bits of the 64 threads for which `f` holds. -/
def threadMask (f : Nat → Bool) : Nat := (List.range 64).foldl (fun v t => v + bit (f t) * 2 ^ t) 0

/-- CNT_IDLE: the counted cycles that fall in no other category (R446). -/
def State.idleCount (s : State) (c e : Nat) : Nat :=
  let k := s.core c
  (s.runCycles - k.cntBase).toNat - (k.reg (Reg.cntBusy e)).toNat - (k.reg (Reg.cntStallSb e)).toNat -
    (k.reg (Reg.cntStallRly e)).toNat - (k.reg (Reg.cntStallLate e)).toNat

/-- The state as the deterministic domain sees it: while the die is halted, in the cycle of the stop (R459). -/
def State.atStop (s : State) : State :=
  if s.halted then
    State.setDcbF { s with
      beat := s.whistle.stopBeat, cycle := s.whistle.stopCycle, whistle := { s.whistle with pending := false } } Dcb.whistleStat 0 1 0
  else s

/-- CNT_STATE (Table 16-7): OPCODE is kept, STATE and REASON follow from the cycle. -/
def State.cntStateOf (s : State) (c e : Nat) : Nat :=
  let s := s.atStop
  let op := (s.core c).regF (Reg.cntState e) 4 8 * 16
  if s.engineBusy c e then op + 1
  else if s.stallOf c e = 0 then op
  else op + 2 + s.stallOf c e * 4

/-- The value that a register of the core reads. -/
def State.coreRegRead (s : State) (c o : Nat) : Nat :=
  let k := s.core c
  let j := k.job.bind s.job
  if o = Reg.coreId then c + ((j.map fun j => j.engineOf c).getD 0 % 65536) * 65536
  else if o = Reg.coreStat then putBits (k.reg o).toNat 0 1 (bit k.job.isSome)
  else if o = Reg.thrActive then threadMask fun t => k.thrLen t != 0
  else if o = Reg.thrWaiting then threadMask fun t => decide (2 ≤ k.thrSt t)
  else if o = Reg.feltExp ∨ (Reg.feltBeta 0 ≤ o ∧ o ≤ Reg.feltBeta 15) then
    match tabFind k.rws o with
    | some v => v.toNat
    | none => (k.reg o).toNat + 2 ^ 31
  else if 0xF07000 ≤ o ∧ o < 0xF07200 then
    let r := (o - 0xF07000) / 64
    let x := (o - 0xF07000) % 64
    if x = 8 then k.phase r % 2 ^ 32 else if 0x20 ≤ x then k.rlyStat r ((x - 0x20) / 8) else (k.reg o).toNat
  else if 0xF0A000 ≤ o ∧ o < 0xF0A280 then
    let e := (o - 0xF0A000) / 0x80
    let x := (o - 0xF0A000) % 0x80
    let slot := k.engine e
    let first := slot.issueBeat == s.beat && slot.issueCycle == s.cycle
    let before (n : Nat) := ((if first then slot.before[n]? else none).getD (k.reg o)).toNat
    if x = 0x20 then s.idleCount c e else if x = 0x38 then s.cntStateOf c e
    else if x = 0x28 then before 0 else if x = 0x34 then before 1 else if x = 0x30 then before 2 else (k.reg o).toNat
  else (k.reg o).toNat

/-- `n` registers of `w` bytes at stride `st` from offset `o`, as bytes. -/
def State.coreRegBytes (s : State) (c o st n w : Nat) : List Byte :=
  (List.range n).flatMap fun i => bytesOf w (s.coreRegRead c (o + st * i))

def zeros (n : Nat) : List Byte := List.replicate n 0

/-- A Rally unit's register block, 64 bytes (Table 10-8). -/
def State.rallyBytes (s : State) (c r : Nat) : List Byte :=
  bytesOf 8 (s.coreRegRead c (Reg.rlyMembers r)) ++ bytesOf 4 (s.coreRegRead c (Reg.rlyPhase r)) ++
    bytesOf 4 (s.coreRegRead c (Reg.rlyFlags r)) ++ zeros 16 ++ s.coreRegBytes c (Reg.rlyStat r 0) 8 4 8

/-! ## The hang snapshot (R462, Table 16-3) -/

def State.engineHang (s : State) (c e : Nat) : List Byte :=
  let x := (s.core c).engine e
  bytesOf 4 (s.cntStateOf c e) ++ bytesOf 8 x.issueBeat ++ bytesOf 4 x.issueCycle

def State.credits (s : State) (n : Nat) : List Byte :=
  bytesOf 1 (min 16 (s.transfers.filter fun x => x.hbm && x.port == n && !x.taken).length) ++
    bytesOf 2 (tabGet [] s.nodes n).length ++ zeros 109

def State.hangBody (s : State) (c cause : Nat) : List Byte :=
  let k := s.core c
  bytesOf 8 s.atStop.beat ++ bytesOf 4 s.atStop.cycle ++ bytesOf 4 cause ++ bytesOf 4 (s.coreRegRead c Reg.coreId) ++
    bytesOf 4 (k.job.getD 0).toNat ++ zeros 40 ++ (List.range 5).flatMap (s.engineHang c) ++ s.credits c ++
    s.coreRegBytes c (Reg.thrState 0) 8 64 8 ++ s.coreRegBytes c (Reg.sbProd 0) 4 192 4 ++
    (List.range 8).flatMap (s.rallyBytes c) ++ s.coreRegBytes c (Reg.qPtr 0) 16 256 8 ++
    bytesOf 4 (s.coreRegRead c Reg.coreStat) ++ bytesOf 4 (s.coreRegRead c Reg.dlkCount) ++
    bytesOf 8 (s.coreRegRead c Reg.schedIter) ++ zeros 4072

/-- The hang snapshot of a core takes this body, with its digest (R462, R463). -/
def State.putSnapshot (s : State) (c cause : Nat) (b : List Byte) : State :=
  s.modCore c fun k =>
    { k with store := bytesWrite k.store Reg.hang (b ++ bytesOf 8 (digest b)) }.setReg Reg.dbgSnapstat
      (BitVec.ofNat 64 (1 + 2 * cause))

/-- Takes the hang snapshot of a core (R462, R463). -/
def State.takeSnapshot (s : State) (c cause : Nat) : State := s.putSnapshot c cause (s.hangBody c cause)

/-! ## Commands in the engines -/

/-- The core-port page of the job's beat (R311). -/
def State.pageAt (s : State) (c : Nat) (j : Job) (beat : Nat) : List (Nat × Word) :=
  (s.core c).page ((j.startK + (beat - j.startBeat)) % max j.image.p 1)

/-- The slots beyond 640 that a ROT_LOAD takes: two for each descriptor of KIND 2 of its image (R131). -/
def State.cmdExtra (s : State) (i : Issued) : Nat :=
  if i.op = 0x24 then
    2 * ((List.range 8).filter fun d => natAt s.mem (i.f 1 0 44 + 0x9C40 + 16 * d) 1 % 4 == 2).length
  else 0

/-- The command with this opcode that an engine holds, with its job. -/
def State.engineCmd (s : State) (c op : Nat) : Option (Handle × Job × Issued) :=
  match s.coreJob c with
  | none => none
  | some (h, j) =>
    match ((s.core c).engine (cmdEngine op)).cmd with
    | none => none
    | some i => if i.op = op then some (h, j, i) else none

/-- An operand of the command that engine `e` holds has not come yet. -/
def State.operandsDue (s : State) (c e : Nat) : Bool :=
  s.transfers.any fun x => x.core == c && x.engine == e && (s.core c).job == some x.handle &&
    (match x.dest with | .operand _ => !x.write | .scratch _ _ => false)

/-- The command with this opcode that an engine holds, once every operand that it reads over the crossbar has come. -/
def State.readyCmd (s : State) (c op : Nat) : Option (Handle × Job × Issued) :=
  if s.operandsDue c (cmdEngine op) then none else s.engineCmd c op

/-- The last cycle, from 0:0, that a sounded Whistle lets the deterministic domain execute (R458). -/
def State.lastCycle (s : State) : Option Nat :=
  if s.whistle.pending then some (s.whistle.beat * beatCycles + s.whistle.cycle + 23) else none

/-- How many of the `n` parts of a command are made, part r in the cycle that is `first + r x step` after its issue cycle:
all of them, unless a Whistle cuts the command (R458). -/
def State.partsMade (s : State) (i : Issued) (n first step : Nat) : Nat :=
  match s.lastCycle with
  | none => n
  | some last => ((List.range n).filter fun r => decide (i.beat * beatCycles + i.cycle + first + r * step ≤ last)).length

/-- The bytes of `n` operand granules of an engine, from the one numbered `lo`; a granule that was not delivered is zeros. -/
def CoreState.operands (k : CoreState) (e lo n : Nat) : List Byte :=
  (List.range n).flatMap fun i => bytesOf 64 (tabGet 0 (k.engine e).operand (lo + i)).toNat

/-- The slots that a command takes. -/
def State.cmdSlots (s : State) (c : Nat) (j : Job) (i : Issued) : List (Nat × Word) :=
  i.slots (s.pageAt c j i.beat) (s.cmdExtra i)

/-- The command leaves its engine: its record is emitted (R449) and its signal is due (R284). -/
def State.finishCmd (s : State) (c : Nat) (j : Job) (i : Issued) : State :=
  let page := s.pageAt c j i.beat
  let extra := s.cmdExtra i
  let inc := match i.sig with
    | none => []
    | some (sb, cons) => [⟨sb, cons, 1, i.beat, i.incAt c page extra j.half i.writesFelt⟩]
  (s.modCore c fun k =>
    { k.setEngine (cmdEngine i.op) { k.engine (cmdEngine i.op) with cmd := none, operand := [] } with incs := k.incs ++ inc }).traceCmd c
      (cmdEngine i.op) i (i.endCycle c page extra j.half) false

end Sys2Proof.Machine
end

