-- ==== Sys2Proof/Machine/FeltStore.lean ====
section
/-! DEFINITION. The storage of a Felt tile as the core window shows it (Tables 3-2, 4-5), reads from the snapshot (R43), and
writes that wait for the beat boundary with their conflict rule (R44). -/

namespace Sys2Proof.Machine

/-- The job key K as the core holds it (R235). -/
def CoreState.key (k : CoreState) : Nat := (k.reg Reg.napKey0).toNat + (k.reg Reg.napKey1).toNat * 2 ^ 64

/-- Byte `i` of a plane of 4,096 bits. -/
def planeByte (x : BitVec 4096) (i : Nat) : Byte := BitVec.ofNat 8 (x.toNat >>> (8 * i))

/-- The plane with the bits `m` of byte `i` taken from `v`. -/
def planePut (x : BitVec 4096) (i : Nat) (m v : Byte) : BitVec 4096 :=
  BitVec.ofNat 4096 (putBits x.toNat (8 * i) 8 ((planeByte x i &&& ~~~m) ||| (v &&& m)).toNat)

/-- The offset lies in storage whose 16-bit slots hold 12-bit mantissas (Table 3-2). -/
def isMantissa (o : Nat) : Bool :=
  (decide (Win.cond ≤ o) && decide (o < 0x824000)) || (decide (Win.base ≤ o) && decide (o < 0x90A000))

/-- The offset is one of Felt storage: of Table 3-2, or of the boundary and staging buffers of Table 4-5. -/
def feltMapped (o : Nat) : Bool :=
  (decide (Win.spins ≤ o) && decide (o < 0x824000)) || (decide (Win.coupling ≤ o) && decide (o < 0x904180)) ||
    (decide (Win.boundary ≤ o) && decide (o < 0x905208)) || (decide (Win.staging ≤ o) && decide (o < 0x905608)) ||
    (decide (Win.base ≤ o) && decide (o < 0x90A000))

/-- The bits of a byte of Felt storage that a write changes: mantissas have 12 bits, the reserved bytes of the edge
arrays none (R27). -/
def feltMask (o : Nat) : Byte :=
  if isMantissa o && o % 2 == 1 then 0x0F else if o = 0x9040FF ∨ o = 0x90417F then 0 else 0xFF

/-- A byte of Felt storage as a window read returns it: spins from the snapshot (R43), mantissas sign-extended. -/
def CoreState.feltByte (k : CoreState) (o : Nat) : Byte :=
  if o < 0x802000 then planeByte (k.snapshot ((o - Win.spins) / 512)) (o % 512)
  else if o < Win.cond then planeByte (k.holdMask ((o - Win.hold) / 512)) (o % 512)
  else
    let b := byteAt k.store o
    if isMantissa o && o % 2 == 1 then (if b.toNat.testBit 3 then b ||| 0xF0 else b) else b

/-- A byte of Felt storage comes into force. -/
def CoreState.feltPut (k : CoreState) (o : Nat) (m v : Byte) : CoreState :=
  let m := m &&& feltMask o
  if o < 0x802000 then
    let p := (o - Win.spins) / 512
    { k with spins := tabSet 0 k.spins p (planePut (k.spin p) (o % 512) m v) }
  else if o < Win.cond then
    let p := (o - Win.hold) / 512
    { k with hold := tabSet 0 k.hold p (planePut (k.holdMask p) (o % 512) m v) }
  else { k with store := bytesWrite k.store o [(byteAt k.store o &&& ~~~m) ||| (v &&& m)] }

/-- The plane that an offset belongs to: spin plane p, or 16 + p for conditioning plane p. -/
def feltPlane (o : Nat) : Option Nat :=
  if Win.spins ≤ o ∧ o < Win.hold then some ((o - Win.spins) / 512)
  else if Win.cond ≤ o ∧ o < 0x824000 then some (16 + (o - Win.cond) / 0x2000)
  else none

/-- Both sides have written plane `p` in this beat (R44). -/
def CoreState.conflict (k : CoreState) (p : Nat) : Bool :=
  k.feltWrites.any (fun w => w.fromLs && feltPlane w.offset == some p) &&
    k.feltWrites.any (fun w => !w.fromLs && feltPlane w.offset == some p)

/-- The planes written by both sides in this beat. -/
def CoreState.conflicts (k : CoreState) : List Nat := (List.range 32).filter k.conflict

/-- Felt storage is written; it comes into force at the boundary. A plane that the other side has written in this beat
is a conflict: WCONFLICT, and the job ends (R44; code 0x0D, 5). -/
def State.feltWrite (s : State) (c : Nat) (ws : List FeltWrite) : State :=
  let s := s.modCore c fun k => { k with feltWrites := k.feltWrites ++ ws }
  if (ws.filterMap fun w => feltPlane w.offset).dedup.any (s.core c).conflict then
    (s.modCore c fun k => k.setBits Reg.feltFlags 0x4).enterJobFault c 0x0D 5 0 0
  else s

/-- The bytes `bs` at offset `o`, as writes that wait. -/
def feltBytes (fromLs : Bool) (o : Nat) (bs : List Byte) : List FeltWrite :=
  bs.mapIdx fun i b => ⟨fromLs, o + i, 0xFF, b⟩

/-- The writes of the beat come into force together, but for conflicting planes (R44). -/
def CoreState.commitFelt (k : CoreState) : CoreState :=
  let bad := k.conflicts
  { k.feltWrites.foldl (fun k w =>
      if (feltPlane w.offset).any bad.contains then k else k.feltPut w.offset w.mask w.value) k with feltWrites := [] }

/-! ## Injected errors of the core's own storage (R478) -/

/-- An injected error waiting at a unit is taken by the next transfer (R478). -/
def State.takeInject (s : State) (unit : Nat) : Option Nat × State :=
  match (s.errUnit unit).inject with
  | none => (none, s)
  | some c => (some c.toNat, s.setErrUnit unit { s.errUnit unit with inject := none })

/-- An 8-byte word of the core's storage takes another value; of the spin window, the snapshot's. -/
def CoreState.pokeWord (k : CoreState) (o v : Nat) : CoreState :=
  if Win.spins ≤ o ∧ o < Win.hold then
    let p := (o - Win.spins) / 512
    { k with snap := tabSet 0 k.snap p (BitVec.ofNat 4096 (putBits (k.snapshot p).toNat (8 * (o % 512)) 64 v)) }
  else if feltMapped o then (bytesOf 8 v).zipIdx.foldl (fun k x => k.feltPut (o + x.2) 0xFF x.1) k
  else { k with store := natWrite k.store o 8 v }

/-- The offset of the storage of the core that a command accesses first; none for one that accesses none. -/
def Issued.storeOffset (i : Issued) : Option Nat :=
  let acc (t : Nat) := some (Win.acc + 512 * t)
  if i.op = 0x20 then some Win.base
  else if 0x21 ≤ i.op ∧ i.op ≤ 0x24 then some Win.coupling
  else if i.op = 0x25 then some Win.spins
  else if i.op = 0x27 ∨ i.op = 0x28 then acc (i.f 0 8 4)
  else if i.op = 0x29 then (if i.red.srck = 0 then acc i.red.tile else none)
  else if i.op = 0x2A then some i.move.scr
  else if i.op = 0x30 then (if i.mma.asrc = 0 then some (i.mma.aaddr % 2 ^ 18) else acc i.mma.acc)
  else if i.op = 0x31 then acc i.out.acc
  else if i.op = 0x32 then (if i.bern.psrc = 1 then some i.bern.paddr else none)
  else if i.op = 0x33 then some i.fill.addr
  else if i.op = 0x40 then (if i.cat.src = 0 then some (i.cat.addr % 2 ^ 18) else some i.cat.out)
  else none

/-- The record of an error of the core's storage (Table 17-3), met by a command of engine `e` at offset `off`. -/
def State.storageError (s : State) (c e off code : Nat) : State :=
  s.stepFree.enterError (UnitNo.core c) code
    { handle := (s.core c).job.getD 0, core := c, addr := 0x20000000000 + 0x1000000 * c + granuleOf off, engine := e
      detail := (Config.syndrome s.free).toNat * 256 }

/-- The errors of the core's storage that a command meets. An injected one is taken by the next command that accesses it: STORE_CE,
or STORE_UE with a free value in the word (R478, Table 17-3; DEDUCED, log entry 36). A word of scratch that a transfer stored with an
uncorrectable code is met by every command that reads it (R476). -/
def State.storageAccess (s : State) (c e : Nat) (i : Issued) : State :=
  match i.storeOffset, (s.errUnit (UnitNo.core c)).inject with
  | some off, some code =>
    let s := (s.takeInject (UnitNo.core c)).2
    let s : State := if code = 0x07 then (s.modCore c fun k => k.pokeWord (granuleOf off) s.freeVal.toNat).stepFree else s
    s.storageError c e off code.toNat
  | some off, none => if tabGet 0 (s.core c).bad (off / 64) ≠ 0 then s.storageError c e off 0x07 else s
  | none, _ => s

/-! ## Cells -/

/-- Bit of cell (r, c) in a plane. -/
def cellBit (r c : Nat) : Nat := 64 * r + c

def CoreState.mantissa (k : CoreState) (o : Nat) : Int := signed 12 (natAt k.store o 2)
def CoreState.baseBias (k : CoreState) (r c : Nat) : Int := k.mantissa (Win.base + 2 * cellBit r c)
def CoreState.condBias (k : CoreState) (p r c : Nat) : Int := k.mantissa (Win.cond + 0x2000 * p + 2 * cellBit r c)

/-- The offset of the copy of the coupling of cell (r, c) in direction d that this tile uses (R91, Table 3-1). -/
def couplingAt (r c d : Nat) : Nat :=
  if d < 4 then Win.coupling + 4 * cellBit r c + d
  else if d = 4 then (if c = 0 then Win.edgeW + r else Win.coupling + 4 * cellBit r (c - 1))
  else if d = 5 then
    (if c = 0 then Win.edgeNW + r else if r = 0 then Win.edgeNW + 63 + c else Win.coupling + 4 * cellBit (r - 1) (c - 1) + 1)
  else if d = 6 then (if r = 0 then Win.edgeN + c else Win.coupling + 4 * cellBit (r - 1) c + 2)
  else
    (if r = 0 then Win.edgeNE + c else if c = 63 then Win.edgeNE + 63 + r
      else Win.coupling + 4 * cellBit (r - 1) (c + 1) + 3)

/-- Whether that copy lies in an edge array. -/
def inEdgeArray (r c d : Nat) : Bool := decide (4 ≤ d) && decide (Win.edgeW ≤ couplingAt r c d)

def CoreState.coupling (k : CoreState) (r c d : Nat) : Int := signed 8 (byteAt k.store (couplingAt r c d)).toNat

/-- Row and column offsets of a direction (Table 3-1). -/
def dirOf (d : Nat) : Int × Int :=
  match d with
  | 0 => (0, 1)
  | 1 => (1, 1)
  | 2 => (1, 0)
  | 3 => (1, -1)
  | 4 => (0, -1)
  | 5 => (-1, -1)
  | 6 => (-1, 0)
  | _ => (-1, 1)

/-- The direction of the tile that holds (r, c) of this tile's coordinates; none inside the tile. -/
def sideOf (r c : Int) : Option Nat :=
  if r < 0 then (if c < 0 then some 5 else if c > 63 then some 7 else some 6)
  else if r > 63 then (if c < 0 then some 3 else if c > 63 then some 1 else some 2)
  else if c < 0 then some 4
  else if c > 63 then some 0
  else none

/-- The neighbour entry of direction d. -/
def CoreState.nbr (k : CoreState) (d : Nat) : Nat :=
  k.regF (if d < 4 then Reg.feltNbrA else Reg.feltNbrB) (16 * (d % 4)) 16

def nbrCore (e : Nat) : Nat := bitsOf e 0 10
def nbrSrc (e : Nat) : Nat := bitsOf e 12 2

def CoreState.rows (k : CoreState) : Nat := k.regF Reg.feltSize 0 7
def CoreState.cols (k : CoreState) : Nat := k.regF Reg.feltSize 8 7

/-- The source of spins across a side: 0 open, 1 live, 2 boundary buffer; a live entry whose core the job does not hold is
open (R116, R117). -/
def State.sideSrc (s : State) (c d : Nat) : Nat :=
  let e := (s.core c).nbr d
  let src := nbrSrc e
  if src = 1 then (if (s.core (nbrCore e)).job.isSome ∧ (s.core (nbrCore e)).job = (s.core c).job then 1 else 0)
  else if src = 2 then 2 else 0

/-- A live entry names a core that the job does not hold (R117). -/
def State.nbrBad (s : State) (c : Nat) : Bool :=
  (List.range 8).any fun d => nbrSrc ((s.core c).nbr d) == 1 && s.sideSrc c d == 0

/-- The offset and bit of a boundary-buffer cell across direction d, in plane p (Table 4-5). -/
def boundaryBit (p d : Nat) (r c : Int) : Nat × Nat :=
  let rr := (r % 64).toNat
  let cc := (c % 64).toNat
  if d = 0 then (Win.boundary + 8 * p, rr)
  else if d = 4 then (Win.boundary + 0x80 + 8 * p, rr)
  else if d = 6 then (Win.boundary + 0x100 + 8 * p, cc)
  else if d = 2 then (Win.boundary + 0x180 + 8 * p, cc)
  else if d = 7 then (Win.boundary + 0x200, p)
  else if d = 1 then (Win.boundary + 0x202, p)
  else if d = 3 then (Win.boundary + 0x204, p)
  else (Win.boundary + 0x206, p)

/-- Whether the cell of the boundary buffer across direction d, (rr, cc) in its own tile, lies inside the job's lattice: a tile across
a side has this tile's rows, or columns, and the tile across a corner reaches the corner (R95, R102; DEDUCED, log entry 25). -/
def State.acrossIn (s : State) (c d rr cc : Nat) : Bool :=
  if d = 0 ∨ d = 4 then decide (rr < (s.core c).rows)
  else if d = 2 ∨ d = 6 then decide (cc < (s.core c).cols)
  else true

/-- Whether cell (r, c), in this tile's coordinates, takes part for this tile: inside FELT_SIZE, or across a side that is
not open, with a live partner inside the neighbour's FELT_SIZE (R95, R102, R114). -/
def State.cellIn (s : State) (c : Nat) (r cc : Int) : Bool :=
  match sideOf r cc with
  | none => decide (r.toNat < (s.core c).rows) && decide (cc.toNat < (s.core c).cols)
  | some d =>
    match s.sideSrc c d with
    | 0 => false
    | 1 =>
      let n := s.core (nbrCore ((s.core c).nbr d))
      decide ((r % 64).toNat < n.rows) && decide ((cc % 64).toNat < n.cols)
    | _ => s.acrossIn c d (r % 64).toNat (cc % 64).toNat

/-- The spin bit of (r, c) in plane p: of this tile's planes `own`, of a live neighbour's planes, or of the boundary
buffer. `spins` gives the planes of a core. -/
def State.spinAt (s : State) (spins : Nat → Nat → BitVec 4096) (c p : Nat) (r cc : Int) : Bool :=
  match sideOf r cc with
  | none => (spins c p).getLsbD (cellBit r.toNat cc.toNat)
  | some d =>
    if s.sideSrc c d = 1 then
      (spins (nbrCore ((s.core c).nbr d)) p).getLsbD (cellBit (r % 64).toNat (cc % 64).toNat)
    else
      let b := boundaryBit p d r cc
      (natAt (s.core c).store b.1 8).testBit b.2

/-- The perimeter doubleword that direction d of a receiver takes from this tile's snapshot (Table 4-6): row 0, row 63,
column 0 or column 63 of plane p. -/
def perimeter (x : BitVec 4096) (part : Nat) : Nat :=
  if part = 0 then bitsOf x.toNat 0 64
  else if part = 1 then bitsOf x.toNat (63 * 64) 64
  else (List.range 64).foldl (fun v r => v + bit (x.getLsbD (cellBit r (if part = 2 then 0 else 63))) * 2 ^ r) 0

/-- The perimeter part for a direction at the receiver: 0 row 0, 1 row 63, 2 column 0, 3 column 63 (Table 4-6). -/
def partFor (d : Nat) : Nat := if d = 0 then 2 else if d = 1 ∨ d = 2 ∨ d = 3 then 0 else if d = 4 then 3 else 1

/-- The direction is a side of the tile, not a corner. -/
def isSide (d : Nat) : Bool := d == 0 || d == 2 || d == 4 || d == 6

/-- Where a direction's cells stand in the boundary or staging buffer (Table 4-5). -/
def boundaryOffset (d : Nat) : Nat :=
  match d with
  | 0 => 0
  | 4 => 0x80
  | 6 => 0x100
  | 2 => 0x180
  | 7 => 0x200
  | 1 => 0x202
  | 3 => 0x204
  | _ => 0x206

/-- The bytes that half `half` of a direction's 16 perimeter doublewords leaves in the buffer at `at_`, planes 8 x half and up: a
side's rows whole, of a corner one bit of each plane, as Table 4-6 selects it (R129). -/
def boundaryHalf (at_ d half : Nat) (ws : List Nat) : List (Nat × Byte) :=
  if isSide d then
    (ws.mapIdx fun p w => (bytesOf 8 w).mapIdx fun i b => (at_ + boundaryOffset d + 64 * half + 8 * p + i, b)).flatten
  else
    let b := if d = 3 ∨ d = 5 then 63 else 0
    [(at_ + boundaryOffset d + half, BitVec.ofNat 8 ((ws.mapIdx fun p w => bit (w.testBit b) * 2 ^ p).sum))]

/-- A register as it stood after the boundary of this beat (R130). -/
def CoreState.reg0 (k : CoreState) (o : Nat) : Nat := (tabGet (coreDefault o) k.regs0 o).toNat

end Sys2Proof.Machine
end

