-- ==== Sys2Proof/Machine/Bus.lean ====
section
/-! DEFINITION. Accesses of jobs to memory: what a job may reach (R303, R304, R424), the declared target of a slot (R313),
reading and writing granules (R306), errors of transfers (R307, R324, R476) and transfers in flight (R310). -/

namespace Sys2Proof.Machine

/-! ## What a job may reach -/

/-- A load/store-engine command of the job may access the `n` bytes at offset `o` of one of its cores (Table 11-2). -/
def jobWindow (o n : Nat) (write : Bool) : Bool :=
  decide (o + n ≤ 0x40000) ||
    (!write && decide (Win.acc ≤ o) && decide (o + n ≤ 0x440000)) ||
    ((List.range n).all fun i =>
      feltMapped (o + i) && !(write && decide (Win.staging ≤ o + i) && decide (o + i < 0x905800)))

/-- The address lies in the steward region (R39). -/
def State.inStewardRegion (s : State) (a : Nat) : Bool :=
  let b := s.dcbF Dcb.stwRegion 0 10 * 2 ^ 30
  decide (b ≤ a) && decide (a < b + s.dcbF Dcb.stwRegion 16 10 * 2 ^ 30)

/-- The job's PARTS hold what `has` says (R424). -/
def Job.inParts (j : Job) (has : Nat → Bool) : Bool := (List.range 8).any fun p => j.parts.toNat.testBit p && has p

/-- A command on core `c` may access the `n` bytes at `a`, which lie in one granule (R303, R304, R424). -/
def State.jobMay (s : State) (j : Job) (c a n : Nat) (write : Bool) : Bool :=
  match regionOf a with
  | .hbm _ => !s.inStewardRegion a && j.inParts fun p => s.partHasStack p (stackGroup a)
  | .slice x => j.inParts fun p => s.partHasSlice p x
  | .window m o => s.usable m && (s.core m).job == (s.core c).job && jobWindow o n write
  | _ => false

/-! ## Granules -/

/-- Bytes of a core window as a job reads them. -/
def CoreState.jobRead (k : CoreState) (o n : Nat) : List Byte :=
  (List.range n).map fun i => if Win.spins ≤ o + i ∧ o + i < 0xA00000 then k.feltByte (o + i) else k.startByte (o + i)

/-- The granule that holds `a`, as a job's read returns it (R43, R306). -/
def State.fetch (s : State) (a : Nat) : Granule :=
  match regionOf a with
  | .hbm _ | .slice _ => BitVec.ofNat 512 (natAt s.mem (granuleOf a) 64)
  | .window m o => BitVec.ofNat 512 (natOf ((s.core m).jobRead (o / 64 * 64) 64))
  | _ => 0

def granBytes (g : Granule) : List Byte := bytesOf 64 g.toNat

/-- A byte mask as 64 bits: the first `n` bytes. -/
def firstBytes (n : Nat) : BitVec 64 := BitVec.ofNat 64 (2 ^ n - 1)

/-- The words of a granule that a byte mask covers whole. -/
def wholeWords (mask : BitVec 64) : Byte :=
  BitVec.ofNat 8 ((List.range 8).foldl (fun v i => v + bit (bitsOf mask.toNat (8 * i) 8 == 255) * 2 ^ i) 0)

/-- Which words of the granule at `a` stand stored with an uncorrectable code, after a write under a mask (R476): a word written
whole with a good code is good again. -/
def State.markWords (s : State) (a : Nat) (mask : BitVec 64) (bad : Byte) : State :=
  { s with badWords := tabSet 0 s.badWords (a / 64) ((tabGet 0 s.badWords (a / 64) &&& ~~~(wholeWords mask)) ||| bad) }

/-- Bytes at an address of memory under a mask; `bad` says which words are stored with an uncorrectable code (R476). -/
def State.memWrite (s : State) (a : Nat) (mask : BitVec 64) (data : List Byte) (bad : Byte) : State :=
  let g := granuleOf a
  State.markWords { s with mem := bytesWrite s.mem g (maskBytes mask.toNat (bytesRead s.mem g 64) data) } g mask bad

/-- A granule is written under a byte mask: to memory at once (R306), to scratch at once, to Felt storage at the boundary
(R44). -/
def State.putGranule (s : State) (a : Nat) (mask : BitVec 64) (data : Granule) (bad : Byte) : State :=
  match regionOf a with
  | .hbm _ | .slice _ => s.memWrite a mask (granBytes data) bad
  | .window m o =>
    let o := o / 64 * 64
    if o < 0x40000 then
      s.modCore m fun k =>
        let left := tabGet 0 k.bad (o / 64) &&& ~~~(wholeWords mask)
        let k := k.putBytes o (maskBytes mask.toNat (bytesRead k.store o 64) (granBytes data))
        { k with bad := tabSet 0 k.bad (o / 64) (left ||| bad) }
    else
      s.feltWrite m ((granBytes data).zipIdx.filterMap fun x =>
        if mask.toNat.testBit x.2 ∧ feltMapped (o + x.2) then some ⟨true, o + x.2, 0xFF, x.1⟩ else none)
  | _ => s

/-! ## Errors of a transfer -/

/-- The words `m` of a granule take free values: they are delivered as read, with two wrong bits each (R307). -/
def State.spoil (s : State) (g : Granule) (m : Byte) : Granule × State :=
  (List.range 8).foldl (fun (x : Granule × State) i =>
    if m.toNat.testBit i then
      (BitVec.ofNat 512 (putBits x.1.toNat (64 * i) 64 x.2.freeVal.toNat), x.2.stepFree)
    else x) (g, s)

/-- Counters, flags and the record of a transfer through port `p` (R307, R324, R469): uncorrectable words govern. -/
def State.recordWords (s : State) (hbm : Bool) (p c e addr : Nat) (h : Handle) (ce ue : Byte) (capar : Bool) : State :=
  let s := (s.countDcb (if hbm then Dcb.hbmCe else Dcb.smemCe) (popcount 8 ce.toNat)).countDcb
    (if hbm then Dcb.hbmUe else Dcb.smemUe) (popcount 8 ue.toNat)
  let s := if ce = 0 then s else s.setDcbBits Dcb.memFlags (if hbm then 0x10 else 0x4)
  let s := if ue = 0 then s else s.setDcbBits Dcb.memFlags (if hbm then 0x20 else 0x8)
  let s := if capar then s.setDcbBits Dcb.memFlags 0x40 else s
  let unit := if hbm then UnitNo.hbm p else UnitNo.slice p
  let word (m : Byte) := (lowestBit 8 m.toNat).getD 0 + (Config.syndrome s.free).toNat * 256
  let i : ErrInfo := { handle := h, core := c, addr := granuleOf addr, engine := e }
  if capar then s.enterError unit 0x05 i
  else if ue ≠ 0 then s.stepFree.enterError unit (if hbm then 0x04 else 0x02) { i with detail := word ue }
  else if ce ≠ 0 then s.stepFree.enterError unit (if hbm then 0x03 else 0x01) { i with detail := word ce }
  else s

/-- The words of the granule at `a` that stand stored with an uncorrectable code (R476). -/
def State.badAt (s : State) (a : Nat) : Byte :=
  match regionOf a with
  | .window c o => tabGet 0 (s.core c).bad (o / 64)
  | _ => tabGet 0 s.badWords (granuleOf a / 64)

/-- What the `words` of a granule meet on their way through port `p`: single-bit errors `ce`, double-bit errors `fresh`, a parity
error, and, on a read, words stored bad (R307, R324, R476). Answers the data as it arrives, the words whose code is bad, and
the state with the record. -/
def State.meetWords (s : State) (write hbm : Bool) (p c e addr : Nat) (h : Handle) (ce fresh words : Byte) (capar : Bool)
    (data : Granule) : Granule × Byte × State :=
  let fresh := if capar then 0xFF else fresh
  let stored := if write then 0 else s.badAt addr &&& words
  let ue := fresh ||| stored
  let d := s.spoil data fresh
  (d.1, ue, d.2.recordWords hbm p c e addr h (ce &&& ~~~ue) ue capar)

/-- Errors with an injected one, which takes the first word (R478). -/
def XferErr.inject (x : XferErr) (c : Option Nat) : XferErr :=
  ⟨x.ce ||| (if c = some 0x01 ∨ c = some 0x03 then 1 else 0), x.ue ||| (if c = some 0x02 ∨ c = some 0x04 then 1 else 0),
    x.capar || c == some 0x05⟩

/-- What a transfer of a job meets: the errors `x`, and an error injected at the unit (R478). -/
def State.meetErrors (s : State) (write hbm : Bool) (p c e addr : Nat) (h : Handle) (x : XferErr) (data : Granule) :
    Granule × Byte × State :=
  let r := s.takeInject (if hbm then UnitNo.hbm p else UnitNo.slice p)
  let y := XferErr.inject x r.1
  r.2.meetWords write hbm p c e addr h y.ce y.ue 0xFF y.capar data

/-- No error. -/
def XferErr.none : XferErr := ⟨0, 0, false⟩

/-! ## Transfers of an engine's command -/

/-- The target that a slot declares is the one that the address decodes to (R313). -/
def slotFits (w : Word) (write : Bool) (a : Nat) : Bool :=
  slotKind w == bit write && portOf a == some (slotHbm w, slotPort w)

/-- An access outside what the job may reach: a contained error (R303). -/
def State.accessError (s : State) (c e a : Nat) : State := s.enterJobFault c 0x0A 0 (granuleOf a) e

/-- A transfer whose address does not decode to its declared target (R313). -/
def State.slotError (s : State) (c e a : Nat) : State :=
  ((s.countDcb Dcb.memSloterr 1).setDcbBits Dcb.memFlags 0x1).enterJobFault c 0x0B 0 (granuleOf a) e

/-- The payload of a committed transfer counts in the lock-step digest (R445). -/
def State.logPayload (s : State) (c : Nat) (j : Job) (slot : Nat) (data : Granule) : State :=
  if j.lockstep.isSome then s.modCore c fun k => { k with payloads := k.payloads ++ [(slot, data)] } else s

/-- The payload of a transfer counts for the lock-step digest of its job; bytes outside the mask count as zero (R445). -/
def State.logTransfer (s : State) (x : Transfer) (data : Granule) : State :=
  match s.job x.handle with
  | some j => s.logPayload x.core j x.slot (BitVec.ofNat 512 (natOf (maskBytes x.mask.toNat (zeros 64) (granBytes data))))
  | none => s

/-! ## Links: flits sent through a tap (R341, R342) -/

/-- The flit of a scheduled transfer takes payload position `f` in the frame of this beat of the tap's link port. -/
def State.tapSend (s : State) (x : Transfer) (f : Nat) (data : Granule) : State :=
  let l := x.port / 2
  let p := tabGet LinkPort.reset s.links l
  let p := { p with
    payload := tabSet 0 p.payload f data
    payloadJob := tabSet 0 p.payloadJob f x.handle.toNat }
  State.logTransfer { s with links := tabSet LinkPort.reset s.links l p } x data

/-! ## Transfers in flight -/

/-- The cycle of its access, from 0:0. -/
def Transfer.dueAt (x : Transfer) : Nat := x.beat * beatCycles + x.due

/-- The cycle in which the data of a read reaches its core (Table 11-3). -/
def Transfer.deliverAt (x : Transfer) : Nat :=
  x.beat * beatCycles +
    (if x.hbm then x.due + hops x.core x.port + 42 else x.slot + readDistance x.core x.port)

/-- Another member of the merged read in the same slot asks for another granule (R315). -/
def State.mergeBad (s : State) (x : Transfer) : Bool :=
  s.transfers.any fun y => !y.write && y.hbm == x.hbm && y.port == x.port && y.dueAt == x.dueAt && y.handle == x.handle &&
    granuleOf y.addr != granuleOf x.addr

/-- A read takes its data in its slot. -/
def State.takeData (s : State) (x : Transfer) : Transfer :=
  { x with data := s.fetch x.addr, taken := true, bad := x.bad || s.mergeBad x }

/-- The transfer was declared for another target than its address decodes to (R313). -/
def Transfer.mismatch (x : Transfer) : Bool := x.bad || portOf x.addr != some (x.hbm, x.port)

/-- Four elements of an accumulator tile in slot form, slot granule `n` of the tile (Table 6-1, R186). -/
def CoreState.tileGranule (k : CoreState) (t n : Nat) : Granule :=
  BitVec.ofNat 512 (natOf (maskBytes 0x0FFF0FFF0FFF0FFF (zeros 64) (k.startBytes (Win.acc + 16 * (512 * (n / 8) + 32 * t + 4 * (n % 8))) 64)))

/-- A read of a reduction's source, which takes no slot of its own (DEDUCED, log entry 37): the granule, or zeros where the job may
not reach it. -/
def State.readSource (s : State) (x : Transfer) (a : Nat) : Granule × State :=
  match s.job x.handle, portOf a with
  | some j, some (hbm, p) =>
    if s.jobMay j x.core a 64 false then
      let r := s.meetErrors false hbm p x.core x.engine a x.handle XferErr.none (s.fetch a)
      (r.1, r.2.2)
    else (0, s.accessError x.core x.engine a)
  | _, _ => (0, s.accessError x.core x.engine a)

/-- The data of a write, read in the cycle of its slot (R187, R318). -/
def State.fillData (s : State) (x : Transfer) : Granule × State :=
  match x.fill with
  | .ready => (x.data, s)
  | .scratch o => (BitVec.ofNat 512 (natOf ((s.core x.core).scratch o 64)), s)
  | .tile t n => ((s.core x.core).tileGranule t n, s)
  | .copy a => s.readSource x a

/-- The transfer's core-port slot has come. -/
def Transfer.leaves (x : Transfer) (now : Nat) : Bool := decide (x.beat * beatCycles + x.slot ≤ now)

/-- What the cycle brings for one transfer: a write whose slot has come takes its data, into a tap or on its way, and a slice or
window read whose slot has come takes the data it finds (Table 11-3, R315). `r` holds the transfers before it. -/
def State.advance (r : List Transfer × State) (x : Transfer) : List Transfer × State :=
  if x.write then
    if x.leaves r.2.now then
      let d := r.2.fillData x
      match x.target with
      | .tap f => (r.1, d.2.tapSend x f d.1)
      | _ => (r.1 ++ [{ x with data := d.1, fill := .ready }], d.2)
    else (r.1 ++ [x], r.2)
  else if !x.hbm && !x.taken && decide (x.dueAt ≤ r.2.now) then (r.1 ++ [r.2.takeData x], r.2)
  else (r.1 ++ [x], r.2)

/-- The transfers in flight at the start of a cycle. -/
def State.advanceAll (s : State) : State :=
  let r := s.transfers.foldl State.advance ([], s)
  { r.2 with transfers := r.1 }

/-- A transfer of a command is on its way. -/
def State.launch (s : State) (x : Transfer) : State :=
  if x.write then
    let r := State.advance ([], s) x
    { r.2 with transfers := r.2.transfers ++ r.1 }
  else { s with transfers := s.transfers ++ [x] }

/-- A command's write transfer leaves in its slot, into a tap or in flight until it lands (R310). The access itself is made in
the slot of Table 11-3. -/
def State.launchWrite (s : State) (c : Nat) (h : Handle) (j : Job) (e : Nat) (slot : Nat × Word) (a n : Nat)
    (fill : WriteData) (target : WriteTarget) (data : Granule) : State :=
  let x : Transfer := ⟨c, e, h, true, slotHbm slot.2, slotPort slot.2, a, s.beat, slot.1, accessAt c slot.1 slot.2,
    firstBytes n, data, slotKind slot.2 != 1, false, .scratch 0 0, fill, target⟩
  if slotKind slot.2 = 2 then s.launch { x with target := .tap (slotK slot.2) }
  else if !s.jobMay j c a n true then s.accessError c e a
  else s.launch x

/-- A command's read transfer sends its request. -/
def State.launchRead (s : State) (c : Nat) (h : Handle) (j : Job) (e : Nat) (slot : Nat × Word) (a n : Nat) (dest : ReadDest) :
    State :=
  if !s.jobMay j c a n false then s.accessError c e a
  else s.launch ⟨c, e, h, false, slotHbm slot.2, slotPort slot.2, a, s.beat, slot.1, accessAt c slot.1 slot.2, firstBytes n, 0,
    false, slotKind slot.2 != 0, dest, .ready, .memory⟩

/-! ## The operand reads of a command -/

/-- The granules of the perimeter records that a ROT_LOAD reads for the directions of KIND 2 of its image, as the image stands in
memory when the command issues (R131, Table 4-6; DEDUCED, log entry 72). -/
def State.fixedReads (s : State) (i : Issued) : List Nat :=
  let at_ (d : Nat) := i.f 1 0 44 + 0x9C40 + 16 * d
  ((List.range 8).filter fun d => natAt s.mem (at_ d) 1 % 4 == 2).flatMap fun d =>
    granules (natAt s.mem (at_ d + 8) 8 % 2 ^ 44 + 0x9A00 + 0x80 * partFor d) 2

/-- The granules that a command reads into its engine, transfer by transfer (R314). -/
def State.readAddrs (s : State) (c : Nat) (i : Issued) : List Nat :=
  if i.op = 0x21 ∨ i.op = 0x22 then granules (i.quant.source + 48 * i.quant.firstRec) i.quant.granules
  else if i.op = 0x24 then granules (i.f 1 0 44) 640 ++ s.fixedReads i
  else if i.op = 0x26 then [granuleOf (((s.core c).regF Reg.feltAnneal 0 44 + 32 * i.f 0 8 16) % 2 ^ 44)]
  else if i.op = 0x28 then granules (i.f 1 0 44) 256
  else if i.op = 0x30 then (List.range i.mma.kt).flatMap fun q => (i.mma.chunkReads q).1 ++ (i.mma.chunkReads q).2
  else if i.op = 0x40 then (if i.cat.src = 1 then i.cat.granules else [])
  else []

/-- The address lies in shared memory. -/
def isShared (a : Nat) : Bool := match regionOf a with | .slice _ => true | _ => false

/-- The reads of a command's operands leave in their slots, transfer j in the j-th (R314). A field-engine or sampler operand lies in
shared memory (R156); a granule of a sampler operand beyond its slots takes the last slot (DEDUCED, log entry 38). Of
another command a granule beyond the slots is a slot error (log entry 85). -/
def State.launchReads (s : State) (c : Nat) (h : Handle) (j : Job) (i : Issued) : State :=
  let e := cmdEngine i.op
  let as := s.readAddrs c i
  let slots := s.cmdSlots c j i
  let slots := if i.op = 0x40 then slots ++ List.replicate (as.length - slots.length) (slots.getLastD (0, 0)) else slots
  match if e = 4 then none else as.find? fun a => !isShared a with
  | some a => s.accessError c e a
  | none => as.zipIdx.foldl (fun s x =>
      match slots[x.2]? with
      | some sl => s.launchRead c h j e sl x.1 64 (.operand x.2)
      | none => s.slotError c e x.1) s

/-- The list without its first element that meets `p`, and that element. -/
def takeFirst {α : Type} (p : α → Bool) : List α → Option (α × List α)
  | [] => none
  | x :: r => if p x then some (x, r) else (takeFirst p r).map fun y => (y.1, x :: y.2)

end Sys2Proof.Machine
end

