-- ==== Sys2Proof/Machine/Program.lean ====
section
/-! DEFINITION. Reading a job's thread programs (Table 10-2): the instructions of an engine record in program order, what
admission and exchange take from them, and what an engine record declares for its core (R496). -/

namespace Sys2Proof.Machine

/-- One instruction of a thread: its word 0, the word after it, and the words of its command. -/
structure ProgIns where
  thread : Nat
  w0 : Nat
  w1 : Nat
  words : List Nat
  deriving DecidableEq, Repr

/-- Doubleword n of a program; words beyond its end read 0. -/
def EngineRec.word (r : EngineRec) (n : Nat) : Nat := (r.prog.getD n 0).toNat

/-- The instructions from doubleword `pc` to `stop`; `fuel` bounds their number. -/
def EngineRec.walk (r : EngineRec) (t stop : Nat) : Nat → Nat → List ProgIns
  | 0, _ => []
  | n + 1, pc =>
    if stop ≤ pc then []
    else
      let w0 := r.word pc
      let w1 := r.word (pc + 1)
      let len := insLen w0 w1
      ⟨t, w0, w1, (List.range (len - 1)).map fun i => r.word (pc + 1 + i)⟩ :: r.walk t stop n (pc + len)

def EngineRec.start (r : EngineRec) (t : Nat) : Nat := bitsOf (r.thrProg.getD t 0).toNat 0 14
def EngineRec.len (r : EngineRec) (t : Nat) : Nat := bitsOf (r.thrProg.getD t 0).toNat 16 14

/-- The instructions of thread t. -/
def EngineRec.thread (r : EngineRec) (t : Nat) : List ProgIns := r.walk t (r.start t + r.len t) (r.len t) (r.start t)

/-- Every instruction of the engine. -/
def EngineRec.instrs (r : EngineRec) : List ProgIns := (List.range 64).flatMap r.thread

/-- The command of an ISSUE at its stamp, before any queue patch. -/
def ProgIns.issued (x : ProgIns) : Issued :=
  ⟨BitVec.ofNat 8 (x.words.getD 0 0 % 256), x.words.map (BitVec.ofNat 64), insBeat x.w0, insCycle x.w0,
    x.thread, insBeat x.w0, insCycle x.w0, false, if insSigen x.w0 then some (insSigsb x.w0, insSigctr x.w0) else none⟩

/-- The engine's ISSUEs. -/
def EngineRec.issues (r : EngineRec) : List (ProgIns × Issued) :=
  (r.instrs.filter fun x => insOp x.w0 == 1).map fun x => (x, x.issued)

/-- The beats of the period in which some engine sends exchanged data to engine e (R141). -/
def Image.sendsTo (m : Image) (e : Nat) : List Nat :=
  m.engines.flatMap fun r => (r.issues.filter fun x => x.2.op == 0x25 && x.2.f 0 16 16 == e).map fun x => insBeat x.1.w0

/-! ## Declarations (R496) -/

/-- Fields of a queue declaration (Table 10-9). -/
def qEnabled (q : Nat) : Bool := q.testBit 63
def qBase (q : Nat) : Nat := bitsOf q 0 18
def qSlot (q : Nat) : Nat := bitsOf q 20 12
def qBufs (q : Nat) : Nat := bitsOf q 32 16
def qSb (q : Nat) : Nat := bitsOf q 48 6

def EngineRec.queue (r : EngineRec) (q : Nat) : Nat := (r.qcfg.getD q 0).toNat

/-- A neighbour declaration: SRC and the logical engine. -/
def declSrc (w : Word) : Nat := bitsOf w.toNat 17 2
def declEngine (w : Word) : Nat := bitsOf w.toNat 0 17

/-- The neighbour entry and the descriptor of a declaration (R116, R122, R496). -/
def declNbr (j : Job) (w : Word) : Nat :=
  if declSrc w = 1 then (j.coreOf (declEngine w)).getD 0 + 0x1000 else declSrc w * 0x1000

def declDesc (w : Word) : BitVec 128 :=
  if declSrc w = 1 then BitVec.ofNat 128 (1 + declEngine w * 2 ^ 16) else if declSrc w = 2 then 3 else 0

/-- The registers that the image declares (R496), the key (R235) and the scoreboard bounds (R283). -/
def CoreState.declare (k : CoreState) (j : Job) (r : EngineRec) : CoreState :=
  let im := j.image
  let set (k : CoreState) (o v : Nat) : CoreState := k.setReg o (BitVec.ofNat 64 v)
  let nbr (n : Nat) := (((r.nbr.drop n).take 4).zipIdx).foldl (fun v x => v + declNbr j x.1 * 2 ^ (16 * x.2)) 0
  let k := set (set (set (set k Reg.feltExp r.exp.toNat) Reg.feltOrigin r.origin.toNat) Reg.feltSize r.size.toNat)
    Reg.feltXcfg r.xcfg.toNat
  let k := set (set (set k Reg.feltPerm im.perm.toNat) Reg.feltXchg im.xchg.toNat) Reg.feltAnneal im.anneal.toNat
  let k := set (set k Reg.feltNbrA (nbr 0)) Reg.feltNbrB (nbr 4)
  let k := im.beta.zipIdx.foldl (fun k x => set k (Reg.feltBeta x.2) x.1.toNat) k
  let k := r.thrProg.zipIdx.foldl (fun k x => set k (Reg.thrProg x.2) x.1.toNat) k
  let k := r.members.zipIdx.foldl (fun k x => set k (Reg.rlyMembers x.2) x.1.toNat) k
  let k := r.qcfg.zipIdx.foldl (fun k x => set k (Reg.qCfg x.2) x.1.toNat) k
  let k := (List.range 256).foldl (fun k q =>
    if qEnabled (r.queue q) ∧ qSb (r.queue q) < 48 then set k (Reg.sbCfg (qSb (r.queue q))) (qBufs (r.queue q)) else k) k
  let k := set (set k Reg.napKey0 (j.key.toNat % 2 ^ 64)) Reg.napKey1 (j.key.toNat / 2 ^ 64)
  { k with descriptors := (r.nbr.zipIdx).foldl (fun t x => tabSet 0 t x.2 (declDesc x.1)) [] }

/-- The core takes the declarations of the job that has it next: of the admitted job that holds it (R235, R496). -/
def State.declareFor (s : State) (h : Handle) (c : Nat) : State :=
  match s.job h with
  | none => s
  | some j =>
    match j.image.engines[j.engineOf c]? with
    | some r => s.modCore c fun k => k.declare j r
    | none => s

/-- The admitted job that a core waits for. -/
def State.nextOn (s : State) (c : Nat) : Option Handle :=
  (s.jobs.find? fun e => (e.2.st == .armed || e.2.st == .admitted) && e.2.engines.any fun x => x.2 == c).map fun e =>
    BitVec.ofNat 16 e.1

end Sys2Proof.Machine
end

