-- ==== Sys2Proof/Machine/Ends.lean ====
section
/-! DEFINITION. The ends of jobs (R63, R75 to R78, R475): how a core leaves its job, and how a job ends, for whatever cause. -/

namespace Sys2Proof.Machine

/-! ## A core leaves its job -/

/-- The engines hold no command and the thread waits are discarded (R294); the state of an open long row is discarded (R217),
and the watch units armed for the job stop, their statistics staying readable (R465). What the core stores otherwise stands until the next
job's start. -/
def CoreState.endJob (k : CoreState) : CoreState :=
  let k := (List.range 5).foldl (fun k e => k.setEngine e { k.engine e with cmd := none }) k
  let k := if k.regF Reg.catLrow 0 1 = 1 then ((k.setReg Reg.catLrow 0).setReg Reg.catLbest 0).setReg Reg.catLsel 0 else k
  let k := (List.range 64).foldl (fun k t => if 2 ≤ k.thrSt t then k.setRegF (Reg.thrState t) 14 2 0 else k) k
  { k with
    job := none
    jobCodes := []
    regNext := []
    staged := []
    slots := []
    incs := []
    releaseAt := []
    stopped := []
    watches := k.watches.map fun e => (e.1, { e.2 with armed := e.2.armed && k.job != some e.2.handle })
    rounds := []
    ranInstr := false
    ranEngine := false
    allFree := false
    payloads := [] }

/-- A core leaves its job, and takes the declarations of the job admitted to follow it (R235, R496). -/
def State.leaveCore (s : State) (c : Nat) : State :=
  let s := s.modCore c CoreState.endJob
  match s.nextOn c with
  | some h => s.declareFor h c
  | none => s

/-- A job that has completed leaves its cores at the boundary after its completion beat (R75, R76). -/
def State.leaveCompleted (s : State) : State :=
  s.jobs.foldl (fun s e =>
    if e.2.st = .running ∧ e.2.pendingEnd = none ∧ e.2.compBeat + 1 = s.beat then
      e.2.engines.foldl (fun s x =>
        if (s.core x.2).job = some (BitVec.ofNat 16 e.1) then s.leaveCore x.2 else s) s
    else s) s

/-! ## The end of a job -/

/-- Every core that the job owns leaves it. -/
def State.leaveCores (s : State) (h : Handle) (j : Job) : State :=
  j.engines.foldl (fun s x => if (s.core x.2).job = some h then s.leaveCore x.2 else s) s

/-- A CTX_SAVE that holds the job returns FAULT, with the record that ends the job (R366, Table 17-14). -/
def State.failSave (s : State) (j : Job) (record : Word) : State :=
  match j.save with
  | some r => s.complete r.mb Status.fault [] record
  | none => s

/-- The session of partition `p` ends (R426, R442): its state is SCRUB, its jobs will end as contained, its key sets are zeroed,
and a transfer that runs returns FAULT. -/
def State.endSession (s : State) (p : Nat) : State :=
  if s.partState p = 1 then
    let s := (s.setPartState p 2).setDcbF (Dcb.secPstat p) 10 4 0
    let s := (s.jobs.filter fun e => e.2.parts.toNat.testBit p).foldl (fun s e => s.markEnd (BitVec.ofNat 16 e.1) .contained 0) s
    let gone := s.sec.xfers.filter fun e => e.2.any fun x => x.part == p
    let s : State := { s with sec := { s.sec with
      keysets := s.sec.keysets.filter fun e => e.1 / 4 != p
      xfers := s.sec.xfers.filter fun e => !(e.2.any fun x => x.part == p) } }
    gone.foldl (fun s e => s.complete e.1 Status.fault [] 0) s
  else s

/-- The JOB_ADMIT or CTX_RESTORE of a job that is waiting or armed gets its answer; a JOB_ADMIT of a session that returns FAULT
ends the session (R426). -/
def State.answerAdmit (s : State) (j : Job) (status : Nat) (record : Word) : State :=
  if j.st = .waiting ∨ j.st = .armed then
    let s := s.complete j.mailbox status [] record
    match j.keyset with
    | some (p, _) => if status = Status.fault ∧ j.restore.isNone then s.endSession p else s
    | none => s
  else s

/-- A slot for link keys is free again (R353). -/
def State.releaseKeySlot (s : State) : Option Nat → State
  | some n => { s with linkSys := { s.linkSys with keySlots := tabSet 0 s.linkSys.keySlots n 0 } }
  | none => s

/-- A job ends in state `st` at `beat`, with the record that it names: its cores and its link key leave it, the end source of
its mailbox is raised, and the end is traced (Table 14-1, R449). -/
def State.finishAt (s : State) (h : Handle) (st : JobSt) (record : Word) (beat : Nat) : State :=
  match s.job h with
  | none => s
  | some j =>
    let k := { j with
      st := st, record := record, endBeat := beat, pendingEnd := none, save := none, linkKey := 0, keySlot := none }
    let s := (s.releaseKeySlot j.keySlot).leaveCores h j
    let s := if j.lockstep.isSome then s.setDcbF Dcb.lockstepStat 0 1 0 else s
    ((s.setJob h k).dieEvent (65 + j.mailbox)).traceJob h k beat

/-- A job ends at this beat. -/
def State.finishJob (s : State) (h : Handle) (st : JobSt) (record : Word) : State := s.finishAt h st record s.beat

/-- A key set that a job bound is free for another: the JOB_ADMIT that bound it has had no effect (R33, R432). -/
def State.unbindKeySet (s : State) (h : Handle) : State :=
  { s with sec := { s.sec with keysets := s.sec.keysets.map fun e =>
      (e.1, if e.2.bound = some h then { e.2 with bound := none } else e.2) } }

/-- A waiting job is withdrawn; its command gets `status` (R74, R77, R78). -/
def State.withdraw (s : State) (h : Handle) (status : Nat) : State :=
  match s.job h with
  | none => s
  | some j =>
    let s := if status = Status.fault then s else s.unbindKeySet h
    (s.answerAdmit j status 0).finishJob h .withdrawn 0

/-- The end that has come due. While a fatal record's boundary has come, every end is that of the fatal record (R475, R492). -/
def State.endOf (s : State) (st : JobSt) (record : Word) : JobSt × Word :=
  match s.err.fatalNext with
  | some (r, b) => if st ≠ .ended ∧ b ≤ s.beat then (.ended, r) else (st, record)
  | none => (st, record)

/-- The end that has come due takes place. An armed job's command gets FAULT, since no GO will come; a fatal end withdraws it
with REFUSED (R378, R475). -/
def State.applyEnd (s : State) (h : Handle) : State :=
  match s.job h with
  | none => s
  | some j =>
    match j.pendingEnd with
    | none => s
    | some (st, record, _) =>
      let x := s.endOf st record
      let s := (s.failSave j x.2).answerAdmit j (if x.1 = .ended then Status.refused else Status.fault) x.2
      s.finishJob h x.1 x.2

/-- Jobs that JOB_CANCEL has marked end at the boundary (R78). -/
def State.endCancelled (s : State) : State :=
  s.jobs.foldl (fun s e =>
    match e.2.pendingEnd with
    | some (.cancelled, _, b) => if b ≤ s.beat then s.applyEnd (BitVec.ofNat 16 e.1) else s
    | _ => s) s

/-! ## Context records that a restore loads (R300) -/

/-- The bytes of one context record (Table 10-6). -/
def recordBytes : Nat := 0xD1000

/-- At the boundary that ends the B beats of its loading, the CP holds the records of an admitted restore, as memory held them. -/
def State.loadRestores (s : State) : State :=
  { s with jobs := s.jobs.map fun e =>
      match e.2.restore with
      | some r =>
        if (e.2.st = .armed ∨ e.2.st = .admitted) ∧ r.loadedAt = s.beat then
          (e.1, { e.2 with restore := some { r with records := e.2.engines.map fun x =>
            let a := r.src + x.1 * r.stride
            (x.1, (cellsIn s.mem a recordBytes).map fun c => (c.1 - a, c.2)) } })
        else e
      | none => e }

/-! ## The end of a halt (R459, R461) -/

/-- Registers that a job start leaves: the engine counters, the hang snapshot's status and the error counter (R275). -/
def CoreState.keptRegs (k : CoreState) : RegFile :=
  k.regs.filter fun e => (decide (0xF0A000 ≤ e.1) && decide (e.1 < 0xF0C000)) || e.1 == Reg.coreErrcnt

/-- The core in the state of R96, R177, R219 and R275; the hang snapshot, the engine counters and the watch statistics
stand. -/
def CoreState.released (k : CoreState) : CoreState :=
  { CoreState.reset with
    regs := k.keptRegs
    store := k.store.filter fun e => decide (Reg.hang ≤ e.1) && decide (e.1 < Reg.hang + 0x2000)
    watches := k.watches
    cntBase := k.cntBase
    fenceAt := k.fenceAt }

/-- The job's last cycle c:749 was executed before the stop of the Whistle: it counts as complete. -/
def State.completedBeforeStop (s : State) (j : Job) : Bool :=
  decide (j.compBeat < s.whistle.stopBeat) || (j.compBeat == s.whistle.stopBeat && s.whistle.stopCycle == 749)

/-- A halted job: it was running, or had not reached its start beat (R459). -/
def State.haltedJob (s : State) (j : Job) : Bool :=
  j.st == .admitted || (j.st == .running && !s.completedBeforeStop j)

/-- The halt ends: every halted job ends as contained, its cores are as after reset, what was in flight is gone, and the
die runs again (R458, R461). -/
def State.releaseHalt (s : State) : State :=
  let s := (s.jobs.filter fun e => s.haltedJob e.2).foldl (fun s e =>
    let h := BitVec.ofNat 16 e.1
    let s := (s.failSave e.2 0).finishJob h .contained 0
    e.2.engines.foldl (fun s x => s.modCore x.2 CoreState.released) s) s
  State.setDcbF { s with
    transfers := []
    nodes := []
    whistle := { s.whistle with pending := false }
    cp := { s.cp with release := none } } Dcb.whistleStat 0 1 0

/-- A DBG_RELEASE whose boundary has come. -/
def State.releaseDue (s : State) : State :=
  match s.cp.release with
  | some b => if b ≤ s.beat then s.releaseHalt else s
  | none => s

end Sys2Proof.Machine
end

