-- ==== Sys2Proof/Machine/Window.lean ====
section
/-! DEFINITION. The steward window: plain memory (R303, R323, R363, R425, R476) and the core windows (R43, R45, R119, R147, R179,
R218, R274, R294, R301). -/

namespace Sys2Proof.Machine

/-! ## Accesses that do not reach their target -/

/-- An unmapped access is counted (R303). -/
def State.unmapped (s : State) : State := (s.countDcb Dcb.memUnmapped 1).setDcbBits Dcb.memFlags 0x2

/-- A blocked access is counted (R425). -/
def State.blockedCount (s : State) : State := (s.countDcb Dcb.secBlocked 1).setDcbBits Dcb.secFlags 0x1

/-- The address lies in a granule of a confidential partition, whatever its state (R425). -/
def State.blocked (s : State) (a : Nat) : Bool :=
  match regionOf a with
  | .hbm _ => (s.stackPart (stackGroup a)).any s.partConf
  | .slice x => (s.slicePart x).any s.partConf
  | .window c _ => (s.corePart c).any s.partConf
  | _ => false

def ones (n : Nat) : List Byte := List.replicate n 0xFF

/-! ## Plain memory -/

/-- The words of its granule that the `n` bytes at `a` touch. -/
def wordMask (a n : Nat) : Byte :=
  BitVec.ofNat 8 ((List.range 8).foldl (fun v w => v + bit (decide (a % 64 < 8 * w + 8 ∧ 8 * w < a % 64 + n)) * 2 ^ w) 0)

/-- Bits [n-1:0] of a 64-bit byte mask, at the byte's place in its granule. -/
def byteMask (a n : Nat) : BitVec 64 := BitVec.ofNat 64 ((2 ^ n - 1) * 2 ^ (a % 64))

/-- A steward read of `n` bytes of one granule of HBM or shared memory through port `p` (R363, R425, R476). -/
def State.memRead (s : State) (hbm : Bool) (p a n : Nat) (err : XferErr) : List Byte × State :=
  if s.blocked a then (zeros n, s.blockedCount)
  else if hbm ∧ s.bootState ≠ 4 then (ones n, s.unmapped)
  else
    let m := wordMask a n
    let r := s.meetWords false hbm p 0 0 a 0 (err.ce &&& m) (err.ue &&& m) m (hbm && err.capar) (s.fetch a)
    ((granBytes r.1).drop (a % 64) |>.take n, r.2.2)

/-- A steward write of bytes of one granule of HBM or shared memory. -/
def State.memPut (s : State) (hbm : Bool) (p a : Nat) (bs : List Byte) (err : XferErr) : State :=
  if s.blocked a then s.blockedCount
  else if hbm ∧ s.bootState ≠ 4 then s.unmapped
  else
    let m := wordMask a bs.length
    let g : Granule := BitVec.ofNat 512 (natOf bs * 2 ^ (8 * (a % 64)))
    let r := s.meetWords true hbm p 0 0 a 0 (err.ce &&& m) (err.ue &&& m) m (hbm && err.capar) g
    r.2.2.memWrite a (byteMask a bs.length) (granBytes r.1) (r.2.1 &&& m)

/-! ## Core windows -/

/-- The core's window is mapped (R303). -/
def State.windowMapped (s : State) (c : Nat) : Bool := s.enabled c && !s.fenced c

/-- The tile runs a FELT_RUN with steps in this beat of the job's schedule (R119). -/
def State.tileRuns (s : State) (c : Nat) : Bool :=
  match s.coreJob c with
  | none => false
  | some (_, j) =>
    let p := max j.image.p 1
    match j.image.engines[j.engineOf c]? with
    | none => false
    | some r => r.issues.any fun x => x.2.op == 0x20 && x.2.runSteps != 0 && x.2.stampBeat % p == s.jobBeat j % p

/-- The storage of the sampler window that reads as a table of constants (Table 7-7). -/
def knotByte (t : List Int) (o : Nat) : Byte := (bytesOf 4 (unsigned 32 (t.getD (o / 4) 0))).getD (o % 4) 0

/-- Bytes of storage at which the window answers, less the registers (Tables 3-2, 4-5, 7-7, 11-2, 16-3). -/
def storageMapped (o : Nat) : Bool :=
  decide (o < 0x40000) || (decide (Win.acc ≤ o) && decide (o < 0x440000)) || feltMapped o ||
    (decide (Win.rowBuffer ≤ o) && decide (o < 0xA20400)) || (decide (Win.knotsL ≤ o) && decide (o < 0xA20704)) ||
    (decide (Win.knotsH ≤ o) && decide (o < 0xA20B04)) || (decide (Win.schedule ≤ o) && decide (o < 0xE20000)) ||
    (decide (Reg.hang ≤ o) && decide (o < Reg.hang + 0x2000))

/-- A byte of storage as the steward reads it: what it held at the start of the cycle (R158). -/
def CoreState.windowByte (k : CoreState) (o : Nat) : Byte :=
  if feltMapped o then k.feltByte o
  else if Win.knotsL ≤ o ∧ o < 0xA20704 then knotByte knotKL (o - Win.knotsL)
  else if Win.knotsH ≤ o ∧ o < 0xA20B04 then knotByte knotKH (o - Win.knotsH)
  else k.startByte o

/-- The four bytes at `o` of a core window; none where nothing is mapped (R303). -/
def State.coreWord (s : State) (c o : Nat) : Option (List Byte) :=
  match coreRegAt o with
  | some (r, _) => some (bytesOf 4 (s.coreRegRead c r >>> (8 * (o - r))))
  | none => if storageMapped o then some ((List.range 4).map fun i => (s.core c).windowByte (o + i)) else none

/-- Words of an access, read one by one; an unmapped word reads as ones, and the access counts once (R303). -/
def State.readWords (s : State) (f : Nat → Option (List Byte)) (o n : Nat) : List Byte × State :=
  let ws := (List.range (n / 4)).map fun i => f (o + 4 * i)
  (ws.flatMap fun w => w.getD (ones 4), if ws.any (·.isNone) then s.unmapped else s)

/-- The value and the bit mask that bytes `bs` at `o` give a register of `w` bytes at `r`. -/
def regValue (r w o : Nat) (bs : List Byte) : Dword × Dword :=
  (List.range w).foldl (fun (x : Dword × Dword) i =>
    if o ≤ r + i ∧ r + i < o + bs.length then
      (x.1 ||| BitVec.ofNat 64 ((bs.getD (r + i - o) 0).toNat * 2 ^ (8 * i)), x.2 ||| BitVec.ofNat 64 (0xFF * 2 ^ (8 * i)))
    else x) (0, 0)

/-- The aligned words that the `n` bytes at `o` touch. -/
def wordsTouched (o n : Nat) : List Nat := (List.range ((o % 4 + n + 3) / 4)).map fun i => o / 4 * 4 + 4 * i

/-- The registers that an access of `n` bytes at `o` touches, with their widths. -/
def regsTouched (at_ : Nat → Option (Nat × Nat)) (o n : Nat) : List (Nat × Nat) := ((wordsTouched o n).filterMap at_).dedup

/-- The core's registers with an RW field, which a running FELT_RUN protects (R119, R147). -/
def feltRw (o : Nat) : Bool := decide (0xF01000 ≤ o) && decide (o < 0xF02000) && (coreAccess o).rw != 0

/-- The value most recently written to a register with RWS fields (R25). -/
def CoreState.written (k : CoreState) (o : Nat) : Dword := tabGet (k.reg o) k.rws o

/-- A steward write of the bits `m` of a register of core `c` (R24, R25, R27, R119, R294, R301). -/
def State.coreRegWrite (s : State) (c o : Nat) (v m : Dword) : State :=
  let k := s.core c
  let a := coreAccess o
  let owned := k.job.isSome
  if ((regAt seqRanges o).isSome && owned) || (feltRw o && s.tileRuns c) then s.modCore c CoreState.errCount
  else if a.rws ≠ 0 then
    let x := (k.written o &&& ~~~(a.rws &&& m)) ||| (v &&& a.rws &&& m)
    s.setCore c (if owned && !s.halted then { k with rws := tabPut k.rws o x } else { k.setReg o x with rws := tabDel k.rws o })
  else
    let x := a.write (k.reg o) v m (tabGet 0 k.setNow o)
    let f := if a.rw = 0 then (x.toNat, 0) else coreFix o x.toNat
    s.setCore c ((k.setReg o (BitVec.ofNat 64 f.1)).count Reg.coreErrcnt f.2)

/-- A byte of Felt storage written while no job owns the core: at once, in the snapshot as well (R45). -/
def CoreState.pokeFelt (k : CoreState) (o : Nat) (b : Byte) : CoreState :=
  let k := k.feltPut o 0xFF b
  if o < 0x802000 then { k with snap := tabSet 0 k.snap ((o - Win.spins) / 512) (k.spin ((o - Win.spins) / 512)) } else k

/-- Bytes of the core's storage as the steward writes them while no job owns the core; the staging buffer is read-only (R128),
bytes 12 to 15 of an accumulator slot are ignored (R176), and of the sampler window only the row buffer takes writes. -/
def CoreState.pokeByte (k : CoreState) (o : Nat) (b : Byte) : CoreState :=
  if feltMapped o then (if Win.staging ≤ o ∧ o < 0x905800 then k else k.pokeFelt o b)
  else if Win.acc ≤ o ∧ o < 0x440000 then (if 12 ≤ o % 16 then k else { k with store := bytesWrite k.store o [b] })
  else if Win.rowBuffer ≤ o ∧ o < Win.histogram then { k with store := bytesWrite k.store o [b] }
  else k

/-- A steward write to the storage of a core: scratch at any time; the schedule store never (R274); the rest while no job owns
the core (R45, R179, R218). -/
def State.coreStoreWrite (s : State) (c o : Nat) (bs : List Byte) : State :=
  if o < 0x40000 then s.modCore c fun k => k.writeScratch o bs
  else if Reg.hang ≤ o then s
  else if (s.core c).job.isSome ∨ Win.schedule ≤ o then s.modCore c CoreState.errCount
  else s.modCore c fun k => bs.zipIdx.foldl (fun k e => k.pokeByte (o + e.2) e.1) k

/-- A steward access to the window of core `c` is blocked, unmapped or neither (R303, R425); its transfer passes the slice port of the
core, and meets errors as any other (R476). -/
def State.windowRead (s : State) (c o a n : Nat) (err : XferErr) : List Byte × State :=
  if s.blocked a then (zeros n, s.blockedCount)
  else if !s.windowMapped c then (ones n, s.unmapped)
  else
    let m := wordMask a n
    let r := s.readWords (s.coreWord c) o n
    let x := r.2.meetWords false false c 0 0 a 0 (err.ce &&& m) (err.ue &&& m) m false (BitVec.ofNat 512 (natOf r.1 * 2 ^ (8 * (a % 64))))
    (((granBytes x.1).drop (a % 64)).take n, x.2.2)

/-- Words of the core's storage are stored with the codes that they came with (R476). -/
def CoreState.markBad (k : CoreState) (o n : Nat) (bad : Byte) : CoreState :=
  { k with bad := tabSet 0 k.bad (o / 64) ((tabGet 0 k.bad (o / 64) &&& ~~~(wholeWords (byteMask o n))) ||| bad) }

/-- A steward write of the window of core `c`. -/
def State.windowWrite (s : State) (c o a : Nat) (bs : List Byte) (err : XferErr) : State :=
  if s.blocked a then s.blockedCount
  else if !s.windowMapped c then s.unmapped
  else
    let m := wordMask a bs.length
    let x := s.meetWords true false c 0 0 a 0 (err.ce &&& m) (err.ue &&& m) m false (BitVec.ofNat 512 (natOf bs * 2 ^ (8 * (a % 64))))
    let bs := ((granBytes x.1).drop (a % 64)).take bs.length
    let s := x.2.2
    let regs := regsTouched coreRegAt o bs.length
    let holes := (List.range (bs.length / 4)).any fun i => (coreRegAt (o + 4 * i)).isNone && !storageMapped (o + 4 * i)
    let s := if holes then s.unmapped else s
    if storageMapped o then
      (s.coreStoreWrite c o bs).modCore c fun k => if o < 0x40000 then k.markBad o bs.length (x.2.1 &&& m) else k
    else
      regs.foldl (fun s r =>
        let x := regValue r.1 r.2 o bs
        s.coreRegWrite c r.1 x.1 x.2) s

/-! ## The steward's slots (R323) -/

/-- A read of `n` bytes at a device address that the crossbar or the Brim carries. -/
def State.crossRead (s : State) (d n : Nat) (err : XferErr) : List Byte × State :=
  match regionOf d with
  | .hbm p => s.memRead true p d n err
  | .slice p => s.memRead false p d n err
  | .window c o => s.windowRead c o d n err
  | _ => (ones n, s.unmapped)

/-- A write of the same. -/
def State.crossWrite (s : State) (d : Nat) (bs : List Byte) (err : XferErr) : State :=
  match regionOf d with
  | .hbm p => s.memPut true p d bs err
  | .slice p => s.memPut false p d bs err
  | .window c o => s.windowWrite c o d bs err
  | _ => s.unmapped

/-- The port in whose reserved slots a steward access to a device address takes effect: a slice port as 1024 + p, a pseudo-channel as
2048 + p. -/
def stewardPort (d : Nat) : Option Nat :=
  match regionOf d with
  | .hbm p => some (2048 + p)
  | .slice p => some (1024 + p)
  | .window c _ => some (1024 + c)
  | _ => none

/-- The device address behind a steward physical address. -/
def deviceAddr (a : Nat) : Option Nat := if 0x100000000000 ≤ a ∧ a < 0x200000000000 then some (a - 0x100000000000) else none

/-- The port for which a waiting access waits; none for a flash read that stalls (R396). -/
def StewardReq.port (r : StewardReq) : Option Nat := (deviceAddr r.addr).bind stewardPort

/-- The cycle is one of the port's steward slots (Table 11-6). -/
def stewardSlot (cycle port : Nat) : Bool := if port < 2048 then decide (748 ≤ cycle) else cycle == accessCycle 99

/-- The accesses that a cycle serves: from the front of the queue, one to a port, up to the first that has no slot. -/
def serveSplit (cycle : Nat) (used : List Nat) : List StewardReq → List StewardReq × List StewardReq
  | [] => ([], [])
  | r :: rest =>
    match r.port with
    | none => let x := serveSplit cycle used rest; (x.1, r :: x.2)
    | some p =>
      if stewardSlot cycle p && !used.contains p then let x := serveSplit cycle (p :: used) rest; (r :: x.1, x.2) else ([], r :: rest)

/-- A steward access to a device address takes effect. -/
def State.serveAt (s : State) (r : StewardReq) (d : Nat) : State :=
  if r.write then s.crossWrite d ((granBytes r.data).take r.size) r.err
  else
    let x := s.crossRead d r.size r.err
    { x.2 with readData := BitVec.ofNat 512 (natOf x.1) }

/-- A steward access takes effect in its slot. -/
def State.serveSteward (s : State) (r : StewardReq) : State :=
  match deviceAddr r.addr with
  | some d => s.serveAt r d
  | none => s

/-- The steward slots of the running cycle. -/
def State.stewardSlots (s : State) : State :=
  if s.stewardQ = [] then s
  else
    let x := serveSplit s.cycle [] s.stewardQ
    x.1.foldl State.serveSteward { s with stewardQ := x.2 }

end Sys2Proof.Machine
end

