-- ==== Sys2Proof/Machine/Beat.lean ====
section
/-! DEFINITION. The clock: what every cycle does whatever is commanded (the model's tick, log entry 1) and what a beat
boundary does before anything else of its cycle (R494). -/

namespace Sys2Proof.Machine

/-! ## One cycle -/

/-- One engine's counters for this cycle (R446, R447). -/
def State.countEngine (s : State) (c e : Nat) : State :=
  if s.engineBusy c e then
    let x := tabGet (0, 0) s.devTally e
    let slot := (s.core c).engine e
    let first := slot.issueBeat == s.beat && slot.issueCycle == s.cycle
    { (s.modCore c fun k =>
        { ((k.count (Reg.cntBusy e) 1).count32 (Reg.cntCmdcyc e) (bit !first)) with ranEngine := true }) with
      devTally := tabSet (0, 0) s.devTally e (x.1 + 1, x.2) }
  else
    match s.stallOf c e with
    | 1 => s.modCore c fun k => k.count (Reg.cntStallSb e) 1
    | 2 => s.modCore c fun k => k.count (Reg.cntStallRly e) 1
    | 3 => s.modCore c fun k => k.count (Reg.cntStallLate e) 1
    | _ => s

/-- A thread of the core is blocked (R295). -/
def CoreState.anyBlocked (k : CoreState) : Bool := (List.range 64).any fun t => decide (2 ≤ k.thrSt t)

/-- One core that a job runs on: due increments, engine counters, and what the deadlock detector watches. -/
def State.coreCycle (s : State) (c : Nat) : State :=
  if (s.coreJob c).isSome then
    let s := s.applyIncs c
    let s := (List.range 5).foldl (fun s e => s.countEngine c e) s
    s.modCore c fun k => if k.anyBlocked then k else { k with allFree := true }
  else s

/-- What was noted of the cycle alone is forgotten: what bytes held at its start, and which bits were set in it (R26, R494). -/
def CoreState.forgetCycle (k : CoreState) : CoreState := { k with old := [], setNow := [] }

def State.forgetCycle (s : State) : State :=
  { (s.cores.map (·.1)).foldl (fun s c =>
      if (s.core c).old = [] ∧ (s.core c).setNow = [] then s else s.modCore c CoreState.forgetCycle) s with setNow := [] }

/-- The end of a cycle: the steward's slots serve what waits for them (R323), and the deterministic domain counts the cycle, unless it
stands. -/
def State.cycleEnd (s : State) : State :=
  let s := s.stewardSlots
  if s.domainRuns then
    let s := ((s.cores.map (·.1)).foldl (fun s c => s.coreCycle c) s).forgetCycle
    { s with runCycles := BitVec.ofNat 64 (satAdd 64 s.runCycles.toNat 1) }
  else s.forgetCycle

/-- The start of a cycle: transfers whose slot has come leave or take their data (R310), unless the domain stands. -/
def State.cycleStart (s : State) : State := if s.domainRuns then s.advanceAll else s

/-- The step to the next cycle of the beat. -/
def State.nextCycle (s : State) : State := State.cycleStart { s.cycleEnd with cycle := s.cycle + 1 }

/-- The rest of `n` cycles of the beat, each with the step to the next. -/
def State.elapse : Nat → State → State
  | 0, s => s
  | n + 1, s => State.elapse n s.nextCycle

/-! ## The boundary -/

/-- A thread of a core of the job has an instruction of the job's run that it has not retired (R279). -/
def State.unfinished (s : State) (j : Job) : Bool :=
  j.engines.any fun e =>
    let k := s.core e.2
    (List.range 64).any fun t =>
      k.thrLen t != 0 && decide (k.stampOf j t (k.insAt t) < (j.startK + (j.compBeat + 1 - j.startBeat)) * beatCycles)

/-- Every job whose completion beat ends with an instruction not retired ends as contained (R279). -/
def State.endUnfinished (s : State) : State :=
  (s.jobs.map (·.1)).foldl (fun t h =>
    match tabFind t.jobs h with
    | some j =>
      if j.st = .running ∧ j.compBeat = t.beat ∧ t.unfinished j then t.markEnd (BitVec.ofNat 16 h) .contained 0 else t
    | none => t) s

/-- A quiet beat counts (R295). -/
def CoreState.countQuiet (k : CoreState) : CoreState :=
  let q := !k.ranInstr && !k.ranEngine && !k.allFree
  { k.setRegF Reg.dlkCount 0 3 (if q then min (k.regF Reg.dlkCount 0 3 + 1) 4 else 0) with
    ranInstr := false, ranEngine := false, allFree := false }

/-- Threads that wait for the period that begins start at their first instruction (R276). -/
def CoreState.startPeriod (k : CoreState) (iter : Nat) : CoreState :=
  (List.range 64).foldl (fun k t =>
    if k.thrLen t ≠ 0 ∧ k.thrSt t = 0 ∧ tabGet 0 k.threadIter t ≤ iter then
      (k.setRegF (Reg.thrState t) 0 14 (k.thrStart t)).setRegF (Reg.thrState t) 14 2 1
    else k) k

/-- Register values that come into force at this boundary, and RWS shadows (R25). -/
def CoreState.registersInForce (k : CoreState) (beat : Nat) : CoreState :=
  let k := { k.rws.foldl (fun k e => k.setReg e.1 e.2) k with rws := [] }
  let r := k.regNext.partition fun x => decide (x.beat ≤ beat)
  { r.1.foldl (fun k x => k.setReg x.offset ((k.reg x.offset &&& ~~~x.mask) ||| (x.value &&& x.mask))) k with regNext := r.2 }

/-- The boundary in one core: writes, registers, then the snapshot (R43, R44, R494). -/
def CoreState.boundary (k : CoreState) (beat : Nat) : CoreState :=
  let k := (k.commitFelt).registersInForce beat
  { k with snap := k.spins, regs0 := k.regs }

/-- The sequencer's part in a core that a job runs on: the quiet beat, ITER and the period. -/
def State.sequencerBoundary (s : State) (c : Nat) : State :=
  match s.coreJob c with
  | none => s
  | some (_, j) =>
    let iter := s.jobIter j
    s.modCore c fun k =>
      let k := k.countQuiet.setReg Reg.schedIter (BitVec.ofNat 64 iter)
      if s.jobBeat j % max j.image.p 1 = 0 then k.startPeriod iter else k

/-- RWS fields of the device control block come into force (R25). -/
def State.dcbInForce (s : State) : State :=
  { s.dcbRws.foldl (fun s e => s.setDcb e.1 e.2) s with dcbRws := [] }

/-- DEV_BUSY and DEV_CMDS add the beat's counts (R448). -/
def State.devCounters (s : State) : State :=
  { s.devTally.foldl (fun s e => (s.countDcb (Dcb.devBusy e.1) e.2.1).countDcb (Dcb.devCmds e.1) e.2.2) s with
    devTally := [] }

/-! ### Trace (R357, R451) -/

/-- One record is entered, or dropped whole when the buffer is full. -/
def State.enterTrace (s : State) (r : BitVec 128) : State :=
  if s.trace.buffer.length < 524288 then
    let s := ({ s with trace := { s.trace with buffer := s.trace.buffer ++ [r] } }).countDcb Dcb.traceRecs 1
    let n := s.trace.buffer.length
    let s := s.setDcbF Dcb.traceStat 0 20 n
    if n = 458753 then (s.setDcbBits Dcb.traceStat 0x100000).dieEvent 175 else s
  else
    let b := BitVec.ofNat 64 (bitsOf r.toNat 0 56)
    let t := s.trace
    (((({ s with trace := { t with
      dropped := min (t.dropped + 1) 0xFFFFFFFF
      dropFirst := if t.dropped = 0 then b else t.dropFirst
      dropLast := b } }).countDcb Dcb.sideDrop 1).setDcbBits Dcb.sideStat 0x4).dieEvent 168)

/-- Insertion by key, after equal keys. -/
def insertKey (e : Nat × BitVec 128) : List (Nat × BitVec 128) → List (Nat × BitVec 128)
  | [] => [e]
  | x :: r => if e.1 < x.1 then e :: x :: r else x :: insertKey e r

def sortKeys (l : List (Nat × BitVec 128)) : List (Nat × BitVec 128) := l.foldl (fun a e => insertKey e a) []

/-- The records of the beat that ends are entered in their order (R451). -/
def State.enterRecords (s : State) : State :=
  let t := s.trace
  let rs := (sortKeys t.beatRecs).map (·.2) ++ (sortKeys t.jobRecs).map (·.2) ++ t.digestRecs
  rs.foldl State.enterTrace { s with trace := { t with beatRecs := [], jobRecs := [], digestRecs := [] } }

/-! ### Lock-step digest (R86, R445) -/

/-- d_e: the snapshot's spin planes and the payloads of the beat in slot order. -/
def CoreState.engineDigest (k : CoreState) : Nat :=
  let planes := (List.range 16).flatMap fun p => bytesOf 512 (k.snapshot p).toNat
  let pays := (sortKeys (k.payloads.map fun e => (e.1, 0))).map (·.1)
  digest (planes ++ pays.flatMap fun c => bytesOf 64 (tabGet 0 k.payloads c).toNat)

/-- The running lock-step job. -/
def State.lockstepJob (s : State) : Option Job :=
  (s.jobs.map (·.2)).find? fun j => j.lockstep.isSome && j.st == .running && decide (s.beat ≤ j.compBeat + 1)

/-- The digest of the beat that has ended, while a lock-step job runs. -/
def State.beatDigest (s : State) : State :=
  match s.lockstepJob with
  | none => s
  | some j =>
    let d := BitVec.ofNat 64 (digest (j.engines.flatMap fun e => bytesOf 8 (s.core e.2).engineDigest))
    let n := BitVec.ofNat 64 (s.beat - 1)
    let s := { s with
      linkSys := { s.linkSys with ownDigests := s.linkSys.ownDigests ++ [(n, d)] }
      trace := { s.trace with digestRecs := s.trace.digestRecs ++ [traceRec (s.beat - 1) 5 d.toNat] } }
    j.engines.foldl (fun s e => s.modCore e.2 fun k => { k with payloads := [] }) s

/-- The comparison channel closes once the last digest of every lock-step job has been compared, three beats after its beat (R86,
R87). -/
def State.closeLockstep (s : State) : State :=
  if s.jobs.any fun e => e.2.lockstep.isSome && (e.2.st == .running || (e.2.endBeat != 0 && decide (s.beat ≤ e.2.endBeat + 2))) then s
  else (List.range 16).foldl (fun s l => if s.dcbF (Dcb.linkCtrl l) 2 1 = 1 then s.setDcbF (Dcb.linkCtrl l) 2 1 0 else s) s

/-- The snapshots that wait for this boundary hold the state at its cycle 0, before any end of a job (R462). -/
def State.holdSnapshots (s : State) : State :=
  (s.cp.snapshots.flatMap fun x => if x.2.2.1 < s.beat then x.2.2.2 else []).foldl (fun t c =>
    t.modCore c fun k => { k with hangHeld := s.hangBody c 2 }) s

/-- A frame carries the flits of its own beat alone (R342), and the Sideline port, OFF at the release of cold reset, starts to
train (R356). -/
def State.openPorts (s : State) : State :=
  let s : State := { s with links := s.links.foldl (fun t e =>
    tabSet LinkPort.reset t e.1 { e.2 with payload := [], payloadJob := [] }) s.links }
  if s.dcbF Dcb.sideStat 0 2 = 0 then s.setDcbF Dcb.sideStat 0 2 1 else s

/-- The boundary that opens the next beat (R494): the counter, the writes of R44, registers and snapshots in every core of
a running domain, the device's RWS fields and counters, the trace, the jobs that leave, and the records that a restore has
loaded. Where a Whistle has stopped the die, what waits in its cores goes on waiting (R459; DESIGN CHOICE, log entry 81). -/
def State.boundary (s : State) : State :=
  let s := if s.domainRuns then s.endUnfinished else s
  let s := ((State.openPorts { s with beat := s.beat + 1, cycle := 0 }).enterRecords).releaseDue
  let cs := s.cores.map (·.1)
  let s : State :=
    if s.domainRuns then
      let s := cs.foldl (fun s c => s.modCore c fun k => k.boundary s.beat) s
      cs.foldl (fun s c => s.sequencerBoundary c) s
    else s
  let s : State := (s.dcbInForce.devCounters).holdSnapshots
  (((if s.domainRuns then s.beatDigest.leaveCompleted else s).endCancelled).closeLockstep).loadRestores

/-- The tick: one cycle passes (DESIGN CHOICE, log entry 1). Nothing passes while cold reset is asserted (R53). -/
def State.tick (s : State) : State :=
  if s.power.coldReset then s
  else if s.cycle + 1 < beatCycles then s.nextCycle
  else s.cycleEnd.boundary

/-- BEAT_BOUNDARY: the rest of the beat passes, and the boundary that opens the next one does its work (R494). -/
def execBeatBoundary (s : State) : Host.Outcome State Fault Refusal :=
  if s.power.coldReset then .next s
  else .next ((s.elapse (beatCycles - 1 - s.cycle)).cycleEnd.boundary)

end Sys2Proof.Machine
end

