-- ==== Sys2Proof/Machine/FieldEngine.lean ====
section
/-! DEFINITION. The field engine: FE_MMA on the array, FE_OUT, FE_BERN and NAP_FILL on the output unit (R148 to R174, R239 to
R241), and the tensor-watch units (R454, R455). -/

namespace Sys2Proof.Machine

/-! ## Input formats (R151 to R153) -/

/-- An element as the array reads it, and whether it was replaced (R152). -/
def mmaElem (fmt b : Nat) : Dyad × Bool :=
  let big (f : FloatFmt) (m e : Int) : Dyad := if f.sign b then ⟨-m, e⟩ else ⟨m, e⟩
  if fmt = 0 then (if b % 128 = 127 then (Dyad.zero, true) else (fmtE4M3.val b, false))
  else if fmt = 1 then
    (if fmtE5M2.isNan b then (Dyad.zero, true)
      else if fmtE5M2.isInf b then (big fmtE5M2 7 13, true)
      else (fmtE5M2.val b, false))
  else if fmt = 2 then (fmtE2M1.val b, false)
  else if fmt = 3 then
    (if fmtBF16.isNan b then (Dyad.zero, true)
      else if fmtBF16.isInf b then (big fmtBF16 255 120, true)
      else (fmtBF16.val b, false))
  else (Dyad.ofInt (signed 8 b), false)

/-- The encoding of element k of vector v of a chunk (Table 5-3). -/
def chunkCode (fmt : Nat) (ch : List Byte) (v k : Nat) : Nat :=
  if fmt = 2 then bitsOf (ch.getD (16 * v + k / 2) 0).toNat (4 * (k % 2)) 4
  else if fmt = 3 then natOf ((ch.drop (64 * v + 2 * k)).take 2)
  else (ch.getD (32 * v + k) 0).toNat

/-- The scale byte of vector v, where the format carries one (R153). -/
def chunkScale (fmt : Nat) (scaled : Bool) (ch : List Byte) (v : Nat) : Option Nat :=
  if fmt = 2 then some (ch.getD (512 + v) 0).toNat
  else if fmt ≤ 1 ∧ scaled then some (ch.getD (1024 + v) 0).toNat
  else none

/-- Vector v of a chunk with its block scale applied, and how many of its elements were replaced (R152, R153). -/
def chunkVector (fmt : Nat) (scaled : Bool) (ch : List Byte) (v : Nat) : List Dyad × Nat :=
  let es := (List.range 32).map fun k => mmaElem fmt (chunkCode fmt ch v k)
  match chunkScale fmt scaled ch v with
  | some 255 => (List.replicate 32 Dyad.zero, 32)
  | some x => (es.map fun e => e.1.scale ((x : Int) - 127), (es.filter fun e => e.2).length)
  | none => (es.map (·.1), (es.filter fun e => e.2).length)

/-- Vector v of chunk q of a spin operand (R157). -/
def CoreState.spinVector (k : CoreState) (sel q v : Nat) : List Dyad :=
  let row := 32 * bitsOf sel 4 1 + v
  let col := 32 * (bitsOf sel 5 1 ^^^ q)
  (List.range 32).map fun i => Dyad.ofInt (if (k.snapshot (bitsOf sel 0 4)).getLsbD (cellBit row (col + i)) then 1 else -1)

/-! ## FE_MMA -/

/-- The bytes of the chunks of one operand: from scratch, or from the granules read for it. -/
def CoreState.chunkBytes (k : CoreState) (src fmt : Nat) (scaled : Bool) (addr q : Nat) (read : List Byte) : List Byte :=
  if src = 0 then k.scratch (addr % 2 ^ 18 + q * chunkStride fmt scaled) (chunkStride fmt scaled) else read

/-- The 32 vectors of chunk q of an operand, and the replaced elements. -/
def CoreState.operand (k : CoreState) (src fmt : Nat) (scaled : Bool) (addr q : Nat) (read : List Byte) :
    List (List Dyad) × Nat :=
  if src = 2 then ((List.range 32).map (k.spinVector addr q), 0)
  else
    let ch := k.chunkBytes src fmt scaled addr q read
    let vs := (List.range 32).map (chunkVector fmt scaled ch)
    (vs.map (·.1), (vs.map (·.2)).sum)

/-- The tree sum of one chunk for one element (R185): leaves are exact products. -/
def chunkSum (a b : List Dyad) : AccSum :=
  accTree ((a.zip b).map fun p => ⟨⟨fmtF64.enc (p.1.mul p.2), 0⟩, false, 0⟩)

/-- Element (i, j) of accumulator tile t in the window (R176). -/
def accAt (t i j : Nat) : Nat := Win.acc + 16 * (512 * i + 32 * t + j)

def CoreState.accElem (k : CoreState) (t i j : Nat) : Acc := accOfSlot (k.startBytes (accAt t i j) 12)

/-- The 32 elements of row i of a tile replaced. -/
def CoreState.setAccRow (k : CoreState) (t i : Nat) (xs : List Acc) : CoreState :=
  k.putBytes (accAt t i 0) (xs.flatMap Acc.slot)

/-- A tile of sums, row by row. -/
abbrev AccTile := List (List AccSum)

/-- The tile as it stands; with ZERO it holds exactly zero (R150). -/
def CoreState.accTile (k : CoreState) (t : Nat) (zero : Bool) : AccTile :=
  (List.range 32).map fun i => (List.range 32).map fun j => ⟨if zero then Acc.zero else k.accElem t i j, false, 0⟩

/-- One chunk added to the tile (R150, R185). -/
def addChunk (tile : AccTile) (a b : List (List Dyad)) : AccTile :=
  (tile.zip a).map fun r => (r.1.zip b).map fun e => accCombine e.1 (chunkSum r.2 e.2)

/-- `n` chunks from q on: the tile and the replaced elements. Operand granules come in the order of the chunks, those of A
before those of B (R156, R314). -/
def CoreState.mmaChunks (k : CoreState) (m : Mma) : Nat → Nat → AccTile → Nat → AccTile × Nat
  | 0, _, tile, bad => (tile, bad)
  | n + 1, q, tile, bad =>
    let g := m.chunkReads q
    let at_ := q * (g.1.length + g.2.length)
    let a := k.operand m.asrc m.afmt m.scaled m.aaddr q (k.operands 1 at_ g.1.length)
    let b := k.operand m.bsrc m.bfmt m.scaled m.baddr q (k.operands 1 (at_ + g.1.length) g.2.length)
    k.mmaChunks m n (q + 1) (addChunk tile a.1 b.1) (bad + a.2 + b.2)

/-- The tile is written, with its flags and counters (R152, R183, R184). -/
def CoreState.mmaDone (k : CoreState) (m : Mma) (tile : AccTile) (bad : Nat) : CoreState :=
  let es := tile.flatten
  let sats := (es.filter fun e => e.sat).length
  let clamps := (es.map fun e => e.clamp).sum
  let k := tile.zipIdx.foldl (fun k r => k.setAccRow m.acc r.2 (r.1.map fun e => e.acc)) k
  let k := if bad = 0 then k else (k.count Reg.feBadin bad).setBits Reg.feFlags 0x1
  let k := if sats = 0 then k else (k.count Reg.accSatcnt sats).setBits Reg.accSat (BitVec.ofNat 64 (2 ^ m.acc))
  if clamps = 0 then k else (k.count Reg.accEclamp clamps).setBits Reg.accFlags 0x2

/-! ## Watches -/

/-- A watched value: its binary64 encoding, and whether it counts as saturated. -/
structure Watched where
  enc : Nat
  sat : Bool
  deriving DecidableEq, Repr

/-- The 8 bytes of a value join the running digest (R444). -/
def Watch.digestFeed (w : Watch) (v : Nat) : Watch :=
  match w.half with
  | none => { w with half := some (BitVec.ofNat 64 v), bytes := w.bytes + 8 }
  | some x =>
    { w with half := none, bytes := w.bytes + 8, digest := BitVec.ofNat 128 (digestStep w.digest.toNat (x.toNat + v * 2 ^ 64)) }

/-- The encoding with a zero as +0. -/
def plusZero (v : Nat) : Nat := if (fmtF64.val v).m = 0 then 0 else v

/-- One element (R455). -/
def Watch.feed (w : Watch) (v : Watched) : Watch :=
  let z := BitVec.ofNat 64 (plusZero v.enc)
  let x := fmtF64.val v.enc
  let sum := accAdd ⟨w.sumM.toNat, w.sumE.toNat⟩ ⟨v.enc, 0⟩
  let w := w.digestFeed v.enc
  { w with
    minV := if w.count = 0 ∨ x.lt (fmtF64.val w.minV.toNat) then z else w.minV
    maxV := if w.count = 0 ∨ (fmtF64.val w.maxV.toNat).lt x then z else w.maxV
    count := BitVec.ofNat 64 (satAdd 64 w.count.toNat 1)
    sat := BitVec.ofNat 64 (satAdd 64 w.sat.toNat (bit v.sat))
    sumM := BitVec.ofNat 64 sum.acc.m
    sumE := BitVec.ofNat 32 sum.acc.e }

/-- Error terms that are clamped while the sum takes these elements: SUM is formed by acc_add (R183, R455). -/
def Watch.clamps (w : Watch) (vs : List Watched) : Nat :=
  (vs.foldl (fun r v => let x := accAdd r.1 ⟨v.enc, 0⟩; (x.acc, r.2 + x.clamp)) (⟨w.sumM.toNat, w.sumE.toNat⟩, 0)).2

/-- The unit watches this command of its source (R454), unless it was armed while the command ran (R465). -/
def Watch.takes (w : Watch) (h : Handle) (acc : Option Nat) (i : Issued) : Bool :=
  w.armed && w.handle == h && decide (w.since ≤ i.beat * beatCycles + i.cycle) &&
    (match acc with | some t => w.srcAcc && w.tile.toNat == t | none => !w.srcAcc) &&
    (w.any || (decide (w.matchBeat.toNat = i.stampBeat) && decide (w.matchCycle.toNat = i.stampCycle)))

/-- The watch units of a core take a command's elements; a count that saturates raises source 175 (R455). -/
def State.watchCmd (s : State) (c : Nat) (h : Handle) (acc : Option Nat) (i : Issued) (vs : List Watched) : State :=
  (List.range 4).foldl (fun s u =>
    let w := tabGet Watch.reset (s.core c).watches u
    if w.takes h acc i then
      let w' := vs.foldl Watch.feed { w with ncmd := BitVec.ofNat 32 (satAdd 32 w.ncmd.toNat 1) }
      let n := w.clamps vs
      let s := s.modCore c fun k =>
        let k := { k with watches := tabSet Watch.reset k.watches u w' }
        if n = 0 then k else (k.count Reg.accEclamp n).setBits Reg.accFlags 0x2
      if w'.count.toNat = 2 ^ 64 - 1 ∧ w.count.toNat ≠ 2 ^ 64 - 1 then s.dieEvent 175 else s
    else s) s

/-- The watched values of a tile (R455): read64, saturated where M is the largest finite value. -/
def accWatched (tile : AccTile) : List Watched :=
  tile.flatten.map fun e => ⟨fmtF64.enc e.acc.read64, e.acc.m % 2 ^ 63 == max64Enc⟩

/-- The chunks that an FE_MMA adds: all, or those written before a stop (R160, R458). -/
def State.mmaMade (s : State) (i : Issued) (j : Job) : Nat :=
  s.partsMade i i.mma.kt (i.mma.lead + i.mma.step j.half + 7) (i.mma.step j.half)

/-- What an FE_MMA leaves: the sums of its chunks in the tile. -/
def State.feMma (s : State) (c : Nat) (h : Handle) (j : Job) (i : Issued) : State :=
  let m := i.mma
  let n := s.mmaMade i j
  let r := (s.core c).mmaChunks m n 0 ((s.core c).accTile m.acc m.zero) 0
  if n = 0 then s.watchCmd c h (some m.acc) i []
  else (s.modCore c fun k => k.mmaDone m r.1 r.2).watchCmd c h (some m.acc) i (if n = m.kt then accWatched r.1 else [])

/-- FE_MMA (R149, R150, R160). -/
def execFeMma (core : CoreNum) (s : State) : Host.Outcome State Fault Refusal :=
  let c := core.toNat
  match s.readyCmd c 0x30 with
  | none => .next s
  | some (h, j, i) => .next ((s.feMma c h j i).finishCmd c j i)

/-! ## The output unit -/

/-- The logical index of output element (i, j) (R162). -/
def outIndex (base stride i j : Nat) : Nat := (base + i * stride + j) % 2 ^ 56

/-- A grid (R164): the exponent of its spacing at a value, and its greatest and least value. -/
structure Grid where
  fmt : Option FloatFmt
  scale : Int
  top : Dyad
  bottom : Dyad
  deriving DecidableEq, Repr

/-- The grid of a float format times 2^k, symmetric about zero. -/
def floatGrid (f : FloatFmt) (k m e : Int) : Grid := ⟨some f, k, ⟨m, e + k⟩, ⟨-m, e + k⟩⟩

/-- The grid of a destination format (Table 5-6); `x` is the block scale of DFMT 2, `ex` is FELT_EXP.EXP. -/
def gridOf (dfmt x ex : Nat) : Grid :=
  match dfmt with
  | 0 => floatGrid fmtE4M3 0 7 6
  | 1 => floatGrid fmtE5M2 0 7 13
  | 2 => floatGrid fmtE2M1 ((x : Int) - 127) 3 1
  | 3 => floatGrid fmtBF16 0 255 120
  | 4 => ⟨none, 0, ⟨127, 0⟩, ⟨-128, 0⟩⟩
  | 5 => floatGrid fmtF32 0 (2 ^ 24 - 1) 104
  | 6 => ⟨none, (ex : Int) - 32, ⟨2047, (ex : Int) - 32⟩, ⟨-2047, (ex : Int) - 32⟩⟩
  | _ => ⟨none, -16, ⟨65535, -16⟩, ⟨0, -16⟩⟩

/-- The exponent of the spacing at v. -/
def Grid.step (g : Grid) (v : Dyad) : Int :=
  match g.fmt with
  | none => g.scale
  | some f => if v.m = 0 then f.qmin + g.scale else max ((v.scale (-g.scale)).log2 - (f.fb : Int)) f.qmin + g.scale

/-- An element rounded: its value, whether it saturated, and whether a rounding draw was made. -/
structure Rounded where
  val : Dyad
  negative : Bool
  sat : Bool
  drew : Bool
  deriving DecidableEq, Repr

/-- round_dest (R163). `u` is the draw that stochastic rounding takes. -/
def roundDest (v : Dyad) (g : Grid) (sr : Bool) (u : Nat) : Rounded :=
  let neg := decide (v.m < 0)
  if g.top.lt v then ⟨g.top, neg, true, false⟩
  else if v.lt g.bottom then ⟨g.bottom, neg, true, false⟩
  else
    let q := g.step v
    let x := v.scale (-q)
    let lo := x.floor
    if x.eq (Dyad.ofInt lo) then ⟨⟨lo, q⟩, neg, false, false⟩
    else if sr then
      let up := (Dyad.ofInt (2 * (u : Int) + 1)).lt ((x.sub (Dyad.ofInt lo)).scale 17)
      ⟨⟨if up then lo + 1 else lo, q⟩, neg, false, true⟩
    else ⟨⟨x.rne, q⟩, neg, false, false⟩

/-- The encoding of a rounded value in its destination format (R164). -/
def Grid.encode (g : Grid) (w : Nat) (r : Rounded) : Nat :=
  match g.fmt with
  | some f => if r.val.m = 0 then (if r.negative then 2 ^ (f.eb + f.fb) else 0) else f.enc (r.val.scale (-g.scale))
  | none => unsigned w (r.val.scale (-g.scale)).floor

/-- An output element before its format is applied: the exact value, or a dropped element (R163, R167). -/
structure OutElem where
  v : Dyad
  dropped : Bool
  deriving DecidableEq, Repr

/-- The element (i, j), scaled and with dropout applied. -/
def CoreState.outElem (k : CoreState) (o : Out) (i j : Nat) : OutElem :=
  let v := (k.accElem o.acc i j).val.scale o.oscale
  if o.drop then
    let ud := lane (nap6 k.key (napBlock 3 (outIndex o.base o.stride i j) (o.seq / 8))) (o.seq % 8)
    if o.keep ≤ ud then ⟨Dyad.zero, true⟩ else ⟨v.mul (fmtF32.val o.keepscale), false⟩
  else ⟨v, false⟩

/-- The scale byte X of an output vector (R166). -/
def outScale (es : List OutElem) : Nat :=
  let a := es.foldl (fun a e => if a.lt e.v.abs then e.v.abs else a) Dyad.zero
  if a.m = 0 then 0 else (max 0 (min 254 (a.log2 - 2 + 127))).toNat

/-- The vector of one output row: its scale byte and its rounded elements. -/
def CoreState.outRow (k : CoreState) (o : Out) (ex i : Nat) : Nat × List Rounded :=
  let es := (List.range 32).map (k.outElem o i)
  let x := if o.dfmt = 2 then outScale es else 0
  (x, es.mapIdx fun j e =>
    if e.dropped then ⟨Dyad.zero, false, false, false⟩
    else roundDest e.v (gridOf o.dfmt x ex) o.sr
      (lane (nap6 k.key (napBlock 2 (outIndex o.base o.stride i j) (o.seq / 8))) (o.seq % 8)))

/-- Bits of an element of a destination format. -/
def outBits (dfmt : Nat) : Nat := if dfmt = 2 then 4 else if dfmt = 3 ∨ dfmt = 7 then 16 else if dfmt = 5 then 32 else if dfmt = 6 then 12 else 8

/-- The bytes of one output vector in scratch (Table 5-3). -/
def outVector (dfmt x : Nat) (rs : List Rounded) : List Byte :=
  let cs := rs.map ((gridOf dfmt x 0).encode (outBits dfmt))
  if dfmt = 2 then (List.range 16).map fun n => BitVec.ofNat 8 (cs.getD (2 * n) 0 + 16 * cs.getD (2 * n + 1) 0)
  else cs.flatMap (bytesOf (outBits dfmt / 8))

/-- The rows written to scratch: vectors one after another, then the scales of DFMT 2. -/
def CoreState.outScratch (k : CoreState) (o : Out) (rows : List (Nat × List Rounded)) : CoreState :=
  let k := k.writeScratch o.addr (rows.flatMap fun r => outVector o.dfmt r.1 r.2)
  if o.dfmt = 2 then k.writeScratch (o.addr + 512) (rows.map fun r => BitVec.ofNat 8 r.1) else k

/-- The cell that output element (i, j) writes in a quadrant (R169). -/
def quadCell (quad i j : Nat) : Nat := cellBit (32 * (quad / 2) + i) (32 * (quad % 2) + j)

/-- The writes of a conditioning-plane destination (R169). -/
def outPlane (o : Out) (ex : Nat) (rows : List (Nat × List Rounded)) : List FeltWrite :=
  rows.zipIdx.flatMap fun r => r.1.2.zipIdx.flatMap fun e =>
    feltBytes false (Win.cond + 0x2000 * bitsOf o.addr 0 4 + 2 * quadCell (bitsOf o.addr 4 2) r.2 e.2)
      (bytesOf 2 ((gridOf 6 0 ex).encode 12 e.1))

/-- The encoding in binary64 of a destination value as written. -/
def Rounded.watched (r : Rounded) : Watched :=
  ⟨if r.val.m = 0 ∧ r.negative then 2 ^ 63 else fmtF64.enc r.val, r.sat⟩

/-- A destination without a signed zero holds +0. -/
def Rounded.inFormat (r : Rounded) (dfmt : Nat) : Rounded :=
  if dfmt = 4 ∨ dfmt = 6 ∨ dfmt = 7 then { r with negative := decide (r.val.m < 0) } else r

/-- What an FE_OUT leaves: the rows that it writes (R171), all of them unless a stop cuts it. -/
def State.feOut (s : State) (c : Nat) (h : Handle) (i : Issued) : State :=
  let o := i.out
  let k0 := s.core c
  let ex := k0.regF Reg.feltExp 0 6
  let n := s.partsMade i 32 8 1
  let rows := (List.range n).map (k0.outRow o ex)
  let rs := rows.flatMap (·.2)
  let sats := (rs.filter fun r => r.sat).length
  let t : State := s.modCore c fun k =>
    let k := if sats = 0 then k else (k.count Reg.feOsat sats).setBits Reg.feFlags 0x2
    let k := k.count Reg.feSrdraw (rs.filter fun r => r.drew).length
    let k := if o.drop then k.count Reg.feMaskdraw (32 * n) else k
    if o.dest = 0 then k.outScratch o rows else k
  let t : State := if o.dest = 1 then t.feltWrite c (outPlane o ex rows) else t
  t.watchCmd c h none i (rs.map fun r => (r.inFormat o.dfmt).watched)

/-- FE_OUT (R161 to R167, R169, R171). -/
def execFeOut (core : CoreNum) (s : State) : Host.Outcome State Fault Refusal :=
  let c := core.toNat
  match s.engineCmd c 0x31 with
  | none => .next s
  | some (h, j, i) => .next ((s.feOut c h i).finishCmd c j i)

/-! ## FE_BERN and NAP_FILL -/

/-- The outcome of element (i, j) (R170). -/
def CoreState.bernElem (k : CoreState) (b : Bern) (i j : Nat) : Bool :=
  let p := if b.psrc = 1 then natOf (k.scratch (b.paddr + 64 * i + 2 * j) 2) else b.p
  decide (lane (nap6 k.key (napBlock 3 (outIndex b.base b.stride i j) (b.seq / 8))) (b.seq % 8) < p)

/-- A row of bits, bit j for element j. -/
def rowBits (xs : List Bool) : Nat := xs.zipIdx.foldl (fun v x => v + bit x.1 * 2 ^ x.2) 0

/-- The INT8 value of an outcome; the bit form and a spin read as 0 or 1 (R455). -/
def bernValue (b : Bern) (x : Bool) : Int := if b.dest = 0 ∧ b.ofmt = 1 then (if x then 1 else -1) else (bit x : Nat)

/-- The bytes of the outcomes in scratch (R168). -/
def bernBytes (b : Bern) (rows : List (List Bool)) : List Byte :=
  if b.ofmt = 2 then rows.flatMap fun r => bytesOf 4 (rowBits r)
  else rows.flatMap fun r => r.map fun x => BitVec.ofInt 8 (bernValue b x)

/-- What an FE_BERN leaves. -/
def State.feBern (s : State) (c : Nat) (h : Handle) (i : Issued) : State :=
  let b := i.bern
  let n := s.partsMade i 32 8 1
  let rows := (List.range n).map fun r => (List.range 32).map ((s.core c).bernElem b r)
  let t : State := s.modCore c fun k =>
    let k := k.count Reg.feMaskdraw (32 * n)
    if b.dest = 0 then k.writeScratch b.addr (bernBytes b rows) else k
  let quad := bitsOf b.addr 4 2
  let t : State := if b.dest = 1 then
      t.feltWrite c (rows.zipIdx.flatMap fun r =>
        feltBytes false (Win.spins + 512 * bitsOf b.addr 0 4 + quadCell quad r.2 0 / 8) (bytesOf 4 (rowBits r.1)))
    else t
  t.watchCmd c h none i (rows.flatten.map fun x => ⟨fmtF64.enc (Dyad.ofInt (bernValue b x)), false⟩)

/-- FE_BERN (R168, R170, R171). -/
def execFeBern (core : CoreNum) (s : State) : Host.Outcome State Fault Refusal :=
  let c := core.toNat
  match s.engineCmd c 0x32 with
  | none => .next s
  | some (h, j, i) => .next ((s.feBern c h i).finishCmd c j i)

/-- u(h), in binary64 (R240). -/
def napUniform (h : Nat) : Nat := fmtF64.enc ⟨2 * (h / 2 ^ 12 : Nat) + 1, -53⟩

/-- The 16 bytes of element (i, j) of a NAP_FILL (R240). -/
def CoreState.fillElem (k : CoreState) (x : Fill) (i j : Nat) : List Byte :=
  let y := nap6 k.key (napBlock 5 (outIndex x.base x.stride i j) x.seq)
  if x.fmt = 0 then bytesOf 16 y else bytesOf 8 (napUniform (y % 2 ^ 64)) ++ bytesOf 8 (napUniform (y >>> 64))

/-- What a NAP_FILL leaves. -/
def State.napFill (s : State) (c : Nat) (i : Issued) : State :=
  let x := i.fill
  let n := s.partsMade i x.rows 8 1
  s.modCore c fun k =>
    (k.count Reg.napUser (32 * n)).writeScratch x.addr ((List.range n).flatMap fun r => (List.range 32).flatMap (k.fillElem x r))

/-- NAP_FILL (R239 to R241). -/
def execNapFill (core : CoreNum) (s : State) : Host.Outcome State Fault Refusal :=
  let c := core.toNat
  match s.engineCmd c 0x33 with
  | none => .next s
  | some (_, j, i) => .next ((s.napFill c i).finishCmd c j i)

end Sys2Proof.Machine
end

