-- ==== Sys2Proof/Machine/Felt.lean ====
section
/-! DEFINITION. The Felt tile: the update rule and its schedules (R102 to R111), quantising loads (R97 to R101) and replica
exchange (R112 to R115). -/

namespace Sys2Proof.Machine

/-! ## The update rule -/

/-- The bit-exact decision of R103. -/
def feltDecide (h : Int) (b e u : Nat) : Bool :=
  let a : Int := 2 * (b : Int) * h
  let l := logitQ12 u
  let lhs := if 32 ≤ e then a * 2 ^ (e - 32) else a
  let rhs := if 32 ≤ e then l else l * 2 ^ (32 - e)
  decide (lhs > rhs) || (lhs == rhs && decide (u < 32768))

/-- The logical index of a cell (R95). -/
def CoreState.cellIndex (k : CoreState) (r c : Nat) : Nat :=
  (k.regF Reg.feltOrigin 28 28 + r) * 2 ^ 28 + k.regF Reg.feltOrigin 0 28 + c

/-- Colour and rank of a cell, in logical coordinates (R106). -/
def CoreState.colour (k : CoreState) (r c : Nat) : Nat := (k.regF Reg.feltOrigin 28 28 + r + k.regF Reg.feltOrigin 0 28 + c) % 2
def CoreState.rank (k : CoreState) (r : Nat) : Nat := (k.regF Reg.feltOrigin 28 28 + r) % 2

/-- The beta code that plane p uses (R112). -/
def CoreState.betaOf (k : CoreState) (p : Nat) : Nat := k.regF (Reg.feltBeta (k.regF Reg.feltPerm (4 * p) 4)) 0 16

/-- The spin planes in force. -/
def State.spinsNow (s : State) (c p : Nat) : BitVec 4096 := (s.core c).spin p

/-- The planes of the snapshot (R43). -/
def State.spinsSnap (s : State) (c p : Nat) : BitVec 4096 := (s.core c).snapshot p

/-- The field H of a cell (R102). -/
def State.feltField (s : State) (c p r cc : Nat) : Int :=
  let k := s.core c
  (List.range 8).foldl (fun h d =>
    let r1 := (r : Int) + (dirOf d).1
    let c1 := (cc : Int) + (dirOf d).2
    if s.cellIn c r1 c1 then
      h + (if s.spinAt s.spinsNow c p r1 c1 then k.coupling r cc d else -(k.coupling r cc d))
    else h) (k.baseBias r cc + k.condBias p r cc)

/-- The 16-bit code U of an update (R105). -/
def CoreState.feltDraw (k : CoreState) (p r cc : Nat) : Nat :=
  let w := (k.reg (Reg.feltSweep p (k.colour r cc))).toNat
  lane (nap6 k.key (napBlock 1 (k.cellIndex r cc) (2 * w + p / 8))) (p % 8)

/-- Plane p after one stage: stage 0 decides the cells of rank 0 (all cells in the relaxed schedule), stage 1 those of
rank 1, of the colour; held cells and cells outside FELT_SIZE keep their spins (R93, R95, R106, R108). -/
def State.feltStage (s : State) (c p col : Nat) (relaxed : Bool) (stage : Nat) : BitVec 4096 :=
  let k := s.core c
  if relaxed ∧ stage = 1 then k.spin p
  else
    (List.range k.rows).foldl (fun x r =>
      (List.range k.cols).foldl (fun x cc =>
        if (relaxed ∨ (k.colour r cc = col ∧ k.rank r = stage)) ∧ !(k.holdMask p).getLsbD (cellBit r cc) then
          let v := feltDecide (s.feltField c p r cc) (k.betaOf p) (k.regF Reg.feltExp 0 6) (k.feltDraw p r cc)
          if v then x ||| BitVec.twoPow 4096 (cellBit r cc) else x &&& ~~~(BitVec.twoPow 4096 (cellBit r cc))
        else x) x) (k.spin p)

/-- A tile that makes a step in this cycle: its core, its plane and colour, and whether it is relaxed. -/
structure FeltAct where
  core : Nat
  plane : Nat
  colour : Nat
  relaxed : Bool
  deriving DecidableEq, Repr

/-- Every active tile makes one stage of its step on the spins in force. -/
def State.stageAll (s : State) (as : List FeltAct) (stage : Nat) : State :=
  (as.map fun a => (a, s.feltStage a.core a.plane a.colour a.relaxed stage)).foldl (fun t x =>
    t.modCore x.1.core fun k => { k with spins := tabSet 0 k.spins x.1.plane x.2 }) s

/-- Coincident flips of one stage that a tile owns: pairs of non-zero coupling whose cells both flipped (R109). -/
def State.coincident (s0 s1 : State) (a : FeltAct) : Nat :=
  let k := s0.core a.core
  let flip (r c : Int) : Bool :=
    s0.cellIn a.core r c && s0.spinAt s0.spinsNow a.core a.plane r c != s1.spinAt s1.spinsNow a.core a.plane r c
  ((List.range k.rows).flatMap fun (r : Nat) => (List.range k.cols).flatMap fun (cc : Nat) =>
    if flip (r : Int) (cc : Int) then
      (List.range 4).filter fun d =>
        k.coupling r cc d != 0 && flip ((r : Int) + (dirOf d).1) ((cc : Int) + (dirOf d).2)
    else []).length

/-- Counts of a tile after its step: flips, coincident flips and W (R107 to R110). -/
def State.stepCounts (s : State) (s0 s1 : State) (a : FeltAct) : State :=
  let flips := popcount 4096 ((s0.core a.core).spin a.plane ^^^ (s.core a.core).spin a.plane).toNat
  let n := (s.core a.core).regF Reg.feltCoinc 0 32 + s0.coincident s1 a + s1.coincident s a
  s.modCore a.core fun k =>
    let k := (k.count Reg.feltFlips flips).setRegF Reg.feltCoinc 0 32 (min n 0xFFFFFFFF)
    let k := if n > 0xFFFFFFFF then k.setBits Reg.feltFlags 0x1 else k
    let bump (k : CoreState) (c : Nat) := k.setReg (Reg.feltSweep a.plane c) (k.reg (Reg.feltSweep a.plane c) + 1)
    if a.relaxed then bump (bump k 0) 1 else bump k a.colour

/-- FELT_POS after a step (R107, R108). -/
def CoreState.advance (k : CoreState) (relaxed : Bool) : CoreState :=
  let p := k.regF Reg.feltPos 0 4
  let c := k.regF Reg.feltPos 4 1
  k.setReg Reg.feltPos (BitVec.ofNat 64 ((p + 1) % 16 + 16 * (if p = 15 ∧ !relaxed then 1 - c else c)))

/-- The runs that step in cycle `cyc`: core, command. -/
def runsAt (runs : List (Nat × Issued)) (cyc : Nat) : List (Nat × Issued) :=
  runs.filter fun x => decide (x.2.runStart ≤ cyc) && decide (cyc < x.2.runStart + x.2.runSteps)

/-- One cycle of the tiles that run: their steps are made together, stage by stage (R106, R117). -/
def State.feltCycle (s : State) (runs : List (Nat × Issued)) (cyc : Nat) : State :=
  let now := runsAt runs cyc
  let s := (now.filter fun x => x.2.runStart == cyc && x.2.f 0 9 1 == 0).foldl
    (fun s x => s.modCore x.1 fun k => k.setReg Reg.feltPos 0) s
  let acts := now.filterMap fun x =>
    let p := (s.core x.1).regF Reg.feltPos 0 4
    if (x.2.f 0 32 16).testBit p then some ⟨x.1, p, (s.core x.1).regF Reg.feltPos 4 1, x.2.f 0 8 1 == 1⟩ else none
  let s1 := s.stageAll acts 0
  let s2 := s1.stageAll acts 1
  let s3 := acts.foldl (fun t a => t.stepCounts s s1 a) s2
  now.foldl (fun s x => s.modCore x.1 fun k => k.advance (x.2.f 0 8 1 == 1)) s3

/-- The FELT_RUN commands that the job's tiles hold. -/
def State.feltRuns (s : State) (j : Job) : List (Nat × Issued) :=
  j.engines.filterMap fun e =>
    match s.engineCmd e.2 0x20 with
    | some (_, _, i) => some (e.2, i)
    | none => none

/-- The steps of the job's runs in the cycles before cycle `stop` of beat `beat` that have not been made: every tile that runs in a
cycle makes its step together with the others (R106, R117). -/
def State.feltUpTo (s : State) (j : Job) (beat stop : Nat) : State :=
  let runs := (s.feltRuns j).filter fun x => x.2.beat == beat
  let todo (cyc : Nat) := (runsAt runs cyc).filter fun x => decide (((s.core x.1).engine 0).stepped ≤ cyc)
  let t := (List.range (min stop beatCycles)).foldl (fun t cyc => if (todo cyc).isEmpty then t else t.feltCycle (todo cyc) cyc) s
  runs.foldl (fun t x => t.modCore x.1 fun k => k.setEngine 0 { k.engine 0 with stepped := max (k.engine 0).stepped stop }) t

/-- The run's last step has come. -/
def State.runOver (s : State) (i : Issued) : Bool := decide (i.beat * beatCycles + i.runStart + i.runSteps ≤ s.now + 1)

/-- FELT_RUN: the tile's steps from START on, once the cycle of the last has come. Tiles that the edge network joins step together,
so this makes the steps of the job's other runs up to that cycle as well (DEDUCED, log entry 33). -/
def execFeltRun (core : CoreNum) (s : State) : Host.Outcome State Fault Refusal :=
  let c := core.toNat
  match s.engineCmd c 0x20 with
  | none => .next s
  | some (_, j, i) =>
    if s.runOver i then
      let s1 : State := if s.nbrBad c then s.modCore c fun k => k.setBits Reg.feltFlags 0x8 else s
      .next ((s1.feltUpTo j i.beat (i.runStart + i.runSteps)).finishCmd c j i)
    else .next s

/-! ## Quantising loads -/

/-- A value that a record gives: the offset of the storage it goes to, whether it is a bias, and the binary32. -/
structure QValue where
  at_ : Nat
  bias : Bool
  bits : Nat
  deriving DecidableEq, Repr

/-- The values read from the records of a command, in order (R97). `data` starts at the first granule. -/
def State.qValues (s : State) (c : Nat) (q : Quant) (data : List Byte) : List QValue :=
  let k := s.core c
  let base := 48 * q.firstRec % 64
  (List.range q.count).flatMap fun n =>
    let rec_ := q.firstRec + n
    let r := rec_ / 64
    let cc := rec_ % 64
    let word (o : Nat) := natOf ((data.drop (base + 48 * n + o)).take 4)
    if r < k.rows ∧ cc < k.cols then
      ((List.range 8).filter fun d =>
        s.cellIn c ((r : Int) + (dirOf d).1) ((cc : Int) + (dirOf d).2) && (decide (d < 4) || inEdgeArray r cc d)).map
          (fun d => ⟨couplingAt r cc d, false, word (4 * d)⟩) ++ [⟨Win.base + 2 * cellBit r cc, true, word 32⟩]
    else []

def QValue.limit (v : QValue) : Int := if v.bias then 2047 else 127
def QValue.finite (v : QValue) : Bool := !fmtF32.special v.bits

/-- v x 2^(32-e), exact (R98). -/
def QValue.scaled (v : QValue) (e : Nat) : Dyad := (fmtF32.val v.bits).scale (32 - (e : Int))

/-- need(v) (R98). -/
def QValue.need (v : QValue) : Nat :=
  ((List.range 64).find? fun e => decide ((v.scaled e).rne.natAbs ≤ v.limit.natAbs)).getD 63

/-- The mantissa written (R100). -/
def QValue.mantissa (v : QValue) (e : Nat) : Int :=
  if fmtF32.isNan v.bits then 0
  else if fmtF32.special v.bits then (if fmtF32.sign v.bits then -v.limit else v.limit)
  else max (-v.limit) (min v.limit (v.scaled e).rne)

/-- A clamp, a NaN or an infinity (R100). -/
def QValue.saturates (v : QValue) (e : Nat) : Bool :=
  !v.finite || decide ((v.scaled e).rne.natAbs > v.limit.natAbs)

/-- The error in 1/256 of a mantissa step (R100). -/
def QValue.error (v : QValue) (e : Nat) : Nat :=
  if v.finite then (((v.scaled e).sub (Dyad.ofInt (v.mantissa e))).abs.scale 8).floor.toNat else 0

def QValue.bytes (v : QValue) (e : Nat) : List FeltWrite :=
  if v.bias then feltBytes true v.at_ (bytesOf 2 (unsigned 12 (v.mantissa e)))
  else feltBytes true v.at_ (bytesOf 1 (unsigned 8 (v.mantissa e)))

/-- The values of the records that the command's reads have brought. -/
def State.qRead (s : State) (c : Nat) (i : Issued) : List QValue × State :=
  let q := i.quant
  let s := if s.nbrBad c then s.modCore c fun k => k.setBits Reg.feltFlags 0x8 else s
  (s.qValues c q ((s.core c).operands 4 0 q.granules), s)

/-- FELT_QSCAN: the exponent that the values need (R98, R99). -/
def execFeltQscan (core : CoreNum) (s : State) : Host.Outcome State Fault Refusal :=
  let c := core.toNat
  match s.readyCmd c 0x21 with
  | none => .next s
  | some (_, j, i) =>
    let r := s.qRead c i
    let prev := if i.quant.first then 0 else (s.core c).regF Reg.feltQacc 0 6
    let e := (r.1.filter QValue.finite).foldl (fun e v => max e v.need) prev
    .next ((r.2.modCore c fun k => k.setReg Reg.feltQacc (BitVec.ofNat 64 (e + 256))).finishCmd c j i)

/-- FELT_QCONV: the mantissas, which come into force at the boundary, and FELT_QERR (R100). -/
def execFeltQconv (core : CoreNum) (s : State) : Host.Outcome State Fault Refusal :=
  let c := core.toNat
  match s.readyCmd c 0x22 with
  | none => .next s
  | some (_, j, i) =>
    let q := i.quant
    let e := if q.fixed then q.exp else (s.core c).regF Reg.feltQacc 0 6
    let s0 : State := if q.first then s.modCore c fun k =>
      { k.setReg Reg.feltQerr 0 with rws := tabPut k.rws Reg.feltExp (BitVec.ofNat 64 e) } else s
    let r := s0.qRead c i
    let vs := r.1
    let sat := (vs.filter fun v => v.saturates e).length
    let zeroed := (vs.filter fun v => v.finite && (fmtF32.val v.bits).m != 0 && v.mantissa e == 0).length
    let err := vs.foldl (fun n v => max n (v.error e)) 0
    let s1 : State := r.2.modCore c fun k =>
      let o := (k.reg Reg.feltQerr).toNat
      let k := k.setReg Reg.feltQerr (BitVec.ofNat 64
        (max (bitsOf o 0 8) (min 255 err) + satAdd 16 (bitsOf o 8 16) zeroed * 2 ^ 8 + satAdd 8 (bitsOf o 24 8) sat * 2 ^ 24))
      if sat = 0 then k else k.setBits Reg.feltFlags 0x2
    .next ((s1.feltWrite c (vs.flatMap fun v => v.bytes e)).finishCmd c j i)

/-! ## Replica exchange -/

/-- The partial E_int of plane p from the snapshot (R114). -/
def State.energyPartial (s : State) (c p : Nat) : Int :=
  let k := s.core c
  let sp (r cc : Int) : Int := if s.spinAt s.spinsSnap c p r cc then 1 else -1
  let cell (x : Int) (r cc : Nat) : Int :=
    (List.range 4).foldl (fun x d =>
      let r1 := (r : Int) + (dirOf d).1
      let c1 := (cc : Int) + (dirOf d).2
      if s.cellIn c r1 c1 then x + k.coupling r cc d * sp r cc * sp r1 c1 else x)
      (x + (k.baseBias r cc + k.condBias p r cc) * sp r cc)
  0 - (List.range k.rows).foldl (fun x r => (List.range k.cols).foldl (fun x cc => cell x r cc) x) 0

/-- G: the beats from an exchange beat to its decision (R113, R139, R145). -/
def CoreState.lag (k : CoreState) : Nat :=
  if k.regF Reg.feltXcfg 0 2 = 1 ∨ k.regF Reg.feltXcfg 0 2 = 2 then k.regF Reg.feltXcfg 8 6 else 2

/-- Job beat `b`, the running one, is an exchange beat by the registers in force at its cycle 0 (R113). -/
def CoreState.exchangeBeat (k : CoreState) (b : Nat) : Bool :=
  let p := bitsOf (k.reg0 Reg.feltXchg) 0 16
  p != 0 && b % p == bitsOf (k.reg0 Reg.feltXchg) 16 16

/-- The first core of a job on this module. -/
def Job.firstCore (j : Job) : Option Nat := j.engines.head?.map (·.2)

/-- EXCHANGE_BEAT: every tile of the job forms its energy partials, and the exchange round is FELT_XROUND at this beat (R113,
R114). -/
def execExchangeBeat (handle : Handle) (s : State) : Host.Outcome State Fault Refusal :=
  match s.job handle with
  | none => .next s
  | some j =>
    if s.jobRuns j ∧ j.firstCore.any fun c => (s.core c).exchangeBeat (s.jobBeat j) then
      .next (j.engines.foldl (fun t e =>
        t.modCore e.2 fun k =>
          let k := (List.range 16).foldl (fun k p =>
            k.setReg (Reg.feltEnergy p) (BitVec.ofNat 64 (unsigned 32 (s.energyPartial e.2 p)))) k
          let k := { k with
            energyExp := k.regF Reg.feltExp 0 6
            rounds := k.rounds.filter (fun x => x.1 != s.jobBeat j) ++ [(s.jobBeat j, BitVec.ofNat 64 (k.reg0 Reg.feltXround))] }
          if s.nbrBad e.2 then k.setBits Reg.feltFlags 0x8 else k) s)
    else .next s

/-- An exact value as an accumulator element with no error term: integers of at most 32 bits are exact in binary64. -/
def accExact (x : Dyad) : AccSum := ⟨⟨fmtF64.enc x, 0⟩, false, 0⟩

/-- The leaf of logical engine e for plane p: from its tile, or, on another module, a free value of the same form
(DESIGN CHOICE, log entry 34). -/
def State.energyLeaf (s : State) (j : Job) (p e : Nat) : AccSum :=
  match j.coreOf e with
  | some c => accExact ⟨signed 32 ((s.core c).reg (Reg.feltEnergy p)).toNat, (s.core c).energyExp - 32⟩
  | none =>
    let v := (Config.freeValue (s.free + 16 * e + p)).toNat
    accExact ⟨signed 32 v, (bitsOf v 32 6 : Int) - 32⟩

/-- E of plane p, read out as binary64 (R114). -/
def State.planeEnergy (s : State) (j : Job) (p : Nat) : Dyad :=
  (accTree ((List.range j.image.e).map (s.energyLeaf j p))).acc.read64

/-- The plane whose SLOT is i. -/
def planeOf (perm i : Nat) : Nat := ((List.range 16).find? fun p => bitsOf perm (4 * p) 4 == i).getD 0

/-- FELT_PERM after round r (R115). -/
def CoreState.exchange (k : CoreState) (r : Nat) (energy : Nat → Dyad) : Nat :=
  let perm := (k.reg Reg.feltPerm).toNat
  ((List.range 15).filter fun i => i % 2 == r % 2).foldl (fun x i =>
    let pa := planeOf perm i
    let pb := planeOf perm (i + 1)
    let de := rne64 ((energy pa).sub (energy pb))
    let db : Dyad := ⟨(k.regF (Reg.feltBeta i) 0 16 : Int) - k.regF (Reg.feltBeta (i + 1)) 0 16, -12⟩
    let v := (rne64 (db.mul de)).scale 12
    let u := lane (nap6 k.key (napBlock 6 0 (2 * r + i / 8))) (i % 8)
    let l := Dyad.ofInt (logitQ12 u)
    if l.lt v ∨ (l.eq v ∧ u < 32768) then putBits (putBits x (4 * pa) 4 (i + 1)) (4 * pb) 4 i else x) perm

/-- The round of the exchange whose decision falls in job beat `b`: that of beat X with X + G = b (R113, R145). -/
def CoreState.roundDue (k : CoreState) (b : Nat) : Option Dword :=
  (k.rounds.find? fun x => x.1 + k.lag == b).map (·.2)

/-- REPLICA_EXCHANGE_DECIDE: in beat X + G every engine makes the same decisions; the outcome is in force from the next
beat (R113, R115, R145). -/
def execReplicaExchangeDecide (handle : Handle) (s : State) : Host.Outcome State Fault Refusal :=
  match s.job handle with
  | none => .next s
  | some j =>
    match j.firstCore with
    | none => .next s
    | some c0 =>
      let b := s.jobBeat j
      match (s.core c0).roundDue b with
      | none => .next s
      | some r =>
        if s.jobRuns j then
          let energy (p : Nat) := s.planeEnergy j p
          let t := j.engines.foldl (fun t e => t.modCore e.2 fun k =>
            { k.count Reg.napXchg 2 with
              rounds := k.rounds.filter fun x => x.1 + k.lag != b
              regNext := k.regNext ++
                [⟨s.beat + 1, Reg.feltPerm, BitVec.ofNat 64 (k.exchange r.toNat energy), -1⟩,
                 ⟨s.beat + 1, Reg.feltXround, r + 1, -1⟩] }) s
          .next { t with free := t.free + 16 * j.image.e }
        else .next s

/-- FELT_BETA_SET: the 16 beta codes of an anneal-table entry, in force from the next boundary (R138). -/
def execFeltBetaSet (core : CoreNum) (s : State) : Host.Outcome State Fault Refusal :=
  let c := core.toNat
  match s.readyCmd c 0x26 with
  | none => .next s
  | some (_, j, i) =>
    let a := ((s.core c).regF Reg.feltAnneal 0 44 + 32 * i.f 0 8 16) % 2 ^ 44
    let bs := (s.core c).operands 4 0 1
    .next ((s.modCore c fun k =>
      { k with rws := (List.range 16).foldl (fun t n =>
          tabPut t (Reg.feltBeta n) (BitVec.ofNat 64 (natOf ((bs.drop (a % 64 + 2 * n)).take 2)))) k.rws }).finishCmd c j i)

end Sys2Proof.Machine
end

