-- ==== Sys2Proof/Machine/FeltLarge.lean ====
section
/-! DEFINITION. Larger models: tile images and rotation (R126 to R134), and exchange between blocks (R140 to R146). -/

namespace Sys2Proof.Machine

/-! ## Tile images -/

/-- Bytes of a row of storage of the core window. -/
def CoreState.stored (k : CoreState) (o n : Nat) : List Byte := bytesRead k.store o n

/-- The packed base biases: cells 2k and 2k + 1 in the 24-bit word at byte 3k (Table 4-2). -/
def CoreState.packedBias (k : CoreState) : List Byte :=
  (List.range 2048).flatMap fun n =>
    bytesOf 3 (natAt k.store (Win.base + 4 * n) 2 % 4096 + natAt k.store (Win.base + 4 * n + 2) 2 % 4096 * 4096)

/-- The image without its digest (Tables 4-2, 4-3): spins and perimeters from the snapshot, POS, FLIPS, COINC and W as at
cycle 0 of the beat, the rest as in force (R130). -/
def CoreState.imageBody (k : CoreState) : List Byte :=
  (List.range 16).flatMap (fun p => bytesOf 512 (k.snapshot p).toNat) ++
    (List.range 16).flatMap (fun p => bytesOf 512 (k.holdMask p).toNat) ++
    k.stored Win.coupling 16384 ++ k.packedBias ++ k.stored Win.edgeW 384 ++ zeros 128 ++
    (List.range 4).flatMap (fun part => (List.range 16).flatMap fun p => bytesOf 8 (perimeter (k.snapshot p) part)) ++
    bytesOf 4 1 ++ bytesOf 4 (k.regF Reg.feltExp 0 6) ++ bytesOf 8 (k.reg Reg.feltOrigin).toNat ++
    bytesOf 4 (k.reg Reg.feltSize).toNat ++ bytesOf 4 (k.reg0 Reg.feltPos) ++ bytesOf 8 (k.reg0 Reg.feltFlips) ++
    bytesOf 4 (k.reg0 Reg.feltCoinc) ++ zeros 28 ++
    (List.range 8).flatMap (fun d => bytesOf 16 (tabGet 0 k.descriptors d).toNat) ++ zeros 64 ++
    (List.range 16).flatMap (fun p => bytesOf 8 (k.reg0 (Reg.feltSweep p 0)) ++ bytesOf 8 (k.reg0 (Reg.feltSweep p 1))) ++
    zeros 504

/-- The complete image of 40,960 bytes. -/
def CoreState.image (k : CoreState) : List Byte := k.imageBody ++ bytesOf 8 (digest k.imageBody)

/-- Granule i of a run of bytes. -/
def granuleAt (bs : List Byte) (i : Nat) : Granule := BitVec.ofNat 512 (natOf ((bs.drop (64 * i)).take 64))

/-- Writes of a command, transfer j of 64 bytes through its j-th slot (R314). -/
def State.writeAll (s : State) (c : Nat) (h : Handle) (j : Job) (e : Nat) (slots : List (Nat × Word)) (as : List Nat)
    (data : List Byte) : State :=
  as.zipIdx.foldl (fun s x =>
    match slots[x.2]? with
    | some sl => s.launchWrite c h j e sl x.1 64 .ready .memory (granuleAt data x.2)
    | none => s.slotError c e x.1) s

/-- ROT_STORE: the tile's image leaves for its address (R130). -/
def execRotStore (core : CoreNum) (s : State) : Host.Outcome State Fault Refusal :=
  let c := core.toNat
  match s.engineCmd c 0x23 with
  | none => .next s
  | some (h, j, i) =>
    .next ((s.writeAll c h j 4 (s.cmdSlots c j i) (granules (i.f 1 0 44) 640) (s.core c).image).finishCmd c j i)

/-- A neighbour descriptor (Table 4-4). -/
def descKind (d : BitVec 128) : Nat := bitsOf d.toNat 0 2
def descEngine (d : BitVec 128) : Nat := bitsOf d.toNat 16 16
def descAddr (d : BitVec 128) : Nat := bitsOf d.toNat 64 44

def imageNat (img : List Byte) (o n : Nat) : Nat := natOf ((img.drop o).take n)

def imageDesc (img : List Byte) (d : Nat) : BitVec 128 := BitVec.ofNat 128 (imageNat img (0x9C40 + 16 * d) 16)

/-- The neighbour entry that a descriptor gives (R122, R131). -/
def nbrEntry (j : Job) (d : BitVec 128) : Nat :=
  match descKind d with
  | 0 => 0
  | 1 => (j.coreOf (descEngine d)).getD 0 + 0x1000
  | _ => 0x2000

/-- The storage of an image, as writes that wait for the boundary. -/
def imageWrites (img : List Byte) : List FeltWrite :=
  feltBytes true Win.spins (img.take 8192) ++ feltBytes true Win.hold ((img.drop 0x2000).take 8192) ++
    feltBytes true Win.coupling ((img.drop 0x4000).take 16384) ++
    (List.range 2048).flatMap (fun n =>
      let w := imageNat img (0x8000 + 3 * n) 3
      feltBytes true (Win.base + 4 * n) (bytesOf 2 (w % 4096) ++ bytesOf 2 (w / 4096))) ++
    feltBytes true Win.edgeW ((img.drop 0x9800).take 384)

/-- The registers of an image, in force from beat `b`. -/
def imageRegs (j : Job) (img : List Byte) (src b : Nat) : List RegNext :=
  let ds := (List.range 8).map (imageDesc img)
  let nbr (n : Nat) := ((ds.drop n).take 4).zipIdx.foldl (fun v x => v + nbrEntry j x.1 * 2 ^ (16 * x.2)) 0
  let acc := ds.zipIdx.foldl (fun v x => v + bit (descKind x.1 == 3) * 2 ^ x.2) 0
  let v (o n : Nat) := BitVec.ofNat 64 (imageNat img o n)
  [(Reg.feltExp, v 0x9C04 4 &&& 0x3F), (Reg.feltOrigin, v 0x9C08 8 &&& 0xFFFFFFFFFFFFFF),
    (Reg.feltSize, BitVec.ofNat 64 (coreFix Reg.feltSize (imageNat img 0x9C10 4)).1), (Reg.feltPos, v 0x9C14 4 &&& 0x1F),
    (Reg.feltFlips, v 0x9C18 8), (Reg.feltCoinc, v 0x9C20 4), (Reg.feltNbrA, BitVec.ofNat 64 (nbr 0)),
    (Reg.feltNbrB, BitVec.ofNat 64 (nbr 4)), (Reg.feltImg, BitVec.ofNat 64 src)].map (fun r => ⟨b, r.1, r.2, -1⟩) ++
    [⟨b, Reg.feltXcfg, BitVec.ofNat 64 (acc * 2 ^ 16), 0xFF0000⟩, ⟨b, Reg.feltImgstat, 1, 1⟩] ++
    (List.range 32).map fun n => ⟨b, Reg.feltSweep 0 0 + 8 * n, v (0x9D00 + 8 * n) 8, -1⟩

/-- The faults of an image: digest, format, a live neighbour that this module does not hold (R132). -/
def imageFaults (j : Job) (img : List Byte) : Nat :=
  bit (imageNat img 0x9FF8 8 != digest (img.take 0x9FF8)) + 2 * bit (imageNat img 0x9C00 4 != 1) +
    4 * bit ((List.range 8).any fun d => descKind (imageDesc img d) == 1 && (j.coreOf (descEngine (imageDesc img d))).isNone)

/-- ROT_LOAD: the image is read and, unless it is faulty, comes into force at the boundary (R131, R132). -/
def execRotLoad (core : CoreNum) (s : State) : Host.Outcome State Fault Refusal :=
  let c := core.toNat
  match s.readyCmd c 0x24 with
  | none => .next s
  | some (_, j, i) =>
    let src := i.f 1 0 44
    let img := (s.core c).operands 4 0 640
    let fixed := (List.range 8).filter fun d => descKind (imageDesc img d) == 2
    let bad := imageFaults j img
    if bad ≠ 0 then
      .next (((s.modCore c fun k => k.setBits Reg.feltImgstat (BitVec.ofNat 64 (2 * bad))).enterJobFault c 0x0D
        ((lowestBit 3 bad).getD 0 + 1) 0 4).finishCmd c j i)
    else
      let edge := fixed.zipIdx.flatMap fun x => [0, 1].flatMap fun half =>
        let bs := (s.core c).operands 4 (640 + 2 * x.2 + half) 1
        (boundaryHalf Win.boundary x.1 half ((List.range 8).map fun p => imageNat bs (8 * p) 8)).map fun w =>
          (⟨true, w.1, 0xFF, w.2⟩ : FeltWrite)
      let t : State := s.modCore c fun k =>
        { k with
          descriptors := (List.range 8).foldl (fun t d => tabSet 0 t d (imageDesc img d)) []
          regNext := k.regNext ++ imageRegs j img src (s.beat + 1) }
      .next ((t.feltWrite c (imageWrites img ++ edge)).finishCmd c j i)

/-! ## Exchange -/

/-- Half `half` of exchanged data reaches the staging buffer for direction d: `ws` are its eight perimeter doublewords. Data for a
direction not in ACCEPT is discarded (R141, R143); in free exchange, a set that is still incomplete when data of a later send
arrives is discarded (R146). -/
def CoreState.stageHalf (k : CoreState) (d half : Nat) (ws : List Nat) : CoreState :=
  if !(k.regF Reg.feltXcfg 16 8).testBit d then k.setBits Reg.feltXstat 0x20000
  else
    let old := tabGet 0 k.staged d
    let late := k.regF Reg.feltXcfg 0 2 == 2 && old != 0 && old != 3 && (half == 0 || old.testBit half)
    let k := if late then k.setBits Reg.feltXstat (BitVec.ofNat 64 (2 ^ (8 + d))) else k
    let new := if late then 2 ^ half else old ||| 2 ^ half
    let k := { k with
      staged := tabSet 0 k.staged d new
      store := (boundaryHalf Win.staging d half ws).foldl (fun m w => bytesWrite m w.1 [w.2]) k.store }
    if new = 3 then k.setBits Reg.feltXstat (BitVec.ofNat 64 (2 ^ d)) else k

/-- The header flit of an addressed message (R345). -/
def freeHeader (engine dir n : Nat) : Granule := BitVec.ofNat 512 (0xA5C3 + engine * 2 ^ 16 + dir * 2 ^ 32 + n * 2 ^ 40)

/-- An addressed message joins the queue of a link port, which holds 32 (R345). -/
def State.queueFree (s : State) (l : Nat) (m : FreeMsg) : State :=
  let p := tabGet LinkPort.reset s.links l
  if p.free.length < 32 then { s with links := tabSet LinkPort.reset s.links l { p with free := p.free ++ [m] } }
  else (s.countDcb32 (Dcb.linkFreedrop l) 1).setDcbBits (Dcb.linkFlags l) 0x10

/-- The two granules of a perimeter part of the snapshot. -/
def CoreState.perimeterGranules (k : CoreState) (d : Nat) : List Granule :=
  let bs := (List.range 16).flatMap fun p => bytesOf 8 (perimeter (k.snapshot p) (partFor d))
  [granuleAt bs 0, granuleAt bs 1]

/-- A granule of exchanged data leaves for the staging buffer of core `m`, through the slice port of its window (R141). -/
def State.sendStaging (s : State) (c : Nat) (h : Handle) (m d half : Nat) (slot : Nat × Word) (g : Granule) : State :=
  let a := 0x20000000000 + 0x1000000 * m + Win.staging + boundaryOffset d / 64 * 64
  s.launch ⟨c, 4, h, true, slotHbm slot.2, slotPort slot.2, a, s.beat, slot.1, accessAt c slot.1 slot.2, firstBytes 64, g,
    slotKind slot.2 != 1, false, .scratch 0 0, .ready, .staging d half⟩

def granuleWords (g : Granule) : List Nat := (List.range 8).map fun i => bitsOf g.toNat (64 * i) 64

/-- EXCH_SEND: 128 bytes of the snapshot's perimeter to the staging buffer of an engine: over the crossbar on this module,
through a link tap to another (R141, R146, R345). -/
def execExchSend (core : CoreNum) (s : State) : Host.Outcome State Fault Refusal :=
  let c := core.toNat
  match s.engineCmd c 0x25 with
  | none => .next s
  | some (h, j, i) =>
    let d := i.f 0 8 3
    let e := i.f 0 16 16
    match s.cmdSlots c j i, (s.core c).perimeterGranules d with
    | [s0, s1], [g0, g1] =>
      match j.coreOf e with
      | some m => .next (((s.sendStaging c h m d 0 s0 g0).sendStaging c h m d 1 s1 g1).finishCmd c j i)
      | none =>
        if slotKind s0.2 ≠ 2 ∨ slotKind s1.2 ≠ 2 then .next ((s.slotError c 4 0).finishCmd c j i)
        else if (s.core c).regF Reg.feltXcfg 0 2 = 2 then
          let t : State := (s.logPayload c j s0.1 g0).logPayload c j s1.1 g1
          .next ((t.queueFree (slotPort s0.2 / 2) ⟨freeHeader e d 2, [g0, g1]⟩).finishCmd c j i)
        else .next (((s.launchWrite c h j 4 s0 0 64 .ready .memory g0).launchWrite c h j 4 s1 0 64 .ready .memory g1).finishCmd c j i)
    | _, _ => .next ((s.slotError c 4 0).finishCmd c j i)

/-- The staged doublewords of direction d (Table 4-5): the bytes of the staging buffer move as they stand. -/
def CoreState.moveStaged (k : CoreState) (d : Nat) : CoreState :=
  let o := boundaryOffset d
  let n := if isSide d then 128 else 2
  { (k.clearBits Reg.feltXstat (BitVec.ofNat 64 (2 ^ d))) with
    store := bytesWrite k.store (Win.boundary + o) (bytesRead k.store (Win.staging + o) n)
    staged := tabSet 0 k.staged d 0 }

/-- The exchange that falls due in this job beat: Y + G for a beat Y in which the schedule sends to this engine (R141). -/
def State.exchangeDue (s : State) (j : Job) (c : Nat) : Bool :=
  let g := (s.core c).regF Reg.feltXcfg 8 6
  let b := s.jobBeat j
  decide (g ≤ b) && (j.image.sendsTo (j.engineOf c)).contains ((b - g) % max j.image.p 1)

/-- STAGING_MOVE: at Y + G:0 every staged direction moves into the boundary buffer, and an accepted direction without
complete data ends the job; in free exchange, what is complete moves at the boundary (R141, R143, R146). It stands over what the
load/store engine wrote for the same boundary (DESIGN CHOICE, log entry 84). -/
def execStagingMove (core : CoreNum) (s : State) : Host.Outcome State Fault Refusal :=
  let c := core.toNat
  match s.coreJob c with
  | none => .next s
  | some (_, j) =>
    let k := s.core c
    let mode := k.regF Reg.feltXcfg 0 2
    let full := (List.range 8).filter fun d => tabGet 0 k.staged d == 3
    let move (k : CoreState) := (full.foldl CoreState.moveStaged k).setReg Reg.feltXlast s.beatCtr
    if s.cycle ≠ 0 then .next s
    else if mode = 2 then (if full.isEmpty then .next s else .next (s.modCore c move))
    else if mode = 1 ∧ s.exchangeDue j c then
      let miss := (List.range 8).filter fun d => (k.regF Reg.feltXcfg 16 8).testBit d && !full.contains d
      let t : State := if full.isEmpty then s else s.modCore c move
      if miss.isEmpty then .next t
      else
        let late := miss.foldl (fun v d => v + 2 ^ (8 + d)) 0x10000
        .next ((t.modCore c fun k => k.setBits Reg.feltXstat (BitVec.ofNat 64 late)).enterJobFault c 0x0D 4 0 0)
    else .next s

end Sys2Proof.Machine
end

