-- ==== Sys2Proof/Machine/Memory.lean ====
section
/-! DEFINITION. Transfers: LS_MOVE (R318), the landing of writes (R306), the delivery of reads (R310), accesses of
pseudo-channels (R320, R324), refresh and PHY maintenance (R320, R321). -/

namespace Sys2Proof.Machine

/-- The transfer of an LS_MOVE with number `n`, through its slot (R314, R318). A write reads scratch in the cycle of its slot. -/
def State.moveOne (s : State) (c : Nat) (h : Handle) (j : Job) (m : Move) (slot : Option (Nat × Word)) (n : Nat) : State :=
  let bytes := if n + 1 = m.count then m.tail else 64
  match slot with
  | none => s.slotError c 4 (m.addrOf n)
  | some sl =>
    if m.toMem then s.launchWrite c h j 4 sl (m.addrOf n) bytes (.scratch (m.scr + 64 * n)) .memory 0
    else s.launchRead c h j 4 sl (m.addrOf n) bytes (.scratch (m.scr + 64 * n) bytes)

/-- LS_MOVE (R318). -/
def execLsMove (core : CoreNum) (s : State) : Host.Outcome State Fault Refusal :=
  let c := core.toNat
  match s.engineCmd c 0x2A with
  | none => .next s
  | some (h, j, i) =>
    let slots := s.cmdSlots c j i
    .next (((List.range i.move.count).foldl (fun s n => s.moveOne c h j i.move slots[n]? n) s).finishCmd c j i)

/-- The transfer that meets `p` and is earliest by `key`, and the others. -/
def takeDue (l : List Transfer) (p : Transfer → Bool) (key : Transfer → Nat) : Option (Transfer × List Transfer) :=
  match (l.filter p).map key with
  | [] => none
  | k :: ks =>
    let m := ks.foldl min k
    takeFirst (fun x => p x && key x == m) l

/-- The words of an HBM transfer pass the slice port of their pseudo-channel (Table 17-1), where an injected error of that unit waits
for them (R478). Answers the data and the words that leave it with a bad code. -/
def State.passPort (s : State) (x : Transfer) (err : XferErr) (data : Granule) : Granule × Byte × State :=
  let r := s.takeInject (UnitNo.slice x.port)
  let ce := err.ce ||| (if r.1 = some 0x01 then 1 else 0)
  let ue := err.ue ||| (if r.1 = some 0x02 then 1 else 0)
  let d := r.2.spoil data ue
  (d.1, ue, d.2.recordWords false x.port x.core x.engine x.addr x.handle (ce &&& ~~~ue) ue false)

/-- What a landed granule does: it is written, it is held by the node adder, or it is staged (R141, R306, R316). -/
def State.land (s : State) (x : Transfer) (data : Granule) (bad : Byte) : State :=
  match x.target with
  | .memory | .tap _ => s.putGranule x.addr x.mask data bad
  | .node side op fromMem =>
    let held := tabGet [] s.nodes x.port ++ [⟨granuleOf x.addr, side, op, fromMem, x.core, x.handle, data, bad⟩]
    { s with nodes := tabSet [] s.nodes x.port held }
  | .staging d half =>
    match regionOf x.addr with
    | .window m _ => s.modCore m fun k => k.stageHalf d half (granuleWords data)
    | _ => s

/-- A write takes effect at its slice port or pseudo-channel (R306, R313, R476). -/
def State.landWrite (s : State) (x : Transfer) (err : XferErr) : State :=
  if x.mismatch then s.slotError x.core x.engine x.addr
  else
    let p := if x.hbm then s.passPort x XferErr.none x.data else (x.data, 0, s)
    let r := p.2.2.meetErrors true x.hbm x.port x.core x.engine x.addr x.handle err p.1
    (r.2.2.land x r.1 (p.2.1 ||| r.2.1)).logTransfer x r.1

/-- SLICE_WRITE_LAND: the write whose slot of the slice port has come lands (R306). -/
def execSliceWriteLand (port : PortNum) (err : XferErr) (s : State) : Host.Outcome State Fault Refusal :=
  whenFormed (.sliceWriteLand port err) <|
  let due (x : Transfer) : Bool := x.write && !x.hbm && x.port == port.toNat && decide (x.dueAt ≤ s.now)
  if s.domainRuns then
    match takeDue s.transfers due Transfer.dueAt with
    | none => .next s
    | some (x, rest) => .next (State.landWrite { s with transfers := rest } x err)
  else .next s

/-- The members of the merged read that `x` belongs to, `x` among them: one access serves them all (R315). -/
def Transfer.mergesWith (x y : Transfer) : Bool :=
  !y.write && y.hbm == x.hbm && y.port == x.port && !y.taken && y.dueAt == x.dueAt && y.handle == x.handle

/-- One member of a read of a pseudo-channel takes what the access delivers: its own granule, with the errors of the access slot
(R324); where it is not made, nothing is met (R313). `s` is the state in which the access is made. -/
def State.serveMember (s : State) (err : XferErr) (t : State) (x : Transfer) : State :=
  let y := s.takeData x
  if y.mismatch then { t with transfers := t.transfers ++ [y] }
  else
    let r := t.meetWords false true y.port y.core y.engine y.addr y.handle err.ce err.ue 0xFF err.capar y.data
    { r.2.2 with transfers := r.2.2.transfers ++ [{ y with data := r.1 }] }

/-- HBM_ACCESS: the pseudo-channel makes the access whose slot has come: a write lands, a read takes its data for every member of a
merged read (R315, R320, R324). -/
def execHbmAccess (pc : PortNum) (err : XferErr) (s : State) : Host.Outcome State Fault Refusal :=
  whenFormed (.hbmAccess pc err) <|
  let due (x : Transfer) : Bool := x.hbm && x.port == pc.toNat && !x.taken && decide (x.dueAt ≤ s.now)
  if s.domainRuns then
    match takeDue s.transfers due Transfer.dueAt with
    | none => .next s
    | some (x, rest) =>
      if x.write then .next (State.landWrite { s with transfers := rest } x err)
      else
        let r := s.takeInject (UnitNo.hbm pc.toNat)
        let t : State := { r.2 with transfers := s.transfers.filter fun y => !x.mergesWith y }
        .next ((s.transfers.filter x.mergesWith).foldl (s.serveMember (XferErr.inject err r.1)) t)
  else .next s

/-- The data of a read as it reaches the core: its errors on the way are those of the crossbar (R307). -/
def State.arriveRead (s : State) (x : Transfer) (err : XferErr) : Granule × State :=
  let r := if x.hbm then s.passPort x err x.data
    else s.meetErrors false false x.port x.core x.engine x.addr x.handle err x.data
  (r.1, r.2.2)

/-- The granule of a read at its destination: in scratch, where bytes beyond TAIL are not written (R318), or in the engine, which
holds it for its command. -/
def CoreState.takeRead (k : CoreState) (x : Transfer) (data : Granule) : CoreState :=
  match x.dest with
  | .scratch off n => k.writeScratch off ((granBytes data).take n)
  | .operand n =>
    let slot := k.engine x.engine
    if k.job = some x.handle ∧ slot.cmd.isSome then
      k.setEngine x.engine { slot with operand := tabPut slot.operand n data }
    else k

/-- READ_DATA_DELIVER: the data of a read reaches its core (R307, R310, R313). -/
def execReadDataDeliver (core : CoreNum) (err : XferErr) (s : State) : Host.Outcome State Fault Refusal :=
  whenFormed (.readDataDeliver core err) <|
  let due (x : Transfer) : Bool :=
    !x.write && x.core == core.toNat && (x.taken || !x.hbm) && decide (x.deliverAt ≤ s.now)
  if s.domainRuns then
    match takeDue s.transfers due Transfer.deliverAt with
    | none => .next s
    | some (x, rest) =>
      let x := if x.taken then x else s.takeData x
      let t : State := { s with transfers := rest }
      if x.mismatch then
        .next ((t.slotError x.core x.engine x.addr).modCore x.core fun k => k.takeRead x 0)
      else
        let r := t.arriveRead x err
        .next ((r.2.modCore x.core fun k => k.takeRead x r.1).logTransfer x r.1)
  else .next s

/-- HBM_REFRESH: per-bank refresh in the reserved slots; it keeps the contents and changes nothing that the spec lets be
observed (R320, R321). -/
def execHbmRefresh (_pc : PortNum) (s : State) : Host.Outcome State Fault Refusal := .next s

/-- PHY_MAINTENANCE: drift tracking and lane monitoring in reserved slot 98; it changes nothing that the spec lets be
observed (R320). -/
def execPhyMaintenance (_pc : PortNum) (s : State) : Host.Outcome State Fault Refusal := .next s

end Sys2Proof.Machine
end

