-- ==== Sys2Proof/Machine/Accum.lean ====
section
/-! DEFINITION. Moving accumulator tiles and reductions: ACC_STORE, ACC_LOAD, ACC_RED and the node adders of the slice ports
(R186 to R193, R316). -/

namespace Sys2Proof.Machine

/-! ## Moving tiles -/

/-- ACC_STORE: the tile leaves in 256 slots, each of which reads its four elements in its own cycle (R186, R187). -/
def execAccStore (core : CoreNum) (s : State) : Host.Outcome State Fault Refusal :=
  let c := core.toNat
  match s.engineCmd c 0x27 with
  | none => .next s
  | some (h, j, i) =>
    let slots := s.cmdSlots c j i
    .next (((granules (i.f 1 0 44) 256).zipIdx.foldl (fun s x =>
      match slots[x.2]? with
      | some sl => s.launchWrite c h j 4 sl x.1 64 (.tile (i.f 0 8 4) x.2) .memory 0
      | none => s.slotError c 4 x.1) s).finishCmd c j i)

/-- The elements of a run of slots, with special values replaced (R190). -/
def loadedAccs (bs : List Byte) (n : Nat) : List (Acc × Bool × Bool) :=
  (List.range n).map fun i => accClean (accOfSlot ((bs.drop (16 * i)).take 12))

/-- The loaded elements in the tile, with the flags and counters of R190. -/
def CoreState.accLoaded (k : CoreState) (t : Nat) (xs : List (Acc × Bool × Bool)) : CoreState :=
  let bad := (xs.filter fun x => x.2.1).length
  let inf := (xs.filter fun x => x.2.2).length
  let k := (List.range 32).foldl (fun k i => k.setAccRow t i (((xs.drop (32 * i)).take 32).map (·.1))) k
  let k := if bad = 0 then k else (k.count Reg.accBadld bad).setBits Reg.accFlags 0x4
  if inf = 0 then k else (k.count Reg.accSatcnt inf).setBits Reg.accSat (BitVec.ofNat 64 (2 ^ t))

/-- ACC_LOAD (R186, R188 to R190). -/
def execAccLoad (core : CoreNum) (s : State) : Host.Outcome State Fault Refusal :=
  let c := core.toNat
  match s.readyCmd c 0x28 with
  | none => .next s
  | some (_, j, i) =>
    .next ((s.modCore c fun k => k.accLoaded (i.f 0 8 4) (loadedAccs (k.operands 4 0 256) 1024)).finishCmd c j i)

/-! ## Reductions -/

/-- One operand granule leaves for the node adder of its destination's slice port (R191, R316): granule `n` of the tile, or of the
slots at SRC. -/
def State.sendOperand (s : State) (c : Nat) (h : Handle) (j : Job) (r : AccRed) (slot : Nat × Word) (n : Nat) : State :=
  let a := r.dest + 64 * n
  if !s.jobMay j c a 64 true then s.accessError c 4 a
  else
    s.launch ⟨c, 4, h, true, slotHbm slot.2, slotPort slot.2, a, s.beat, slot.1, accessAt c slot.1 slot.2, firstBytes 64, 0,
      slotKind slot.2 != 1, false, .scratch 0 0, if r.srck = 1 then .copy (granuleOf r.src + 64 * n) else .tile r.tile n,
      .node (r.side == 1) (BitVec.ofNat 2 r.op) (r.srck == 1)⟩

/-- ACC_RED: rows of a tile, or slots at SRC, leave as one operand of a node (R191). -/
def execAccRed (core : CoreNum) (s : State) : Host.Outcome State Fault Refusal :=
  let c := core.toNat
  match s.engineCmd c 0x29 with
  | none => .next s
  | some (h, j, i) =>
    .next (((s.cmdSlots c j i).zipIdx.foldl (fun s x => s.sendOperand c h j i.red x.1 x.2) s).finishCmd c j i)

/-- The four elements of an operand, and how many of them were replaced (R193). -/
def NodeOperand.elems (x : NodeOperand) : List Acc × Nat :=
  let xs := loadedAccs (granBytes x.data) 4
  if x.fromMem then (xs.map (·.1), (xs.filter fun e => e.2.1).length)
  else ((List.range 4).map fun i => accOfSlot (((granBytes x.data).drop (16 * i)).take 12), 0)

/-- One element of a node's result (R193). -/
def nodeElem (op : Nat) (a b : Acc) : AccSum :=
  if op = 0 then accAdd a b
  else if op = 1 then ⟨if a.val.lt b.val then b else a, false, 0⟩
  else ⟨if b.val.lt a.val then b else a, false, 0⟩

/-- One granule of a node: `x` arrived first and `y` second; the result is written in the slot of `y` (R193, R316). Words that came
with a bad code leave theirs bad (R476). -/
def State.formNode (s : State) (x y : NodeOperand) : State :=
  let a := if x.side then y else x
  let b := if x.side then x else y
  let es := (a.elems.1.zip b.elems.1).map fun e => nodeElem x.op.toNat e.1 e.2
  let sats := (es.filter fun e => e.sat).length
  let clamps := (es.map fun e => e.clamp).sum
  let bad (s : State) (o : NodeOperand) : State :=
    if o.elems.2 = 0 then s
    else s.modCore o.core fun k => (k.count Reg.accBadld o.elems.2).setBits Reg.accFlags 0x4
  let s := (bad (bad s a) b).modCore a.core fun k =>
    let k := if sats = 0 then k else (k.count Reg.accSatcnt sats).setBits Reg.accFlags 0x1
    if clamps = 0 then k else (k.count Reg.accEclamp clamps).setBits Reg.accFlags 0x2
  let g := BitVec.ofNat 512 (natOf (es.flatMap fun e => e.acc.slot))
  s.memWrite y.dest (firstBytes 64) (granBytes g) (x.bad ||| y.bad)

/-- Two operands make a node: the two sides of one destination, of one job (R192). -/
def nodePair (x y : NodeOperand) : Bool := x.dest == y.dest && x.handle == y.handle && x.op == y.op && x.side != y.side

/-- Forms every node whose sides have both arrived; answers the operands that stay held. `fuel` bounds their number. -/
def State.formNodes (s : State) : Nat → List NodeOperand → List NodeOperand → List NodeOperand × State
  | _, [], held => (held, s)
  | 0, l, held => (held ++ l, s)
  | n + 1, x :: r, held =>
    match takeFirst (nodePair x) r with
    | some (y, r') => State.formNodes (s.formNode x y) n r' held
    | none => State.formNodes s n r (held ++ [x])

/-- NODE_ADD: the other operand has landed, and the node adder forms the node (R316). -/
def execNodeAdd (port : PortNum) (s : State) : Host.Outcome State Fault Refusal :=
  let p := port.toNat
  if s.domainRuns then
    let l := tabGet [] s.nodes p
    let r := s.formNodes l.length l []
    .next { r.2 with nodes := tabSet [] r.2.nodes p r.1 }
  else .next s

end Sys2Proof.Machine
end

