-- ==== Sys2Proof/Machine/Crypto.lean ====
section
/-! DEFINITION. The published functions that the spec names: SHA-256 and SHA-384 (FIPS 180-4), AES-256 (FIPS 197), its counter
and GCM modes (NIST SP 800-38D), HMAC and HKDF with SHA-384 (RFC 2104, RFC 5869), and ECDSA P-384 with deterministic
nonces (FIPS 186, RFC 6979). Their constants and steps are the standards' own (PRESUMED, log entry 41). -/

namespace Sys2Proof.Machine

/-! ## Octet strings -/

/-- The number that octets spell, the first octet the high one. -/
def beNat (bs : List Byte) : Nat := bs.foldl (fun n b => n * 256 + b.toNat) 0

/-- `n` octets of a number, the high one first. -/
def beBytes (n v : Nat) : List Byte := (bytesOf n v).reverse

/-- `n` octets from position `o`; positions beyond the end read 0. -/
def octets (bs : List Byte) (o n : Nat) : List Byte := (List.range n).map fun i => bs.getD (o + i) 0

/-- Octet-wise exclusive or, as long as the first string. -/
def xorBytes (a b : List Byte) : List Byte := a.mapIdx fun i x => x ^^^ b.getD i 0

/-! ## SHA-256 and SHA-384 -/

def sha256K : List Word :=
  [0x428A2F98, 0x71374491, 0xB5C0FBCF, 0xE9B5DBA5, 0x3956C25B, 0x59F111F1, 0x923F82A4, 0xAB1C5ED5,
   0xD807AA98, 0x12835B01, 0x243185BE, 0x550C7DC3, 0x72BE5D74, 0x80DEB1FE, 0x9BDC06A7, 0xC19BF174,
   0xE49B69C1, 0xEFBE4786, 0x0FC19DC6, 0x240CA1CC, 0x2DE92C6F, 0x4A7484AA, 0x5CB0A9DC, 0x76F988DA,
   0x983E5152, 0xA831C66D, 0xB00327C8, 0xBF597FC7, 0xC6E00BF3, 0xD5A79147, 0x06CA6351, 0x14292967] ++
  [0x27B70A85, 0x2E1B2138, 0x4D2C6DFC, 0x53380D13, 0x650A7354, 0x766A0ABB, 0x81C2C92E, 0x92722C85,
   0xA2BFE8A1, 0xA81A664B, 0xC24B8B70, 0xC76C51A3, 0xD192E819, 0xD6990624, 0xF40E3585, 0x106AA070,
   0x19A4C116, 0x1E376C08, 0x2748774C, 0x34B0BCB5, 0x391C0CB3, 0x4ED8AA4A, 0x5B9CCA4F, 0x682E6FF3,
   0x748F82EE, 0x78A5636F, 0x84C87814, 0x8CC70208, 0x90BEFFFA, 0xA4506CEB, 0xBEF9A3F7, 0xC67178F2]

def sha512K : List Dword :=
  [0x428A2F98D728AE22, 0x7137449123EF65CD, 0xB5C0FBCFEC4D3B2F, 0xE9B5DBA58189DBBC, 0x3956C25BF348B538,
   0x59F111F1B605D019, 0x923F82A4AF194F9B, 0xAB1C5ED5DA6D8118, 0xD807AA98A3030242, 0x12835B0145706FBE,
   0x243185BE4EE4B28C, 0x550C7DC3D5FFB4E2, 0x72BE5D74F27B896F, 0x80DEB1FE3B1696B1, 0x9BDC06A725C71235,
   0xC19BF174CF692694, 0xE49B69C19EF14AD2, 0xEFBE4786384F25E3, 0x0FC19DC68B8CD5B5, 0x240CA1CC77AC9C65,
   0x2DE92C6F592B0275, 0x4A7484AA6EA6E483, 0x5CB0A9DCBD41FBD4, 0x76F988DA831153B5, 0x983E5152EE66DFAB,
   0xA831C66D2DB43210, 0xB00327C898FB213F, 0xBF597FC7BEEF0EE4, 0xC6E00BF33DA88FC2, 0xD5A79147930AA725,
   0x06CA6351E003826F, 0x142929670A0E6E70, 0x27B70A8546D22FFC, 0x2E1B21385C26C926, 0x4D2C6DFC5AC42AED,
   0x53380D139D95B3DF, 0x650A73548BAF63DE, 0x766A0ABB3C77B2A8, 0x81C2C92E47EDAEE6, 0x92722C851482353B] ++
  [0xA2BFE8A14CF10364, 0xA81A664BBC423001, 0xC24B8B70D0F89791, 0xC76C51A30654BE30, 0xD192E819D6EF5218,
   0xD69906245565A910, 0xF40E35855771202A, 0x106AA07032BBD1B8, 0x19A4C116B8D2D0C8, 0x1E376C085141AB53,
   0x2748774CDF8EEB99, 0x34B0BCB5E19B48A8, 0x391C0CB3C5C95A63, 0x4ED8AA4AE3418ACB, 0x5B9CCA4F7763E373,
   0x682E6FF3D6B2B8A3, 0x748F82EE5DEFB2FC, 0x78A5636F43172F60, 0x84C87814A1F0AB72, 0x8CC702081A6439EC,
   0x90BEFFFA23631E28, 0xA4506CEBDE82BDE9, 0xBEF9A3F7B2C67915, 0xC67178F2E372532B, 0xCA273ECEEA26619C,
   0xD186B8C721C0C207, 0xEADA7DD6CDE0EB1E, 0xF57D4F7FEE6ED178, 0x06F067AA72176FBA, 0x0A637DC5A2C898A6,
   0x113F9804BEF90DAE, 0x1B710B35131C471B, 0x28DB77F523047D84, 0x32CAAB7B40C72493, 0x3C9EBE0A15C9BEBC,
   0x431D67C49C100D4C, 0x4CC5D4BECB3E42B6, 0x597F299CFC657E2A, 0x5FCB6FAB3AD6FAEC, 0x6C44198C4A475817]

def sha256Init : List Word :=
  [0x6A09E667, 0xBB67AE85, 0x3C6EF372, 0xA54FF53A, 0x510E527F, 0x9B05688C, 0x1F83D9AB, 0x5BE0CD19]

def sha384Init : List Dword :=
  [0xCBBB9D5DC1059ED8, 0x629A292A367CD507, 0x9159015A3070DD17, 0x152FECD8F70E5939,
   0x67332667FFC00B31, 0x8EB44A8768581511, 0xDB0C2E0D64F98FA7, 0x47B5481DBEFA4FA4]

/-- The message with a 1 bit, zeros and its length in `l` octets, in whole blocks of `b` octets. -/
def shaPad (b l : Nat) (m : List Byte) : List Byte :=
  let n := m.length + 1 + l
  m ++ [0x80] ++ List.replicate ((b - n % b) % b) 0 ++ beBytes l (8 * m.length)

/-- The message schedule: `n` more words, the newest first. -/
def shaSchedule {w : Nat} (s0 s1 : BitVec w → BitVec w) : Nat → List (BitVec w) → List (BitVec w)
  | 0, ws => ws
  | n + 1, ws => shaSchedule s0 s1 n ((s1 (ws.getD 1 0) + ws.getD 6 0 + s0 (ws.getD 14 0) + ws.getD 15 0) :: ws)

/-- One round on the eight working variables with the round's constant and word. -/
def shaRound {w : Nat} (e0 e1 : BitVec w → BitVec w) (v : List (BitVec w)) (kw : BitVec w × BitVec w) : List (BitVec w) :=
  let g (i : Nat) := v.getD i 0
  let ch := (g 4 &&& g 5) ^^^ (~~~(g 4) &&& g 6)
  let maj := (g 0 &&& g 1) ^^^ (g 0 &&& g 2) ^^^ (g 1 &&& g 2)
  let t1 := g 7 + e1 (g 4) + ch + kw.1 + kw.2
  [t1 + e0 (g 0) + maj, g 0, g 1, g 2, g 3 + t1, g 4, g 5, g 6]

def sha256Block (h : List Word) (blk : List Byte) : List Word :=
  let ws := (List.range 16).map fun i => BitVec.ofNat 32 (beNat (octets blk (4 * i) 4))
  let s0 (x : Word) := x.rotateRight 7 ^^^ x.rotateRight 18 ^^^ x >>> 3
  let s1 (x : Word) := x.rotateRight 17 ^^^ x.rotateRight 19 ^^^ x >>> 10
  let e0 (x : Word) := x.rotateRight 2 ^^^ x.rotateRight 13 ^^^ x.rotateRight 22
  let e1 (x : Word) := x.rotateRight 6 ^^^ x.rotateRight 11 ^^^ x.rotateRight 25
  let v := (sha256K.zip (shaSchedule s0 s1 48 ws.reverse).reverse).foldl (shaRound e0 e1) h
  h.zipWith (· + ·) v

def sha384Block (h : List Dword) (blk : List Byte) : List Dword :=
  let ws := (List.range 16).map fun i => BitVec.ofNat 64 (beNat (octets blk (8 * i) 8))
  let s0 (x : Dword) := x.rotateRight 1 ^^^ x.rotateRight 8 ^^^ x >>> 7
  let s1 (x : Dword) := x.rotateRight 19 ^^^ x.rotateRight 61 ^^^ x >>> 6
  let e0 (x : Dword) := x.rotateRight 28 ^^^ x.rotateRight 34 ^^^ x.rotateRight 39
  let e1 (x : Dword) := x.rotateRight 14 ^^^ x.rotateRight 18 ^^^ x.rotateRight 41
  let v := (sha512K.zip (shaSchedule s0 s1 64 ws.reverse).reverse).foldl (shaRound e0 e1) h
  h.zipWith (· + ·) v

/-- Blocks of `b` octets in order; `fuel` bounds their number. -/
def foldBlocks {α : Type} (b : Nat) (f : α → List Byte → α) : Nat → α → List Byte → α
  | 0, h, _ => h
  | n + 1, h, m => if m.length < b then h else foldBlocks b f n (f h (m.take b)) (m.drop b)

def sha256 (m : List Byte) : List Byte :=
  let p := shaPad 64 8 m
  (foldBlocks 64 sha256Block p.length sha256Init p).flatMap fun x => beBytes 4 x.toNat

def sha384 (m : List Byte) : List Byte :=
  let p := shaPad 128 16 m
  ((foldBlocks 128 sha384Block p.length sha384Init p).flatMap fun x => beBytes 8 x.toNat).take 48

/-! ## HMAC and HKDF with SHA-384 -/

def hmac384 (key m : List Byte) : List Byte :=
  let k := octets (if key.length > 128 then sha384 key else key) 0 128
  sha384 (k.map (· ^^^ 0x5C) ++ sha384 (k.map (· ^^^ 0x36) ++ m))

/-! ## AES-256 -/

def aesSbox : List Byte :=
  [0x63, 0x7C, 0x77, 0x7B, 0xF2, 0x6B, 0x6F, 0xC5, 0x30, 0x01, 0x67, 0x2B, 0xFE, 0xD7, 0xAB, 0x76,
   0xCA, 0x82, 0xC9, 0x7D, 0xFA, 0x59, 0x47, 0xF0, 0xAD, 0xD4, 0xA2, 0xAF, 0x9C, 0xA4, 0x72, 0xC0,
   0xB7, 0xFD, 0x93, 0x26, 0x36, 0x3F, 0xF7, 0xCC, 0x34, 0xA5, 0xE5, 0xF1, 0x71, 0xD8, 0x31, 0x15,
   0x04, 0xC7, 0x23, 0xC3, 0x18, 0x96, 0x05, 0x9A, 0x07, 0x12, 0x80, 0xE2, 0xEB, 0x27, 0xB2, 0x75] ++
  [0x09, 0x83, 0x2C, 0x1A, 0x1B, 0x6E, 0x5A, 0xA0, 0x52, 0x3B, 0xD6, 0xB3, 0x29, 0xE3, 0x2F, 0x84,
   0x53, 0xD1, 0x00, 0xED, 0x20, 0xFC, 0xB1, 0x5B, 0x6A, 0xCB, 0xBE, 0x39, 0x4A, 0x4C, 0x58, 0xCF,
   0xD0, 0xEF, 0xAA, 0xFB, 0x43, 0x4D, 0x33, 0x85, 0x45, 0xF9, 0x02, 0x7F, 0x50, 0x3C, 0x9F, 0xA8,
   0x51, 0xA3, 0x40, 0x8F, 0x92, 0x9D, 0x38, 0xF5, 0xBC, 0xB6, 0xDA, 0x21, 0x10, 0xFF, 0xF3, 0xD2] ++
  [0xCD, 0x0C, 0x13, 0xEC, 0x5F, 0x97, 0x44, 0x17, 0xC4, 0xA7, 0x7E, 0x3D, 0x64, 0x5D, 0x19, 0x73,
   0x60, 0x81, 0x4F, 0xDC, 0x22, 0x2A, 0x90, 0x88, 0x46, 0xEE, 0xB8, 0x14, 0xDE, 0x5E, 0x0B, 0xDB,
   0xE0, 0x32, 0x3A, 0x0A, 0x49, 0x06, 0x24, 0x5C, 0xC2, 0xD3, 0xAC, 0x62, 0x91, 0x95, 0xE4, 0x79,
   0xE7, 0xC8, 0x37, 0x6D, 0x8D, 0xD5, 0x4E, 0xA9, 0x6C, 0x56, 0xF4, 0xEA, 0x65, 0x7A, 0xAE, 0x08] ++
  [0xBA, 0x78, 0x25, 0x2E, 0x1C, 0xA6, 0xB4, 0xC6, 0xE8, 0xDD, 0x74, 0x1F, 0x4B, 0xBD, 0x8B, 0x8A,
   0x70, 0x3E, 0xB5, 0x66, 0x48, 0x03, 0xF6, 0x0E, 0x61, 0x35, 0x57, 0xB9, 0x86, 0xC1, 0x1D, 0x9E,
   0xE1, 0xF8, 0x98, 0x11, 0x69, 0xD9, 0x8E, 0x94, 0x9B, 0x1E, 0x87, 0xE9, 0xCE, 0x55, 0x28, 0xDF,
   0x8C, 0xA1, 0x89, 0x0D, 0xBF, 0xE6, 0x42, 0x68, 0x41, 0x99, 0x2D, 0x0F, 0xB0, 0x54, 0xBB, 0x16]

def subByte (b : Byte) : Byte := aesSbox.getD b.toNat 0

/-- Multiplication by x in AES's field. -/
def xtime (b : Byte) : Byte := if b.toNat.testBit 7 then (b <<< 1) ^^^ 0x1B else b <<< 1

/-- `n` more words of the key schedule; the words so far, newest first, and the round constant. -/
def aesExpand : Nat → Nat → Byte → List (List Byte) → List (List Byte)
  | 0, _, _, ws => ws
  | n + 1, i, rc, ws =>
    let t := ws.getD 0 []
    let t :=
      if i % 8 = 0 then
        match (t.drop 1 ++ t.take 1).map subByte with
        | a :: r => (a ^^^ rc) :: r
        | [] => []
      else if i % 8 = 4 then t.map subByte
      else t
    aesExpand n (i + 1) (if i % 8 = 0 then xtime rc else rc) (xorBytes (ws.getD 7 []) t :: ws)

/-- The 15 round keys of 16 octets. -/
def aesKeys (key : List Byte) : List (List Byte) :=
  let ws := (aesExpand 52 8 1 ((List.range 8).map fun i => octets key (4 * i) 4).reverse).reverse
  (List.range 15).map fun r => (List.range 4).flatMap fun i => ws.getD (4 * r + i) []

def shiftRows (s : List Byte) : List Byte :=
  (List.range 16).map fun i => s.getD (4 * ((i / 4 + i % 4) % 4) + i % 4) 0

def mixColumns (s : List Byte) : List Byte :=
  (List.range 16).map fun i =>
    let a (k : Nat) := s.getD (4 * (i / 4) + (i + k) % 4) 0
    xtime (a 0) ^^^ (xtime (a 1) ^^^ a 1) ^^^ a 2 ^^^ a 3

/-- The cipher on one block of 16 octets. -/
def aesBlock (ks : List (List Byte)) (b : List Byte) : List Byte :=
  let s := xorBytes b (ks.getD 0 [])
  let s := (List.range 13).foldl (fun s r => xorBytes (mixColumns (shiftRows (s.map subByte))) (ks.getD (r + 1) [])) s
  xorBytes (shiftRows (s.map subByte)) (ks.getD 14 [])

/-! ## GCM -/

/-- Multiplication in GHASH's field, the first bit of a block the high one. -/
def gfMul (x y : Nat) : Nat :=
  ((List.range 128).foldl (fun (zv : Nat × Nat) i =>
    (if x.testBit (127 - i) then zv.1 ^^^ zv.2 else zv.1,
      if zv.2.testBit 0 then (zv.2 >>> 1) ^^^ (0xE1 <<< 120) else zv.2 >>> 1)) (0, y)).1

/-- Zeros that fill the last block of 16 octets. -/
def pad16 (bs : List Byte) : List Byte := bs ++ List.replicate ((16 - bs.length % 16) % 16) 0

def ghash (h : Nat) (bs : List Byte) : Nat := foldBlocks 16 (fun y b => gfMul (y ^^^ beNat b) h) bs.length 0 bs

/-- The counter mode from a block whose last four octets count. -/
def ctrStream (ks : List (List Byte)) (iv : List Byte) (c n : Nat) : List Byte :=
  ((List.range ((n + 15) / 16)).flatMap fun i => aesBlock ks (iv ++ beBytes 4 (c + i))).take n

/-- The tag of a ciphertext under a 96-bit IV. -/
def gcmTag (ks : List (List Byte)) (iv aad ct : List Byte) : List Byte :=
  let h := beNat (aesBlock ks (List.replicate 16 0))
  let s := ghash h (pad16 aad ++ pad16 ct ++ beBytes 8 (8 * aad.length) ++ beBytes 8 (8 * ct.length))
  xorBytes (beBytes 16 s) (aesBlock ks (iv ++ beBytes 4 1))

/-- AES-256-GCM encryption: the ciphertext and the tag. -/
def gcmSeal (key iv aad pt : List Byte) : List Byte × List Byte :=
  let ks := aesKeys key
  let ct := xorBytes pt (ctrStream ks iv 2 pt.length)
  (ct, gcmTag ks iv aad ct)

/-- AES-256-GCM decryption; none where the tag fails. -/
def gcmOpen (key iv aad ct tag : List Byte) : Option (List Byte) :=
  let ks := aesKeys key
  if gcmTag ks iv aad ct = tag then some (xorBytes ct (ctrStream ks iv 2 ct.length)) else none

/-! ## ECDSA P-384 -/

def p384P : Nat := 2 ^ 384 - 2 ^ 128 - 2 ^ 96 + 2 ^ 32 - 1
def p384B : Nat :=
  0xb3312fa7e23ee7e4988e056be3f82d19181d9c6efe8141120314088f5013875ac656398d8a2ed19d2a85c8edd3ec2aef
def p384N : Nat :=
  0xffffffffffffffffffffffffffffffffffffffffffffffffc7634d81f4372ddf581a0db248b0a77aecec196accc52973
def p384G : Nat × Nat :=
  (0xaa87ca22be8b05378eb1c71ef320ad746e1d3b628ba79b9859f741e082542a385502f25dbf55296c3a545e3872760ab7,
   0x3617de4a96262c6f5d9e98bf9292dc29f8f41dbd289a147ce9da3113b5f0b8c00a60b1ce1d7e819d7a431d7c90ea0e5f)

/-- b^e mod m; `fuel` bounds the bits of e. -/
def powMod (m : Nat) : Nat → Nat → Nat → Nat
  | 0, _, _ => 1 % m
  | n + 1, b, e => if e = 0 then 1 % m else (if e % 2 = 1 then b else 1) * powMod m n (b * b % m) (e / 2) % m

/-- The inverse modulo a prime of 384 bits. -/
def invMod (m x : Nat) : Nat := powMod m 384 (x % m) (m - 2)

/-- Addition on the curve; none is the point at infinity. -/
def ecAdd (a b : Option (Nat × Nat)) : Option (Nat × Nat) :=
  match a, b with
  | none, q => q
  | q, none => q
  | some (x1, y1), some (x2, y2) =>
    let p := p384P
    if x1 = x2 ∧ (y1 + y2) % p = 0 then none
    else
      let l := if x1 = x2 then (3 * x1 * x1 + p - 3) * invMod p (2 * y1) % p
        else (y2 + p - y1) * invMod p (x2 + p - x1) % p
      let x := (l * l + 2 * p - x1 - x2) % p
      some (x, (l * (x1 + p - x) + p - y1) % p)

/-- k times a point; `fuel` bounds the bits of k. -/
def ecMul : Nat → Nat → Option (Nat × Nat) → Option (Nat × Nat)
  | 0, _, _ => none
  | n + 1, k, q => if k = 0 then none else ecAdd (if k % 2 = 1 then q else none) (ecMul n (k / 2) (ecAdd q q))

/-- The point is one of the curve. -/
def onCurve (x y : Nat) : Bool :=
  decide (x < p384P) && decide (y < p384P) && (y * y) % p384P == (x * x * x + (p384P - 3) * x + p384B) % p384P

/-- A signature (r, s) over a hash of 48 octets under an uncompressed public key of 97 octets verifies. -/
def ecdsaVerify (pub hash sig : List Byte) : Bool :=
  let x := beNat (octets pub 1 48)
  let y := beNat (octets pub 49 48)
  let r := beNat (octets sig 0 48)
  let s := beNat (octets sig 48 48)
  let n := p384N
  if pub.getD 0 0 = 0x04 ∧ onCurve x y ∧ 0 < r ∧ r < n ∧ 0 < s ∧ s < n then
    let w := invMod n s
    match ecAdd (ecMul 384 (beNat hash * w % n) (some p384G)) (ecMul 384 (r * w % n) (some (x, y))) with
    | none => false
    | some q => q.1 % n == r
  else false

/-- The nonces of RFC 6979 from the state (K, V) on: the first that gives a signature; `fuel` bounds the tries. -/
def ecdsaTry (d z : Nat) : Nat → List Byte → List Byte → List Byte
  | 0, _, _ => List.replicate 96 0
  | t + 1, k, v =>
    let v := hmac384 k v
    let c := beNat v
    let n := p384N
    let sg : Nat × Nat :=
      if 0 < c ∧ c < n then
        match ecMul 384 c (some p384G) with
        | none => (0, 0)
        | some q => (q.1 % n, invMod n c * (z + (q.1 % n) * d) % n)
      else (0, 0)
    if sg.1 ≠ 0 ∧ sg.2 ≠ 0 then beBytes 48 sg.1 ++ beBytes 48 sg.2
    else
      let k := hmac384 k (v ++ [0x00])
      ecdsaTry d z t k (hmac384 k v)

/-- The signature under the private key `d` over a hash of 48 octets. -/
def ecdsaSign (d : Nat) (hash : List Byte) : List Byte :=
  let z := beNat hash % p384N
  let x := beBytes 48 d ++ beBytes 48 z
  let v := List.replicate 48 (0x01 : Byte)
  let k := hmac384 (List.replicate 48 0) (v ++ [0x00] ++ x)
  let v := hmac384 k v
  let k := hmac384 k (v ++ [0x01] ++ x)
  ecdsaTry d z 16 k (hmac384 k v)

end Sys2Proof.Machine
end

