-- ==== Sys2Proof/Machine/Mailbox.lean ====
section
/-! DEFINITION. Mailboxes: their registers (Tables 13-4, 13-17), doorbells and acknowledgements (R367), the taking of commands
with the checks that hold for every command (R32, R370 to R372, R431), and the writing of responses (R368). A command
that passes these checks is held as `taken` until its own row carries it out. -/

namespace Sys2Proof.Machine

/-! ## The host's side (R367) -/

/-- A write is dropped: WRDROP is set, as hardware sets it (R26, R367). -/
def State.mbDrop (s : State) (m : Nat) : State := (s.modMb m fun b => { b with wrdrop := true }).noteSet (Dcb.mailbox m + 0x804) 0x10

/-- Software clears WRDROP, unless hardware sets it in this cycle (R26). -/
def State.mbClearDrop (s : State) (m : Nat) : State :=
  if (tabGet 0 s.setNow (Dcb.mailbox m + 0x804)).toNat.testBit 4 then s else s.modMb m fun b => { b with wrdrop := false }

/-- A doorbell: PEND rises; while PEND is 1 it is ignored and sets WRDROP. Doorbells of one cycle stand in ascending mailbox
number (R370). -/
def State.ringDoorbell (s : State) (m : Nat) : State :=
  if (s.mb m).pend then s.mbDrop m
  else
    let key := 64 * s.now + m
    let early := s.cp.doorbells.takeWhile fun d => !(d / 64 == s.now && decide (key < d))
    let s := s.modMb m fun b => { b with pend := true }
    { s with cp := { s.cp with doorbells := early ++ key :: s.cp.doorbells.drop early.length } }

/-- ACK clears DONE. -/
def State.ackMailbox (s : State) (m : Nat) : State := s.modMb m fun b => { b with done := false }

/-- A write of MB_CTRL: the ACK first, then the DOORBELL (R367). -/
def State.mbCtrlWrite (s : State) (m v : Nat) : State :=
  let s := if v.testBit 1 then s.ackMailbox m else s
  if v.testBit 0 then s.ringDoorbell m else s

/-- A write of one word of the command area, dropped while PEND is 1. -/
def State.mbCmdWrite (s : State) (m i v : Nat) : State :=
  if (s.mb m).pend then s.mbDrop m else s.modMb m fun b => { b with cmd := tabSet 0 b.cmd i (BitVec.ofNat 32 v) }

/-- DOORBELL. -/
def execDoorbell (mb : MailboxNum) (s : State) : Host.Outcome State Fault Refusal :=
  .next (s.outOfReset (·.ringDoorbell mb.toNat))

/-- ACK. -/
def execAck (mb : MailboxNum) (s : State) : Host.Outcome State Fault Refusal :=
  .next (s.outOfReset (·.ackMailbox mb.toNat))

/-- MB_STAT as it reads (Table 13-17). -/
def Mailbox.stat (b : Mailbox) : Nat :=
  bit b.pend + bit b.active * 2 + bit b.done * 4 + bit b.armed * 8 + bit b.wrdrop * 16 +
    (if b.active then b.tag.toNat * 2 ^ 8 else 0) + b.handle.toNat * 2 ^ 16

/-- The word at an offset of a mailbox; none where nothing lies. -/
def Mailbox.read (b : Mailbox) (o : Nat) : Option Nat :=
  if o < 0x400 then some (tabGet 0 b.cmd (o / 4)).toNat
  else if o < 0x800 then some (tabGet 0 b.rsp ((o - 0x400) / 4)).toNat
  else if o = 0x800 then some 0
  else if o = 0x804 then some b.stat
  else none

/-- A write of one word at an offset of a mailbox. -/
def State.mbWrite (s : State) (m o v : Nat) : State :=
  if o < 0x400 then s.mbCmdWrite m (o / 4) v
  else if o < 0x800 then s.mbDrop m
  else if o = 0x800 then s.mbCtrlWrite m v
  else if o = 0x804 then (if v.testBit 4 then s.mbClearDrop m else s)
  else s

/-! ## Classes (R371, R431, R441; Tables 13-6, 15-9, 16-4, 17-5) -/

inductive CmdClass where
  | any | admission | job | privileged | secure | session | undefined
  deriving DecidableEq, Repr

/-- The class of an opcode. -/
def cmdClass (op : Nat) : CmdClass :=
  if op = 0x01 ∨ op = 0x06 then .admission
  else if op = 0x02 ∨ op = 0x03 ∨ op = 0x05 ∨ op = 0x73 ∨ op = 0x74 ∨ op = 0x75 then .job
  else if op = 0x04 ∨ op = 0x20 ∨ op = 0x22 ∨ op = 0x31 ∨ op = 0x61 then .any
  else if op = 0x10 ∨ op = 0x21 ∨ op = 0x30 ∨ op = 0x62 ∨ op = 0x63 ∨ op = 0x70 ∨ op = 0x71 ∨ op = 0x72 ∨ op = 0x80 ∨
      op = 0x81 ∨ op = 0x82 then .privileged
  else if op = 0x60 then .secure
  else if 0x64 ≤ op ∧ op ≤ 0x67 then .session
  else .undefined

/-- The argument words that a command defines, by its form (R372). -/
def TakenCmd.argLen (t : TakenCmd) : Nat :=
  let op := t.opcode
  if op = 0x01 then (if t.form = 0 then 2 else 13)
  else if op = 0x06 then (if t.form = 0 then 6 else 17)
  else if op = 0x05 then 4
  else if op = 0x22 then 8
  else if op = 0x60 then 1 + (t.arg 0 % 1024 + 3) / 4
  else if op = 0x61 then 9
  else if op = 0x63 then (if t.arg 0 % 4 = 1 then 25 else 1)
  else if op = 0x64 then 24
  else if op = 0x66 then 12
  else if op = 0x67 ∨ op = 0x71 then 5
  else if op = 0x74 then 3
  else if op = 0x31 ∨ op = 0x62 ∨ op = 0x75 ∨ op = 0x80 then 2
  else if op = 0x04 ∨ op = 0x21 ∨ op = 0x65 ∨ op = 0x70 ∨ op = 0x72 ∨ op = 0x82 then 0
  else 1

/-- The expert form of a JOB_ADMIT or CTX_RESTORE. -/
def TakenCmd.expert (t : TakenCmd) : Bool := t.form == 1

/-- PARTS of a JOB_ADMIT or CTX_RESTORE: 0 and the basic form mean those bound to the mailbox (Table 13-7). -/
def State.partsOf (s : State) (m : Nat) (t : TakenCmd) : Byte :=
  let p := if t.expert then BitVec.ofNat 8 (t.arg 8 / 2 ^ 24) else 0
  if p = 0 then s.mbPart m else p

/-- A confidential partition is among them. -/
def State.anyPartConf (s : State) (parts : Byte) : Bool := (List.range 8).any fun p => parts.toNat.testBit p && s.partConf p

/-- The handle is one of the last 4,096 assigned (R379). -/
def State.known (s : State) (h : Nat) : Bool := s.cp.handles.contains h

/-- The mailbox is the secure mailbox of a confidential partition (R429). -/
def State.secureOf (s : State) (m : Nat) : Option Nat :=
  (List.range 8).find? fun p => s.partConf p && s.dcbF (Dcb.secPstat p) 4 6 == m

/-- The privilege check of R32 for a command on a job (R371, R431): `sessionOnly` for CTX_SAVE, `open_` for the commands that
a privileged mailbox may give for a confidential job. -/
def State.jobClassOk (s : State) (m : Nat) (t : TakenCmd) (open_ : Bool) : Bool :=
  let h := t.arg 0 % 2 ^ 16
  match s.known h, s.job (BitVec.ofNat 16 h) with
  | true, some j =>
    if s.anyPartConf j.parts then t.inSessionOf j.parts || (open_ && s.privileged m)
    else s.privileged m || s.boundTo m j.parts
  | _, _ => s.privileged m

/-- The privilege check of R32. A raw ENT_READ is denied while a confidential partition is active (R264). -/
def State.classOk (s : State) (m : Nat) (t : TakenCmd) : Bool :=
  match cmdClass t.opcode with
  | .any => !(t.opcode == 0x20 && t.arg 0 % 4 == 2 && s.anyConf)
  | .undefined => true
  | .privileged => s.privileged m
  | .secure => t.session.isNone && (s.secureOf m).isSome
  | .session => t.session.isSome
  | .job => s.jobClassOk m t (t.opcode != 0x05)
  | .admission =>
    let p := s.partsOf m t
    (s.privileged m || s.boundTo m p) && (!s.anyPartConf p || t.inSessionOf p)

/-- The check of the arguments that holds for every command: a defined OPCODE, the ARGLEN of its form (R372), and a
known handle (R379). -/
def State.shapeOk (s : State) (t : TakenCmd) : Bool :=
  match cmdClass t.opcode with
  | .undefined => false
  | .job => t.args.length == t.argLen && s.known (t.arg 0 % 2 ^ 16)
  | _ => t.args.length == t.argLen

/-- The mailbox is occupied (R369). -/
def State.occupied (s : State) (m : Nat) : Bool := (s.mb m).active

/-! ## The CP's side -/

/-- The posted command as the CP copies it (R367 step 3). -/
def Mailbox.posted (b : Mailbox) : TakenCmd :=
  let h := tabGet 0 b.cmd 0
  ⟨h, (List.range (bitsOf h.toNat 16 8)).map fun i => tabGet 0 b.cmd (1 + i), none⟩

/-- The CP holds a command that it has not yet checked. -/
def State.checking (s : State) : Bool := s.mbs.any fun e => e.2.taken.isSome

/-- A command that the CP has, from a mailbox or from a session, passes the checks common to all, or is answered. -/
def State.takeCmd (s : State) (m : Nat) (t : TakenCmd) : State :=
  if !s.classOk m t then s.answer m t Status.denied []
  else if !s.shapeOk t then s.answer m t Status.badArg []
  else s.modMb m fun b => { b with taken := some t }

/-- MB_COMMAND_TAKE: the CP, when its firmware runs and it has checked the command before, takes the posted command whose
doorbell came first, and clears PEND (R367, R370, R392). -/
def execMbCommandTake (s : State) : Host.Outcome State Fault Refusal :=
  if !s.cpRuns || s.checking then .next s
  else
    match s.cp.doorbells with
    | [] => .next s
    | d :: r =>
      let m := d % 64
      let t := (s.mb m).posted
      let s : State := { s with cp := { s.cp with doorbells := r } }
      .next ((s.modMb m fun b => { b with pend := false }).takeCmd m t)

/-- Bytes of a run of words. -/
def wordBytes (ws : List Word) : List Byte := ws.flatMap fun w => bytesOf 4 w.toNat

/-- Words of a run of bytes, the last padded with zeros (R429). -/
def wordsOfBytes (bs : List Byte) : List Word :=
  (List.range ((bs.length + 3) / 4)).map fun i => BitVec.ofNat 32 (natOf (octets bs (4 * i) 4))

/-- H0, H1 and the response words (Table 13-5). -/
def responseWords (status tag : Byte) (record : Word) (ws : List Word) : List Word :=
  BitVec.ofNat 32 (status.toNat + ws.length * 2 ^ 16 + tag.toNat * 2 ^ 24) :: record :: ws

/-- The words of an SPDM message: LEN, then the bytes (R429). -/
def spdmWords (bs : List Byte) : List Word := BitVec.ofNat 32 bs.length :: wordsOfBytes bs

/-- The words that are written for a response. One of a session is the application data of a secured message that SEC_SPDM
returns (R430). -/
def State.responseOut (s : State) (r : Response) : List Word :=
  let ws := responseWords r.status r.tag r.record r.words
  match r.session with
  | none => ws
  | some (p, _, g) =>
    responseWords 0 g 0
      (spdmWords (Config.spdmSeal (tabGet 0 s.sec.sessionKeys p) (tabGet 0 s.sec.seqOut p) (wordBytes ws)))

/-- The words at the start of the response area. -/
def Mailbox.putResponse (b : Mailbox) (ws : List Word) : Mailbox :=
  { b with rsp := ws.zipIdx.foldl (fun r e => tabSet 0 r e.2 e.1) b.rsp }

/-- MB_RESPONSE_WRITE: the response that is ready is written once DONE is 0; DONE rises, the completion source is raised, and
ACTIVE falls with the response of the accepted command (R367, R368, R377). -/
def execMbResponseWrite (mb : MailboxNum) (s : State) : Host.Outcome State Fault Refusal :=
  let m := mb.toNat
  match (s.mb m).ready, (s.mb m).done with
  | r :: rest, false =>
    let ws := s.responseOut r
    let s := s.modMb m fun b =>
      let b := { b.putResponse ws with ready := rest, done := true }
      if r.active then { b with active := false, armed := false, tag := 0, handle := 0 } else b
    let s : State :=
      match r.session with
      | some (p, _, _) => { s with sec := { s.sec with seqOut := tabSet 0 s.sec.seqOut p (tabGet 0 s.sec.seqOut p + 1) } }
      | none => s
    .next (s.dieEvent (1 + m))
  | _, _ => .next s

end Sys2Proof.Machine
end

