-- ==== Sys2Proof/Machine/Jobs.lean ====
section
/-! DEFINITION. Commands on jobs and the ends that boundaries bring: JOB_CONTAINED_END, FATAL_END (R475), fences (R329 to
R331), JOB_CANCEL (R76, R78), JOB_STATUS (R380), DIST_READ (R332). -/

namespace Sys2Proof.Machine

/-! ## Ends at a boundary -/

/-- JOB_CONTAINED_END: the job that a contained record names ends at the boundary after its entry (R475); a job that the Whistle has
halted stays halted (R459). -/
def execJobContainedEnd (handle : Handle) (s : State) : Host.Outcome State Fault Refusal :=
  match s.job handle with
  | some j =>
    match j.pendingEnd with
    | some (.contained, _, b) => if b ≤ s.beat ∧ ¬(s.halted ∧ s.haltedJob j) then .next (s.applyEnd handle) else .next s
    | _ => .next s
  | none => .next s

/-- A fatal record's end of one job, at the boundary that opens beat `at_`: waiting jobs are withdrawn, a job whose completion beat had
ended before the record was entered ends DONE (R475), and a job that the Whistle has halted stays halted (R492). -/
def State.fatalJob (s : State) (h : Handle) (record : Word) (at_ : Nat) : State :=
  match s.job h with
  | none => s
  | some j =>
    match j.st with
    | .waiting => s.withdraw h Status.refused
    | .armed => (s.modJob h fun j => { j with pendingEnd := some (.ended, record, s.beat) }).applyEnd h
    | .admitted =>
      if s.halted then s
      else (s.modJob h fun j => { j with pendingEnd := some (.ended, record, s.beat) }).applyEnd h
    | .running =>
      if (s.halted ∧ s.haltedJob j) ∨ (j.compBeat + 1 < at_ ∧ j.pendingEnd = none) then s
      else
        match j.pendingEnd with
        | some (.ended, _, _) => s.applyEnd h
        | _ => (s.modJob h fun j => { j with pendingEnd := some (.ended, record, s.beat) }).applyEnd h
    | _ => s

/-- FATAL_END: at the boundary after a fatal record every job ends (R475). A job that had completed before stays RUNNING until it is
DONE (R76). -/
def execFatalEnd (s : State) : Host.Outcome State Fault Refusal :=
  match s.err.fatalNext with
  | some (record, b) =>
    if b ≤ s.beat then
      let t : State := { s with err := { s.err with fatalNext := none } }
      .next ((t.jobs.map (·.1)).foldl (fun t h => t.fatalJob (BitVec.ofNat 16 h) record b) t)
    else .next s
  | none => .next s

/-! ## Fences (R329 to R331) -/

/-- The jobs that hold a core of a set, and have not ended. -/
def State.jobsOn (s : State) (on : Nat → Bool) : List Handle :=
  (s.jobs.filter fun e => s.canEnd e.2 && e.2.st != .waiting && e.2.engines.any fun x => on x.2).map fun e => BitVec.ofNat 16 e.1

/-- The jobs on these cores are marked to end as contained at the boundary. -/
def State.markOn (s : State) (on : Nat → Bool) (record : Word) : State :=
  (s.jobsOn on).foldl (fun s h => s.markEnd h .contained record) s

/-- A core will be fenced at the next boundary. -/
def State.fenceNext (s : State) (c : Nat) : State :=
  if s.fenced c then s else (s.modCore c fun k => { k with fenceAt := some (s.beat + 1) }).markOn (· == c) 0

/-- The core is fenced: what it holds is lost, and the map records it (R329). -/
def State.fenceCore (s : State) (c : Nat) : State :=
  (s.setCore c CoreState.reset).setDcbF (Dcb.coreFenceMap (c / 64)) (c % 64) 1 1

/-! ### Usable cores and the census (R64, R499) -/

/-- The usable cores of the partitions, in ascending physical number (R64). -/
def State.usableCores (s : State) (parts : Byte) : List Nat :=
  (List.range 1024).filter fun c => s.usable c && (List.range 8).any fun p => parts.toNat.testBit p && s.partHasCluster p (clusterOf c)

/-- The job's map comes from the census of its module set (R499). -/
def Job.byCensus (j : Job) : Bool := decide (1 < popcount 64 j.modset.toNat) && j.lockstep.isNone && !j.xmap

/-- The waiting jobs whose census a fence has lowered are withdrawn (R64, R499). -/
def State.censusLost (s : State) : State :=
  (s.jobs.filter fun e => e.2.st == .waiting && e.2.byCensus && decide ((s.usableCores e.2.parts).length < e.2.census)).foldl
    (fun s e => s.withdraw (BitVec.ofNat 16 e.1) Status.refused) s

/-- The core is fenced no longer; its counters, which a fence clears, count from now (R448). -/
def State.unfence (s : State) (c : Nat) : State :=
  let fenced := s.fenced c
  (s.modCore c fun k => { k with fenceAt := none, cntBase := if fenced then s.runCycles else k.cntBase }).setDcbF
    (Dcb.coreFenceMap (c / 64)) (c % 64) 1 0

/-- Every marked end that has come due on these cores takes place. -/
def State.endOn (s : State) (on : Nat → Bool) : State :=
  (s.jobs.filter fun e => s.endDue e.2 && e.2.engines.any fun x => on x.2).foldl
    (fun s e => s.applyEnd (BitVec.ofNat 16 e.1)) s

/-- FENCE_APPLY: the fence of a core takes effect at the boundary (R329). -/
def execFenceApply (core : CoreNum) (s : State) : Host.Outcome State Fault Refusal :=
  let c := core.toNat
  match (s.core c).fenceAt with
  | some b => if b ≤ s.beat then .next ((s.endOn (· == c)).fenceCore c).censusLost else .next s
  | none => .next s

/-- All 16 cores of a cluster are fenced, and CLUSTER_FENCE shows it (R330). -/
def State.fenceCluster (s : State) (q : Nat) : State :=
  ((List.range 16).foldl (fun t i => t.fenceCore (16 * q + i)) s).setDcbF Dcb.clusterFence q 1 1

/-- CLUSTER_FENCE: all 16 cores of a cluster with a router fault are fenced (R330). -/
def execClusterFence (cluster : BitVec 6) (s : State) : Host.Outcome State Fault Refusal :=
  let q := cluster.toNat
  match s.cp.clusterNext.find? fun e => e.1 == q with
  | some (_, b) =>
    if b ≤ s.beat then
      let t : State := { s with cp := { s.cp with clusterNext := s.cp.clusterNext.filter fun e => e.1 != q } }
      .next ((t.endOn fun c => clusterOf c == q).fenceCluster q).censusLost
    else .next s
  | none => .next s

/-- CORE_FENCE (R331). -/
def execCoreFence (mb : MailboxNum) (s : State) : Host.Outcome State Fault Refusal :=
  let m := mb.toNat
  .next (s.onTaken m 0x30 fun t =>
    let a := t.arg 0
    let c := bitsOf a 0 10
    let un := a.testBit 16
    let cores := if a.testBit 17 then (List.range 16).map fun i => 16 * clusterOf c + i else [c]
    if !s.enabled c ∨ bitsOf a 10 6 ≠ 0 ∨ bitsOf a 18 14 ≠ 0 then s.answer m t Status.badArg []
    else if s.occupied m then s.answer m t Status.busy []
    else if un ∧ (s.dcbReg Dcb.clusterFence).toNat.testBit (clusterOf c) then s.answer m t Status.refused []
    else
      let s : State :=
        if un then
          cores.foldl State.unfence s
        else cores.foldl State.fenceNext s
      s.answer m t Status.ok [BitVec.ofNat 32 (bit !un)])

/-! ## JOB_CANCEL, JOB_STATUS, DIST_READ -/

/-- The handle that a job command names. -/
def TakenCmd.jobHandle (t : TakenCmd) : Handle := BitVec.ofNat 16 (t.arg 0)

/-- JOB_CANCEL (R76, R78). A waiting or armed job is withdrawn; a job that a CTX_SAVE holds counts as ended (Table
13-14). -/
def execJobCancel (mb : MailboxNum) (s : State) : Host.Outcome State Fault Refusal :=
  let m := mb.toNat
  .next (s.onTaken m 0x02 fun t =>
    let h := t.jobHandle
    if s.occupied m then s.answer m t Status.busy []
    else
      match s.job h with
      | none => s.answer m t Status.refused []
      | some j =>
        if !s.canEnd j ∨ j.save.isSome then s.answer m t Status.refused []
        else if j.st = .waiting ∨ j.st = .armed then (s.withdraw h Status.refused).answer m t Status.ok []
        else (s.markEnd h .cancelled 0).answer m t Status.ok [])

/-- The words of JOB_STATUS (Table 13-8). -/
def Job.statusWords (j : Job) (full : Bool) : List Word :=
  let rest := wordsOf j.startBeat ++ wordsOf j.compBeat ++ wordsOf j.endBeat ++ [j.record]
  BitVec.ofNat 32 j.st.code :: (if full then rest else List.replicate 7 0)

/-- JOB_STATUS; from a privileged mailbox a confidential job shows its STATE only (R380, R431). -/
def execJobStatus (mb : MailboxNum) (s : State) : Host.Outcome State Fault Refusal :=
  let m := mb.toNat
  .next (s.onTaken m 0x03 fun t =>
    if s.occupied m then s.answer m t Status.busy []
    else
      match s.job t.jobHandle with
      | none => s.answer m t Status.refused []
      | some j => s.answer m t Status.ok (j.statusWords (!s.anyPartConf j.parts || t.inSessionOf j.parts)))

/-- DIST_READ (R332). -/
def execDistRead (mb : MailboxNum) (s : State) : Host.Outcome State Fault Refusal :=
  let m := mb.toNat
  .next (s.onTaken m 0x31 fun t =>
    let c := bitsOf (t.arg 0) 0 10
    let p := bitsOf (t.arg 0) 16 10
    let n := bitsOf (t.arg 1) 0 7
    if n = 0 ∨ 64 < n ∨ 1024 < p + n ∨ bitsOf (t.arg 0) 10 6 ≠ 0 ∨ bitsOf (t.arg 0) 26 6 ≠ 0 ∨ bitsOf (t.arg 1) 7 25 ≠ 0 then
      s.answer m t Status.badArg []
    else if s.occupied m then s.answer m t Status.busy []
    else
      s.answer m t Status.ok (wordsOfBytes ((List.range 64).map fun i =>
        if i < n then BitVec.ofNat 8 (readDistance c (p + i)) else 0)))

end Sys2Proof.Machine
end

