-- ==== Sys2Proof/Machine/Image.lean ====
section
/-! DEFINITION. Reading a program image from memory (R376, R495 to R498): the header, the engine table, the page table and the
receive table, with the checks of their fields. A field outside its range, a digest that does not check or a reserved
byte that is not zero reads as no image. -/

namespace Sys2Proof.Machine

/-- The `n` bytes at `a` lie wholly in shared memory or HBM. -/
def inMemory (a n : Nat) : Bool :=
  decide (a + n ≤ 0xC000000000) || (decide (0x10000000000 ≤ a) && decide (a + n ≤ 0x10020000000))

/-- Every byte of a range is zero. -/
def zeroRange (m : Bytes) (a n : Nat) : Bool := m.all fun e => decide (e.1 < a) || decide (a + n ≤ e.1) || e.2 == 0

/-- The value fits its register: no bit outside `mask`, no undefined field value. -/
def regFits (o v : Nat) (mask : Nat) : Bool := v &&& mask == v && (coreFix o v).1 == v

/-! ## The header (Table 13-18) -/

structure ImageHead where
  abi : Nat
  flags : Nat
  e : Nat
  p : Nat
  tc : Nat
  l : Nat
  engOff : Nat
  pageOff : Nat
  nPage : Nat
  nRx : Nat
  rxOff : Nat
  anneal : Nat
  perm : Nat
  xchg : Nat
  deriving DecidableEq, Repr

def readHead (m : Bytes) (a : Nat) : ImageHead :=
  let f (o n : Nat) := natAt m (a + o) n
  ⟨f 4 2, f 6 2, f 8 4, f 0xC 2, f 0xE 2, f 0x10 8, f 0x18 8, f 0x20 8, f 0x28 4, f 0x2C 4, f 0x30 8, f 0x38 8, f 0x60 8, f 0x68 4⟩

/-- FORMAT, DIGEST, ranges and reserved bytes of the header (R495). -/
def headOk (m : Bytes) (a abi : Nat) (h : ImageHead) : Bool :=
  natAt m a 4 == 1 && natAt m (a + 0x1F8) 8 == digest (bytesRead m a 0x1F8) && h.abi == abi && decide (h.flags < 16) &&
    decide (1 ≤ h.e ∧ h.e ≤ 65536) && decide (1 ≤ h.p ∧ h.p ≤ 256) && decide (1 ≤ h.l ∧ h.l ≤ 2 ^ 40) &&
    h.engOff % 64 == 0 && h.pageOff % 64 == 0 && h.rxOff % 64 == 0 && decide (h.nPage ≤ 65535) && decide (h.nRx ≤ 65535) &&
    (h.nRx != 0 || h.rxOff == 0) && regFits Reg.feltAnneal h.anneal 0xFFFF0FFFFFFFFFFF && permOk h.perm &&
    regFits Reg.feltXchg h.xchg 0xFFFFFFFF && zeroRange m (a + 0x6C) 396 && inMemory (a + h.engOff) (4096 * h.e) &&
    inMemory (a + h.pageOff) (4096 * h.nPage) && inMemory (a + h.rxOff) (8192 * h.nRx)

/-! ## Engine records (Table 13-19) -/

def readEngine (mem : Bytes) (a : Nat) (h : ImageHead) (e : Nat) : EngineRec :=
  let r := a + h.engOff + 4096 * e
  let m := cellsIn mem r 4096
  let words (o n : Nat) : List Word := (List.range n).map fun i => BitVec.ofNat 32 (natAt m (r + o + 4 * i) 4)
  let dwords (o n : Nat) : List Dword := (List.range n).map fun i => BitVec.ofNat 64 (natAt m (r + o + 8 * i) 8)
  let p := a + natAt m r 8
  let n := min (natAt m (r + 8) 4) 16384
  let prog := cellsIn mem p (8 * n)
  { prog := (List.range n).map fun i => BitVec.ofNat 64 (natAt prog (p + 8 * i) 8)
    exp := BitVec.ofNat 32 (natAt m (r + 0xC) 4)
    thrProg := words 0x10 64
    members := dwords 0x110 8
    origin := BitVec.ofNat 64 (natAt m (r + 0x150) 8)
    size := BitVec.ofNat 32 (natAt m (r + 0x158) 4)
    xcfg := BitVec.ofNat 32 (natAt m (r + 0x15C) 4)
    nbr := words 0x160 8
    page := (List.range 256).map fun i => natAt m (r + 0x200 + 2 * i) 2
    qcfg := dwords 0x400 256 }

def thrOk (proglen : Nat) (w : Word) : Bool :=
  bitsOf w.toNat 14 2 == 0 && bitsOf w.toNat 30 2 == 0 && decide (bitsOf w.toNat 0 14 + bitsOf w.toNat 16 14 ≤ proglen)

/-- The record's fields as R496 wants them. -/
def engineOk (mem : Bytes) (a : Nat) (h : ImageHead) (e : Nat) (x : EngineRec) : Bool :=
  let r := a + h.engOff + 4096 * e
  let m := cellsIn mem r 4096
  let n := natAt m (r + 8) 4
  natAt m r 8 % 64 == 0 && decide (n ≤ 16384) && inMemory (a + natAt m r 8) (8 * n) && decide (x.exp.toNat < 64) &&
    x.thrProg.all (thrOk n) && regFits Reg.feltOrigin x.origin.toNat 0xFFFFFFFFFFFFFF &&
    regFits Reg.feltSize x.size.toNat 0x7F7F && regFits Reg.feltXcfg x.xcfg.toNat 0xFF3F03 &&
    (x.nbr.all fun w => bitsOf w.toNat 19 13 == 0 && declSrc w != 3 && (declSrc w != 1 || decide (declEngine w < h.e))) &&
    (x.page.zipIdx.all fun y => y.1 == 0xFFFF || (decide (y.2 < h.p) && decide (y.1 < h.nPage))) &&
    zeroRange m (r + 0x180) 128 && zeroRange m (r + 0xC00) 1024

/-! ## Pages and landings (Tables 13-20, 13-21) -/

def readPage (mem : Bytes) (a : Nat) (h : ImageHead) (i : Nat) : List Word :=
  let p := a + h.pageOff + 4096 * i
  let m := cellsIn mem p 3000
  (List.range 750).map fun c => BitVec.ofNat 32 (natAt m (p + 4 * c) 4)

def pageOk (mem : Bytes) (a : Nat) (h : ImageHead) (i : Nat) (ws : List Word) : Bool :=
  ws.all slotOk && zeroRange mem (a + h.pageOff + 4096 * i + 3000) 1096

/-- The landings of receive record `i`. -/
def readRx (mem : Bytes) (a : Nat) (h : ImageHead) (i : Nat) : List Landing :=
  let r := a + h.rxOff + 8192 * i
  let m := cellsIn mem r 8192
  ((List.range 898).map fun f =>
    (⟨natAt m r 1, natAt m (r + 2) 2, f, BitVec.ofNat 64 (natAt m (r + 16 + 8 * f) 8)⟩ : Landing)).filter fun x => x.entry != 0

def rxModule (mem : Bytes) (a : Nat) (h : ImageHead) (i : Nat) : Nat := natAt mem (a + h.rxOff + 8192 * i + 1) 1


def landingOk (e : Nat) (x : Landing) : Bool :=
  x.dkind != 3 && bitsOf x.entry.toNat 56 8 == 0 && decide (x.land < 750) &&
    (x.dkind != 1 || (x.addr % 64 == 0 && match regionOf x.addr with | .slice _ => true | _ => false)) &&
    (x.dkind != 2 || (decide (x.engine < e) && x.offset % 64 == 0 && bitsOf x.entry.toNat 53 3 == 0))

def rxOk (mem : Bytes) (a : Nat) (h : ImageHead) (i : Nat) : Bool :=
  let r := a + h.rxOff + 8192 * i
  decide (natAt mem r 1 < 16) && decide (natAt mem (r + 1) 1 < 64) && decide (natAt mem (r + 2) 2 < h.p) &&
    zeroRange mem (r + 4) 12 && zeroRange mem (r + 0x1C20) 992 && (readRx mem a h i).all (landingOk h.e)

/-! ## The whole image -/

def imageOf (mem : Bytes) (a self : Nat) (h : ImageHead) : Image where
  abi := BitVec.ofNat 16 h.abi
  flags := BitVec.ofNat 16 h.flags
  e := h.e
  p := h.p
  tc := h.tc
  l := h.l
  anneal := BitVec.ofNat 64 h.anneal
  beta := (List.range 16).map fun i => BitVec.ofNat 16 (natAt mem (a + 0x40 + 2 * i) 2)
  perm := BitVec.ofNat 64 h.perm
  xchg := BitVec.ofNat 32 h.xchg
  engines := (List.range h.e).map (readEngine mem a h)
  pages := (List.range h.nPage).map (readPage mem a h)
  landings := ((List.range h.nRx).filter fun i => rxModule mem a h i == self).flatMap (readRx mem a h)

/-- The program image at `a` for module `self`, if it is well formed. -/
def readImage (mem : Bytes) (a abi self : Nat) : Option Image :=
  if a % 64 ≠ 0 ∨ !inMemory a 512 then none
  else
    let h := readHead mem a
    if !headOk mem a abi h then none
    else
      let x := imageOf mem a self h
      if (x.engines.zipIdx.all fun y => engineOk mem a h y.2 y.1) && (x.pages.zipIdx.all fun y => pageOk mem a h y.2 y.1) &&
          (List.range h.nRx).all (rxOk mem a h) then some x
      else none

/-- The ranges that the image takes, for the check of R431. -/
def imageRanges (mem : Bytes) (a : Nat) : List (Nat × Nat) :=
  let h := readHead mem a
  [(a, 512), (a + h.engOff, 4096 * h.e), (a + h.pageOff, 4096 * h.nPage), (a + h.rxOff, 8192 * h.nRx)] ++
    (List.range h.e).map fun e =>
      let r := a + h.engOff + 4096 * e
      (a + natAt mem r 8, 8 * natAt mem (r + 8) 4)

/-- The page of engine record `r` in beat `b` of the period: cycle and entry of every slot in use (R497). -/
def Image.pageOf (m : Image) (r : EngineRec) (b : Nat) : List (Nat × Word) :=
  match m.pages[r.page.getD b 0xFFFF]? with
  | none => []
  | some ws => (ws.zipIdx.map fun x => (x.2, x.1)).filter fun x => slotOwner x.2 != 0

end Sys2Proof.Machine
end

