-- ==== Sys2Proof/Machine/Sequencer.lean ====
section
/-! DEFINITION. The thread sequencer: ISSUE, WAIT, SIG, ARRIVE, RWAIT, RALLY and MARK with their releases, scoreboard
increments and the deadlock detector (R277 to R295). An event that is not enabled leaves the state unchanged
(DEDUCED, log entry 11). -/

namespace Sys2Proof.Machine

/-! ## ISSUE -/

/-- The command words of the ISSUE at doubleword `pc` of the store. -/
def CoreState.cmdWords (k : CoreState) (pc : Nat) : List Dword :=
  (List.range (cmdLen (k.insWord (pc + 1) % 256))).map fun i => BitVec.ofNat 64 (k.insWord (pc + 1 + i))

/-- The buffer address that a queue gives: BASE + (n mod BUFS) x SLOT x 64 (R282). -/
def queueOffset (cfg n : Nat) : Nat := bitsOf cfg 0 18 + n % max (bitsOf cfg 32 16) 1 * bitsOf cfg 20 12 * 64

/-- The queue patch of a command word: the sum modulo 2^44 in bits [43:0] (R282). -/
def patchWord (w off : Nat) : Nat := putBits w 0 44 (bitsOf w 0 44 + off)

/-- The command's words after the queue patch, and the core with the count advanced (R282). -/
def CoreState.patch (k : CoreState) (w : Nat) (ws : List Dword) : List Dword × CoreState :=
  if insQuse w then
    let q := insQueue w
    let lo := 32 * insQrole w
    let n := k.regF (Reg.qPtr q) lo 32
    (ws.mapIdx fun i x => if i = insQword w then BitVec.ofNat 64 (patchWord x.toNat (queueOffset (k.reg (Reg.qCfg q)).toNat n))
      else x, k.setRegF (Reg.qPtr q) lo 32 (n + 1))
  else (ws, k)

/-- The engine holds no command and is not occupied (R60, R278). -/
def State.engineFree (s : State) (c e : Nat) : Bool :=
  let x := (s.core c).engine e
  x.cmd.isNone && decide (x.busyBeat * beatCycles + x.busyUntil ≤ s.now)

/-- The command as ISSUE would hand it over in this cycle. -/
def State.issuedAt (s : State) (c t : Nat) (j : Job) (w : Nat) (late : Bool) : Issued × CoreState :=
  let k := s.core c
  let r := k.patch w (k.cmdWords (k.thrPc t))
  let st := k.stampOf j t w
  (⟨BitVec.ofNat 8 ((r.1.getD 0 0).toNat % 256), r.1, s.beat, s.cycle, t, insBeat w, st % beatCycles, late,
    if insSigen w then some (insSigsb w, insSigctr w) else none⟩, r.2)

/-- Counters and occupancy of the engine that accepts a command (R446, R447). -/
def State.engineAccept (s : State) (c e : Nat) (j : Job) (i : Issued) : State :=
  let b := i.busy (s.pageAt c j i.beat) (s.cmdExtra i) j.half
  s.modCore c fun k =>
    let before := [k.reg (Reg.cntCmds e), k.reg (Reg.cntLast e), k.reg (Reg.cntCmdcyc e)]
    let k := k.setReg (Reg.cntLast e) (k.reg (Reg.cntCmdcyc e))
    let k := (k.setReg (Reg.cntCmdcyc e) 1).setRegF (Reg.cntState e) 4 8 i.op
    (k.count (Reg.cntCmds e) 1).setEngine e ⟨some i, i.beat, b.1, b.2, i.beat, i.cycle, [], 0, before⟩

/-- One issued command of engine `e` more in this beat (R448). -/
def State.tallyCmd (s : State) (e : Nat) : State :=
  let x := tabGet (0, 0) s.devTally e
  { s with devTally := tabSet (0, 0) s.devTally e (x.1, x.2 + 1) }

/-- The ranges of its core's scratch that a command reads as operands. -/
def Issued.scratchOperands (i : Issued) : List (Nat × Nat) :=
  let mma (src fmt addr : Nat) : List (Nat × Nat) := if src = 0 then [(addr % 2 ^ 18, i.mma.kt * chunkStride fmt i.mma.scaled)] else []
  if i.op = 0x30 then mma i.mma.asrc i.mma.afmt i.mma.aaddr ++ mma i.mma.bsrc i.mma.bfmt i.mma.baddr
  else if i.op = 0x32 then (if i.bern.psrc = 1 then [(i.bern.paddr, 2048)] else [])
  else if i.op = 0x40 then (if i.cat.src = 0 then [(i.cat.addr % 2 ^ 18, i.cat.span)] else [])
  else []

/-- The command has an operand from another module: scratch in which a landing of the receive table puts a flit (R279, R344). -/
def State.remoteOperand (j : Job) (c : Nat) (i : Issued) : Bool :=
  j.image.landings.any fun x => x.dkind == 2 && x.engine == j.engineOf c &&
    i.scratchOperands.any fun r => decide (x.offset < r.1 + r.2) && decide (r.1 < x.offset + 64)

/-- ISSUE (R278, R279, R282). -/
def execIssue (core : CoreNum) (thread : ThreadNum) (s : State) : Host.Outcome State Fault Refusal :=
  let c := core.toNat
  let t := thread.toNat
  match s.threadReady c t 1 with
  | none => .next s
  | some (h, j, w, late) =>
    let e := insEngine w
    let r := s.issuedAt c t j w late
    if s.engineFree c e ∧ s.cycle < j.issueCycles then
      if late ∧ (r.1.pinned || State.remoteOperand j c r.1) then
        .next (((s.modCore c fun k => ((k.executed t late).setBits Reg.coreStat 0x4).stop t)).enterJobFault c 0x0C 1 0 e)
      else if late ∧ 749 < r.1.endCycle c (s.pageAt c j s.beat) (s.cmdExtra r.1) j.half then .next s
      else
        let s' : State := s.setCore c ((r.2.executed t late).retire s.now t (1 + r.1.words.length) (s.jobIter j))
        .next ((((s'.engineAccept c e j r.1).tallyCmd e).storageAccess c e r.1).launchReads c h j r.1)
    else .next s

/-! ## WAIT and SIG -/

/-- T = min(THR + ITER x INC, 0xFFFF_FFFF) (R287). -/
def waitThreshold (w1 iter : Nat) : Nat := min (bitsOf w1 0 32 + iter * bitsOf w1 32 32) 0xFFFFFFFF

/-- WAIT (R287). An increment of this cycle releases the thread that blocks on the count before it (Table 10-5). -/
def execWait (core : CoreNum) (thread : ThreadNum) (s : State) : Host.Outcome State Fault Refusal :=
  let c := core.toNat
  let t := thread.toNat
  match s.threadReady c t 2 with
  | none => .next s
  | some (_, j, w, late) =>
    let k := (s.core c).executed t late
    let th := waitThreshold (k.insWord (k.thrPc t + 1)) (s.jobIter j)
    if th ≤ k.sbAtStart s.now (insSb w) (insCtr w) then .next (s.setCore c (k.retire s.now t 2 (s.jobIter j)))
    else
      let k := k.block t 2 (insSb w) (insCtr w) th
      .next (s.setCore c (k.releaseWaits s.now (insSb w) (insCtr w)))

/-- A thread whose release has come retires its WAIT (R288). -/
def execWaitRelease (core : CoreNum) (thread : ThreadNum) (s : State) : Host.Outcome State Fault Refusal :=
  let c := core.toNat
  let t := thread.toNat
  match s.coreJob c with
  | none => .next s
  | some (_, j) =>
    let k := s.core c
    if k.thrSt t = 2 ∧ tabGet 0 k.releaseAt t ≠ 0 ∧ tabGet 0 k.releaseAt t ≤ s.now then
      .next (s.setCore c (k.retire s.now t 2 (s.jobIter j)))
    else .next s

/-- SIG: the increment takes effect in the next cycle (R285). -/
def execSig (core : CoreNum) (thread : ThreadNum) (s : State) : Host.Outcome State Fault Refusal :=
  let c := core.toNat
  let t := thread.toNat
  match s.threadReady c t 3 with
  | none => .next s
  | some (_, j, w, late) =>
    let k := ((s.core c).executed t late).retire s.now t 1 (s.jobIter j)
    .next (s.setCore c { k with incs := k.incs ++ [⟨insSb w, insCtr w, insN w, s.beat, s.cycle + 1⟩] })

/-- The increments of a core that are due come into force (R284, R286, R288). -/
def execScoreboardIncrement (core : CoreNum) (s : State) : Host.Outcome State Fault Refusal :=
  match s.coreJob core.toNat with
  | none => .next s
  | some _ => .next (s.applyIncs core.toNat)

/-! ## Rally -/

/-- Member `m` leaves its oldest arrival in this cycle: a released RWAIT retires, or one executes whose phase had completed (R291,
R292). -/
def State.leavesNow (s : State) (c r m : Nat) : Bool :=
  let k := s.core c
  let ready (op : Nat) := match s.threadReady c m op with
    | some (_, _, w, _) => insRly w == r && decide (k.left r m < k.arrived r m) && decide (k.left r m + 1 ≤ k.phaseAtStart s.now r)
    | none => false
  (k.thrSt m == 3 && k.thrObj m == r && tabGet 0 k.releaseAt m != 0 && decide (tabGet 0 k.releaseAt m ≤ s.now)) ||
    ready 5 || ready 6

/-- The least D over the members, after the RWAIT retirements of this cycle (R291); `t` is the member that arrives. -/
def State.minLeftNow (s : State) (c t r : Nat) : Nat :=
  let k := s.core c
  match (k.members r).map fun m => k.left r m + bit (m != t && s.leavesNow c r m) with
  | [] => 0
  | d :: ds => ds.foldl min d

/-- The arrival of member `t`, or its refusal as an overrun (R291): the state, and whether it was accepted. -/
def State.arrive (s : State) (c t r : Nat) : State × Bool :=
  let k := s.core c
  if k.arrived r t + 1 - s.minLeftNow c t r > 2 then
    let k := ((k.setBits (Reg.rlyFlags r) 1).setBits Reg.coreStat 0x8).stop t
    ((s.setCore c k).enterJobFault c 0x0C 3 0 0, false)
  else
    let k := { k with arrivals := tabSet 0 k.arrivals (rallyKey r t) (k.arrived r t + 1) }
    (s.setCore c (k.completePhase s.now r), true)

/-- The RWAIT of member `t` (R292). -/
def CoreState.rwait (k : CoreState) (now t r iter : Nat) : CoreState :=
  if k.left r t = k.arrived r t then (k.setBits (Reg.rlyFlags r) 2).retire now t 1 iter
  else if k.left r t + 1 ≤ k.phaseAtStart now r then (k.leave r t).retire now t 1 iter
  else
    let k := k.block t 3 r false 0
    if k.left r t + 1 ≤ k.phase r then { k with releaseAt := tabSet 0 k.releaseAt t (now + 1) } else k

/-- ARRIVE (R291). -/
def execArrive (core : CoreNum) (thread : ThreadNum) (s : State) : Host.Outcome State Fault Refusal :=
  let c := core.toNat
  let t := thread.toNat
  match s.threadReady c t 4 with
  | none => .next s
  | some (_, j, w, late) =>
    let r := (s.setCore c ((s.core c).executed t late)).arrive c t (insRly w)
    if r.2 then .next (r.1.modCore c fun k => k.retire s.now t 1 (s.jobIter j)) else .next r.1

/-- RWAIT (R292). -/
def execRwait (core : CoreNum) (thread : ThreadNum) (s : State) : Host.Outcome State Fault Refusal :=
  let c := core.toNat
  let t := thread.toNat
  match s.threadReady c t 5 with
  | none => .next s
  | some (_, j, w, late) => .next (s.setCore c (((s.core c).executed t late).rwait s.now t (insRly w) (s.jobIter j)))

/-- A released RWAIT or RALLY retires and leaves its phase (R292). -/
def execRwaitRelease (core : CoreNum) (thread : ThreadNum) (s : State) : Host.Outcome State Fault Refusal :=
  let c := core.toNat
  let t := thread.toNat
  match s.coreJob c with
  | none => .next s
  | some (_, j) =>
    let k := s.core c
    if k.thrSt t = 3 ∧ tabGet 0 k.releaseAt t ≠ 0 ∧ tabGet 0 k.releaseAt t ≤ s.now then
      .next (s.setCore c ((k.leave (k.thrObj t) t).retire s.now t 1 (s.jobIter j)))
    else .next s

/-- RALLY: ARRIVE followed by RWAIT in one cycle (R293). -/
def execRally (core : CoreNum) (thread : ThreadNum) (s : State) : Host.Outcome State Fault Refusal :=
  let c := core.toNat
  let t := thread.toNat
  match s.threadReady c t 6 with
  | none => .next s
  | some (_, j, w, late) =>
    let r := (s.setCore c ((s.core c).executed t late)).arrive c t (insRly w)
    if r.2 then .next (r.1.modCore c fun k => k.rwait s.now t (insRly w) (s.jobIter j)) else .next r.1

/-! ## MARK and the deadlock detector -/

/-- MARK: a trace record, unless TRACE_CTRL.MARKS is 0 or the job is confidential (R449, R452, R453). -/
def execMark (core : CoreNum) (thread : ThreadNum) (s : State) : Host.Outcome State Fault Refusal :=
  let c := core.toNat
  let t := thread.toNat
  match s.threadReady c t 7 with
  | none => .next s
  | some (_, j, w, late) =>
    let s' : State := s.setCore c (((s.core c).executed t late).retire s.now t 1 (s.jobIter j))
    if s.dcbF Dcb.traceCtrl 5 1 = 1 ∧ !s.jobConf j then
      .next (s'.addTrace (traceKey s.cycle 0 c t) (traceRec s.beat 2
        (insMarkKind w + insMarkValue w * 2 ^ 2 + s.cycle * 2 ^ 34 + c * 2 ^ 44 + t * 2 ^ 54 + j.part * 2 ^ 60)))
    else .next s'

/-- The deadlock detector fires when DLK_COUNT has reached 4, at that boundary (R295): CORE_STAT.DLK, the hang snapshot,
interrupt source 133 and the end of the job. -/
def execDeadlockDetect (core : CoreNum) (s : State) : Host.Outcome State Fault Refusal :=
  let c := core.toNat
  match s.coreJob c with
  | none => .next s
  | some (h, _) =>
    if (s.core c).regF Reg.dlkCount 0 3 = 4 ∧ (s.core c).regF Reg.coreStat 5 1 = 0 ∧ s.cycle = 0 then
      let s1 : State := ((s.modCore c fun k => k.setBits Reg.coreStat 0x20).takeSnapshot c 1).dieEvent 133
      let s2 : State := s1.enterJobFault c 0x0C 4 0 0
      .next (s2.modJob h fun j => { j with pendingEnd := j.pendingEnd.map fun e =>
        (e.1, e.2.1, if e.2.2 = s.beat + 1 then s.beat else e.2.2) })
    else .next s

end Sys2Proof.Machine
end

