-- ==== Sys2Proof/Machine/Plan.lean ====
section
/-! DEFINITION. The checks of a schedule at admission (R61, R277, R281, R282, R312 and the chapters of the commands), and the slots
that a job takes on each port under its engine map (R309, R311, R341 to R344). -/

namespace Sys2Proof.Machine

/-! ## One engine's program -/

def EngineRec.member (r : EngineRec) (u t : Nat) : Bool := (r.members.getD u 0).toNat.testBit t

/-- A declared queue's ring lies in scratch (R281). -/
def queueOk (q : Nat) : Bool :=
  bitsOf q 18 2 == 0 && bitsOf q 54 9 == 0 &&
    (!qEnabled q || (qBase q % 64 == 0 && decide (1 ≤ qBufs q) && decide (qBase q + qBufs q * qSlot q * 64 ≤ 0x40000) &&
      (decide (qSb q < 48) || qSb q == 63)))

/-- The queues of an engine, no two of them guarded by one scoreboard (R281). -/
def EngineRec.queuesOk (r : EngineRec) : Bool :=
  let qs := (List.range 256).map r.queue
  qs.all queueOk &&
    (List.range 48).all fun sb => decide ((qs.filter fun q => qEnabled q && qSb q == sb).length ≤ 1)

/-- Rally members are threads that the job declares (R277). -/
def EngineRec.membersOk (r : EngineRec) : Bool :=
  (List.range 8).all fun u => (List.range 64).all fun t => !r.member u t || r.len t != 0

/-- One instruction's fields (R277). -/
def EngineRec.insOk (r : EngineRec) (p : Nat) (x : ProgIns) : Bool :=
  let op := insOp x.w0
  decide (insBeat x.w0 < p) && decide (insCycle x.w0 ≤ 749) &&
    (if op = 1 then
      let c := x.words.getD 0 0 % 256
      cmdLen c != 0 && insEngine x.w0 == cmdEngine c && (!insSigen x.w0 || decide (insSigsb x.w0 < 48)) &&
        (!insQuse x.w0 || (decide (insQword x.w0 < cmdLen c) && cmdAddrWord c (insQword x.w0) &&
          qEnabled (r.queue (insQueue x.w0))))
    else if op = 2 then decide (insSb x.w0 < 48)
    else if op = 3 then decide (insSb x.w0 < 48) && insN x.w0 != 0
    else if op = 4 ∨ op = 5 ∨ op = 6 then r.member (insRly x.w0) x.thread
    else op == 7 && insMarkKind x.w0 != 3)

/-- The stamp as one number. -/
def ProgIns.stamp (x : ProgIns) : Nat := insBeat x.w0 * 1024 + insCycle x.w0

/-- Numbers strictly rise. -/
def rising : List Nat → Bool
  | a :: b :: r => decide (a < b) && rising (b :: r)
  | _ => true

/-- A thread's instructions fill it exactly, and its stamps strictly increase. -/
def EngineRec.threadOk (r : EngineRec) (t : Nat) : Bool :=
  let xs := r.thread t
  rising (xs.map ProgIns.stamp) && (xs.map fun x => insLen x.w0 x.w1).sum == r.len t

/-- At most eight instructions in one cycle, and one ISSUE to an engine (R277). -/
def crowded (xs : List ProgIns) : Bool :=
  xs.any fun x => decide ((xs.filter fun y => y.stamp == x.stamp).length > 8) ||
    (insOp x.w0 == 1 && decide ((xs.filter fun y =>
      insOp y.w0 == 1 && y.stamp == x.stamp && insEngine y.w0 == insEngine x.w0).length > 1))

/-- The commands that an ISSUE can give: with each address that its queue can patch in (R282). -/
def EngineRec.variants (r : EngineRec) (x : ProgIns) : List Issued :=
  let i := x.issued
  if insQuse x.w0 then
    let q := r.queue (insQueue x.w0)
    let k := insQword x.w0
    (List.range (qBufs q)).map fun n =>
      { i with words := i.words.set k (BitVec.ofNat 64
        (putBits (i.w k) 0 44 (bitsOf (i.w k) 0 44 + qBase q + n * qSlot q * 64))) }
  else [i]

/-! ### Commands of one beat -/

/-- The command's engine is busy until this cycle, counted from its issue (R60, property 3). -/
def Issued.until (i : Issued) (page : List (Nat × Word)) (half : Bool) : Nat := max (i.busy page 0 half).2 (i.cycle + 1)

/-- The last cycle of an FE_MMA's span (R178) or of an FE_OUT's run (R172), and the tile; none for another command. -/
def Issued.accSpan (i : Issued) (half : Bool) : Option (Nat × Nat × Bool) :=
  if i.op = 0x30 then some (i.mma.acc, i.cycle + i.mma.busy half + 7, true)
  else if i.op = 0x31 then some (i.out.acc, i.cycle + 39, false)
  else none

/-- The accumulator tile that a load/store-engine command reads (false) or loads (true). -/
def Issued.accMove (i : Issued) : Option (Nat × Bool) :=
  if i.op = 0x27 then some (i.f 0 8 4, false)
  else if i.op = 0x28 then some (i.f 0 8 4, true)
  else if i.op = 0x29 ∧ i.red.srck = 0 then some (i.red.tile, false)
  else none

/-- Two commands of one beat that may not stand together: an engine still busy (R60), an accumulator tile in use (R172,
R178), a ROT_LOAD under a running tile (R133). -/
def clash (page : List (Nat × Word)) (half : Bool) (x y : Issued) : Bool :=
  (cmdEngine x.op == cmdEngine y.op && decide (x.cycle ≤ y.cycle) && decide (y.cycle < x.until page half)) ||
    (match x.accSpan half, y.accSpan half with
      | some (t, last, true), some (u, last2, false) =>
        t == u && (if x.cycle ≤ y.cycle then decide (y.cycle ≤ last) else decide (x.cycle ≤ last2))
      | _, _ => false) ||
    (match x.accSpan half, y.accMove with
      | some (t, last, isMma), some (u, load) =>
        t == u && (isMma || load) &&
          ((y.slots page 0).any fun e => decide (x.cycle ≤ e.1) && decide (e.1 ≤ last))
      | _, _ => false) ||
    (x.op == 0x24 && y.op == 0x20 && y.runSteps != 0)

/-- Every pair of a beat's commands, each with its position so that no command meets itself. -/
def anyClash (page : List (Nat × Word)) (half : Bool) (is : List Issued) : Bool :=
  is.zipIdx.any fun x => is.zipIdx.any fun y => x.2 != y.2 && clash page half x.1 y.1

/-! ### Long rows (R215, R216) -/

/-- The passes of a long row and the sources each may have (Table 7-3). -/
def rowPasses (x : Cat) : List (Nat × Nat × Nat) :=
  if x.mask = 0 then [(2, 0, 1)]
  else if x.mask = 2 ∨ x.fmt ≠ 3 then [(0, 0, 1), (2, 2, 2)]
  else [(0, 0, 1), (1, 2, 2), (2, 2, 2)]

/-- The fields that every command of a row shares. -/
def sameRow (x y : Cat) : Bool :=
  x.fmt == y.fmt && x.mask == y.mask && x.greedy == y.greedy && x.tiled == y.tiled && x.tinv == y.tinv &&
    x.topk == y.topk && x.n == y.n && x.addr == y.addr && x.thr == y.thr && x.base == y.base && x.seq == y.seq

/-- Checks the long-row commands in their order, each with its time. The state of an open row: its first command, the
passes that remain, the next block, and the time from which a pass may start. -/
def rowsOk : List (Nat × Cat) → Option (Cat × List (Nat × Nat × Nat) × Nat × Nat) → Bool
  | [], st => st.isNone
  | (t, x) :: r, st =>
    let cur := match st with
      | none => (x, rowPasses x, 0, 0)
      | some y => y
    match cur.2.1 with
    | [] => false
    | (pass, s0, s1) :: later =>
      let b := cur.2.2.1
      let stop := b + x.nblk
      let ok := sameRow cur.1 x && x.pass == pass && (x.src == s0 || x.src == s1) && x.blk0 == b &&
        decide (cur.2.2.2 ≤ t)
      if !ok then false
      else if stop < (x.n + 63) / 64 then rowsOk r (some (cur.1, cur.2.1, stop, 0))
      else if later.isEmpty then rowsOk r none
      else rowsOk r (some (cur.1, later, 0, t + x.busy + 20))

/-- Insertion of an entry in the order of its first part. -/
def insertBy {α : Type} (e : Nat × α) : List (Nat × α) → List (Nat × α)
  | [] => [e]
  | x :: r => if e.1 < x.1 then e :: x :: r else x :: insertBy e r

def sortBy {α : Type} (l : List (Nat × α)) : List (Nat × α) := l.foldl (fun a e => insertBy e a) []

/-- The time of a command in its period, in cycles. -/
def Issued.time (i : Issued) : Nat := i.stampBeat * beatCycles + i.stampCycle

def rowsGood (is : List Issued) : Bool :=
  rowsOk (sortBy ((is.filter fun i => i.op == 0x40 && i.cat.long).map fun i => (i.time, i.cat))) none

/-- A FELT_QCONV that takes its exponent from a scan follows one in its period (R100). -/
def qconvOk (is : List Issued) : Bool :=
  is.all fun i => i.op != 0x22 || i.quant.first || i.quant.fixed || is.any fun x => x.op == 0x21 && decide (x.time < i.time)

/-! ### Replica exchange (R113, R139, R145) -/

/-- Some job beat in which beat `b` of the period runs lies 0 to g beats after an exchange beat. -/
def inExchange (m : Image) (b g : Nat) : Bool :=
  let period := bitsOf m.xchg.toNat 0 16
  let offset := bitsOf m.xchg.toNat 16 16
  period != 0 && (List.range (min period ((m.l - b + m.p - 1) / m.p))).any fun i =>
    let k := b + i * m.p
    (List.range (g + 1)).any fun d => decide (d ≤ k) && (k - d) % period == offset

def EngineRec.mode (r : EngineRec) : Nat := bitsOf r.xcfg.toNat 0 2
def EngineRec.lag (r : EngineRec) : Nat := bitsOf r.xcfg.toNat 8 6

/-- G: the lag of a job with exchange blocks, else 2 (R139, R145). -/
def Image.exchangeLag (m : Image) (r : EngineRec) : Nat := if m.engines.any fun x => x.mode != 0 then r.lag else 2

/-- A FELT_RUN with steps or a FELT_BETA_SET stands in the beats of an exchange. -/
def Image.exchangeBad (m : Image) (r : EngineRec) (is : List Issued) : Bool :=
  is.any fun i => ((i.op == 0x20 && i.runSteps != 0) || i.op == 0x26) && inExchange m i.stampBeat (m.exchangeLag r)

/-! ### The engine as a whole -/

/-- An engine's program breaks a rule that its own fields and cycles show; `n` is its core. -/
def Image.engineBad (m : Image) (half : Bool) (r : EngineRec) (n : Nat) : Bool :=
  let xs := r.instrs
  let is := r.issues
  let last := bitsOf m.anneal.toNat 48 16
  !r.queuesOk || !r.membersOk || !xs.all (r.insOk m.p) || !(List.range 64).all r.threadOk || crowded xs ||
    (is.any fun x => (r.variants x.1).any fun i => i.bad (m.pageOf r i.stampBeat) n half last) ||
    ((List.range m.p).any fun b =>
      anyClash (m.pageOf r b) half ((is.map (·.2)).filter fun i => i.stampBeat == b)) ||
    !rowsGood (is.map (·.2)) || !qconvOk (is.map (·.2)) || m.exchangeBad r (is.map (·.2)) ||
    (is.any fun x => x.2.op == 0x25 && decide (m.e ≤ x.2.f 0 16 16))

/-! ## Rules over the engines -/

/-- Every engine issues the same FELT_BETA_SETs (R138). -/
def Image.betaBad (m : Image) : Bool :=
  let sets (r : EngineRec) := sortBy ((r.issues.filter fun x => x.2.op == 0x26).map fun x => (x.1.stamp, x.2.f 0 8 16))
  match m.engines with
  | [] => false
  | r :: rs => rs.any fun x => sets x != sets r

/-- The EXCH_SENDs of the period: beat, receiver, direction. -/
def Image.sends (m : Image) : List (Nat × Nat × Nat) :=
  m.engines.flatMap fun r => (r.issues.filter fun x => x.2.op == 0x25).map fun x => (x.2.stampBeat, x.2.f 0 16 16, x.2.f 0 8 3)

def Image.engineLag (m : Image) (e : Nat) : Nat := ((m.engines[e]?).map EngineRec.lag).getD 2
def Image.engineMode (m : Image) (e : Nat) : Nat := ((m.engines[e]?).map EngineRec.mode).getD 0

/-- Two sends to one receiver and direction lie closer than G beats; free exchange is not checked (R142, R146). -/
def Image.lagBad (m : Image) : Bool :=
  let ss := m.sends.zipIdx
  ss.any fun x => m.engineMode x.1.2.1 != 2 &&
    let g := m.engineLag x.1.2.1
    (decide (x.1.1 + m.p < m.l) && decide (m.p < g)) ||
      ss.any fun y => x.2 != y.2 && x.1.2 == y.1.2 && decide (x.1.1 ≤ y.1.1) &&
        (decide (y.1.1 < x.1.1 + g) || (decide (x.1.1 + m.p < m.l) && decide (x.1.1 + m.p < y.1.1 + g)))

/-- The period's ISSUEs in their order, as they run in period iteration `iter`: each queue's count has advanced with every ISSUE before
(R282). -/
def EngineRec.patched (r : EngineRec) (iter : Nat) : List Issued :=
  let xs := (sortBy (r.issues.map fun x => (x.2.time, x))).map (·.2)
  xs.zipIdx.map fun y =>
    let w := y.1.1.w0
    if insQuse w then
      let same (z : ProgIns × Issued) : Bool :=
        insQuse z.1.w0 && insQueue z.1.w0 == insQueue w && insQrole z.1.w0 == insQrole w
      let n := iter * (xs.filter same).length + ((xs.take y.2).filter same).length
      { y.1.2 with words := y.1.2.words.mapIdx fun i x =>
          if i = insQword w then BitVec.ofNat 64 (patchWord x.toNat (queueOffset (r.queue (insQueue w)) n)) else x }
    else y.1.2

/-- The ACC_REDs of a beat of period iteration `iter`. -/
def Image.reds (m : Image) (es : List Nat) (iter b : Nat) : List AccRed :=
  es.flatMap fun e => match m.engines[e]? with
    | some r => ((r.patched iter).filter fun i => i.op == 0x29 && i.stampBeat == b).map Issued.red
    | none => []

/-- The period iterations after which the addresses of the patched ACC_REDs repeat. -/
def Image.redCycle (m : Image) (es : List Nat) : Nat :=
  let qs := es.flatMap fun e => match m.engines[e]? with
    | some r => (r.issues.filter fun x => x.2.op == 0x29 && insQuse x.1.w0).map fun x => qBufs (r.queue (insQueue x.1.w0))
    | none => []
  min (qs.foldl (fun n q => Nat.lcm n (max q 1)) 1) ((m.l + max m.p 1 - 1) / max m.p 1)

/-- The node of one ACC_RED: exactly one partner, and no other region that overlaps (R192). -/
def nodeOk (rs : List AccRed) (x : AccRed) : Bool :=
  let peers := rs.filter fun y => y.dest == x.dest
  peers.length == 2 && (peers.all fun y => y.op == x.op && y.rows == x.rows) &&
    (peers.any fun y => y.side == 0) && (peers.any fun y => y.side == 1) &&
    rs.all fun y => y.dest == x.dest || decide (x.dest + 512 * x.rows ≤ y.dest) || decide (y.dest + 512 * y.rows ≤ x.dest)

/-- The nodes of every beat: whole, disjoint, and at most 32 rows in a slice (R192), with the addresses that the queue patch gives
(R282). -/
def Image.nodesBad (m : Image) (es : List Nat) : Bool :=
  (List.range (m.redCycle es)).any fun iter => (List.range m.p).any fun b =>
    let rs := m.reds es iter b
    !rs.all (nodeOk rs) || rs.any fun x =>
      decide (32 < ((rs.filter fun y => y.side == 0 && regionOf y.dest == regionOf x.dest).map AccRed.rows).sum)

/-! ## Slots on every port -/

/-- A slot that the schedule takes: beat of the period, port, and slot on that port. Ports: core n is n, slice port p is
1024 + p, pseudo-channel p is 2048 + p, tap t is 3072 + t, and the payload of link port L is 4096 + L. `core` is the core port, or
the tap as 3072 + t, that the slot serves (R311). -/
structure SlotUse where
  beat : Nat
  port : Nat
  slot : Nat
  merge : Bool
  core : Nat
  deriving DecidableEq, Repr

/-- The one-way distance from core n to a tap of link port l (R341). -/
def tapHops (n l : Nat) : Nat := 3 + (n % 16) / 4 + ring (n / 16 % 16) + popcount 2 ((n / 256) ^^^ (l / 4))

/-- The slice-port slot of an entry: of a slice transfer, and of HBM data on its way through the port (Table 11-3). -/
def entrySlice (n : Nat) (e : Nat × Word) : Nat :=
  if slotHbm e.2 ∧ slotKind e.2 = 0 then accessCycle (slotK e.2) + 40 else e.1 + hops n (slotPort e.2) + 1

/-- The slots of one entry of a core-port page. -/
def entryUses (n b : Nat) (e : Nat × Word) : List SlotUse :=
  let p := slotPort e.2
  ⟨b, n, e.1, false, n⟩ ::
    (if slotKind e.2 = 2 then
      [⟨b, 3072 + p, e.1 + tapHops n (p / 2) + 1, false, n⟩, ⟨b, 4096 + p / 2, slotK e.2, false, n⟩]
    else ⟨b, 1024 + p, entrySlice n e, slotMerge e.2, n⟩ ::
      (if slotHbm e.2 then [⟨b, 2048 + p, slotK e.2, slotMerge e.2, n⟩] else []))

/-- The pages of the engines that this module holds: engine, core, beat, entries. -/
def Image.localPages (m : Image) (map : List (Nat × Nat)) : List (Nat × Nat × List (Nat × Word)) :=
  map.flatMap fun x => match m.engines[x.1]? with
    | some r => (List.range m.p).map fun b => (x.2, b, m.pageOf r b)
    | none => []

/-- LINK_DELAY: d and T (R343, R348). -/
def State.linkD (s : State) (l : Nat) : Nat := s.dcbF (Dcb.linkDelay l) 0 16
def State.linkLat (s : State) (l : Nat) : Nat := s.linkD l + 132
def State.linkT (s : State) (l : Nat) : Nat := 1 + s.linkLat l / 750

/-- The slice port that a landing takes. -/
def landingPort (map : List (Nat × Nat)) (x : Landing) : Option Nat :=
  if x.dkind = 1 then (match regionOf x.addr with | .slice p => some p | _ => none)
  else if x.dkind = 2 then (map.find? fun y => y.1 == x.engine).map (·.2)
  else none

/-- Every slot that the job takes on this module (R311). -/
def State.planUses (s : State) (m : Image) (map : List (Nat × Nat)) : List SlotUse :=
  ((m.localPages map).flatMap fun x => x.2.2.flatMap (entryUses x.1 x.2.1)) ++
    m.landings.filterMap fun x => (landingPort map x).map fun p =>
      ⟨(x.beat + s.linkT x.port) % m.p, 1024 + p, x.land, false, 3072 + 2 * x.port⟩

/-- Two uses in one slot, of which not both are members of a merged read. -/
def usesClash (us : List SlotUse) : Bool :=
  us.zipIdx.any fun x => us.zipIdx.any fun y =>
    decide (x.2 < y.2) && x.1.beat == y.1.beat && x.1.port == y.1.port && x.1.slot == y.1.slot && !(x.1.merge && y.1.merge)

/-- The cycle in which a read's data reaches its core; none for a write or a send. -/
def entryDelivers (n : Nat) (e : Nat × Word) : Option Nat := if slotKind e.2 = 0 then some (completeAt n e.1 e.2) else none

def twice : List Nat → Bool
  | [] => false
  | a :: r => r.contains a || twice r

/-- One core-port page: deliveries that coincide, transfers that end late or meet a reserved slot, and HBM requests that
come after their access (R312, conditions 2, 4, 5 and 7; R342). -/
def pageBad (n : Nat) (es : List (Nat × Word)) : Bool :=
  twice (es.filterMap (entryDelivers n)) ||
    es.any fun e =>
      if slotKind e.2 = 2 then
        decide (15 * ((slotK e.2 + 2) / 9) / 2 < e.1 + tapHops n (slotPort e.2 / 2) + 1 + 2)
      else
        decide (completeAt n e.1 e.2 > 749) || decide (748 ≤ entrySlice n e) ||
          (slotHbm e.2 && decide (accessCycle (slotK e.2) < e.1 + hops n (slotPort e.2) + 1))

/-- What waits at a pseudo-channel in a beat: when each request or write reaches it and its access slot (R312, condition
6). The members of a merged read are one request. -/
def hbmWaits (ps : List (Nat × Nat × List (Nat × Word))) (b pc : Nat) : List (Nat × Nat) :=
  ps.flatMap fun x => if x.2.1 = b then (x.2.2.filter fun e => slotKind e.2 != 2 && slotHbm e.2 && slotPort e.2 == pc).map
    fun e => (e.1 + hops x.1 pc + 1, slotK e.2) else []

/-- At most 16 wait at once. -/
def hbmCrowded (ws : List (Nat × Nat)) : Bool :=
  ws.any fun x => decide (16 < ((ws.filter fun y => decide (y.1 ≤ x.1) && decide (x.1 < accessCycle y.2)).map (·.2)).dedup.length)

/-- The pseudo-channels that the schedule names. -/
def planPcs (us : List SlotUse) : List Nat :=
  ((us.filter fun (u : SlotUse) => decide (2048 ≤ u.port ∧ u.port < 3072)).map fun (u : SlotUse) => u.port - 2048).dedup

/-- The link ports that the schedule names (R347). -/
def planLinks (m : Image) (us : List SlotUse) : List Nat :=
  (((us.filter fun (u : SlotUse) => decide (4096 ≤ u.port)).map fun (u : SlotUse) => u.port - 4096) ++ m.landings.map Landing.port).dedup

/-- Every target that the schedule names exists in the job's partitions (R61). -/
def State.useInParts (s : State) (parts : Byte) (u : SlotUse) : Bool :=
  let has (f : Nat → Bool) : Bool := (List.range 8).any fun p => parts.toNat.testBit p && f p
  if u.port < 1024 then has fun p => s.partHasCluster p (clusterOf u.port)
  else if u.port < 2048 then
    has fun p => s.partHasSlice p (u.port - 1024) || s.partHasCluster p (clusterOf (u.port - 1024))
  else if u.port < 3072 then has fun p => s.partHasStack p ((u.port - 2048) / 128)
  else if u.port < 4096 then has fun p => s.partHasLink p ((u.port - 3072) / 2)
  else has fun p => s.partHasLink p (u.port - 4096)

/-- A landing's port and destination lie in the job's partitions, in what a job may write (R344, R424). -/
def State.landingInParts (s : State) (parts : Byte) (map : List (Nat × Nat)) (x : Landing) : Bool :=
  let has (f : Nat → Bool) : Bool := (List.range 8).any fun p => parts.toNat.testBit p && f p
  if x.dkind = 0 then true
  else (has fun p => s.partHasLink p x.port) &&
    if x.dkind = 1 then has fun p => s.partHasSlice p ((x.addr - 0x10000000000) / 0x80000)
    else (landingPort map x).isSome && (decide (x.offset + 64 ≤ 0x40000) || ((List.range 64).any fun i => feltMapped (x.offset + i)))

/-- A live neighbour that the engine map places on another module (R140, R496). -/
def Image.nbrAway (m : Image) (map : List (Nat × Nat)) : Bool :=
  map.any fun x => ((m.engines[x.1]?).map EngineRec.nbr).any fun ws =>
    ws.any fun w => declSrc w == 1 && !(map.any fun y => y.1 == declEngine w)

/-- The accesses that the schedule asks of a port in a beat; a merged read is one. -/
def demand (us : List SlotUse) (port b : Nat) : Nat :=
  let here := us.filter fun u => u.port == port && u.beat == b
  (here.filter fun u => !u.merge).length + ((here.filter fun u => u.merge).map (·.slot)).dedup.length

/-- The pseudo-channels whose demand in some beat is above the 96 unreserved slots: such a schedule could not fit even on an idle
device (R75, R136, R322). -/
def overPcs (us : List SlotUse) (p : Nat) : List Nat :=
  (planPcs us).filter fun pc => (List.range p).any fun b => decide (96 < demand us (2048 + pc) b)

/-- The rules that the engine map decides (R312 and the chapters): the schedule is malformed. A pseudo-channel that is asked for more
than it has is R75's (DEDUCED, log entry 74). -/
def State.planBad (s : State) (m : Image) (parts : Byte) (half : Bool) (map : List (Nat × Nat)) : Bool :=
  let us := s.planUses m map
  let excess := overPcs us m.p
  let ps := m.localPages map
  (map.any fun x => ((m.engines[x.1]?).map fun r => m.engineBad half r x.2).getD true) || m.betaBad || m.lagBad ||
    m.nodesBad (map.map (·.1)) || m.nbrAway map || usesClash (us.filter fun u => !(excess.map (2048 + ·)).contains u.port) ||
    (ps.any fun x => pageBad x.1 x.2.2) || (m.landings.any fun x => x.dkind != 0 && decide (748 ≤ x.land)) ||
    ((planPcs us).any fun pc => !excess.contains pc && (List.range m.p).any fun b => hbmCrowded (hbmWaits ps b pc)) ||
    !us.all (s.useInParts parts) || !m.landings.all (s.landingInParts parts map)

/-- end(w) of a codeword, less the beats that pass (R343). -/
def State.landingLate (s : State) (enc : Bool) (x : Landing) : Bool :=
  let lat := s.linkLat x.port
  x.dkind != 0 &&
    (if enc then decide (x.land + 750 * (s.linkT x.port - 1) < lat)
     else decide (x.land + 750 * s.linkT x.port < 15 * ((x.position + 2) / 9 + 1) / 2 + lat))

/-- The distinct pages that a port's table needs for the job: a page names, for each slot, what the slot serves (R311). -/
def portPages (m : Image) (us : List SlotUse) (port : Nat) : Nat :=
  let keys (b : Nat) := (sortBy ((us.filter fun u => u.port == port && u.beat == b).map fun u =>
    (u.slot * 8192 + u.core, bit u.merge)))
  (((List.range m.p).map keys).filter fun l => !l.isEmpty).dedup.length

/-- The distinct core-port pages of an engine. -/
def corePages (r : EngineRec) : Nat := (r.page.filter fun x => x != 0xFFFF).dedup.length

def planPorts (us : List SlotUse) : List Nat :=
  ((us.filter fun (u : SlotUse) => decide (1024 ≤ u.port ∧ u.port < 4096)).map SlotUse.port).dedup

/-- The receivers of exchanged data and the link ports that it passes: sends of engines of this module through taps, and
landings in staging buffers (R142). -/
def Image.exchangeLinks (m : Image) (map : List (Nat × Nat)) : List (Nat × Nat) :=
  (map.flatMap fun x => match m.engines[x.1]? with
    | some r => (r.issues.filter fun y => y.2.op == 0x25).flatMap fun y =>
        ((y.2.slots (m.pageOf r y.2.stampBeat) 0).filter fun e => slotKind e.2 == 2).map fun e =>
          (y.2.f 0 16 16, slotPort e.2 / 2)
    | none => []) ++
    (m.landings.filter fun x => x.dkind == 2 && decide (Win.staging ≤ x.offset) && decide (x.offset < 0x905800)).map fun x =>
      (x.engine, x.port)

/-- The schedule could not fit even on an idle device, or breaks the limits of the measured links (R75, R136, R142, R311, R343,
R389). The G of a receiver is compared with the links of its own exchanges (DEDUCED, log entry 75). -/
def State.planRefused (s : State) (m : Image) (enc : Bool) (map : List (Nat × Nat)) : Bool :=
  let us := s.planUses m map
  !(overPcs us m.p).isEmpty || ((planPorts us).any fun p => decide (16 < portPages m us p)) ||
    (map.any fun x => ((m.engines[x.1]?).map corePages).any fun n => decide (16 < n)) ||
    (m.landings.any (s.landingLate enc)) ||
    ((planPcs us).any fun pc => s.dcbF (Dcb.hbmStat (pc / 32)) 0 1 == 0) ||
    ((m.exchangeLinks map).any fun x => m.engineMode x.1 != 2 && decide (m.engineLag x.1 < 1 + s.linkT x.2))

end Sys2Proof.Machine
end

