-- ==== Sys2Proof/Machine/Context.lean ====
section
/-! DEFINITION. Contexts (R296 to R300): the record of one engine (Tables 10-6, 10-7, 6-7), its checks and its loading, and
CTX_SAVE with its suspension. -/

namespace Sys2Proof.Machine

/-! ## The record -/

/-- `n` bytes of a register block from offset `o` of the core window, zero where no register lies. -/
def State.regBlock (s : State) (c o n : Nat) : List Byte :=
  (List.range (n / 4)).flatMap fun i =>
    let a := o + 4 * i
    bytesOf 4 (match coreRegAt a with
      | some r => s.coreRegRead c r.1 >>> (8 * (a - r.1))
      | none => 0)

/-- The usable-core map, one bit for each physical core (Table 6-7). -/
def State.gradeBytes (s : State) : List Byte :=
  (List.range 128).map fun i => BitVec.ofNat 8 ((List.range 8).foldl (fun v j => v + bit (s.usable (8 * i + j)) * 2 ^ j) 0)

/-- The ID and GRADE of a record: the core and the usable map, or the logical engine. -/
def State.recordId (s : State) (c e : Nat) (portable : Bool) : Nat × List Byte :=
  if portable then (e % 65536, zeros 128) else (c, s.gradeBytes)

/-- The accumulator record (Table 6-7). -/
def State.accRecord (s : State) (c e : Nat) (portable : Bool) : List Byte :=
  let k := s.core c
  let id := s.recordId c e portable
  let body :=
    if portable then (List.range 16).flatMap fun t => (List.range 256).flatMap fun n => granBytes (k.tileGranule t n)
    else bytesRead k.store Win.acc 0x40000
  let b := body ++ bytesOf 4 (if portable then 2 else 1) ++ bytesOf 4 (s.dcbReg Dcb.dclass).toNat ++ bytesOf 4 id.1 ++
    bytesOf 4 (k.reg Reg.accSat).toNat ++ bytesOf 4 (k.reg Reg.accFlags).toNat ++ zeros 12 ++
    bytesOf 8 (k.reg Reg.accSatcnt).toNat ++ bytesOf 8 (k.reg Reg.accEclamp).toNat ++ bytesOf 8 (k.reg Reg.accBadld).toNat ++
    zeros 8 ++ id.2 ++ zeros 56
  b ++ bytesOf 8 (digest b)

/-- The sequencer's part; a portable record has no thread entries. -/
def State.seqRecord (s : State) (c : Nat) (portable : Bool) : List Byte :=
  let threads := (List.range 64).flatMap fun t =>
    bytesOf 8 (s.coreRegRead c (Reg.thrState t)) ++ bytesOf 4 (s.coreRegRead c (Reg.thrProg t)) ++ zeros 4
  (if portable then zeros 1024 else threads) ++ s.coreRegBytes c (Reg.qCfg 0) 8 512 8 ++
    s.coreRegBytes c (Reg.sbProd 0) 4 192 4 ++ (List.range 8).flatMap (s.rallyBytes c) ++
    bytesOf 4 (s.coreRegRead c Reg.coreStat) ++ bytesOf 4 (s.coreRegRead c Reg.dlkCount) ++
    bytesOf 8 (s.coreRegRead c Reg.schedIter) ++ zeros 1776

/-- The Felt block; a portable record has no physical CORE fields. -/
def State.feltBlock (s : State) (c : Nat) (portable : Bool) : List Byte :=
  let b := s.regBlock c 0xF01000 0x430
  if portable then
    (b.take 0x20) ++ ((b.drop 0x20).take 16).mapIdx (fun i x => if i % 2 = 0 then 0 else x &&& 0xFC) ++ b.drop 0x30
  else b

/-- Register images (Table 10-6, 0x3000). -/
def State.regRecord (s : State) (c : Nat) (portable : Bool) : List Byte :=
  s.feltBlock c portable ++ zeros 0x3D0 ++ s.regBlock c 0xF02000 0x28 ++ zeros 0xD8 ++ s.regBlock c 0xF03000 0x20 ++
    zeros 0xE0 ++ s.regBlock c 0xF04000 0x40 ++ zeros 0xC0 ++ s.regBlock c 0xF05000 0x20 ++ zeros 0x4E0

/-- What follows the header, from 0x1000 on. -/
def State.recordBody (s : State) (c e : Nat) (portable : Bool) : List Byte :=
  let k := s.core c
  s.seqRecord c portable ++ s.regRecord c portable ++ k.image ++ bytesRead k.store Win.boundary 0x800 ++ zeros 0x800 ++
    (List.range 0x20000).map (fun i => k.feltByte (Win.cond + i)) ++ bytesRead k.store Win.rowBuffer 0x20000 ++
    bytesRead k.store Win.histogram 0x400 ++ zeros 0xC00 ++ bytesRead k.store Win.scratch 0x40000 ++
    s.accRecord c e portable ++ zeros 0xF00

/-- The header's first 0x30 bytes (Table 10-7). -/
def State.recordHead (s : State) (c e : Nat) (j : Job) (format : Nat) (portable : Bool) (k0 : Nat) : List Byte :=
  bytesOf 4 format ++ bytesOf 4 (s.dcbReg Dcb.dclass).toNat ++ bytesOf 4 (s.dcbF Dcb.abiId 0 16) ++
    bytesOf 4 (s.recordId c e portable).1 ++ zeros 8 ++ bytesOf 8 k0 ++ bytesOf 8 ((s.core c).reg Reg.schedIter).toNat ++
    bytesOf 4 j.image.e ++ bytesOf 4 j.image.p

/-- The record of 856,064 bytes. -/
def State.contextRecord (s : State) (c e : Nat) (j : Job) (portable : Bool) (k0 : Nat) : List Byte :=
  let head := s.recordHead c e j (if portable then 0x102 else 0x101) portable k0 ++ zeros 208 ++
    (s.recordId c e portable).2 ++ zeros 3704
  let body := s.recordBody c e portable
  head ++ bytesOf 8 (digest (head ++ body)) ++ body

/-! ## Checking a record (R197, R299) -/

/-- Reserved ranges of a record, by offset and length. -/
def recordZeros : List (Nat × Nat) :=
  [(0x10, 8), (0x30, 208), (0x180, 3704), (0x2910, 1776), (0x3430, 0x3D0), (0x3828, 0xD8), (0x3920, 0xE0), (0x3A40, 0xC0),
    (0x3B20, 0x4E0), (0xE800, 0x800), (0x4F400, 0xC00), (0x90000 + 0x40014, 12), (0x90000 + 0x40038, 8),
    (0x90000 + 0x400C0, 56), (0xD0100, 0xF00), (0x4000 + 0x9980, 128), (0x4000 + 0x9C24, 28), (0x4000 + 0x9CC0, 64),
    (0x4000 + 0x9E00, 504)] ++
    ((List.range 64).map fun t => (0x1000 + 16 * t + 12, 4)) ++ (List.range 8).map fun r => (0x2700 + 64 * r + 16, 16)

/-- Bytes 12 to 15 of every slot of the accumulator record are zero (Table 6-1). -/
def slotsClean (m : Bytes) (a : Nat) : Bool :=
  m.all fun e => decide (e.1 < a) || decide (a + 0x40000 ≤ e.1) || decide ((e.1 - a) % 16 < 12) || e.2 == 0

/-- The register images disagree with the header of the tile image (R299). -/
def recordDisagrees (m : Bytes) (a : Nat) : Bool :=
  let f (o n : Nat) := natAt m (a + 0x3000 + o) n
  let t (o n : Nat) := natAt m (a + 0x4000 + o) n
  f 0 4 % 64 != t 0x9C04 4 || f 0x10 8 != t 0x9C08 8 || f 0x18 4 != t 0x9C10 4 || f 0xC 4 != t 0x9C14 4 ||
    f 0xC0 8 != t 0x9C18 8 || f 0xC8 4 != t 0x9C20 4 ||
    (List.range 32).any fun i => f (0x100 + 8 * i) 8 != t (0x9D00 + 8 * i) 8

/-- The digest, the formats or the reserved fields fail, or the images disagree: FAULT. -/
def recordFault (m : Bytes) (a : Nat) (portable : Bool) : Bool :=
  natAt m a 4 != (if portable then 0x102 else 0x101) ||
    natAt m (a + 0xFF8) 8 != digest (bytesRead m a 0xFF8 ++ bytesRead m (a + 0x1000) (recordBytes - 0x1000)) ||
    natAt m (a + 0x90000 + 0x40000) 4 != (if portable then 2 else 1) ||
    natAt m (a + 0x90000 + 0x400F8) 8 != digest (bytesRead m (a + 0x90000) 0x400F8) ||
    natAt m (a + 0x4000 + 0x9C00) 4 != 1 || natAt m (a + 0x4000 + 0x9FF8) 8 != digest (bytesRead m (a + 0x4000) 0x9FF8) ||
    !(recordZeros.all fun z => zeroRange m (a + z.1) z.2) || !slotsClean m (a + 0x90000) ||
    (portable && !zeroRange m (a + 0x1000) 1024) || recordDisagrees m a

/-- A DCLASS, ID and GRADE, of the context header (Table 10-7) or of the accumulator record (Table 6-7), let the record restore onto
engine `e`, on core `c` (R197). -/
def State.idFits (s : State) (dclass id grade c e : Nat) (portable : Bool) : Bool :=
  let r := s.recordId c e portable
  let d := natAt s.mem dclass 4
  (if portable then d % 256 == s.dcbF Dcb.dclass 0 8 else d == (s.dcbReg Dcb.dclass).toNat) &&
    natAt s.mem id 4 == r.1 && bytesRead s.mem grade 128 == r.2

/-- The record does not restore onto engine `e` of this part, on core `c`: REFUSED. -/
def State.recordRefused (s : State) (a c e : Nat) (portable : Bool) (im : Image) : Bool :=
  natAt s.mem (a + 8) 4 != s.dcbF Dcb.abiId 0 16 || !s.idFits (a + 4) (a + 0xC) (a + 0x100) c e portable ||
    !s.idFits (a + 0xD0004) (a + 0xD0008) (a + 0xD0040) c e portable || natAt s.mem (a + 0x28) 4 != im.e || natAt s.mem (a + 0x2C) 4 != im.p ||
    decide (im.l ≤ natAt s.mem (a + 0x18) 8)

/-! ## Loading a record (R198, R300) -/

/-- A register takes a saved value, in the bits that its table gives to a field (R27). -/
def CoreState.loadReg (k : CoreState) (o v : Nat) : CoreState := k.setReg o (BitVec.ofNat 64 v &&& coreBits o)

/-- Registers of a block; the register image gives the saved values (log entry 76). -/
def CoreState.loadBlock (k : CoreState) (m : Bytes) (a o n : Nat) : CoreState :=
  (List.range (n / 4)).foldl (fun k i =>
    match coreRegAt (o + 4 * i) with
    | some (r, w) =>
      if r = o + 4 * i then k.loadReg r (natAt m (a + 4 * i) w) else k
    | none => k) k

/-- Scoreboards, queues, Rally units and the core's flags. A = C + ARR and D = A - OWE give the counts back. -/
def CoreState.loadSeq (k : CoreState) (m : Bytes) (a : Nat) : CoreState :=
  let k := (List.range 256).foldl (fun k q =>
    (k.loadReg (Reg.qCfg q) (natAt m (a + 0x400 + 16 * q) 8)).loadReg (Reg.qPtr q) (natAt m (a + 0x408 + 16 * q) 8)) k
  let k := (List.range 192).foldl (fun k i =>
    k.loadReg (Reg.sbProd 0 + 4 * i) (natAt m (a + 0x1400 + 4 * i) 4)) k
  let k := (List.range 8).foldl (fun k r =>
    let b := a + 0x1700 + 64 * r
    let ph := natAt m (b + 8) 4
    let k := (k.loadReg (Reg.rlyMembers r) (natAt m b 8)).loadReg (Reg.rlyFlags r) (natAt m (b + 12) 4)
    let k := { k with phases := tabSet 0 k.phases r ph }
    (k.members r).foldl (fun k t =>
      let x := bitsOf (natAt m (b + 0x20 + 8 * (t / 16)) 8) (4 * (t % 16)) 4
      let arr := ph + x % 4
      { k with
        arrivals := tabSet 0 k.arrivals (rallyKey r t) arr
        departures := tabSet 0 k.departures (rallyKey r t) (arr - x / 4) }) k) k
  ((k.loadReg Reg.coreStat (natAt m (a + 0x1900) 4)).loadReg Reg.dlkCount (natAt m (a + 0x1904) 4)).loadReg Reg.schedIter
    (natAt m (a + 0x1908) 8)

/-- The stamp, in cycles of the period, of the last instruction of thread t that lies before its PC, or of the next one where the
thread waits in it: an instruction that it has executed. `pc` walks through the program. -/
def CoreState.doneStamp (k : CoreState) (t : Nat) : Nat → Nat → Option Nat → Option Nat
  | 0, _, st => st
  | n + 1, pc, st =>
    if pc = k.thrPc t ∧ k.thrSt t < 2 ∨ k.thrPc t < pc ∨ k.thrStart t + k.thrLen t ≤ pc then st
    else
      let w := k.insWord pc
      k.doneStamp t n (pc + insLen w (k.insWord (pc + 1))) (some (insBeat w * beatCycles + insCycle w))

/-- The period iteration that a thread of a native record is in: the latest in which the last instruction that it executed had come by
job beat k0. A record holds no iteration of its own for a thread that is late past its period (DEDUCED, log entry 73). -/
def CoreState.savedIter (k : CoreState) (t p k0 : Nat) : Nat :=
  let iter := (k.reg Reg.schedIter).toNat
  if k.thrSt t = 0 ∧ k.thrLen t ≠ 0 then iter + 1
  else
    match k.doneStamp t (k.thrLen t) (k.thrStart t) none with
    | some st => if k0 * beatCycles < iter * p * beatCycles + st then iter - 1 else iter
    | none => iter

/-- A native record's threads resume in their saved states; a wait that its count already meets is released in the first
cycle (R300). -/
def CoreState.loadThreads (k : CoreState) (m : Bytes) (a now p k0 : Nat) : CoreState :=
  (List.range 64).foldl (fun k t =>
    let v := natAt m (a + 16 * t) 8
    let k := (k.loadReg (Reg.thrState t) v).loadReg (Reg.thrProg t) (natAt m (a + 8 + 16 * t) 4)
    let st := k.thrSt t
    let k := { k with threadIter := tabSet 0 k.threadIter t (k.savedIter t p k0) }
    let met := (st == 2 && decide (k.thrWthr t ≤ k.sbCount (k.thrObj t) (k.thrCtr t))) ||
      (st == 3 && decide (k.left (k.thrObj t) t + 1 ≤ k.phase (k.thrObj t)))
    if met then { k with releaseAt := tabSet 0 k.releaseAt t (now + 1) } else k) k

/-- The tile image and the storage of a record. -/
def CoreState.loadStorage (k : CoreState) (m : Bytes) (a : Nat) (portable : Bool) : CoreState :=
  let img := bytesRead m (a + 0x4000) 40960
  let k := (imageWrites img).foldl (fun k w => k.feltPut w.offset w.mask w.value) k
  let k := (List.range 0x20000).foldl (fun k i => k.feltPut (Win.cond + i) 0xFF (byteAt m (a + 0xF000 + i))) k
  let put (k : CoreState) (o src n : Nat) : CoreState := { k with store := bytesWrite k.store o (bytesRead m (a + src) n) }
  let k := put (put (put (put k Win.boundary 0xE000 0x800) Win.rowBuffer 0x2F000 0x20000) Win.histogram 0x4F000 0x400)
    Win.scratch 0x50000 0x40000
  let k :=
    if portable then (List.range 512).foldl (fun k n =>
      put k (Win.acc + 16 * (512 * (n % 32) + 32 * (n / 32))) (0x90000 + 512 * (32 * (n / 32) + n % 32)) 512) k
    else put k Win.acc 0x90000 0x40000
  { k with store := k.store.filter fun e => !(decide (Win.acc ≤ e.1) && decide (e.1 < Win.acc + 0x40000) && decide (12 ≤ (e.1 - Win.acc) % 16)) } |> fun k =>
  { k with descriptors := (List.range 8).foldl (fun t d => tabSet 0 t d (imageDesc img d)) [], snap := k.spins }

/-- The neighbour entries of a portable record take their cores from the engine map (R122, R298). -/
def CoreState.mapNbrs (k : CoreState) (j : Job) : CoreState :=
  (List.range 8).foldl (fun k d =>
    let o := if d < 4 then Reg.feltNbrA else Reg.feltNbrB
    if nbrSrc (k.nbr d) = 1 then
      k.setRegF o (16 * (d % 4)) 10 ((j.coreOf (descEngine (tabGet 0 k.descriptors d))).getD 0)
    else k) k

/-- The exchange beats before job beat `k0` whose decision is still to come (R113, R145). -/
def CoreState.roundsDue (k : CoreState) (k0 : Nat) : List (Nat × Dword) :=
  let x := (k.reg Reg.feltXchg).toNat
  ((List.range k.lag).reverse.filter fun d => decide (d + 1 ≤ k0) && bitsOf x 0 16 != 0 &&
    (k0 - (d + 1)) % bitsOf x 0 16 == bitsOf x 16 16).map fun d => (k0 - (d + 1), k.reg Reg.feltXround)

/-- A record in the core. -/
def CoreState.loadRecord (k : CoreState) (m : Bytes) (a : Nat) (portable : Bool) (j : Job) (now k0 : Nat) : CoreState :=
  let k := k.loadStorage m a portable
  let k := ((((k.loadBlock m (a + 0x3000) 0xF01000 0x430).loadBlock m (a + 0x3800) 0xF02000 0x28).loadBlock m (a + 0x3900)
    0xF03000 0x20).loadBlock m (a + 0x3A00) 0xF04000 0x40).loadBlock m (a + 0x3B00) 0xF05000 0x20
  let k := k.loadSeq m (a + 0x1000)
  let k := if portable then k.mapNbrs j else k.loadThreads m (a + 0x1000) now (max j.image.p 1) k0
  let staged := (List.range 8).filter fun d => (k.reg Reg.feltXstat).toNat.testBit d
  { k with
    staged := staged.map fun d => (d, 3)
    energyExp := k.regF Reg.feltExp 0 6
    rounds := k.roundsDue k0
    regs0 := k.regs }

/-! ## CTX_SAVE (R296, R297, R380) -/

/-- The `n` bytes at `a` are memory of the partitions `parts`. -/
def State.rangeIn (s : State) (parts : Byte) (a n : Nat) : Bool :=
  let has (f : Nat → Bool) : Bool := (List.range 8).any fun p => parts.toNat.testBit p && f p
  inMemory a n &&
    (if a < 0xC000000000 then
      (List.range ((a + n - 1) / stackGroupBytes + 1 - a / stackGroupBytes)).all fun i =>
        has fun p => s.partHasStack p (a / stackGroupBytes + i)
    else
      let x := (a - 0x10000000000) / 0x80000
      (List.range ((a + n - 1 - 0x10000000000) / 0x80000 + 1 - x)).all fun i => has fun p => s.partHasSlice p (x + i))

/-- The bytes that the records of E engines take. -/
def recordsSpan (e stride : Nat) : Nat := (e - 1) * stride + recordBytes

/-- CTX_SAVE. -/
def execCtxSave (mb : MailboxNum) (s : State) : Host.Outcome State Fault Refusal :=
  let m := mb.toNat
  .next (s.onTaken m 0x05 fun t =>
    let dest := t.arg64 1 % 2 ^ 44
    let stride := t.arg 3
    match s.job t.jobHandle with
    | none => s.answer m t Status.refused []
    | some j =>
      if dest % 4096 ≠ 0 ∨ stride % 4096 ≠ 0 ∨ stride < recordBytes ∨
          !s.rangeIn j.parts dest (recordsSpan j.image.e stride) then
        s.answer m t Status.badArg []
      else if s.occupied m ∨ j.save.isSome then s.answer m t Status.busy []
      else if j.st ≠ .running ∨ j.compBeat < s.beat ∨ j.pendingEnd.isSome then s.answer m t Status.refused []
      else
        (s.accept m t).modJob t.jobHandle fun j =>
          { j with save := some ⟨m, s.beat, (t.arg 0).testBit 16, dest, stride, false, 0, []⟩ })

/-- A core is at rest at a checkpoint beat (R297). At the boundary its finished threads stand at their first
instruction. -/
def CoreState.atRest (k : CoreState) (iter : Nat) : Bool :=
  ((List.range 64).all fun t => k.thrLen t == 0 || k.thrSt t == 0 ||
    (k.thrSt t == 1 && k.thrPc t == k.thrStart t && tabGet 0 k.threadIter t == iter)) &&
    (List.range 8).all fun r => (k.members r).all fun t => k.arrived r t == k.phase r && k.left r t == k.phase r

/-- CTX_SUSPEND: at the first boundary after the command, or the first checkpoint beat, the job is suspended, and the records hold the
state of this boundary; a portable save whose cores are not at rest is refused, and so is a save of a job that has completed (R296, R297). -/
def execCtxSuspend (handle : Handle) (s : State) : Host.Outcome State Fault Refusal :=
  match s.job handle with
  | none => .next s
  | some j =>
    match j.save with
    | none => .next s
    | some r =>
      if j.st ≠ .running ∨ r.suspended ∨ s.beat ≤ r.since ∨ s.cycle ≠ 0 ∨ s.endDue j ∨ s.halted then .next s
      else
        let refuse (s : State) : State :=
          (s.complete r.mb Status.refused [] 0).modJob handle fun j => { j with save := none }
        if j.compBeat < s.beat then .next (refuse s)
        else if r.portable ∧ s.jobBeat j % j.image.p ≠ 0 then .next s
        else
          let t := j.engines.foldl (fun t x => t.applyIncs x.2) s
          if r.portable ∧ !(j.engines.all fun x => (t.core x.2).atRest (s.jobIter j)) then .next (refuse s)
          else
            let rs := j.engines.map fun x => (x.1, cellsOf 0 (t.contextRecord x.2 x.1 j r.portable (s.jobBeat j)))
            let k := { j with
              st := .suspended, endBeat := s.beat, pendingEnd := none
              save := some { r with suspended := true, k0 := s.jobBeat j, records := rs } }
            .next (((t.setJob handle k).dieEvent (65 + j.mailbox)).traceJob handle k s.beat)

/-- Bytes at an address of memory, with good codes. -/
def State.putBytes (s : State) (a : Nat) (bs : List Byte) : State :=
  { s with
    mem := bytesWrite s.mem a bs
    badWords := s.badWords.filter fun e => decide (64 * e.1 + 64 ≤ a) || decide (a + bs.length ≤ 64 * e.1) }

/-- CTX_SAVE_DONE: the records are written, the cores leave the job, and CTX_SAVE returns OK with k0 (R296). -/
def execCtxSaveDone (handle : Handle) (s : State) : Host.Outcome State Fault Refusal :=
  match s.job handle with
  | none => .next s
  | some j =>
    match j.save with
    | some r =>
      if r.suspended then
        let t := r.records.foldl (fun t x => t.putBytes (r.dest + x.1 * r.stride) (bytesRead x.2 0 recordBytes)) s
        let t := (t.releaseKeySlot j.keySlot).leaveCores handle j
        let t := t.modJob handle fun j => { j with save := none, linkKey := 0, keySlot := none }
        .next (t.complete r.mb Status.ok (wordsOf r.k0) 0)
      else .next s
    | none => .next s

end Sys2Proof.Machine
end

