-- ==== Sys2Proof/Machine/Entropy.lean ====
section
/-! DEFINITION. The entropy source (R245 to R272): samples, health tests, start-up tests, Carding, the CTR_DRBG, private wires,
and the commands ENT_READ, ENT_RESTART and NAP_EVAL. -/

namespace Sys2Proof.Machine

/-! ## The DRBG (R257 to R259) -/

/-- CTR_DRBG's update of (Key, V) with 48 bytes of provided data. -/
def drbgUpdate (key : BitVec 256) (v : BitVec 128) (provided : List Byte) : BitVec 256 × BitVec 128 :=
  let ks := aesKeys (beBytes 32 key.toNat)
  let temp := (List.range 3).flatMap fun i => aesBlock ks (beBytes 16 (v + BitVec.ofNat 128 (i + 1)).toNat)
  let out := xorBytes temp provided
  (BitVec.ofNat 256 (beNat (out.take 32)), BitVec.ofNat 128 (beNat (out.drop 32)))

/-- Entropy input: one whole block and the first 128 bits of the next (R257). -/
def drbgSeed (a b : BitVec 256) : List Byte := beBytes 32 a.toNat ++ (beBytes 32 b.toNat).take 16

/-- `n` blocks of output, from V + 1 on. -/
def drbgBlocks (key : BitVec 256) (v : BitVec 128) (n : Nat) : List Byte :=
  let ks := aesKeys (beBytes 32 key.toNat)
  (List.range n).flatMap fun i => aesBlock ks (beBytes 16 (v + BitVec.ofNat 128 (i + 1)).toNat)

/-- ENT_STAT.STATE: 1 STARTUP, 2 READY, 3 FAILED. -/
def State.entState (s : State) : Nat := s.dcbF Dcb.entStat 0 2

/-- ENT_STAT.DRBG. -/
def State.drbgUp (s : State) : Bool := s.dcbF Dcb.entStat 2 1 == 1

/-- ENT_TEST.MODE. -/
def State.entMode (s : State) : Nat := s.dcbF Dcb.entTest 0 2

/-- A request must reseed first (R258). -/
def State.mustReseed (s : State) (pr : Bool) : Bool := pr || decide (65536 ≤ (s.dcbReg Dcb.entReqs).toNat)

/-- The state with (Key, V) reseeded from two blocks of the buffer. -/
def State.reseed (s : State) : Option State :=
  match s.ent.buffer with
  | a :: b :: rest =>
    let kv := drbgUpdate s.ent.key s.ent.v (drbgSeed a b)
    some ((State.countDcb32 { s with ent := { s.ent with key := kv.1, v := kv.2, buffer := rest } } Dcb.entReseeds 1).setDcb
      Dcb.entReqs 0)
  | _ => none

/-- One Generate request of `n` 16-byte blocks (R258). -/
def State.generate (s : State) (n : Nat) : List Byte × State :=
  let kv := drbgUpdate s.ent.key (s.ent.v + BitVec.ofNat 128 n) (List.replicate 48 0)
  (drbgBlocks s.ent.key s.ent.v n, State.countDcb { s with ent := { s.ent with key := kv.1, v := kv.2 } } Dcb.entReqs 1)

/-- One request, with the reseed that it needs; none while it must wait or the DRBG is not instantiated. -/
def State.drbgRequest (s : State) (pr : Bool) (n : Nat) : Option (List Byte × State) :=
  if !s.drbgUp then none
  else if s.mustReseed pr then s.reseed.map fun t => t.generate n
  else some (s.generate n)

/-! ## Failures and restarts (R250, R265, R266) -/

/-- The bits of an accepted read are complete (R263). -/
def EntWait.full (w : EntWait) : Bool := w.form != 0 && w.got.length == 2 * w.len

/-- Waiting reads end without bits, those whose bits are complete excepted. -/
def State.endReads (s : State) (status : Nat) (record : Word) : State :=
  let gone := s.ent.reads.filter fun w => !w.full
  gone.foldl (fun s w => if w.job.isSome then s else s.complete w.mb status [] record)
    { s with ent := { s.ent with reads := s.ent.reads.filter EntWait.full } }

/-- The DRBG is uninstantiated and zeroed, and the conditioners are cleared. -/
def State.entClear (s : State) : State :=
  State.setDcbF { s with ent := { s.ent with key := 0, v := 0, block := [], buffer := [], fsr := 0, fsrOdd := false } }
    Dcb.entStat 2 1 0

/-- Waiting private-wire requests receive error status (R262). -/
def State.wireErrors (s : State) : State :=
  s.ent.wires.foldl (fun s link =>
    if link then { s with ent := { s.ent with wireLink := s.ent.wireLink ++ [none] } }
    else { s with ent := { s.ent with wireKey := s.ent.wireKey ++ [none] } }) { s with ent := { s.ent with wires := [] } }

/-- CAUSE, OSC, ENT_FAILS and FAIL of a failing test; a known-answer test (cause 3) names no oscillator. -/
def State.entRecord (s : State) (cause osc : Nat) : State :=
  let s := s.setDcbF Dcb.entStat 4 2 cause
  let s := if cause = 3 then s else s.setDcbF Dcb.entStat 6 6 osc
  (s.countDcb32 Dcb.entFails 1).setDcbBits Dcb.entFlags 0x1

/-- The waiting jobs that a health failure withdraws with REFUSED: those that encrypt their flits (R355), and, out of STARTUP, those
with an entropy seed (R270). -/
def State.entWithdraw (s : State) (startup : Bool) : State :=
  (s.jobs.filter fun e => e.2.st == .waiting && (e.2.linkEnc || (startup && e.2.entropySeed))).foldl
    (fun s e => s.withdraw (BitVec.ofNat 16 e.1) Status.refused) s

/-- A health failure (R250, R267). -/
def State.entFail (s : State) (cause osc : Nat) : State :=
  let startup := s.entState == 1
  let s := (s.entRecord cause osc).dieEvent 131
  let info : ErrInfo := { detail := cause + s.dcbF Dcb.entStat 6 6 * 256 }
  let id := (s.makeRecord UnitNo.entropy 0x18 info).id
  let s := (((s.enterError UnitNo.entropy 0x18 info).entClear).wireErrors).endReads Status.fault id
  let s : State := { s with ent := { s.ent with lost := true } }
  ((s.setDcbF Dcb.entStat 0 2 3).setDcbF Dcb.entStat 3 1 0).entWithdraw startup

/-- A pending restart takes effect at the sample that comes: STARTUP is entered, and this sample is its first (R251, R266). -/
def State.entTakeRestart (s : State) : State :=
  if s.ent.restart then
    let s := s.entClear.endReads Status.notReady 0
    let s := if s.entMode = 0 then s else s.wireErrors
    let s := (s.setDcbF Dcb.entStat 0 2 1).setDcbF Dcb.entStat 3 1 0
    { s with ent := { s.ent with
      restart := false
      started := (s.dcbReg Dcb.entSamples).toNat
      recorded := false
      windowEnded := false
      katPassed := false } }
  else s

/-! ## One sample -/

/-- The health tests of one oscillator: its state, and 0, 1 (RCT) or 2 (APT) (R249). -/
def Osc.health (o : Osc) (x first : Bool) : Osc × Nat :=
  let same := !first && x == o.ra
  let o : Osc :=
    if first then { o with ra := x, rb := 1, ai := 0 }
    else if same then { o with rb := (o.rb + 1) % 256 }
    else { o with ra := x, rb := 1 }
  if same && decide (108 ≤ o.rb) then (o, 1)
  else
    let o : Osc :=
      if o.ai = 0 then { o with aa := x, ab := 1 }
      else if x = o.aa then { o with ab := (o.ab + 1) % 2048 }
      else o
    if o.ai ≠ 0 ∧ x = o.aa ∧ 820 ≤ o.ab then (o, 2) else ({ o with ai := (o.ai + 1) % 1024 }, 0)

/-- The estimator's counts of one sample (R252). The very first sample has no sample before it. -/
def Osc.estimate (o : Osc) (x prev next : Bool) (any : Bool) : Osc :=
  { o with winOnes := o.winOnes + bit x, winSame := o.winSame + bit (any && x == prev), winPair := o.winPair + bit (x == next) }

/-- A window of the estimator ends (R252). -/
def State.closeWindow (s : State) : State :=
  State.countDcb32 { s with ent := { s.ent with
    estCount := 0
    oscs := (List.range 64).foldl (fun t k =>
      let o := tabGet Osc.reset t k
      tabSet Osc.reset t k { o with
        ones := o.winOnes, same := o.winSame, pair := o.winPair, winOnes := 0, winSame := 0, winPair := 0 }) s.ent.oscs } }
    Dcb.entEstWin 1

/-- All 64 oscillators see a sample: their new state, and the first failing test and oscillator. -/
def Entropy.test (e : Entropy) (x : Dword) (first any : Bool) : Entropy × Option (Nat × Nat) :=
  let r := (List.range 64).foldl (fun (a : Tab Osc × Option (Nat × Nat)) k =>
    let b := x.getLsbD k
    let h := (tabGet Osc.reset a.1 k).health b first
    (tabSet Osc.reset a.1 k (h.1.estimate b (e.prev.getLsbD k) (x.getLsbD ((k + 1) % 64)) any),
      a.2.orElse fun _ => if h.2 = 0 then none else some (h.2, k))) (e.oscs, none)
  ({ e with oscs := r.1, prev := x, estCount := e.estCount + 1 }, r.2)

/-- One step of the feedback-shift-register conditioner (R255). -/
def fsrStep (f x : Dword) : Dword :=
  let fb := f.getLsbD 63 ^^ f.getLsbD 62 ^^ f.getLsbD 60 ^^ f.getLsbD 59
  ((f <<< 1) ||| BitVec.ofNat 64 (bit fb)) ^^^ x

/-- The first waiting read of a form takes a doubleword. -/
def takeDword (form : Nat) (x : Dword) : List EntWait → List EntWait
  | [] => []
  | w :: r => if w.form = form ∧ !w.full then { w with got := w.got ++ [x] } :: r else w :: takeDword form x r

/-- A sample goes to its destination (R248, R253). -/
def State.cardSample (s : State) (x : Dword) : State :=
  let e := s.ent
  let waits (f : Nat) : Bool := e.reads.any fun w => w.form == f && !w.full
  if e.buffer.length < 8 ∨ !e.block.isEmpty then
    let b := e.block ++ [x]
    if b.length = 16 then
      { s with ent := { e with
        block := []
        buffer := e.buffer ++ [BitVec.ofNat 256 (beNat (sha256 (b.flatMap fun d => bytesOf 8 d.toNat)))] } }
    else { s with ent := { e with block := b } }
  else if waits 2 then State.countDcb { s with ent := { e with reads := takeDword 2 x e.reads } } Dcb.entDivert 1
  else if waits 1 then
    let f := fsrStep e.fsr x
    { s with ent := { e with
      fsr := f
      fsrOdd := !e.fsrOdd
      reads := if e.fsrOdd then takeDword 1 f e.reads else e.reads } }
  else s

/-- The sample as the tests see it, under a test pattern (R271). -/
def State.patterned (s : State) (x : Dword) : Dword :=
  if s.entMode = 1 then s.dcbReg Dcb.entTestpat else if s.entMode = 2 then s.dcbReg Dcb.entSamples else x

/-- A failing test: a health failure out of STARTUP or READY, or a record only under a pattern (R250, R268, R271). -/
def State.entResult (s : State) (cause osc : Nat) : State :=
  if s.entMode = 0 then (if s.entState = 3 then s else s.entFail cause osc)
  else if s.ent.recorded then s
  else State.entRecord { s with ent := { s.ent with recorded := true } } cause osc

/-- ENT_SAMPLE (R245, R248 to R252). -/
def execEntSample (sample : Dword) (s : State) : Host.Outcome State Fault Refusal :=
  if s.power.coldReset then .next s
  else
    let s := s.entTakeRestart
    let s := if s.ent.estCount = 2 ^ 20 then s.closeWindow else s
    let x := s.patterned sample
    let n := (s.dcbReg Dcb.entSamples).toNat
    let r := s.ent.test x (n == s.ent.started) (n != 0)
    let s : State := State.countDcb { s with ent := r.1 } Dcb.entSamples 1
    let fails := r.2.isSome && s.entMode == 0 && s.entState != 3
    let s : State := match r.2 with
      | some (c, k) => s.entResult c k
      | none => s
    let m := n - s.ent.started
    let s : State := if fails ∨ m < 1024 then s else s.cardSample x
    .next (if m = 1023 then { s with ent := { s.ent with windowEnded := true } } else s)

/-- STARTUP_TEST_END: after the 1,024 samples the known-answer tests run (R251, R268). -/
def execStartupTestEnd (katOk : Bool) (s : State) : Host.Outcome State Fault Refusal :=
  if s.ent.windowEnded ∧ s.entState = 1 ∧ !s.ent.katPassed ∧ !s.power.coldReset then
    if !katOk then .next (s.entFail 3 0)
    else
      let s : State := { s with ent := { s.ent with katPassed := true } }
      .next (if s.entMode = 0 then s else (s.setDcbF Dcb.entStat 0 2 2).setDcbF Dcb.entStat 3 1 1)
  else .next s

/-- DRBG_INSTANTIATE: from the first two blocks, once the tests have passed (R257, R260). -/
def execDrbgInstantiate (s : State) : Host.Outcome State Fault Refusal :=
  if s.ent.katPassed ∧ s.entState = 1 ∧ s.entMode = 0 ∧ !s.ent.restart ∧ !s.power.coldReset then
    match s.ent.buffer with
    | a :: b :: rest =>
      let kv := drbgUpdate 0 0 (drbgSeed a b)
      let s : State := { s with ent := { s.ent with key := kv.1, v := kv.2, buffer := rest, lost := false } }
      .next ((((s.setDcb Dcb.entReqs 0).setDcbF Dcb.entStat 2 1 1).setDcbF Dcb.entStat 0 2 2).dieEvent 130)
    | _ => .next s
  else .next s

/-- EST_WINDOW: a window of 2^20 samples has ended (R252). -/
def execEstWindow (s : State) : Host.Outcome State Fault Refusal :=
  .next (if s.ent.estCount = 2 ^ 20 then s.closeWindow else s)

/-! ## Private wires (R261, R262) -/

/-- PRIVATE_WIRE_REQUEST: by the key block (false) or the link cipher (true). -/
def execPrivateWireRequest (link : Bool) (s : State) : Host.Outcome State Fault Refusal :=
  if s.power.coldReset then .next s
  else
    let s : State := { s with ent := { s.ent with wires := s.ent.wires ++ [link] } }
    .next (if s.entState = 3 ∨ s.entMode ≠ 0 then s.wireErrors else s)

/-- The request still stands: an ENT_READ, or the seed draw of a job that waits for admission. -/
def State.drawStands (s : State) (w : EntWait) : Bool :=
  match w.job with
  | none => true
  | some h => (s.job h).any fun j => j.st == .waiting

/-- The request to the DRBG that is served next: they are served in the order in which they reached the CP (R270). -/
def State.nextDraw (s : State) : Option EntWait := s.ent.reads.find? fun w => w.form == 0 && s.drawStands w

/-- The DRBG waits for blocks, which go to it first (R254). -/
def State.reseedWaits (s : State) : Bool := s.nextDraw.any fun w => s.mustReseed w.pr

/-- PRIVATE_WIRE_SERVE: one block for the key block, else for the link cipher (R254, R262). -/
def execPrivateWireServe (s : State) : Host.Outcome State Fault Refusal :=
  match s.ent.buffer, s.ent.wires with
  | b :: rest, w :: ws =>
    if s.entState ≠ 2 ∨ s.entMode ≠ 0 ∨ s.reseedWaits then .next s
    else
      let e := { s.ent with buffer := rest }
      if (w :: ws).contains false then
        .next { s with ent := { e with wires := (w :: ws).erase false, wireKey := e.wireKey ++ [some b] } }
      else .next { s with ent := { e with wires := ws, wireLink := e.wireLink ++ [some b] } }
  | _, _ => .next s

/-! ## Trims and test patterns -/

/-- The DRBG is uninstantiated and zeroed at once (R260), and the source restarts at the next sample. -/
def State.entSetRestart (s : State) : State :=
  State.entClear { s with ent := { s.ent with restart := true } }

/-- A write of ENT_TRIMn (R246). -/
def State.entTrim (s : State) (fromCp : Bool) (n : Nat) (value : Dword) : State :=
  if fromCp then (s.setDcb (Dcb.entTrim n) value).entSetRestart else s.setDcbBits Dcb.entFlags 0x2

/-- ENT_TRIM_WRITE. -/
def execEntTrimWrite (fromCp : Bool) (n : BitVec 2) (value : Dword) (s : State) : Host.Outcome State Fault Refusal :=
  .next (s.outOfReset (·.entTrim fromCp n.toNat value))

/-- ENT_TEST.MODE takes a value; a change restarts the source (R251, R260). -/
def State.entSetMode (s : State) (m : Nat) : State :=
  if m = s.entMode then s else (s.setDcb Dcb.entTest (BitVec.ofNat 64 m)).entSetRestart

/-- A write of ENT_TEST (R27, R270, R271): taken in lifecycle state TEST only. -/
def State.entTestSet (s : State) (v : Nat) : State :=
  if s.dcbF Dcb.secLcs 0 2 ≠ 0 then s.setDcbBits Dcb.entFlags 0x4
  else if v % 4 = 3 then s.undefCount.entSetMode 0
  else s.entSetMode (v % 4)

/-- ENT_TEST_WRITE. -/
def execEntTestWrite (value : Word) (s : State) : Host.Outcome State Fault Refusal :=
  .next (s.outOfReset (·.entTestSet value.toNat))

/-! ## Commands -/

/-- ENT_READ: the checks of R264; an accepted command waits for its bits. -/
def execEntRead (mb : MailboxNum) (s : State) : Host.Outcome State Fault Refusal :=
  let m := mb.toNat
  .next (s.onTaken m 0x20 fun t =>
    let a := t.arg 0
    let form := bitsOf a 0 2
    let pr := a.testBit 2
    let len := bitsOf a 8 4
    if form = 2 ∧ s.anyConf then s.answer m t Status.denied []
    else if form = 3 ∨ len = 0 ∨ 8 < len ∨ (pr ∧ form ≠ 0) ∨ bitsOf a 3 5 ≠ 0 ∨ bitsOf a 12 20 ≠ 0 then
      s.answer m t Status.badArg []
    else if s.entState = 1 then s.answer m t Status.notReady []
    else if s.occupied m then s.answer m t Status.busy []
    else if s.entState = 3 ∨ (form = 0 ∧ s.entMode ≠ 0) then s.answer m t Status.refused []
    else
      let s := s.accept m t
      { s with ent := { s.ent with reads := s.ent.reads ++ [⟨m, form, len, pr, [], none⟩] } })

/-- ENT_READ_COMPLETE: the read of a mailbox returns its bits. Requests to the DRBG are served in their order (R270). -/
def execEntReadComplete (mb : MailboxNum) (s : State) : Host.Outcome State Fault Refusal :=
  let m := mb.toNat
  match s.ent.reads.find? fun w => w.mb == m && w.job.isNone with
  | none => .next s
  | some w =>
    let done (t : State) (ws : List Word) : State :=
      State.complete { t with ent := { t.ent with reads := t.ent.reads.filter fun x => x.mb != m || x.job.isSome } } m Status.ok ws 0
    if w.form = 0 then
      if s.nextDraw = some w then
        match s.drbgRequest w.pr w.len with
        | some (bs, t) => .next (done t (wordsOfBytes bs))
        | none => .next s
      else .next s
    else if w.full then .next (done s (w.got.flatMap fun d => wordsOf d.toNat))
    else .next s

/-- ENT_RESTART (R266). -/
def execEntRestart (mb : MailboxNum) (s : State) : Host.Outcome State Fault Refusal :=
  let m := mb.toNat
  .next (s.onTaken m 0x21 fun t =>
    if s.occupied m then s.answer m t Status.busy []
    else (s.entSetRestart.endReads Status.notReady 0).answer m t Status.ok [])

/-- NAP_EVAL (R242). -/
def execNapEval (mb : MailboxNum) (s : State) : Host.Outcome State Fault Refusal :=
  let m := mb.toNat
  .next (s.onTaken m 0x22 fun t =>
    if s.occupied m then s.answer m t Status.busy []
    else
      let y := nap6 (t.arg64 0 + t.arg64 2 * 2 ^ 64) (t.arg64 4 + t.arg64 6 * 2 ^ 64)
      s.answer m t Status.ok (wordsOf y ++ wordsOf (y >>> 64)))

end Sys2Proof.Machine
end

