-- ==== Sys2Proof/Machine/Admit.lean ====
section
/-! DEFINITION. Admission: JOB_ADMIT and CTX_RESTORE with their checks in the order of R32, the engine map (R64, R375, R499),
free capacity (R75, R77), ADMISSION, the launch of a module set (R83, R378), JOB_START (R275, R326, R496) and JOB_DONE
(R76), SCHED_INFO (R382). -/

namespace Sys2Proof.Machine

/-! ## The request (Table 13-7, R374, R381) -/

structure AdmitReq where
  image : Nat
  seedSrc : Bool
  nowait : Bool
  linkEnc : Bool
  compat : Bool
  clock : Nat
  rows32 : Bool
  xmap : Bool
  lsvalid : Bool
  peer : Nat
  seed : Nat
  launch : Nat
  e : Nat
  modset : Nat
  map : Nat
  deriving DecidableEq, Repr

def TakenCmd.admitReq (t : TakenCmd) : AdmitReq :=
  let w := t.arg 1
  let image := t.arg64 0 % 2 ^ 44
  if t.expert then
    ⟨image, w.testBit 12, w.testBit 13, w.testBit 14, w.testBit 15, bitsOf w 16 2, w.testBit 18, w.testBit 19,
      w.testBit 20, bitsOf w 21 6, t.arg64 2 + t.arg64 4 * 2 ^ 64, t.arg64 6, bitsOf (t.arg 8) 0 17, t.arg64 9,
      t.arg64 11 % 2 ^ 44⟩
  else ⟨image, false, false, false, false, 0, false, false, false, 0, 0, 0, 0, 0, 0⟩

/-- SRC, STRIDE and FORM of a CTX_RESTORE. -/
def TakenCmd.restoreReq (t : TakenCmd) : RestoreReq :=
  let o := if t.expert then 13 else 2
  ⟨t.arg64 o % 2 ^ 44, t.arg (o + 2), (t.arg (o + 3)).testBit 0, 0, 0, 0, []⟩

/-- The module set of R83: the MODSET, and both modules of a lock-step pair (R85). -/
def State.setOf (s : State) (q : AdmitReq) : Nat :=
  if q.lsvalid then (2 ^ s.moduleId) ||| (2 ^ q.peer) ||| q.modset
  else if q.modset = 0 then 2 ^ s.moduleId else q.modset

def Job.multi (j : Job) : Bool := decide (1 < popcount 64 j.modset.toNat)

/-- The armed token: the digest of the argument words, less the word that names the peer of a lock-step job (R351). -/
def TakenCmd.token (t : TakenCmd) (lsvalid : Bool) : Dword :=
  let ws := if lsvalid then t.args.eraseIdx 1 else t.args
  BitVec.ofNat 64 (digest (wordBytes ws))

/-! ## Engine maps -/

/-- The explicit map's words (R375). -/
def State.readMap (s : State) (a e : Nat) : List Word := (List.range e).map fun i => BitVec.ofNat 32 (natAt s.mem (a + 4 * i) 4)

def mapCore (w : Word) : Nat := bitsOf w.toNat 0 10
def mapModule (w : Word) : Nat := bitsOf w.toNat 10 6

/-- The engines of an explicit map that this module holds. -/
def State.explicitMap (s : State) (ws : List Word) : List (Nat × Nat) :=
  (ws.zipIdx.filter fun x => mapModule x.1 == s.moduleId).map fun x => (x.2, mapCore x.1)

/-- An explicit map breaks R375: in the entries that name this module a reserved bit, a duplicate, a disabled cluster or a core outside
the partitions, and in any entry a module outside the set. -/
def State.mapBad (s : State) (ws : List Word) (parts : Byte) (mods : Nat) : Bool :=
  let own := (s.explicitMap ws).map (·.2)
  (ws.any fun w => (mapModule w == s.moduleId && bitsOf w.toNat 16 16 != 0) || !mods.testBit (mapModule w)) || twice own ||
    own.any fun c => !s.enabled c ||
      !((List.range 8).any fun p => parts.toNat.testBit p && s.partHasCluster p (clusterOf c))

/-- The engines that this module holds, from what the job fixes; engines beyond its usable cores are left out. In a lock-step job with an
explicit map each module holds the engines whose words name it (DESIGN CHOICE, log entry 77). -/
def State.mapOf (s : State) (j : Job) : List (Nat × Nat) :=
  if j.xmap then s.explicitMap j.mapWords
  else
    let cs := s.usableCores j.parts
    if j.multi ∧ j.lockstep.isNone then
      let b := j.base.getD 0
      ((cs.take (min j.census (j.image.e - b))).zipIdx).map fun x => (b + x.2, x.1)
    else ((cs.take j.image.e).zipIdx).map fun x => (x.2, x.1)

/-- The map cannot be formed whole: too few usable cores, a fenced core, a base that refuses (R64, R375, R499). -/
def State.mapShort (s : State) (j : Job) : Bool :=
  if j.xmap then (s.explicitMap j.mapWords).any fun x => !s.usable x.2
  else
    let n := (s.usableCores j.parts).length
    if j.multi ∧ j.lockstep.isNone then decide (n < j.census) || j.base == some 0x1FFFF else decide (n < j.image.e)

/-- The job waits for its base (R499). -/
def Job.needsBase (j : Job) : Bool := j.byCensus && j.base.isNone

/-! ## Free capacity (R75, R77, R311, R326, R353) -/

/-- The jobs whose resources are reserved. -/
def State.reserved (s : State) : List (Handle × Job) :=
  (s.jobs.filter fun e =>
    match e.2.st with
    | .armed | .admitted => true
    | .running => decide (s.beat ≤ e.2.compBeat)
    | .suspended => e.2.save.isSome
    | _ => false).map fun e => (BitVec.ofNat 16 e.1, e.2)

/-- Entry of the period that the job follows in a beat. -/
def Job.entryAt (j : Job) (beat : Nat) : Nat := (j.startK + (beat - j.startBeat)) % max j.image.p 1

/-- Two jobs' runs overlap. -/
def Job.overlaps (j k : Job) : Bool := decide (j.startBeat ≤ k.compBeat) && decide (k.startBeat ≤ j.compBeat)

/-- Two jobs take one slot of a port other than a core port in a beat of both runs (R312, condition 1). -/
def State.slotsMeet (s : State) (j k : Job) : Bool :=
  let lo := max j.startBeat k.startBeat
  let n := min j.compBeat k.compBeat + 1 - lo
  let us := (s.planUses j.image j.engines).filter fun u => decide (1024 ≤ u.port)
  let vs := (s.planUses k.image k.engines).filter fun u => decide (1024 ≤ u.port)
  (List.range (min n (Nat.lcm (max j.image.p 1) (max k.image.p 1)))).any fun i =>
    (us.filter fun u => u.beat == j.entryAt (lo + i)).any fun u =>
      vs.any fun v => v.beat == k.entryAt (lo + i) && u.port == v.port && u.slot == v.slot

/-- More than 16 requests of admitted jobs and of `j` wait at a pseudo-channel in some beat of its run (R312, condition 6). The jobs that
run together are those of a beat in which one of them starts, or of a later one; from there every beat comes again after the common
multiple of their periods. -/
def State.hbmMeets (s : State) (j : Job) : Bool :=
  let ks := j :: ((s.reserved.filter fun e => e.2.st != .suspended && j.overlaps e.2).map (·.2))
  let n := ks.foldl (fun n k => Nat.lcm n (max k.image.p 1)) 1
  let ps := ks.map fun k => (k, k.image.localPages k.engines)
  (planPcs (s.planUses j.image j.engines)).any fun pc => ks.any fun x =>
    let lo := max j.startBeat x.startBeat
    (List.range (min n (j.compBeat + 1 - lo))).any fun i =>
      hbmCrowded (ps.flatMap fun y =>
        if y.1.startBeat ≤ lo + i ∧ lo + i ≤ y.1.compBeat then hbmWaits y.2 (y.1.entryAt (lo + i)) pc else [])

/-- Two jobs want one core, or one slot number of one port: the same resources (R77). -/
def State.sameResources (s : State) (j k : Job) : Bool :=
  (j.engines.any fun x => k.engines.any fun y => x.2 == y.2) ||
    ((s.planUses j.image j.engines).any fun u => (s.planUses k.image k.engines).any fun v => u.port == v.port && u.slot == v.slot)

/-- The pages that reserved jobs hold on a port. -/
def State.pagesHeld (s : State) (port : Nat) : Nat :=
  (s.reserved.map fun e => portPages e.2.image (s.planUses e.2.image e.2.engines) port).sum

/-- The pages that reserved jobs hold on a core port. -/
def State.corePagesHeld (s : State) (c : Nat) : Nat :=
  (s.reserved.map fun e => ((e.2.engines.filter fun x => x.2 == c).map fun x =>
    ((e.2.image.engines[x.1]?).map corePages).getD 0).sum).sum

/-- The job sends scheduled flits on link port `l` in a beat. -/
def State.sendsOn (s : State) (j : Job) (l beat : Nat) : Bool :=
  (s.planUses j.image j.engines).any fun u => u.port == 4096 + l && u.beat == j.entryAt beat

/-- A third encrypted job on some port in some beat (R353). -/
def State.encCrowded (s : State) (j : Job) : Bool :=
  j.linkEnc && (planLinks j.image (s.planUses j.image j.engines)).any fun l =>
    let others := (s.reserved.map (·.2)).filter fun k =>
      k.linkEnc && j.overlaps k && (planLinks k.image (s.planUses k.image k.engines)).contains l
    decide (2 ≤ others.length) && (List.range (j.compBeat + 1 - j.startBeat)).any fun i =>
      s.sendsOn j l (j.startBeat + i) &&
        decide (2 ≤ (others.filter fun k => decide (k.startBeat ≤ j.startBeat + i) && decide (j.startBeat + i ≤ k.compBeat) &&
          s.sendsOn k l (j.startBeat + i)).length)

/-- A link-key slot that is free. -/
def State.freeKeySlot (s : State) : Option Nat :=
  (List.range 16).find? fun n => !(s.reserved.any fun e => e.2.keySlot == some n)

/-- Everything that the job needs is free for its run; `j` holds its map and its run. -/
def State.fits (s : State) (j : Job) : Bool :=
  let us := s.planUses j.image j.engines
  (s.reserved.all fun e =>
    (!(e.2.engines.any fun x => j.engines.any fun y => x.2 == y.2) ||
      !(j.overlaps e.2 || e.2.st == .armed || e.2.st == .admitted || e.2.st == .suspended)) &&
      (!j.overlaps e.2 || e.2.st == .suspended || !s.slotsMeet j e.2)) &&
    ((planPorts us).all fun p => decide (s.pagesHeld p + portPages j.image us p ≤ 16)) &&
    (j.engines.all fun x => decide (s.corePagesHeld x.2 + ((j.image.engines[x.1]?).map corePages).getD 0 ≤ 16)) &&
    !s.encCrowded j && !s.hbmMeets j && (!j.linkEnc || s.freeKeySlot.isSome)

/-- The job as it would run when admitted in beat `a` (R74, R300). A restore resumes at the k0 of the records of the engines that this
module holds. -/
def State.placed (s : State) (j : Job) (a : Nat) : Job :=
  let es := s.mapOf j
  let first (r : RestoreReq) : Nat := r.src + ((es.head?).map (·.1)).getD 0 * r.stride
  let k0 := (j.restore.map fun r => natAt s.mem (first r + 0x18) 8).getD 0
  let b := (j.restore.map (·.beats)).getD 0
  let st := max (a + 4 + b) j.launch
  { j with
    engines := es, startBeat := st, compBeat := st + j.image.l - k0 - 1, startK := k0
    restore := j.restore.map fun r => { r with k0, loadedAt := a + 4 + b } }

/-- An earlier waiting job wants the same resources (R77). -/
def State.laterThan (s : State) (h : Handle) (j : Job) : Bool :=
  (s.cp.handles.takeWhile fun x => x != h.toNat).any fun x =>
    match tabFind s.jobs x with
    | some k => k.st == .waiting && !k.needsBase && !s.mapShort k && s.sameResources { k with engines := s.mapOf k } j
    | none => false

/-! ## The checks (R32, R375, R376, R234, R424, R431, R436) -/

/-- The job that a request describes, before it is admitted. -/
def State.newJob (s : State) (m : Nat) (t : TakenCmd) (q : AdmitReq) (im : Image) (restore : Option RestoreReq) : Job :=
  let parts := s.partsOf m t
  let compat := im.flags.toNat.testBit 0
  let mods := s.setOf q
  { mailbox := m, st := .waiting, image := im, parts := parts, modset := BitVec.ofNat 64 mods
    launch := if q.launch = 0 then 0 else s.beatOf64 q.launch, nowait := q.nowait, key := BitVec.ofNat 128 q.seed, entropySeed := q.seedSrc
    linkEnc := q.linkEnc || s.anyPartConf parts, linkKey := 0, keySlot := none, xmap := q.xmap
    mapWords := if q.xmap then s.readMap q.map im.e else [], lockstep := if q.lsvalid then some q.peer else none
    compat := compat
    compatClock := BitVec.ofNat 2 (if q.compat then q.clock else bitsOf im.flags.toNat 1 2)
    compatRows := if q.compat then !q.rows32 else !im.flags.toNat.testBit 3
    engines := [], base := none, census := (s.usableCores parts).length, token := t.token q.lsvalid
    keyRecord := false, takenBeat := s.beat, startBeat := 0, compBeat := 0, endBeat := 0, record := 0
    pendingEnd := none, startK := 0, save := none, restore := restore
    keyset := t.session.map fun x => (x.1, x.2.1) }

/-- The arguments that stand outside the image are malformed. -/
def State.admitArgsBad (s : State) (m : Nat) (t : TakenCmd) (q : AdmitReq) : Bool :=
  let parts := s.partsOf m t
  let multi := decide (1 < popcount 64 (s.setOf q))
  let conf := s.anyPartConf parts
  parts == 0 || ((List.range 8).any fun p => parts.toNat.testBit p && !s.partValid p) ||
    (q.modset != 0 && !q.modset.testBit s.moduleId) ||
    (q.xmap && q.map % 64 != 0) || (q.seedSrc && (multi || q.lsvalid)) ||
    (conf && (popcount 8 parts.toNat != 1 || !((imageRanges s.mem q.image).all fun r => s.rangeIn parts r.1 r.2))) ||
    ((q.linkEnc || conf) && multi && t.session.isNone)

/-- The records of a restore lie outside memory, or outside the memory of a confidential partition (R381, R431). -/
def State.restoreBad (s : State) (j : Job) : Bool :=
  match j.restore with
  | some r =>
    let n := recordsSpan j.image.e r.stride
    !inMemory r.src n || (s.anyPartConf j.parts && !s.rangeIn j.parts r.src n)
  | none => false

/-- The image against the request, and the schedule, are malformed. -/
def State.admitImageBad (s : State) (q : AdmitReq) (j : Job) : Bool :=
  (q.e != 0 && q.e != j.image.e) || (q.compat && !j.compat) || (q.xmap && !inMemory q.map (4 * j.image.e)) ||
    (q.xmap && s.mapBad j.mapWords j.parts j.modset.toNat) || s.restoreBad j ||
    (j.image.engines.any fun r => !((List.range 256).all fun n => queueOk (r.queue n))) ||
    (!j.needsBase && s.planBad j.image j.parts j.half (s.mapOf j))

/-- A short port that is UP and leads to a module, for lock-step (R352). -/
def State.peerPort (s : State) (peer : Nat) : Option Nat :=
  (List.range 16).find? fun l =>
    s.dcbF (Dcb.linkStat l) 0 2 == 2 && s.dcbF (Dcb.linkStat l) 2 1 == 1 && s.dcbF (Dcb.linkStat l) 16 6 == peer

/-- The job's schedule names a link port that is not UP (R347). -/
def State.linksDown (s : State) (j : Job) (map : List (Nat × Nat)) : Bool :=
  (planLinks j.image (s.planUses j.image map)).any fun l => s.dcbF (Dcb.linkStat l) 0 2 != 2

/-- Something that the job needs has not yet come up (R82, R232, R347, R354, R392, R427, R459, R483). -/
def State.admitNotReady (s : State) (j : Job) : Bool :=
  s.bootState != 4 || s.halted || (j.multi && s.dcbF Dcb.beatSync 0 2 == 0) || s.power.thermTrip ||
    ((List.range 8).any fun p => j.parts.toNat.testBit p && s.partConf p && s.partState p == 2) ||
    (s.entState == 1 && ((j.entropySeed && !s.ent.lost) || j.linkEnc)) || s.linksDown j (if j.needsBase then [] else s.mapOf j)

/-- Some engine uses free exchange. -/
def Image.freeExchange (m : Image) : Bool := m.engines.any fun r => r.mode == 2

/-- A lock-step overlay is in force (R387). -/
def State.lockstepOverlay (s : State) : Bool :=
  (List.range 8).any fun n => s.dcbF Dcb.cfgActive n 1 == 1 && (tabGet Overlay.reset s.cp.overlays n).kind == 4

/-- The key set of the wrapper has bound a job before (R432). -/
def State.keysetTaken (s : State) (j : Job) : Bool :=
  match j.keyset with
  | some (p, k) => (tabGet KeySet.reset s.sec.keysets (4 * p + k)).bound.isSome
  | none => false

/-- The usable cores as one map, a bit for each physical core. -/
def State.usableMap (s : State) : BitVec 1024 :=
  BitVec.ofNat 1024 ((List.range 1024).foldl (fun v c => v + bit (s.usable c) * 2 ^ c) 0)

/-- Admission refuses at once (R74, R75, R142, R146, R232, R267, R353, R354, R375, R387, R432, R475). -/
def State.admitRefused (s : State) (j : Job) : Bool :=
  s.fatal || (j.launch != 0 && decide (j.launch < s.beat + 5)) || (j.entropySeed && (s.ent.lost || !s.drbgUp)) ||
    (j.linkEnc && (s.entState == 3 || s.entMode != 0)) ||
    (j.linkEnc && (j.image.freeExchange || j.lockstep.isSome)) ||
    (j.lockstep.isSome && (j.image.freeExchange || !s.lockstepOverlay)) ||
    (match j.lockstep with
      | some p => (s.peerPort p).isNone || Config.peerUsable p s.beat != s.usableMap
      | none => false) ||
    s.keysetTaken j ||
    (!j.needsBase && (s.mapShort j || s.planRefused j.image j.linkEnc (s.mapOf j))) ||
    (j.nowait && !j.needsBase &&
      (let p := s.placed j (s.beat + 1)
       !s.fits p || (s.jobs.any fun e => e.2.st == .waiting && s.sameResources { e.2 with engines := s.mapOf e.2 } p)))

/-- The records of a restore do not check on the engines of its map: the status, if any (R299). The record of logical engine e lies at
SRC + e x STRIDE. -/
def State.restoreStatus (s : State) (j : Job) : Option Nat :=
  match j.restore with
  | none => none
  | some r =>
    let es := s.mapOf j
    if es.any fun x => recordFault s.mem (r.src + x.1 * r.stride) r.portable then some Status.fault
    else if es.any fun x => s.recordRefused (r.src + x.1 * r.stride) x.2 x.1 r.portable j.image then some Status.refused
    else none

/-! ## Messages of the beat tree (R351, R499) -/

def State.isMaster (s : State) : Bool := s.dcbF Dcb.beatSync 1 1 == 1

/-- An armed token or a census entry goes towards the master: held there, or queued at the upstream port. -/
def State.sendUp (s : State) (c : CtlMsg) : State :=
  if s.isMaster then
    { s with linkSys :=
      if c.special then
        { s.linkSys with census := s.linkSys.census ++ [(c.token, bitsOf c.word.toNat 56 6, bitsOf c.word.toNat 0 17)] }
      else { s.linkSys with tokens := s.linkSys.tokens ++ [(c.token, c.word.toNat, s.beat)] } }
  else if s.dcbF Dcb.linkSys 6 1 = 1 then
    let l := s.dcbF Dcb.linkSys 2 4
    let p := tabGet LinkPort.reset s.links l
    if p.up.length < 16 then { s with links := tabSet LinkPort.reset s.links l { p with up := p.up ++ [c] } } else s
  else s

/-- The ports that lead away from the master: every port that is UP, but for the upstream port. -/
def State.downPorts (s : State) : List Nat :=
  (List.range 16).filter fun l => s.dcbF (Dcb.linkStat l) 0 2 == 2 && s.dcbF (Dcb.linkCtrl l) 1 1 == 0

/-- GO or a base joins the frames of these ports, of which up to 16 wait. -/
def State.sendDown (s : State) (ports : List Nat) (c : CtlMsg) : State :=
  ports.foldl (fun s l =>
    let p := tabGet LinkPort.reset s.links l
    if p.down.length < 16 then { s with links := tabSet LinkPort.reset s.links l { p with down := p.down ++ [c] } } else s) s

/-! ## JOB_ADMIT and CTX_RESTORE -/

/-- The job has still to end, or a save of it to be answered. -/
def Job.live (j : Job) : Bool :=
  match j.st with
  | .waiting | .armed | .admitted | .running => true
  | .suspended => j.save.isSome
  | _ => false

/-- Handles run from 1 to 65,535 and wrap; the status of the last 4,096 is kept, and a job that has still to end goes on (R379). -/
def State.assignHandle (s : State) (j : Job) : Handle × State :=
  let n := s.cp.nextHandle
  let hs := (s.cp.handles.filter fun x => x != n) ++ [n]
  let hs := hs.drop (hs.length - 4096)
  (BitVec.ofNat 16 n,
    { s with
      jobs := tabPut (s.jobs.filter fun e => hs.contains e.1 || e.2.live) n j
      cp := { s.cp with nextHandle := if n ≥ 65535 then 1 else n + 1, handles := hs } })

/-- The job waits for admission: its handle, its binding, and its census entry where it needs a base. -/
def State.holdJob (s : State) (m : Nat) (t : TakenCmd) (j : Job) : State :=
  let r := (s.accept m t).assignHandle j
  let s := r.2.modMb m fun b => { b with handle := r.1 }
  let s : State := match j.keyset with
    | some (p, k) =>
      let x := tabGet KeySet.reset s.sec.keysets (4 * p + k)
      { s with sec := { s.sec with keysets := tabSet KeySet.reset s.sec.keysets (4 * p + k) { x with bound := some r.1 } } }
    | none => s
  if j.needsBase then
    s.sendUp ⟨j.token, BitVec.ofNat 64 (s.moduleId * 2 ^ 56 + j.census), true⟩
  else s

/-- The checks, and the job held. A FAULT for a record that does not check names record 0 (DESIGN CHOICE, log entry 83). -/
def State.admitCmd (s : State) (m : Nat) (t : TakenCmd) (restore : Option RestoreReq) : State :=
  let q := t.admitReq
  match readImage s.mem q.image (s.dcbF Dcb.abiId 0 16) s.moduleId with
  | none => s.answer m t Status.badArg []
  | some im =>
    let j := s.newJob m t q im restore
    if s.admitArgsBad m t q ∨ s.admitImageBad q j then s.answer m t Status.badArg []
    else if s.admitNotReady j then s.answer m t Status.notReady []
    else if s.occupied m then s.answer m t Status.busy []
    else if s.admitRefused j then s.answer m t Status.refused []
    else
      match (if j.needsBase then none else s.restoreStatus j) with
      | some st => s.answer m t st []
      | none => s.holdJob m t j

/-- JOB_ADMIT (R373 to R378). -/
def execJobAdmit (mb : MailboxNum) (s : State) : Host.Outcome State Fault Refusal :=
  .next (s.onTaken mb.toNat 0x01 fun t => s.admitCmd mb.toNat t none)

/-- CTX_RESTORE (R299, R300, R381). How many beats the loading takes is the CP's; the key is the saved one. -/
def execCtxRestore (mb : MailboxNum) (s : State) : Host.Outcome State Fault Refusal :=
  .next (s.onTaken mb.toNat 0x06 fun t =>
    s.stepFree.admitCmd mb.toNat t (some { t.restoreReq with beats := s.freeVal.toNat % 2 ^ 32 }))

/-! ## ADMISSION -/

/-- The program of an engine in the shadow bank of its core. -/
def CoreState.loadShadow (k : CoreState) (r : EngineRec) : CoreState :=
  { k with shadow := cellsOf 0 (r.prog.flatMap fun d => bytesOf 8 d.toNat) }

/-- The nine words of the OK response, with B of a restore (R377, R381). -/
def Job.admitWords (j : Job) (h : Handle) : List Word :=
  wordsOf j.startBeat ++ wordsOf j.compBeat ++ wordsOf j.key.toNat ++ wordsOf (j.key.toNat >>> 64) ++ [BitVec.ofNat 32 h.toNat] ++
    match j.restore with
    | some r => [BitVec.ofNat 32 r.beats]
    | none => []

/-- The seed draw of job `h` among the requests to the DRBG. -/
def seedWait (h : Handle) (mb : Nat) : EntWait := ⟨mb, 0, 1, false, [], some h⟩

/-- The seed draw takes its place after the requests that came before it (R270). -/
def State.queueDraw (s : State) (h : Handle) (mb : Nat) : State :=
  if s.ent.reads.contains (seedWait h mb) then s
  else { s with ent := { s.ent with reads := s.ent.reads ++ [seedWait h mb] } }

/-- Job `h` has no draw that waits. -/
def State.dropDraw (s : State) (h : Handle) : State :=
  { s with ent := { s.ent with reads := s.ent.reads.filter fun w => w.job != some h } }

/-- The seed that admission draws (R231, R259): none while the request must wait, for the blocks of a reseed or for a request that came
before it (R270). -/
def State.drawSeed (s : State) (h : Handle) (j : Job) : Option (BitVec 128 × State) :=
  if j.entropySeed ∧ j.restore.isNone then
    match s.nextDraw with
    | some w => if w.job = some h then (s.drbgRequest false 1).map fun r => (BitVec.ofNat 128 (natOf r.1), r.2.dropDraw h) else none
    | none => (s.drbgRequest false 1).map fun r => (BitVec.ofNat 128 (natOf r.1), r.2)
  else
    match j.restore with
    | some r =>
      let a := r.src + ((j.engines.head?).map (·.1)).getD 0 * r.stride + 0x3B00
      some (BitVec.ofNat 128 (natAt s.mem a 16), s)
    | none => some (j.key, s)

/-- The link key of a multi-module encrypted job is drawn on the module of lowest number; the others hold the key that a key
record brought (R354, R436). -/
def State.lowestModule (s : State) (j : Job) : Bool := lowestBit 64 j.modset.toNat == some s.moduleId

/-- The link key, if it is there: none while it is awaited, `some none` on error status. -/
def State.drawLinkKey (s : State) (j : Job) : Option (Option (BitVec 256) × State) :=
  if !j.linkEnc then some (some 0, s)
  else if !s.lowestModule j then (if j.keyRecord then some (some j.linkKey, s) else none)
  else
    match s.ent.wireLink with
    | [] => none
    | k :: r => some (k, { s with ent := { s.ent with wireLink := r } })

/-- The key record for another module of the set (R436). -/
def State.keyRecordTo (s : State) (j : Job) (target : Nat) : FreeMsg :=
  let iv := beBytes 12 (s.moduleId * 2 ^ 88 + s.beatCtr.toNat)
  let tk := match j.keyset with
    | some (p, k) => (tabGet KeySet.reset s.sec.keysets (4 * p + k)).tkey
    | none => 0
  let c := gcmSeal (beBytes 32 tk.toNat) iv (bytesOf 8 j.token.toNat) (beBytes 32 j.linkKey.toNat)
  let bs := iv ++ c.1 ++ c.2 ++ zeros 68
  ⟨BitVec.ofNat 512 (0xA5C4 + target * 2 ^ 16 + 2 * 2 ^ 40), [granuleAt bs 0, granuleAt bs 1]⟩

/-- The ports on which what goes the path of armed tokens and GO leaves this module: the upstream port, or, from the master, every port
that leads away from it (R351, R436). -/
def State.treePorts (s : State) : List Nat :=
  if s.isMaster then s.downPorts else if s.dcbF Dcb.linkSys 6 1 = 1 then [s.dcbF Dcb.linkSys 2 4] else []

/-- Key records go to every other module of the set (R436). -/
def State.sendKeyRecords (s : State) (j : Job) : State :=
  if j.linkEnc && j.multi && s.lowestModule j then
    ((List.range 64).filter fun n => j.modset.toNat.testBit n && n != s.moduleId).foldl (fun s n =>
      s.treePorts.foldl (fun s l => s.queueFree l (s.keyRecordTo j n)) s) s
  else s

/-- The cores of a job that is admitted take what its engine records declare, at once where no job has them (R235, R496). -/
def State.declareIdle (s : State) (h : Handle) (j : Job) : State :=
  j.engines.foldl (fun s x => if (s.core x.2).job.isNone then s.declareFor h x.2 else s) s

/-- The job is admitted: its tables are loaded, its declarations are made, and it is answered, or arms (R76, R83, R326, R378, R496). A
multi-module job without a LAUNCH_BEAT arms too, and no GO can come for it (DESIGN CHOICE, log entry 78). -/
def State.takeIn (s : State) (h : Handle) (j : Job) : State :=
  let s := j.engines.foldl (fun s x =>
    match j.image.engines[x.1]? with
    | some r => s.modCore x.2 fun k => k.loadShadow r
    | none => s) s
  let s := s.sendKeyRecords j
  if j.multi then
    let j := { j with st := .armed }
    let s := ((s.setJob h j).declareIdle h j).modMb j.mailbox fun b => { b with armed := true }
    s.sendUp ⟨j.token, BitVec.ofNat 64 j.launch, false⟩
  else
    let j := { j with st := .admitted }
    ((s.setJob h j).declareIdle h j).complete j.mailbox Status.ok (j.admitWords h) 0

/-- What admission finds wrong with a job that its map now places (R61, R85, R299, R347, R354): the status of its withdrawal. A link port
that is not UP is NOT_READY here too (DEDUCED, log entry 79). -/
def State.admissionFault (s : State) (j p : Job) : Option Nat :=
  if s.planBad p.image p.parts p.half p.engines then some Status.badArg
  else if s.linksDown p p.engines then some Status.notReady
  else if s.planRefused p.image p.linkEnc p.engines || (p.linkEnc && s.entState == 3) ||
      (match p.lockstep with
        | some n => Config.peerUsable n s.beat != s.usableMap
        | none => false) then some Status.refused
  else s.restoreStatus j

/-- A job that fits is admitted once it has its link key and its seed; it waits for them, and is withdrawn where they cannot come (R232,
R267, R270, R354). -/
def State.admitPlaced (s : State) (h : Handle) (p : Job) : State :=
  let draws := p.entropySeed && p.restore.isNone
  if draws && s.ent.lost then s.withdraw h Status.refused
  else if draws && !s.drbgUp then s
  else
    match s.drawLinkKey p with
    | none => s
    | some (none, t) => t.withdraw h Status.refused
    | some (some key, t) =>
      match t.drawSeed h p with
      | none => s.queueDraw h p.mailbox
      | some (seed, t) =>
        let slot := if p.linkEnc then t.freeKeySlot else none
        let t : State := match slot with
          | some n => { t with linkSys := { t.linkSys with keySlots := tabSet 0 t.linkSys.keySlots n key } }
          | none => t
        t.takeIn h { p with key := seed, linkKey := key, keySlot := slot }

/-- ADMISSION: at a boundary after the beat in which the CP took the command (R74). -/
def execAdmission (handle : Handle) (s : State) : Host.Outcome State Fault Refusal :=
  match s.job handle with
  | none => .next s
  | some j =>
    let a := s.beat
    if j.st ≠ .waiting ∨ s.cycle ≠ 0 ∨ a ≤ j.takenBeat ∨ s.halted ∨ s.fatal ∨ !s.cpRuns ∨ j.needsBase then .next s
    else if s.mapShort j then .next (s.withdraw handle Status.refused)
    else
      let p := s.placed j a
      if j.launch ≠ 0 ∧ j.launch < p.startBeat then .next s
      else
        match s.admissionFault j p with
        | some st => .next (s.withdraw handle st)
        | none =>
          if !s.fits p ∨ s.laterThan handle p then
            (if j.nowait then .next (s.withdraw handle Status.refused) else .next s)
          else .next (s.admitPlaced handle p)

/-- LAUNCH_DEADLINE_WITHDRAW: beat LAUNCH_BEAT - 4 has ended while the job waits (R74). -/
def execLaunchDeadlineWithdraw (handle : Handle) (s : State) : Host.Outcome State Fault Refusal :=
  match s.job handle with
  | none => .next s
  | some j =>
    if j.st = .waiting ∧ j.launch ≠ 0 ∧ j.launch < s.beat + 4 then .next (s.withdraw handle Status.refused) else .next s

/-! ## GO and bases (R83, R351, R378, R499) -/

/-- A job of this module with a token. -/
def State.jobOfToken (s : State) (token : Dword) (st : JobSt) : Option (Handle × Job) :=
  (s.jobs.find? fun e => e.2.token == token && e.2.multi && e.2.st == st).map fun e => (BitVec.ofNat 16 e.1, e.2)

/-- An armed job holds GO: it is answered, and starts at its beat. -/
def State.takeGo (s : State) (token : Dword) : State :=
  match s.jobOfToken token .armed with
  | some (h, j) =>
    if j.launch ≤ s.beat then s
    else
      let j := { j with st := .admitted }
      ((s.setJob h j).modMb j.mailbox fun b => { b with armed := false }).complete j.mailbox
        Status.ok (j.admitWords h) 0
  | none => s

/-- GO_SEND: in beat b - 3 the master, which is armed itself, sends GO for a set whose tokens it held by the end of beat b - 4. Each
module sends one, and a token names no module (Table 12-3), so the master counts them. -/
def execGoSend (token : Dword) (s : State) : Host.Outcome State Fault Refusal :=
  match s.jobOfToken token .armed with
  | none => .next s
  | some (_, j) =>
    let held := (s.linkSys.tokens.filter fun x => x.1 == token && decide (x.2.2 + 4 ≤ j.launch)).length
    if s.isMaster ∧ s.beat + 3 = j.launch ∧ popcount 64 j.modset.toNat ≤ held then
      let t : State := { s with linkSys := { s.linkSys with tokens := s.linkSys.tokens.filter fun x => x.1 != token } }
      .next ((t.sendDown t.downPorts ⟨token, BitVec.ofNat 64 j.launch, false⟩).takeGo token)
    else .next s

/-- GO_TIMEOUT_WITHDRAW: at b:0 a module without GO withdraws the job with FAULT (R83, R378), which names record 0 (DESIGN
CHOICE, log entry 83). -/
def execGoTimeoutWithdraw (handle : Handle) (s : State) : Host.Outcome State Fault Refusal :=
  match s.job handle with
  | none => .next s
  | some j => if j.st = .armed ∧ j.launch ≤ s.beat then .next (s.withdraw handle Status.fault) else .next s

/-- A base reaches the job that waits for it (R499). -/
def State.takeBase (s : State) (token : Dword) (target b : Nat) : State :=
  match s.jobOfToken token .waiting with
  | some (h, j) => if target = s.moduleId ∧ j.needsBase then s.setJob h { j with base := some b } else s
  | none => s

/-- BASE_SEND: the master holds an entry from every module of the set, and sends each its base (R499). -/
def execBaseSend (token : Dword) (s : State) : Host.Outcome State Fault Refusal :=
  match s.jobOfToken token .waiting with
  | none => .next s
  | some (_, j) =>
    let es := s.linkSys.census.filter fun x => x.1 == token
    let mods := (List.range 64).filter fun n => j.modset.toNat.testBit n
    let count (n : Nat) : Nat := ((es.find? fun x => x.2.1 == n).map (·.2.2)).getD 0
    if s.isMaster ∧ j.needsBase ∧ mods.all fun n => es.any fun x => x.2.1 == n then
      let total := (mods.map count).sum
      let base (n : Nat) : Nat :=
        if total < j.image.e then 0x1FFFF else ((mods.filter fun k => decide (k < n)).map count).sum
      let t : State := { s with linkSys := { s.linkSys with census := s.linkSys.census.filter fun x => x.1 != token } }
      .next (mods.foldl (fun t n =>
        if n = t.moduleId then t.takeBase token n (base n)
        else t.sendDown t.downPorts ⟨token, BitVec.ofNat 64 (n * 2 ^ 56 + base n), true⟩) t)
    else .next s

/-! ## JOB_START and JOB_DONE -/

/-- The core-port pages of an engine (R311, R497). -/
def slotTable (im : Image) (r : EngineRec) : Tab Word :=
  (List.range im.p).foldl (fun t b => (im.pageOf r b).foldl (fun t e => tabSet 0 t (1024 * b + e.1) e.2) t) []

/-- The core at its job's start beat (R96, R128, R174, R177, R219, R244, R275, R326). -/
def CoreState.startJob (k : CoreState) (h : Handle) (j : Job) (r : EngineRec) : CoreState :=
  let fresh : CoreState :=
    { CoreState.reset with
      regs := k.keptRegs
      store := (cellsIn k.store Reg.hang 0x2000).foldl (fun m e => m ++ [e])
        (k.shadow.map fun e => (Win.schedule + e.1, e.2))
      shadow := (cellsIn k.store Win.schedule 0x20000).map fun e => (e.1 - Win.schedule, e.2)
      slots := slotTable j.image r
      watches := k.watches.filter fun e => e.2.armed && e.2.handle == h
      cntBase := k.cntBase
      fenceAt := k.fenceAt
      job := some h
      energyExp := r.exp.toNat }
  let k := fresh.declare j r
  { k with regs0 := k.regs }

/-- JOB_START: at s:0 the shadow banks become active and the job runs (R74, R275, R326). A restored job's records come into its
cores (R300). -/
def execJobStart (handle : Handle) (s : State) : Host.Outcome State Fault Refusal :=
  match s.job handle with
  | none => .next s
  | some j =>
    if j.st ≠ .admitted ∨ s.cycle ≠ 0 ∨ s.beat ≠ j.startBeat ∨ s.endDue j ∨ !s.domainRuns then .next s
    else
      let j' := { j with st := .running }
      let iter := s.jobIter j'
      let t := j.engines.foldl (fun t x =>
        match j.image.engines[x.1]? with
        | none => t
        | some r =>
          t.modCore x.2 fun k =>
            let k := k.startJob handle j r
            match j.restore with
            | some q =>
              let m := ((q.records.find? fun y => y.1 == x.1).map (·.2)).getD []
              let k := k.loadRecord m 0 q.portable j s.now j.startK
              let k := if q.portable then
                  { k with threadIter := (List.range 64).foldl (fun m n => tabSet 0 m n iter) [] } else k
              if s.jobBeat j' % max j.image.p 1 = 0 then k.startPeriod iter else k
            | none => k.startPeriod 0) s
      let t : State := match j.lockstep with
        | some p =>
          let t : State := { t with linkSys := { t.linkSys with ownDigests := [], peerDigests := [] } }
          let t := (t.setDcbF Dcb.lockstepStat 0 1 1).setDcbF Dcb.lockstepStat 8 6 p
          match s.peerPort p with
          | some l => t.setDcbF (Dcb.linkCtrl l) 2 1 1
          | none => t
        | none => t
      .next ((t.setJob handle j').traceJob handle j' s.beat)

/-- JOB_DONE: from c + 2:0 the job is DONE, and its end source is raised (R76). -/
def execJobDone (handle : Handle) (s : State) : Host.Outcome State Fault Refusal :=
  match s.job handle with
  | none => .next s
  | some j =>
    if j.st = .running ∧ j.compBeat + 2 ≤ s.beat ∧ j.pendingEnd = none ∧ (!s.halted ∨ s.completedBeforeStop j) then
      let t := match j.save with
        | some r => s.complete r.mb Status.refused [] 0
        | none => s
      .next (t.finishAt handle .done 0 (j.compBeat + 2))
    else .next s

/-! ## SCHED_INFO -/

/-- SCHED_INFO (R382). -/
def execSchedInfo (mb : MailboxNum) (s : State) : Host.Outcome State Fault Refusal :=
  let m := mb.toNat
  .next (s.onTaken m 0x04 fun t =>
    if s.occupied m then s.answer m t Status.busy []
    else
      let ports := (s.reserved.flatMap fun e => planPorts (s.planUses e.2.image e.2.engines)).dedup
      let cores := (s.reserved.flatMap fun e => e.2.engines.map (·.2)).dedup
      let used := (ports.map s.pagesHeld ++ cores.map s.corePagesHeld).foldl max 0
      let waiting := (s.jobs.filter fun e => e.2.st == .waiting).length
      s.answer m t Status.ok [0x63626160, BitVec.ofNat 32 (748 + 749 * 2 ^ 16), BitVec.ofNat 32 (16 - used),
        BitVec.ofNat 32 (waiting % 65536)])

end Sys2Proof.Machine
end

