-- ==== Sys2Proof/Machine/Boot.lean ====
section
/-! DEFINITION. Boot and configuration: the firmware check (R390, R391), the base record and the partitions (R383, R422, R423),
overlays (R384 to R387), the calibration set (R389), BOOT_READY (R393, R428) and the end of the Sideline port's
training (R356). -/

namespace Sys2Proof.Machine

/-! ## The staging areas -/

/-- A number of the configuration image (Table 13-9), the calibration set or the firmware image (Table 13-12). -/
def State.cfgAt (s : State) (o n : Nat) : Nat := natAt s.mem (dcbBase + Dcb.cfgStaging + o) n
def State.calAt (s : State) (o n : Nat) : Nat := natAt s.mem (dcbBase + Dcb.calStaging + o) n
def State.fwAt (s : State) (o n : Nat) : Nat := natAt s.mem (dcbBase + Dcb.loadWindow + o) n
def State.fwBytes (s : State) (o n : Nat) : List Byte := bytesRead s.mem (dcbBase + Dcb.loadWindow + o) n

/-! ## The firmware image (R391) -/

def State.fwFormatOk (s : State) : Bool :=
  s.fwAt 0 4 == 1 && decide (1 ≤ s.fwAt 4 4 ∧ s.fwAt 4 4 ≤ 8388096) && s.fwAt 0x10 4 == s.dcbF Dcb.dclass 12 4 &&
    s.fwAt 0x0E 2 == 0 && s.fwAt 0x14 108 == 0 && s.fwAt 0xE1 31 == 0 && s.fwAt 0x160 160 == 0

/-- A fused hash as its register file shows it: bytes 4w to 4w + 3 in word w (Table 15-12). -/
def State.fusedHash (s : State) (reg : Nat → Nat) : List Byte :=
  (List.range 12).flatMap fun w => bytesOf 4 (s.dcbReg (reg w)).toNat

def State.fwKeyOk (s : State) : Bool := sha384 (s.fwBytes 0x80 97) == s.fusedHash Dcb.secFwkey

/-- The hash of bytes 0x000 to 0x0FF and BODY, which is FWHASH (R391, R419). -/
def State.fwHash (s : State) : List Byte := sha384 (s.fwBytes 0 0x100 ++ s.fwBytes 0x200 (s.fwAt 4 4))

def State.fwSigOk (s : State) : Bool := ecdsaVerify (s.fwBytes 0x80 97) s.fwHash (s.fwBytes 0x100 96)

/-- The first check that fails: 1 FORMAT, 2 KEY, 3 SIGNATURE; 0 where all pass. -/
def State.fwReason (s : State) : Nat :=
  if !s.fwFormatOk then 1 else if !s.fwKeyOk then 2 else if !s.fwSigOk then 3 else 0

/-- A write of BOOT_CTRL.GO (R391, R392). -/
def State.bootGo (s : State) : State :=
  if s.bootState = 0 ∨ s.bootState = 2 then s.setDcbF Dcb.bootStat 0 3 1 else s.setDcbBits Dcb.bootStat 0x10

/-- BOOT_GO. -/
def execBootGo (s : State) : Host.Outcome State Fault Refusal := if s.power.coldReset then .next s else .next s.bootGo

/-! ## The configuration image (R383, R422, R423) -/

/-- A field of partition entry `i`. -/
def State.entryAt (s : State) (i o n : Nat) : Nat := s.cfgAt (0x400 + 384 * i + o) n

/-- The entry's granules: clusters, slice groups, stack groups and link ports; clusters that are disabled are ignored. -/
def State.entryClusters (s : State) (i : Nat) : Nat :=
  (BitVec.ofNat 64 (s.entryAt i 8 8) &&& ~~~(s.dcbReg Dcb.gradeMap)).toNat
def State.entryRes (s : State) (i : Nat) : Nat :=
  s.entryAt i 0x10 2 + s.entryAt i 0x12 1 * 2 ^ 16 + s.entryAt i 0x14 2 * 2 ^ 24

def State.entryValid (s : State) (i : Nat) : Bool := (s.entryAt i 0 4).testBit 0
def State.entryConf (s : State) (i : Nat) : Bool := s.entryValid i && (s.entryAt i 0 4).testBit 1

/-- The stack groups that hold a byte of the steward region [base, base + size), in GiB. -/
def stewardGroups (base size : Nat) : List Nat :=
  (List.range 8).filter fun g => decide (base < 96 * (g + 1)) && decide (96 * g < base + size)

def State.entryOk (s : State) (i : Nat) : Bool :=
  let mb := s.entryAt i 4 1
  decide (s.entryAt i 0 4 < 4) && decide (mb < 64) && s.entryAt i 5 3 == 0 && s.entryAt i 0x13 1 == 0 &&
    s.entryAt i 0x16 362 == 0 &&
    (!(s.entryAt i 0 4).testBit 1 || (s.dcbF Dcb.secLcs 2 1 == 1 && s.dcbF Dcb.secLcs 0 2 == 1)) &&
    (!s.entryConf i ||
      (((stewardGroups (s.cfgAt 0x10 2) (s.cfgAt 0x12 2)).all fun g => !(s.entryAt i 0x12 1).testBit g) &&
        !(s.cfgAt 0x20 8).testBit mb && s.cfgAt (0x40 + mb) 1 &&& (255 - 2 ^ i) == 0))

def State.partitionsOk (s : State) : Bool :=
  (List.range 8).all fun i => s.entryOk i &&
    (List.range i).all fun j =>
      !(s.entryValid i && s.entryValid j) ||
        (s.entryClusters i &&& s.entryClusters j == 0 && s.entryRes i &&& s.entryRes j == 0)

/-- The base fields lie in their ranges. -/
def State.baseOk (s : State) : Bool :=
  let id := s.cfgAt 8 1
  let up := s.cfgAt 0x0A 1
  let base := s.cfgAt 0x10 2
  let size := s.cfgAt 0x12 2
  decide (s.cfgAt 4 4 < 2) && decide (id < 64) && decide (s.cfgAt 9 1 < 64) && (decide (up < 16) || up == 0xFF) &&
    s.cfgAt 0x0B 1 == 0 && s.cfgAt 0x0E 2 == 0 && s.cfgAt 0x14 12 == 0 && s.cfgAt 0x28 24 == 0 && s.cfgAt 0x80 896 == 0 &&
    decide (1 ≤ size ∧ size ≤ 128 ∧ base + size ≤ 768) &&
    (if s.cfgAt 4 4 = 1 then s.cfgAt 9 1 == id && up == 0xFF else decide (up < 16) && (s.cfgAt 0x0C 2).testBit up)

def State.configOk (s : State) : Bool :=
  s.cfgAt 0 4 == 1 && s.cfgAt 0x5FF8 8 == digest (bytesRead s.mem (dcbBase + Dcb.cfgStaging) 0x5FF8) && s.baseOk &&
    s.partitionsOk

/-- The base record in force: R80, R347, R39, R371 (Table 13-10). -/
def State.setBase (s : State) (master : Bool) (id masterId up linkEn base size : Nat) (priv : Nat) (parts : Nat → Nat) : State :=
  let s : State := { s with cp := { s.cp with
    privMb := BitVec.ofNat 64 priv
    mbPart := (List.range 64).foldl (fun t m => tabSet 1 t m (BitVec.ofNat 8 (parts m))) [] } }
  let s := ((s.setDcbF Dcb.beatSync 1 1 (bit master)).setDcbF Dcb.beatSync 8 6 masterId).setDcbF Dcb.beatSync 24 6 id
  let s := (List.range 16).foldl (fun s l =>
    (s.setDcbF (Dcb.linkCtrl l) 0 1 (bit (linkEn.testBit l))).setDcbF (Dcb.linkCtrl l) 1 1 (bit (up == l))) s
  let s := s.setDcbF Dcb.linkSys 0 7 (if up = 0xFF then bit (!master) * 3 else 3 + up * 4 + 64)
  (s.setDcbF Dcb.stwRegion 0 10 base).setDcbF Dcb.stwRegion 16 10 size

def State.setPartition (s : State) (i stat clusters res : Nat) : State :=
  ((s.setDcb (Dcb.secPstat i) (BitVec.ofNat 64 stat)).setDcb (Dcb.secPclu i) (BitVec.ofNat 64 clusters)).setDcb
    (Dcb.secPres i) (BitVec.ofNat 64 res)

/-! ## Overlays (R384) -/

/-- The registers with RWS fields of the device control block. -/
def overlayRegs : List Nat := [Dcb.cfgLs, Dcb.traceCtrl]

def State.readOverlay (s : State) (n : Nat) : Overlay :=
  let o := 0x1000 + 0x800 * n
  ⟨BitVec.ofNat 8 (s.cfgAt o 1), (List.range (s.cfgAt (o + 1) 1)).map fun i =>
    (s.cfgAt (o + 16 + 16 * i) 8, BitVec.ofNat 32 (s.cfgAt (o + 24 + 16 * i) 4), BitVec.ofNat 32 (s.cfgAt (o + 28 + 16 * i) 4))⟩

def Overlay.ok (v : Overlay) : Bool :=
  decide (v.kind.toNat ≤ 4) && decide (v.entries.length ≤ 64) && v.entries.all fun e => overlayRegs.any fun r => e.1 == dcbBase + r

/-- The overlays of the image: those that are rejected read as empty. -/
def State.loadOverlays (s : State) : State :=
  (List.range 8).foldl (fun s n =>
    let v := s.readOverlay n
    if v.ok then
      State.setDcbF { s with cp := { s.cp with overlays := tabSet Overlay.reset s.cp.overlays n v } } Dcb.cfgActive (8 + n) 1
        (bit (v.kind != 0))
    else s.setDcbF Dcb.cfgStat (1 + n) 1 1) s

/-- The CP applies the configuration image, or the default configuration (R383, R423). -/
def State.applyConfig (s : State) : State :=
  let s : State := { s with
    cp := { s.cp with overlays := [] }
    sec := { s.sec with cfgHash := BitVec.ofNat 384 (beNat (sha384 (bytesRead s.mem (dcbBase + Dcb.cfgStaging) 0x1000))) } }
  if s.configOk then
    let t := s.setBase (s.cfgAt 4 4 == 1) (s.cfgAt 8 1) (s.cfgAt 9 1) (s.cfgAt 0x0A 1) (s.cfgAt 0x0C 2) (s.cfgAt 0x10 2)
      (s.cfgAt 0x12 2) (s.cfgAt 0x20 8) fun m => s.cfgAt (0x40 + m) 1
    let t := (List.range 8).foldl (fun t i =>
      if s.entryValid i then
        t.setPartition i (1 + 2 * bit (s.entryConf i) + 16 * s.entryAt i 4 1) (s.entryAt i 8 8) (s.entryRes i)
      else t.setPartition i 0 0 0) t
    t.loadOverlays
  else
    ((s.setBase true 0 0 0xFF 0 736 32 1 fun _ => 1).setPartition 0 1 (2 ^ 64 - 1) (2 ^ 40 - 1)).setDcbF Dcb.cfgStat 0 1 1

/-- The oscillator trims of the calibration set, or trim code 8 (R389); their write restarts the source (R393). -/
def State.applyCalibration (s : State) : State :=
  let ok := s.calAt 0 4 == 1 && s.calAt 4 12 == 0 && s.calAt 0xFFF8 8 == digest (bytesRead s.mem (dcbBase + Dcb.calStaging) 0xFFF8)
  let t := (List.range 4).foldl (fun t n =>
    t.entTrim true n (if ok then BitVec.ofNat 64 (s.calAt (0x10 + 8 * n) 8) else 0x8888888888888888)) s
  t.setDcbF Dcb.bootStat 3 1 (bit !ok)

/-- The keys of this boot: the device key from DEVICE_SECRET alone, the alias key from it and FWHASH, and the alias certificate, which
carries FWHASH and is signed by the device key (R417). -/
def Security.deriveKeys (x : Security) : Security :=
  let d := Config.deviceKey x.deviceSecret
  let a := Config.aliasKey x.deviceSecret x.fwHash
  let body := Config.aliasBody a x.fwHash
  { x with deviceKey := d, aliasKey := a, aliasCert := body ++ ecdsaSign d (sha384 body) }

/-- FW_VERIFY_DONE (R391, R393, R417). -/
def execFwVerifyDone (s : State) : Host.Outcome State Fault Refusal :=
  if s.bootState ≠ 1 then .next s
  else
    let r := s.fwReason
    if r = 0 then
      let v := BitVec.ofNat 64 (s.fwAt 8 4)
      let a := BitVec.ofNat 64 (s.fwAt 0x0C 2)
      let s : State := { s with sec := Security.deriveKeys { s.sec with fwHash := BitVec.ofNat 384 (beNat s.fwHash) } }
      .next ((((s.setDcbF Dcb.bootStat 0 3 3).setDcb Dcb.fwId v).setDcb Dcb.abiId a).applyConfig.applyCalibration)
    else
      let n := min (s.dcbF Dcb.bootStat 8 8 + 1) 255
      .next (((s.setDcbF Dcb.bootStat 0 3 2).setDcbF Dcb.bootStat 16 2 r).setDcbF Dcb.bootStat 8 8 n)

/-- Every slice and every HBM byte is zeroed (R428). -/
def State.zeroMemory (s : State) : State :=
  let plain (a : Nat) : Bool := match regionOf a with
    | .hbm _ | .slice _ => true
    | _ => false
  { s with mem := s.mem.filter fun e => !plain e.1, badWords := s.badWords.filter fun e => !plain (64 * e.1) }

/-- BOOT_READY: the CP's checks fence the clusters with a faulty router (R330), training has ended, memory is zeroed on a part with
confidential mode, enabled ports start to train, and STATE is READY (R389, R393, R428). -/
def execBootReady (trained : Word) (faulty : Dword) (s : State) : Host.Outcome State Fault Refusal :=
  if s.bootState ≠ 3 ∨ s.power.coldReset then .next s
  else
    let s := ((List.range 64).filter fun q => faulty.toNat.testBit q).foldl (fun s q => s.fenceCluster q) s
    let s := (List.range 32).foldl (fun s k => s.setDcbF (Dcb.hbmStat k) 0 1 (bit (trained.toNat.testBit k))) s
    let s := if s.dcbF Dcb.secLcs 2 1 = 1 then s.zeroMemory else s
    let s := (List.range 16).foldl (fun s l =>
      if s.dcbF (Dcb.linkCtrl l) 0 1 = 1 ∧ s.dcbF (Dcb.linkStat l) 0 2 = 0 then s.setDcbF (Dcb.linkStat l) 0 2 1 else s) s
    .next (((s.setDcbF Dcb.bootStat 0 3 4).setDcb Dcb.bootTime s.beatCtr).dieEvent 129)

/-! ## CFG_OVERLAY (R385, R386) -/

def State.overlayKind (s : State) (n : Nat) : Nat := (tabGet Overlay.reset s.cp.overlays n).kind.toNat

/-- The overlays that will be in force. -/
def State.overlayTarget (s : State) : Nat :=
  match s.cp.overlayNext with
  | some (m, _) => m.toNat
  | none => s.dcbF Dcb.cfgActive 0 8

/-- A set of overlays has two of one KIND other than general. -/
def State.kindsClash (s : State) (mask : Nat) : Bool :=
  [2, 3, 4].any fun k => decide (1 < ((List.range 8).filter fun n => mask.testBit n && s.overlayKind n == k).length)

/-- A lock-step job is waiting, armed, admitted or running. -/
def State.lockstepHeld (s : State) : Bool :=
  s.jobs.any fun e => e.2.lockstep.isSome && (e.2.st == .waiting || e.2.st == .armed || e.2.st == .admitted || e.2.st == .running)

/-- CFG_OVERLAY. -/
def execCfgOverlay (mb : MailboxNum) (s : State) : Host.Outcome State Fault Refusal :=
  let m := mb.toNat
  .next (s.onTaken m 0x10 fun t =>
    let set := bitsOf (t.arg 0) 0 8
    let clear := bitsOf (t.arg 0) 8 8
    let mask := (s.overlayTarget ||| set) &&& (255 - clear)
    if set &&& clear ≠ 0 ∨ bitsOf (t.arg 0) 16 16 ≠ 0 ∨ s.kindsClash mask ∨
        (List.range 8).any (fun n => set.testBit n && s.overlayKind n == 0) then s.answer m t Status.badArg []
    else if s.occupied m ∨
        (s.lockstepHeld && (List.range 8).any fun n => clear.testBit n && s.overlayKind n == 4) then s.answer m t Status.busy []
    else
      let s : State := { s with cp := { s.cp with overlayNext := some (BitVec.ofNat 8 mask, s.beat + 1) } }
      s.answer m t Status.ok (BitVec.ofNat 32 mask :: wordsOf (s.beat + 1)))

/-- One entry: (old AND NOT MASK) OR (VALUE AND MASK), on the register's RWS bits. -/
def State.applyEntry (s : State) (e : Nat × Word × Word) : State :=
  let o := e.1 - dcbBase
  let m := BitVec.ofNat 64 e.2.1.toNat &&& (dcbAccess o).rws
  s.setDcb o ((s.dcbReg o &&& ~~~m) ||| (BitVec.ofNat 64 e.2.2.toNat &&& m))

/-- The overlays of a mask over the base values; a lock-step overlay powers the digest units (R385, R387). -/
def State.applyOverlays (s : State) (mask : Nat) : State :=
  let s := overlayRegs.foldl (fun s o => s.setDcb o (dcbDefault o)) s
  (List.range 8).foldl (fun s n =>
    if mask.testBit n then
      let v := tabGet Overlay.reset s.cp.overlays n
      let s := v.entries.foldl State.applyEntry s
      if v.kind = 4 then s.setDcbF Dcb.cfgLs 0 1 1 else s
    else s) s

/-- OVERLAY_APPLY, at the boundary (R385). -/
def execOverlayApply (s : State) : Host.Outcome State Fault Refusal :=
  match s.cp.overlayNext with
  | some (m, b) =>
    if b ≤ s.beat then
      let s : State := { s with cp := { s.cp with overlayNext := none } }
      .next ((s.setDcbF Dcb.cfgActive 0 8 m.toNat).applyOverlays m.toNat)
    else .next s
  | none => .next s

/-- SIDELINE_TRAIN_DONE: the port needs no partner (R356). -/
def execSidelineTrainDone (s : State) : Host.Outcome State Fault Refusal :=
  if s.power.coldReset then .next s else .next (s.setDcbF Dcb.sideStat 0 2 2)

end Sys2Proof.Machine
end

