-- ==== Sys2Proof/Machine/ErrCmd.lean ====
section
/-! DEFINITION. The error commands ERR_ACK, ERR_INJECT and STW_RESET (R478), the faults of the CP, the core logic, the routers,
the control network and the root of trust (R471), and the steward reset (R486). -/

namespace Sys2Proof.Machine

/-! ## ERR_ACK -/

/-- The record with SECONDARY computed against the records that stand before it. -/
def ErrRec.withSecondary (r : ErrRec) (older : List ErrRec) : ErrRec :=
  { r with flags := BitVec.ofNat 8 (putBits r.flags.toNat 3 1 (bit (older.any fun x => x.cls != 0))) }

/-- Records that entered in beat `b` have SECONDARY computed anew, against those that remain (R473). -/
def resecond (b : Nat) (done : List ErrRec) : List ErrRec → List ErrRec
  | [] => done
  | r :: rest => resecond b (done ++ [if r.entry = b then r.withSecondary done else r]) rest

/-- ERR_LASTFATAL is a copy of its record: it follows the record's SECONDARY. -/
def lastAfter (b : Nat) (unit : Nat) (kept : List ErrRec) (last : ErrRec) : ErrRec :=
  match kept.find? fun r => r.id == last.id with
  | some r => r
  | none => if last.entry = b ∧ last.id.toNat / 2 ^ 20 = unit then last.withSecondary kept else last

/-- The record with this ID and every older one leave the unit's queue, but for records entered in this beat (R473, R478, R492). -/
def State.ackRecords (s : State) (unit : Nat) (id : Word) : State :=
  let u := s.errUnit unit
  let n := (u.recs.takeWhile (fun r => r.id != id)).length + 1
  let gone := (u.recs.take n).filter fun r => r.entry != s.beat
  let kept := resecond s.beat [] (((u.recs.take n).filter fun r => r.entry == s.beat) ++ u.recs.drop n)
  let s := s.setErrUnit unit { u with recs := kept }
  match s.err.last with
  | some r =>
    if gone.any (fun x => x.id == r.id) then s
    else { s with err := { s.err with last := some (lastAfter s.beat unit kept r) } }
  | none => s

/-- ERR_ACK. -/
def execErrAck (mb : MailboxNum) (s : State) : Host.Outcome State Fault Refusal :=
  let m := mb.toNat
  .next (s.onTaken m 0x80 fun t =>
    let unit := bitsOf (t.arg 0) 0 12
    let id := BitVec.ofNat 32 (t.arg 1)
    if !(s.errUnit unit).recs.any (fun r => r.id == id) then s.answer m t Status.badArg []
    else if s.occupied m then s.answer m t Status.busy []
    else (s.ackRecords unit id).answer m t Status.ok [])

/-! ## ERR_INJECT -/

/-- The code belongs to the unit's kind (R478, Table 17-3). -/
def injectFits (unit code : Nat) : Bool :=
  if unit < 0x400 then code == 0x06 || code == 0x07
  else if unit < 0x800 then code == 0x01 || code == 0x02
  else if unit < 0xC00 then code == 0x03 || code == 0x04 || code == 0x05
  else if unit < 0xC10 then code == 0x10 || code == 0x11
  else false

/-- ERR_INJECT. -/
def execErrInject (mb : MailboxNum) (s : State) : Host.Outcome State Fault Refusal :=
  let m := mb.toNat
  .next (s.onTaken m 0x81 fun t =>
    let unit := bitsOf (t.arg 0) 0 12
    let code := bitsOf (t.arg 0) 12 8
    let u := s.errUnit unit
    if (s.unitPart unit).any s.partActive then s.answer m t Status.denied []
    else if !injectFits unit code then s.answer m t Status.badArg []
    else if s.occupied m ∨ u.inject.isSome then s.answer m t Status.busy []
    else (s.setErrUnit unit { u with inject := some (BitVec.ofNat 8 code) }).answer m t Status.ok [])

/-! ## Faults -/

/-- CP_FAULT: a firmware exception or the watchdog (code 0x1B). -/
def execCpFault (s : State) : Host.Outcome State Fault Refusal :=
  .next (s.outOfReset fun s => s.enterError UnitNo.cp 0x1B {})

/-- A parity fault in core logic is recorded and its job marked, and the CP fences the core (R329, R471). -/
def State.coreLogicFault (s : State) (c : Nat) : State :=
  (s.enterError (UnitNo.core c) 0x08 { handle := (s.core c).job.getD 0, core := c }).fenceNext c

/-- A router fault ends every job with a core of the cluster, and fences the cluster at the boundary (R330). -/
def State.routerFault (s : State) (c : Nat) : State :=
  let q := clusterOf c
  let i : ErrInfo := { handle := (s.core c).job.getD 0, core := c }
  let id := (s.makeRecord (UnitNo.core c) 0x09 i).id
  let s := (s.enterError (UnitNo.core c) 0x09 i).markOn (fun x => clusterOf x == q) id
  if s.cp.clusterNext.any fun e => e.1 == q then s
  else { s with cp := { s.cp with clusterNext := s.cp.clusterNext ++ [(q, s.beat + 1)] } }

/-- An error of a core's storage is recorded, with the word it is in: one bit is corrected, two are a contained error (Table 17-3). -/
def State.storageFault (s : State) (c e off : Nat) (double : Bool) : State :=
  s.stepFree.enterError (UnitNo.core c) (if double then 0x07 else 0x06)
    { handle := (s.core c).job.getD 0, core := c, addr := 0x20000000000 + 0x1000000 * c + off / 64 * 64, engine := e
      detail := off / 8 % 8 + (Config.syndrome s.free).toNat * 256 }

/-- LOGIC_FAULT (codes 0x06 to 0x09, 0x19 with DETAIL 1, 0x1A, 0x1C). -/
def execLogicFault (fault : LogicFault) (s : State) : Host.Outcome State Fault Refusal :=
  whenFormed (.logicFault fault) <|
  .next (s.outOfReset fun s =>
    match fault with
    | .coreLogic c => s.coreLogicFault c.toNat
    | .router c => s.routerFault c.toNat
    | .controlNetwork => s.enterError UnitNo.cp 0x1A {}
    | .rootOfTrust => s.enterError UnitNo.rot 0x1C {}
    | .storage c e off double => s.storageFault c.toNat e.toNat off.toNat double
    | .ucieRetry => s.enterError UnitNo.ucie 0x19 { detail := 1 })

/-! ## The steward reset (R486) -/

/-- STW_RESET: OK, and the reset is asked for. -/
def execStwReset (mb : MailboxNum) (s : State) : Host.Outcome State Fault Refusal :=
  let m := mb.toNat
  .next (s.onTaken m 0x82 fun t =>
    if s.occupied m then s.answer m t Status.busy []
    else State.answer { s with cp := { s.cp with stwReset := true } } m t Status.ok [])

/-- A MAC after reset: its station address is the fused one (Table 13-15; DESIGN CHOICE, log entry 3). -/
def Mac.afterReset (x : Mac) : Mac :=
  { regs := tabSet 0 [] 0x10 (BitVec.ofNat 64 x.fused.toNat), fused := x.fused, sent := [] }

/-- What a reset of the steward die leaves of it: boot ROM, fused addresses, the flash device's array, and the counts of events and of
STOP messages, which only a cold reset clears (R399, R413). A read of the flash window that stalls is lost; what waits for a slot of the
crossbar is on the die. -/
def State.resetSteward (s : State) : State :=
  { s with
    ic := { Ic.reset with
      latches := s.ic.latches, messages := s.ic.messages, ucieUp := false, stops := s.ic.stops
      sources := s.ic.sources.foldl (fun t e => tabSet IcSource.reset t e.1 { IcSource.reset with events := e.2.events }) [] }
    macs := s.macs.foldl (fun t e => tabSet Mac.reset t e.1 e.2.afterReset) []
    flash := { Flash.reset with array := s.flash.array }
    stewardQ := s.stewardQ.filter fun r => r.port.isSome
    sram := s.sram.filter fun e => decide (e.1 < 0x10000) }

/-- STEWARD_RESET: the reset that STW_RESET or MFR_STW_RESET asked for. The die, its jobs, mailboxes and HBM are untouched, and
the UCIe link retrains, so die events wait (R401) and the retrain is recorded (code 0x19). -/
def execStewardReset (s : State) : Host.Outcome State Fault Refusal :=
  .next (s.outOfReset fun s =>
    if s.cp.stwReset then
      (State.resetSteward { s with cp := { s.cp with stwReset := false } }).enterError UnitNo.ucie 0x19 { detail := 2 }
    else s)

end Sys2Proof.Machine
end

