-- ==== Sys2Proof/Machine/Power.lean ====
section
/-! DEFINITION. Power (R479 to R482), thermal limits (R483), the reference clock (R485) and the resets (R486, R487). -/

namespace Sys2Proof.Machine

/-! ## Cold reset -/

/-- Fused registers: they outlast a cold reset, with the standby domain's RST_CAUSE (R486; DESIGN CHOICE, log entries 3 and 4). -/
def fusedReg (o : Nat) : Bool :=
  o == Dcb.dclass || o == Dcb.gradeMap || o == Dcb.secSerial || o == Dcb.rstCause ||
    (List.range 12).any fun w => o == Dcb.secFwkey w || o == Dcb.secRetkey w

/-- SEC_LCS after a cold reset: STATE and CONF_EN are fused, and a pending RETURN takes effect (R440). -/
def lcsAfterReset (v : Nat) : Nat := (if v.testBit 4 then 2 else bitsOf v 0 2) + 4 * bitsOf v 2 1

/-- Plain memory, which a cold reset leaves as it is: HBM (Table 17-14) and shared memory (DESIGN CHOICE, log entry 4). -/
def isPlain (a : Nat) : Bool :=
  match regionOf a with
  | .hbm _ | .slice _ => true
  | _ => false

/-- The power unit when cold reset is asserted. -/
def Power.held (p : Power) : Power :=
  { p with
    coldReset := true, winInput := 0, winRails := [], warnArmed := true, tripHold := false, thermTrip := false
    tempHigh := [], tapReset := false }

/-- The module under cold reset: everything but the standby domain, fuses, module flash and, unless power is gone, memory is
as `State.reset` has it (R486; DESIGN CHOICE, log entries 3, 4, 6). -/
def State.coldState (s : State) (keepMem : Bool) : State :=
  { State.reset with
    free := s.free
    pending := s.pending
    dcb := tabSet (dcbDefault Dcb.secLcs) (s.dcb.filter fun e => fusedReg e.1) Dcb.secLcs
      (BitVec.ofNat 64 (lcsAfterReset (s.dcbReg Dcb.secLcs).toNat))
    mem := if keepMem then s.mem.filter fun e => isPlain e.1 else []
    badWords := if keepMem then s.badWords.filter fun e => isPlain (64 * e.1) else []
    err := { State.reset.err with last := s.err.last }
    macs := s.macs.foldl (fun t e =>
      tabSet Mac.reset t e.1 { Mac.reset with regs := tabSet 0 [] 0x10 (BitVec.ofNat 64 e.2.fused.toNat), fused := e.2.fused }) []
    flash := { Flash.reset with array := s.flash.array }
    sram := s.sram.filter fun e => decide (e.1 < 0x10000)
    sec := { Security.reset with deviceSecret := s.sec.deviceSecret }
    power := s.power.held }

/-- Cold reset is asserted by a source of RST_CAUSE's bit `cause` (R487, Table 17-16). -/
def State.coldReset (s : State) (cause : Nat) (keepMem : Bool) : State :=
  (s.coldState keepMem).setDcb Dcb.rstCause (BitVec.ofNat 64 (2 ^ cause))

def State.setPower (s : State) (f : Power → Power) : State := { s with power := f s.power }

/-- COLD_RESET_ASSERT: power-on, RESET_N, clock loss, MFR_COLD_RESET, or power-on after SHUTDOWN (Table 17-9). RESET_N or
REFCLK stays away until the release. -/
def execColdResetAssert (cause : BitVec 3) (s : State) : Host.Outcome State Fault Refusal :=
  whenFormed (.coldResetAssert cause) <|
  let s := s.coldReset cause.toNat true
  .next (if cause = 1 then s.setPower fun p => { p with resetN := false }
    else if cause = 2 then s.setPower fun p => { p with refclk := false } else s)

/-- CLOCK_LOSS (R485). -/
def execClockLoss (s : State) : Host.Outcome State Fault Refusal :=
  .next ((s.coldReset 2 true).setPower fun p => { p with refclk := false })

/-- COLD_RESET_RELEASE: 100 µs after RESET_N is high, every rail good and REFCLK within range; boot begins at 0:0, with the
entropy source in STARTUP (R393, R487). -/
def execColdResetRelease (s : State) : Host.Outcome State Fault Refusal :=
  if s.power.coldReset ∧ s.power.on ∧ s.power.railGood = 0x7FF then
    .next (s.setPower fun p => { p with coldReset := false, resetN := true, refclk := true })
  else .next s

/-- TAP_RESET: the JTAG TAP alone (Table 17-9). -/
def execTapReset (s : State) : Host.Outcome State Fault Refusal := .next (s.setPower fun p => { p with tapReset := true })

/-! ## Rails (R479, R480) -/

/-- Every rail but VSTBY stops: what the module held is lost, and cold reset is asserted. -/
def State.powerDown (s : State) : State :=
  (s.coldState false).setPower fun p => { p with railGood := p.railGood &&& 1, on := false }

/-- The trip and shutdown thresholds of sensor `i` in degrees (Table 17-7). -/
def thermTripAt (i : Nat) : Option Int := if i ≤ 68 then some 105 else if i ≤ 86 then some 85 else if i ≤ 88 then none else some 95

def thermShutAt (i : Nat) : Option Int := if i ≤ 68 then some 115 else if i ≤ 86 then some 95 else if i ≤ 88 then none else some 105

/-- A reading, in quarters of a degree, is at or above a limit in degrees. -/
def reaches (t : BitVec 12) (limit : Option Int) : Bool := limit.any fun l => decide (4 * l ≤ t.toInt)

/-- Every sensor reads below its trip threshold. -/
def Power.cool (p : Power) : Bool := p.temps.all fun e => !reaches e.2 (thermTripAt e.1)

/-- OPERATION on starts the rails, once the module may leave a SHUTDOWN (R483); RST_CAUSE names the source of the cold reset
that the start brings (Table 17-9). -/
def State.tryPowerOn (s : State) : State :=
  if s.power.operation = 0x80 ∧ !s.power.on ∧ s.power.vin48 ∧ s.power.railGood.toNat.testBit 0 ∧
      (!s.power.shutdown ∨ s.power.cool) then
    (s.setDcb Dcb.rstCause (BitVec.ofNat 64 (if s.power.shutdown then 16 else 1))).setPower fun p =>
      { p with on := true, shutdown := false }
  else s

/-- RAIL_POWER_GOOD: a rail reaches power-good after those of lower index (R480). VSTBY follows VIN48, and a loss of VIN48 before it
makes this a power-on (R487); MADDR[2:0] is sampled then (Table 17-13). -/
def execRailPowerGood (rail : BitVec 4) (s : State) : Host.Outcome State Fault Refusal :=
  whenFormed (.railPowerGood rail) <|
  let i := rail.toNat
  let good : State → State := fun s => s.setPower fun p => { p with railGood := p.railGood ||| BitVec.ofNat 11 (2 ^ i) }
  if i = 0 then
    if s.power.railGood.toNat.testBit 0 then .next s
    else .next ((good (s.setDcb Dcb.rstCause 1)).setPower fun p => { p with vin48 := true, maddr := p.maddrPins })
  else if s.power.on ∧ (List.range i).all (fun j => s.power.railGood.toNat.testBit j) then .next (good s)
  else .next s

/-- SHUTDOWN: the record, which ERR_LASTFATAL keeps, and the rails but VSTBY stop (R471, R479, R483). -/
def State.shutDown (s : State) (index : Nat) : State :=
  if s.power.on then
    ((s.enterError UnitNo.power 0x1F { detail := index }).powerDown).setPower fun p =>
      { p with shutdown := true, operation := 0 }
  else s

/-- SHUTDOWN, with the index of the record. -/
def execShutdown (index : Byte) (s : State) : Host.Outcome State Fault Refusal := .next (s.shutDown index.toNat)

/-- VIN48_LOSS: the module and its standby domain are without power (R487). -/
def execVin48Loss (s : State) : Host.Outcome State Fault Refusal :=
  let s := (s.powerDown.setDcb Dcb.rstCause 0).setPower fun p =>
    { p with
      railGood := 0, shutdown := false, vin48 := false, resetN := false, operation := 0, statusBits := 0, reply := []
      invalid := false }
  .next { s with err := { s.err with last := none } }

/-! ## Power supervision (R438, R481, R482) -/

/-- The rails' maxima in units of 10 mW (Table 17-6). -/
def railMax (i : Nat) : Nat := 100 * ([5, 70, 150, 330, 60, 180, 1560, 160, 30, 80, 180] : List Nat).getD i 0

/-- A running job, or one whose CTX_SAVE runs, ends by a trip (R475, R492). -/
def State.tripJobs (s : State) (id : Word) : State :=
  let s := s.markRunning .contained id
  (s.jobs.filter fun e => e.2.st == .suspended && e.2.save.isSome).foldl (fun s e =>
    (s.failSave e.2 id).finishJob (BitVec.ofNat 16 e.1) .contained id) s

/-- A trip: its record, and the jobs that it reaches. -/
def State.trip (s : State) (code detail : Nat) : State :=
  let id := (s.makeRecord UnitNo.power code { detail }).id
  (s.enterError UnitNo.power code { detail }).tripJobs id

/-- The rail or input whose 1 ms mean is at the trip level: the lowest rail above 110 % of its maximum, else 0xFF for the input above
3,045 W. -/
def tripIndex (input : Nat) (rails : List Nat) : Option Nat :=
  match (List.range 11).find? fun i => decide (110 * railMax i < 100 * rails.getD i 0) with
  | some i => some i
  | none => if 304500 < input then some 0xFF else none

/-- The warning on the mean input power, raised again only after a fall of 50 W below WARN. -/
def State.powerWarning (s : State) (input : Nat) : State :=
  let warn := 100 * s.dcbF Dcb.pwrCtrl 0 12
  if s.power.warnArmed ∧ warn < input then
    ((s.setDcbBits Dcb.pwrFlags 0x1).dieEvent 173).setPower fun p => { p with warnArmed := false }
  else if !s.power.warnArmed ∧ input + 5000 ≤ warn then s.setPower fun p => { p with warnArmed := true }
  else s

/-- POWER_WINDOW: a 1 ms window, aligned to 4,000 beats, ends (R438, R482). -/
def execPowerWindow (input : BitVec 20) (rails : List (BitVec 20)) (s : State) : Host.Outcome State Fault Refusal :=
  whenFormed (.powerWindow input rails) <|
  .next (s.outOfReset fun s =>
    if s.beat % 4000 ≠ 0 then s
    else
      let trip := tripIndex input.toNat (rails.map (·.toNat))
      let s := s.setPower fun p =>
        { p with
          winInput := input
          winRails := rails.zipIdx.foldl (fun t e => tabSet 0 t e.2 e.1) []
          tripHold := trip.isSome }
      let s := s.powerWarning input.toNat
      match trip with
      | some i => (s.setDcbBits Dcb.pwrFlags 0x2).trip 0x1E i
      | none => s)

/-- A reading as its register holds it (Table 17-16). -/
def powerWord (r : PowerReading) : Dword := BitVec.ofNat 64 (r.v.toNat + r.i.toNat * 2 ^ 16 + r.p.toNat * 2 ^ 36)

/-- POWER_READING_WINDOW: a 40-beat window ends, and the registers take its means (R481). -/
def execPowerReadingWindow (input : PowerReading) (parts rails : List PowerReading) (s : State) :
    Host.Outcome State Fault Refusal :=
  whenFormed (.powerReadingWindow input parts rails) <|
  .next (s.outOfReset fun s =>
    if s.beat % 40 ≠ 0 then s
    else
      let s := s.setDcb Dcb.pwrIn (powerWord input)
      let s := parts.zipIdx.foldl (fun s e => s.setDcb (Dcb.pwrPart e.2) (powerWord { e.1 with v := 0 })) s
      rails.zipIdx.foldl (fun s e => s.setDcb (Dcb.pwrRail e.2) (powerWord e.1)) s)

/-- The rails of a part (Table 17-6): die, HBM, optics, steward. -/
def partRails (k : Nat) : List Nat := if k = 0 then [4, 5, 6] else if k = 1 then [1, 2, 3] else if k = 2 then [9, 10] else [7, 8]

/-- The nearest multiple of 25 W, ties up, in units of 10 mW (R438). -/
def coarse (p : Nat) : Nat := (p + 1250) / 2500 * 2500

/-- The 1 ms mean behind a power register. -/
def Power.windowMean (p : Power) (o : Nat) : Nat :=
  if o = Dcb.pwrIn then p.winInput.toNat
  else if o < Dcb.pwrRail 0 then
    ((partRails ((o - Dcb.pwrPart 0) / 8)).map fun i => (tabGet 0 p.winRails i).toNat).sum
  else (tabGet 0 p.winRails ((o - Dcb.pwrRail 0) / 8)).toNat

/-- What a power register reads: while a partition is active, P is the coarsened 1 ms mean and I is 0 (R438, R481). -/
def State.pwrRead (s : State) (o : Nat) : Nat :=
  let v := (s.dcbReg o).toNat
  if s.anyConf then putBits (bitsOf v 0 16) 36 20 (coarse (s.power.windowMean o)) else v

/-! ## Temperatures (R321, R483) -/

/-- The warning threshold of sensor `i` in degrees: THERM_CTRL, the cold plate's, or 85 for a stack. -/
def State.thermWarnAt (s : State) (i : Nat) : Int :=
  if i ≤ 68 then (s.dcbF Dcb.thermCtrl 0 8 : Nat) else if i ≤ 86 then (s.dcbF Dcb.thermCtrl 8 8 : Nat)
  else if i = 87 then 45 else if i = 88 then 62 else 85

/-- The reading that the sensor's register held. -/
def State.thermBefore (s : State) (i : Nat) : BitVec 12 :=
  if i < 128 then BitVec.ofNat 12 (s.dcbReg (Dcb.therm i)).toNat
  else BitVec.ofInt 12 (4 * signed 8 (s.dcbF (Dcb.hbmStat (i - 128)) 8 8))

/-- The register of a sensor takes a reading; a stack's is in whole degrees, with the refresh rate that follows (R321). -/
def State.thermStore (s : State) (i : Nat) (t : BitVec 12) : State :=
  if i < 128 then s.setDcb (Dcb.therm i) (BitVec.ofNat 64 (t.toNat + 4096))
  else
    let r := Dcb.hbmStat (i - 128)
    (s.setDcbF r 8 8 (t.toNat / 4)).setDcbF r 1 1 (bit (decide ((340 : Int) ≤ t.toInt)))

/-- Upward crossing of the warning threshold, with a hysteresis of 3 K. -/
def State.thermWarning (s : State) (i : Nat) (t : BitVec 12) : State :=
  let w := s.thermWarnAt i
  let high := tabGet false s.power.tempHigh i
  if !high ∧ 4 * w ≤ t.toInt then
    ((s.setDcbBits Dcb.pwrFlags 0x4).dieEvent 172).setPower fun p =>
      { p with tempHigh := tabSet false p.tempHigh i true, statusBits := p.statusBits ||| 0x4 }
  else if high ∧ t.toInt ≤ 4 * (w - 3) then s.setPower fun p => { p with tempHigh := tabSet false p.tempHigh i false }
  else s

/-- No sensor reads at or above its warning threshold. -/
def State.allBelowWarning (s : State) : Bool := s.power.temps.all fun e => !reaches e.2 (some (s.thermWarnAt e.1))

/-- A trip holds until no sensor reads at or above its warning threshold; a write of THERM_CTRL may end it too (R483). -/
def State.thermEnd (s : State) : State :=
  if s.power.thermTrip ∧ s.allBelowWarning then (s.setPower fun p => { p with thermTrip := false }).setDcbF Dcb.errGlobal 1 1 0
  else s

/-- The index that a record gives for a sensor (DESIGN CHOICE, log entry 23). -/
def sensorIndex (i : Nat) : Nat := if i < 128 then i else Config.hbmSensorIndex (i - 128)

/-- A reading crosses a limit upwards. -/
def crosses (before t : BitVec 12) (limit : Option Int) : Bool := reaches t limit && !reaches before limit

/-- A reading of a sensor of a running module (R483). -/
def State.thermReading (s : State) (i : Nat) (t : BitVec 12) : State :=
  let before := s.thermBefore i
  let s := (s.thermStore i t).thermWarning i t
  let s :=
    if crosses before t (thermTripAt i) then
      ((s.setPower fun p => { p with thermTrip := true }).setDcbF Dcb.errGlobal 1 1 1).trip 0x1D (sensorIndex i)
    else s
  let s := s.thermEnd
  if crosses before t (thermShutAt i) then s.shutDown (sensorIndex i) else s

/-- THERMAL_THRESHOLD: a sensor reports. Without a running module its reading only tells when a SHUTDOWN may end. -/
def execThermalThreshold (sensor : Byte) (temp : BitVec 12) (s : State) : Host.Outcome State Fault Refusal :=
  whenFormed (.thermalThreshold sensor temp) <|
  let i := sensor.toNat
  let s := s.setPower fun p => { p with temps := tabSet 0 p.temps i temp }
  .next (if s.power.coldReset then s.tryPowerOn else s.thermReading i temp)

/-- ALERT_N is asserted (R490). -/
def State.alertN (s : State) : Bool :=
  s.fatal || !s.power.warnArmed || s.power.tripHold || s.power.thermTrip || s.power.shutdown || s.power.tempHigh.any (·.2)

end Sys2Proof.Machine
end

