-- ==== Sys2Proof/Machine/Pmbus.lean ====
section
/-! DEFINITION. The management bus (R488): the PMBus commands of Table 17-11. A reply is the data bytes that the command
returns; the endpoint answers while the standby domain has power. -/

namespace Sys2Proof.Machine

/-- The endpoint's 7-bit address (R488). -/
def State.pmbusAddress (s : State) : BitVec 7 := 0x40 + s.power.maddr.setWidth 7

/-- The endpoint takes a valid command when the bus carries its address (R479, R486, R488; DESIGN CHOICE, log entry 10). -/
def State.pmbus (s : State) (f : State → State) : State :=
  if s.power.vin48 ∧ s.power.busAddr = s.pmbusAddress then f (s.setPower fun p => { p with invalid := false }) else s

/-- The endpoint answers a command with these bytes. -/
def State.reply (s : State) (bs : State → List Byte) : State :=
  s.pmbus fun s => s.setPower fun p => { p with reply := bs s }

/-- A LINEAR11 word of num / den: the exponent and the rounding are the endpoint's (PRESUMED, log entry 21). -/
def linear11 (num : Int) (den : Nat) : List Byte :=
  let e := Config.linear11Exponent num.natAbs
  let n := e.toInt
  let y := if 0 ≤ n then num / ((den : Int) * 2 ^ n.toNat) else num * 2 ^ (-n).toNat / (den : Int)
  bytesOf 2 (unsigned 11 (y + bit (Config.linear11Up num.natAbs)) + e.toNat * 2 ^ 11)

/-- OPERATION (Table 17-11). -/
def execOperation (value : Byte) (s : State) : Host.Outcome State Fault Refusal :=
  .next (s.pmbus fun s =>
    if value = 0x80 then (s.setPower fun p => { p with operation := 0x80 }).tryPowerOn
    else if value = 0x00 then
      let s := s.setPower fun p => { p with operation := 0 }
      if s.power.on then s.powerDown else s
    else s)

/-- CLEAR_FAULTS. -/
def execClearFaults (s : State) : Host.Outcome State Fault Refusal :=
  .next (s.pmbus fun s => s.setPower fun p => { p with statusBits := 0 })

/-- CAPABILITY (PRESUMED, log entry 21). -/
def execCapability (s : State) : Host.Outcome State Fault Refusal := .next (s.reply fun _ => Config.pmbusConstant 0x19)

/-- PMBUS_REVISION (PRESUMED, log entry 21). -/
def execPmbusRevision (s : State) : Host.Outcome State Fault Refusal := .next (s.reply fun _ => Config.pmbusConstant 0x98)

/-- STATUS_WORD: faults held, OFF, POWER_GOOD# and the MFR bit, which reports ERR_GLOBAL.FATAL (PRESUMED, log entry 21). -/
def State.statusWord (s : State) : Nat :=
  (s.power.statusBits ||| BitVec.ofNat 16 (bit (!s.power.on) * 0x40 + bit (s.power.railGood != 0x7FF) * 0x800 +
    bit s.fatal * 0x1000)).toNat

/-- STATUS_WORD. -/
def execStatusWord (s : State) : Host.Outcome State Fault Refusal := .next (s.reply fun s => bytesOf 2 s.statusWord)

/-- READ_VIN: PWR_IN.V. -/
def execReadVin (s : State) : Host.Outcome State Fault Refusal :=
  .next (s.reply fun s => linear11 (bitsOf (s.pwrRead Dcb.pwrIn) 0 16 : Nat) 1000)

/-- READ_IIN: PWR_IN.I. -/
def execReadIin (s : State) : Host.Outcome State Fault Refusal :=
  .next (s.reply fun s => linear11 (bitsOf (s.pwrRead Dcb.pwrIn) 16 20 : Nat) 100)

/-- READ_PIN: PWR_IN.P. -/
def execReadPin (s : State) : Host.Outcome State Fault Refusal :=
  .next (s.reply fun s => linear11 (bitsOf (s.pwrRead Dcb.pwrIn) 36 20 : Nat) 100)

/-- The temperature that THERM[i] holds, in quarters of a degree. -/
def State.thermOf (s : State) (i : Nat) : Int := signed 12 (s.dcbReg (Dcb.therm i)).toNat

/-- The hottest valid sensor of a die: sensors 0 to 68 (Table 17-7); 0 where none is valid. -/
def State.hottest (s : State) : Int :=
  let ts := ((List.range 69).filter fun i => s.dcbF (Dcb.therm i) 12 1 == 1).map s.thermOf
  ts.foldl max (ts.head?.getD 0)

/-- READ_TEMPERATURE_1: the hottest die sensor. -/
def execReadTemperature1 (s : State) : Host.Outcome State Fault Refusal := .next (s.reply fun s => linear11 s.hottest 4)

/-- READ_TEMPERATURE_2: the cold plate's inlet. -/
def execReadTemperature2 (s : State) : Host.Outcome State Fault Refusal := .next (s.reply fun s => linear11 (s.thermOf 87) 4)

/-- READ_TEMPERATURE_3: the cold plate's outlet. -/
def execReadTemperature3 (s : State) : Host.Outcome State Fault Refusal := .next (s.reply fun s => linear11 (s.thermOf 88) 4)

/-- MFR_ID: the vendor (PRESUMED, log entry 21). -/
def execMfrId (s : State) : Host.Outcome State Fault Refusal := .next (s.reply fun _ => Config.pmbusConstant 0x99)

/-- Decimal digits of a number below 10,000, without leading zeros, in ASCII. -/
def decimal (n : Nat) : List Byte :=
  (([n / 1000, n / 100, n / 10, n] : List Nat).filter fun x => x != 0).map fun x => BitVec.ofNat 8 (0x30 + x % 10)

/-- The grade name, UZ1- and the number of enabled cores (Table 0-1). -/
def State.gradeName (s : State) : List Byte :=
  [0x55, 0x5A, 0x31, 0x2D] ++ decimal (16 * (64 - popcount 64 (s.dcbReg Dcb.gradeMap).toNat))

/-- MFR_MODEL: the grade name. -/
def execMfrModel (s : State) : Host.Outcome State Fault Refusal := .next (s.reply State.gradeName)

/-- MFR_SERIAL: SEC_SERIAL. -/
def execMfrSerial (s : State) : Host.Outcome State Fault Refusal :=
  .next (s.reply fun s => bytesOf 8 (s.dcbReg Dcb.secSerial).toNat)

/-- MFR_GRADE_MAP: GRADE_MAP. -/
def execMfrGradeMap (s : State) : Host.Outcome State Fault Refusal :=
  .next (s.reply fun s => bytesOf 8 (s.dcbReg Dcb.gradeMap).toNat)

/-- MFR_DCLASS: DCLASS[15:0]. -/
def execMfrDclass (s : State) : Host.Outcome State Fault Refusal :=
  .next (s.reply fun s => bytesOf 2 (s.dcbReg Dcb.dclass).toNat)

/-- MFR_RST_CAUSE: RST_CAUSE. -/
def execMfrRstCause (s : State) : Host.Outcome State Fault Refusal :=
  .next (s.reply fun s => bytesOf 1 (s.dcbReg Dcb.rstCause).toNat)

/-- MFR_COLD_RESET: 0xA5 asserts cold reset; another value is ignored. -/
def execMfrColdReset (value : Byte) (s : State) : Host.Outcome State Fault Refusal :=
  .next (s.pmbus fun s => if value = 0xA5 then s.coldReset 3 true else s)

/-- MFR_WHISTLE: 0x5A sounds the Whistle with SOURCE 3 (R457); another value is ignored. -/
def execMfrWhistle (value : Byte) (s : State) : Host.Outcome State Fault Refusal :=
  .next (s.pmbus fun s => if value = 0x5A then s.outOfReset (·.soundWhistle 3) else s)

/-- MFR_STW_RESET: 0xC3 asks for a steward reset; another value is ignored. -/
def execMfrStwReset (value : Byte) (s : State) : Host.Outcome State Fault Refusal :=
  .next (s.pmbus fun s =>
    if value = 0xC3 then s.outOfReset fun s => { s with cp := { s.cp with stwReset := true } } else s)

/-- The bytes of ERR_LASTFATAL; zero where no fatal record has been entered. -/
def State.lastFatalBytes (s : State) : List Byte :=
  match s.err.last with
  | some r => r.bytes
  | none => List.replicate 32 0

/-- MFR_LAST_FATAL: ERR_LASTFATAL. -/
def execMfrLastFatal (s : State) : Host.Outcome State Fault Refusal := .next (s.reply State.lastFatalBytes)

/-- MFR_PART_POWER: die, HBM, optics, steward. -/
def execMfrPartPower (s : State) : Host.Outcome State Fault Refusal :=
  .next (s.reply fun s => (List.range 4).flatMap fun k => linear11 (bitsOf (s.pwrRead (Dcb.pwrPart k)) 36 20 : Nat) 100)

/-- Any other command code is answered with an invalid-command fault, which STATUS_WORD's CML bit holds (PRESUMED, log entry 21). -/
def execPmbusInvalidCommand (_code : Byte) (s : State) : Host.Outcome State Fault Refusal :=
  .next (s.pmbus fun s => s.setPower fun p => { p with invalid := true, reply := [], statusBits := p.statusBits ||| 0x2 })

end Sys2Proof.Machine
end

