-- ==== Sys2Proof/Machine/Intc.lean ====
section
/-! DEFINITION. The interrupt controller of the steward die (R398 to R413): sources, events of the Uzonar die, binding, claim
and completion, and the stop of the fabric clock. Each command is a fabric cycle of its own (DESIGN CHOICE, log entry 44). -/

namespace Sys2Proof.Machine

/-! ## Sources and contexts -/

def State.icSrc (s : State) (n : Nat) : IcSource := tabGet IcSource.reset s.ic.sources n

def State.setIcSrc (s : State) (n : Nat) (x : IcSource) : State :=
  { s with ic := { s.ic with sources := tabSet IcSource.reset s.ic.sources n x } }

def State.icCtx (s : State) (x : Nat) : IcContext := tabGet IcContext.reset s.ic.contexts x

def State.setIcCtx (s : State) (x : Nat) (c : IcContext) : State :=
  { s with ic := { s.ic with contexts := tabSet IcContext.reset s.ic.contexts x c } }

/-- The source is 0 or one of the reserved numbers (Table 14-1). -/
def icReserved (n : Nat) : Bool :=
  n == 0 || (decide (176 ≤ n) && decide (n ≤ 255)) || (decide (267 ≤ n) && decide (n ≤ 383)) || decide (512 ≤ n)

/-- Level sources (Table 14-1). -/
def icLevel (n : Nat) : Bool := decide (256 ≤ n) && decide (n ≤ 263)

/-- CUR of a context (R405). -/
def State.icCur (s : State) (x : Nat) : Nat :=
  (s.icCtx x).claimed.foldl (fun p n => max p (s.icSrc n).prio.toNat) (s.icCtx x).thr.toNat

/-- Context `x` is eligible for source `n` (R406). -/
def State.icEligible (s : State) (n x : Nat) : Bool :=
  let q := s.icSrc n
  q.elig.toNat.testBit (x / 2) && decide (x % 2 = bit q.mode) && (s.icCtx x).en && decide (s.icCur x < q.prio.toNat)

/-- A source loses its binding. What CTX reads of a source that is neither bound nor active is free (DESIGN CHOICE, log entry 45). -/
def State.icUnbind (s : State) (n : Nat) : State :=
  (s.setIcSrc n { s.icSrc n with bound := false, ctx := BitVec.ofNat 5 s.freeVal.toNat }).stepFree

/-- The eligible context with the lowest CUR, first in the order of cores after IC_LAST.CORE (R406). -/
def State.icBest (s : State) (n : Nat) : Option Nat :=
  let xs := (List.range 16).map fun i => 2 * ((s.ic.last.toNat + 1 + i) % 16) + bit (s.icSrc n).mode
  (xs.filter (s.icEligible n)).foldl (fun b x =>
    match b with
    | none => some x
    | some y => if s.icCur x < s.icCur y then some x else some y) none

/-- A pending source without a binding is bound, if a context is eligible (R406). -/
def State.icBind (s : State) (n : Nat) : State :=
  let q := s.icSrc n
  if q.pend && !q.active && !q.bound then
    match s.icBest n with
    | none => s
    | some x =>
      let s := s.setIcSrc n { q with bound := true, ctx := BitVec.ofNat 5 x }
      { s with ic := { s.ic with last := BitVec.ofNat 4 (x / 2) } }
  else s

/-- Bindings that no longer hold are removed (R407), and pending sources are bound in ascending number (R406; log entry
44). Nothing is bound while the fabric clock is stopped. -/
def State.icSettle (s : State) : State :=
  if s.ic.clock then
    let ns := s.ic.sources.map (·.1)
    let s := ns.foldl (fun s n =>
      if (s.icSrc n).bound && (!(s.icSrc n).pend || !s.icEligible n (s.icSrc n).ctx.toNat) then s.icUnbind n else s) s
    ns.foldl State.icBind s
  else s

/-! ## Events -/

/-- `k` events of source `n` reach the synchronous side: PEND is set and EVENTS counts them (R399, R400). -/
def State.icEvents (s : State) (n k : Nat) : State :=
  (s.setIcSrc n { s.icSrc n with pend := true, events := (s.icSrc n).events + BitVec.ofNat 16 k }).icSettle

/-- An edge of a steward source: an event, or captured in the source's latch while the fabric clock is stopped (R402). -/
def State.icEdge (s : State) (n : Nat) : State :=
  if s.ic.clock then s.icEvents n 1 else s.setIcSrc n { s.icSrc n with latch := true }

/-- A level source is asserted or not: PEND follows while the source is not in service (R399, R407). -/
def State.icAssert (s : State) (n : Nat) (a : Bool) : State :=
  (s.setIcSrc n { s.icSrc n with asserted := a, pend := a && !(s.icSrc n).active }).icSettle

/-- DIE_EVENT_SEND: the latch of a source of the die sends its message and clears (R400, R401). -/
def execDieEventSend (source : BitVec 9) (s : State) : Host.Outcome State Fault Refusal :=
  whenFormed (.dieEventSend source) <|
  let n := tabGet 0 s.ic.latches source.toNat
  if s.ic.ucieUp ∧ n ≠ 0 ∧ !s.power.coldReset then
    .next { s with ic := { s.ic with
      latches := tabSet 0 s.ic.latches source.toNat 0
      messages := s.ic.messages ++ [BitVec.ofNat 32 (source.toNat + n * 2 ^ 16)] } }
  else .next s

/-- The controller takes a message; a bad one is dropped and counted (R400). -/
def State.icMessage (s : State) (w : Word) : State :=
  let n := bitsOf w.toNat 0 9
  let k := bitsOf w.toNat 16 8
  if icReserved n || decide (256 ≤ n) || k == 0 then
    { s with ic := { s.ic with badmsg := BitVec.ofNat 32 (satAdd 32 s.ic.badmsg.toNat 1), flags := s.ic.flags ||| 1 } }
  else s.icEvents n k

/-- DIE_INTERRUPT_MESSAGE: the oldest message is taken. While the fabric clock is stopped it waits for the restart that its
arrival causes (R403). -/
def execDieInterruptMessage (s : State) : Host.Outcome State Fault Refusal :=
  match s.ic.messages with
  | [] => .next s
  | w :: r => if s.ic.clock then .next (State.icMessage { s with ic := { s.ic with messages := r } } w) else .next s

/-- STEWARD_EDGE (R402). -/
def execStewardEdge (source : BitVec 9) (s : State) : Host.Outcome State Fault Refusal :=
  whenFormed (.stewardEdge source) <|
  .next (s.outOfReset (·.icEdge source.toNat))

/-- LEVEL_SOURCE_CHANGE (R399). -/
def execLevelSourceChange (source : BitVec 9) (asserted : Bool) (s : State) : Host.Outcome State Fault Refusal :=
  whenFormed (.levelSourceChange source asserted) <|
  .next (s.outOfReset (·.icAssert source.toNat asserted))

/-! ## Claim and completion -/

/-- The bound source of highest PRIO of a context, the lowest number of several; 0 if none (R408). -/
def State.icTop (s : State) (x : Nat) : Nat :=
  (s.ic.sources.map (·.1)).foldl (fun b n =>
    let q := s.icSrc n
    if q.bound ∧ q.ctx.toNat = x ∧ (b = 0 ∨ (s.icSrc b).prio.toNat < q.prio.toNat) then n else b) 0

/-- A read of IC_CLAIM (R408): the source that it returns is in `claimed`. -/
def State.icClaimRead (s : State) (x : Nat) : State :=
  let n := s.icTop x
  let s : State := { s with ic := { s.ic with claimed := BitVec.ofNat 32 n } }
  if n = 0 then s
  else
    let s := s.setIcSrc n { s.icSrc n with bound := false, pend := false, active := true, ctx := BitVec.ofNat 5 x }
    (s.setIcCtx x { s.icCtx x with claimed := (s.icCtx x).claimed ++ [n] }).icSettle

/-- A write of IC_COMPLETE (R409). -/
def State.icCompleteWrite (s : State) (x n : Nat) : State :=
  if (s.icSrc n).active ∧ (s.icCtx x).claimed.contains n then
    let q := s.icSrc n
    let s := s.setIcCtx x { s.icCtx x with claimed := (s.icCtx x).claimed.erase n }
    let s := s.setIcSrc n { q with active := false, pend := q.pend || (icLevel n && q.asserted) }
    (s.icUnbind n).icSettle
  else { s with ic := { s.ic with flags := s.ic.flags ||| 2 } }

/-- A write of IC_SWSET (R410). -/
def State.icSwsetWrite (s : State) (n : Nat) : State :=
  if 384 ≤ n ∧ n ≤ 511 then s.icEdge n else { s with ic := { s.ic with flags := s.ic.flags ||| 4 } }

/-- A write of IC_SRC (R405, R407; Table 14-6): source 0 and reserved sources ignore PRIO. -/
def State.icSrcSet (s : State) (n v : Nat) : State :=
  (s.setIcSrc n { s.icSrc n with
    prio := if icReserved n then 0 else BitVec.ofNat 4 v
    mode := v.testBit 4
    elig := BitVec.ofNat 16 (v / 2 ^ 16) }).icSettle

/-- A write of IC_THRESH (R407). -/
def State.icThreshSet (s : State) (x v : Nat) : State :=
  (s.setIcCtx x { s.icCtx x with thr := BitVec.ofNat 4 v, en := v.testBit 8 }).icSettle

/-- IC_CLAIM. -/
def execIcClaim (ctx : BitVec 5) (s : State) : Host.Outcome State Fault Refusal := .next (s.outOfReset (·.icClaimRead ctx.toNat))

/-- IC_COMPLETE. -/
def execIcComplete (ctx : BitVec 5) (source : BitVec 9) (s : State) : Host.Outcome State Fault Refusal :=
  .next (s.outOfReset (·.icCompleteWrite ctx.toNat source.toNat))

/-- IC_SWSET. -/
def execIcSwset (source : BitVec 9) (s : State) : Host.Outcome State Fault Refusal :=
  .next (s.outOfReset (·.icSwsetWrite source.toNat))

/-- IC_SRC_WRITE. -/
def execIcSrcWrite (source : BitVec 9) (value : Word) (s : State) : Host.Outcome State Fault Refusal :=
  .next (s.outOfReset (·.icSrcSet source.toNat value.toNat))

/-- IC_THRESH_WRITE. -/
def execIcThreshWrite (ctx : BitVec 5) (value : Word) (s : State) : Host.Outcome State Fault Refusal :=
  .next (s.outOfReset (·.icThreshSet ctx.toNat value.toNat))

/-! ## The fabric clock and the UCIe link -/

/-- FABRIC_CLOCK_STOP: the clock stops when STOPEN is 1, nothing is outstanding, no source with a priority is pending and no
line is asserted. That every application core executes WFI is what this command says (R403; DESIGN CHOICE, log entry 9). -/
def execFabricClockStop (s : State) : Host.Outcome State Fault Refusal :=
  let quiet := s.ic.sources.all fun e => !(e.2.pend && e.2.prio != 0) && !e.2.bound
  if s.ic.stopen ∧ s.ic.clock ∧ !s.power.coldReset ∧ quiet ∧ s.ic.messages.isEmpty ∧ s.flash.op.isNone ∧ s.stewardQ = [] then
    .next { s with ic := { s.ic with clock := false, stops := s.ic.stops + 1 } }
  else .next s

/-- Each set latch becomes an event of its source in the first fabric cycle after a restart (R402). -/
def State.icTakeLatches (s : State) : State :=
  (s.ic.sources.filter fun e => e.2.latch).foldl (fun s e =>
    s.setIcSrc e.1 { s.icSrc e.1 with latch := false, pend := true, events := (s.icSrc e.1).events + 1 }) s

/-- FABRIC_CLOCK_RESTART (R402, R403). -/
def execFabricClockRestart (s : State) : Host.Outcome State Fault Refusal :=
  if s.ic.clock then .next s else .next (State.icTakeLatches { s with ic := { s.ic with clock := true } }).icSettle

/-- UCIE_LINK_DOWN: die events stay in their latches, the event is recorded (code 0x19), and source 266 is raised (R401, R471,
Table 14-1). -/
def execUcieLinkDown (s : State) : Host.Outcome State Fault Refusal :=
  if s.ic.ucieUp ∧ !s.power.coldReset then
    let t : State := { s with ic := { s.ic with ucieUp := false } }
    .next ((t.enterError UnitNo.ucie 0x19 { detail := 2 }).icEdge 266)
  else .next s

/-- UCIE_LINK_UP (R401). -/
def execUcieLinkUp (s : State) : Host.Outcome State Fault Refusal := .next { s with ic := { s.ic with ucieUp := true } }

/-! ## The registers as the steward reads and writes them (Tables 14-5, 14-6) -/

/-- Bits of 32 sources from number 32w. -/
def State.icMask (s : State) (w : Nat) (f : IcSource → Bool) : Nat :=
  (List.range 32).foldl (fun v j => v + bit (f (s.icSrc (32 * w + j))) * 2 ^ j) 0

/-- The value of the register at an offset; none where no register lies. Reading IC_CLAIM is `icClaimRead`. -/
def State.icRead (s : State) (o : Nat) : Option Nat :=
  if o < 0x800 then
    let q := s.icSrc (o / 4)
    some (q.prio.toNat + bit q.mode * 16 + bit (icLevel (o / 4)) * 32 + q.elig.toNat * 2 ^ 16)
  else if o < 0x1000 then
    let q := s.icSrc ((o - 0x800) / 4)
    some (bit q.pend + bit q.active * 2 + bit q.latch * 4 + bit q.bound * 8 + q.ctx.toNat * 16 + q.events.toNat * 2 ^ 16)
  else if o < 0x1040 then some (s.icMask ((o - 0x1000) / 4) (·.pend))
  else if o < 0x1080 then some (s.icMask ((o - 0x1040) / 4) (·.active))
  else if o = 0x1080 then some 0
  else if o = 0x1084 then some s.ic.badmsg.toNat
  else if o = 0x1088 then some s.ic.last.toNat
  else if o = 0x108C then some s.ic.flags.toNat
  else if o = 0x1090 then some (bit s.ic.stopen + s.ic.stops.toNat * 2 ^ 16)
  else if 0x10000 ≤ o ∧ o < 0x12000 then
    let x := (o - 0x10000) / 0x100
    let r := o % 0x100
    if r = 0 then some ((s.icCtx x).thr.toNat + bit (s.icCtx x).en * 256)
    else if r = 4 ∨ r = 8 then some 0
    else if r = 0xC then some (s.icCur x + (s.icCtx x).claimed.length * 2 ^ 16)
    else none
  else none

/-- The RW bits of a register, which a write of other bytes leaves. -/
def icRw (o : Nat) : Bool := decide (o < 0x800) || o == 0x1090 || (decide (0x10000 ≤ o) && decide (o < 0x12000) && o % 0x100 == 0)

/-- A write of 4 bytes to the register at an offset. -/
def State.icWrite (s : State) (o v : Nat) : State :=
  if o < 0x800 then s.icSrcSet (o / 4) v
  else if o = 0x1080 then s.icSwsetWrite (v % 512)
  else if o = 0x108C then { s with ic := { s.ic with flags := s.ic.flags &&& ~~~(BitVec.ofNat 3 v) } }
  else if o = 0x1090 then { s with ic := { s.ic with stopen := v.testBit 0 } }
  else if 0x10000 ≤ o ∧ o < 0x12000 then
    let x := (o - 0x10000) / 0x100
    if o % 0x100 = 0 then s.icThreshSet x v else if o % 0x100 = 8 then s.icCompleteWrite x (v % 512) else s
  else s

/-- A write of the bits `m` of the register at an offset. -/
def State.icPart (s : State) (o : Nat) (v m : Dword) : State :=
  let old : Dword := if icRw o then BitVec.ofNat 64 ((s.icRead o).getD 0) else 0
  s.icWrite o ((old &&& ~~~m) ||| (v &&& m)).toNat

end Sys2Proof.Machine
end

