-- ==== Sys2Proof/Machine/StewardIo.lean ====
section
/-! DEFINITION. The steward die's devices: the memory that they reach, the flash controller (R396, Table 13-16) and the Ethernet
MACs (R395, Table 13-15). -/

namespace Sys2Proof.Machine

/-! ## Memory as the MACs reach it (Table 13-2) -/

/-- Boot ROM or SRAM. -/
def inSram (a : Nat) : Bool := decide (a < 0x10000) || (decide (0x1000000 ≤ a) && decide (a < 0x1800000))

/-- `n` bytes at `a` of one granule, read by a MAC; an address without memory reads ones (R361). -/
def State.dmaPiece (s : State) (a n : Nat) : List Byte × State :=
  if inSram a then (bytesRead s.sram a n, s)
  else
    match deviceAddr a with
    | none => (ones n, s)
    | some d =>
      match regionOf d with
      | .hbm p => s.memRead true p d n XferErr.none
      | .slice p => s.memRead false p d n XferErr.none
      | _ => (ones n, s)

/-- The same for a write; boot ROM keeps its contents. -/
def State.dmaPutPiece (s : State) (a : Nat) (bs : List Byte) : State :=
  if inSram a then (if a < 0x10000 then s else { s with sram := bytesWrite s.sram a bs })
  else
    match deviceAddr a with
    | none => s
    | some d =>
      match regionOf d with
      | .hbm p => s.memPut true p d bs XferErr.none
      | .slice p => s.memPut false p d bs XferErr.none
      | _ => s

/-- The granules of a run of bytes: start and length of each piece. -/
def pieces (a n : Nat) : List (Nat × Nat) :=
  (List.range ((a % 64 + n + 63) / 64)).map fun i =>
    let lo := max a (granuleOf a + 64 * i)
    (lo, min (a + n) (granuleOf a + 64 * (i + 1)) - lo)

def State.dmaRead (s : State) (a n : Nat) : List Byte × State :=
  (pieces a n).foldl (fun (x : List Byte × State) p =>
    let r := x.2.dmaPiece p.1 p.2
    (x.1 ++ r.1, r.2)) ([], s)

def State.dmaWrite (s : State) (a : Nat) (bs : List Byte) : State :=
  (pieces a bs.length).foldl (fun s p => s.dmaPutPiece p.1 ((bs.drop (p.1 - a)).take p.2)) s

/-! ## The flash controller -/

def Flash.reg (f : Flash) (o : Nat) : Dword := tabGet 0 f.regs o

def Flash.setReg (f : Flash) (o : Nat) (v : Dword) : Flash := { f with regs := tabSet 0 f.regs o v }

/-- FL_STAT as it reads. -/
def Flash.stat (f : Flash) : Nat := bit f.op.isSome + bitsOf (f.reg 8).toNat 1 1 * 2

/-- LEN of an FL_CMD; a value above 256 is undefined and treated as 0 (R27). -/
def flashLen (v : Nat) : Nat := if bitsOf v 10 9 ≤ 256 then bitsOf v 10 9 else 0

/-- A write of FL_CMD: with GO set it starts an operation on FL_ADDR and FL_BUF as they stand, unless one runs (R396). -/
def State.flCommand (s : State) (v : Word) : State :=
  if v.toNat.testBit 31 ∧ s.flash.op.isNone then
    { s with flash := { s.flash with op := some ⟨v, (s.flash.reg 4).toNat, s.flash.buf⟩ } }
  else s

/-- FL_CMD. -/
def execFlCmd (value : Word) (s : State) : Host.Outcome State Fault Refusal := .next (s.outOfReset (·.flCommand value))

/-- The array after an operation of the device: programming, which takes data from FL_BUF, clears bits, erasing sets them; an address
at or above 256 MiB wraps, and where the device reports an error, the bytes that it was to change take free values (DESIGN CHOICE, log
entry 22). -/
def Flash.apply (f : Flash) (err : Bool) (op : FlashOp) (free : Nat) : Flash × Nat :=
  let v := op.cmd.toNat
  let code := BitVec.ofNat 8 v
  let a := op.addr % 2 ^ 28
  let n := flashLen v
  if !v.testBit 9 then (f, 0)
  else
    let run (a : Nat) (old : List Byte) (new : List Byte) : Flash × Nat :=
      if err then
        ({ f with array := bytesWrite f.array a (old.mapIdx fun i _ => BitVec.ofNat 8 (Config.freeValue (free + i)).toNat) }, old.length)
      else ({ f with array := bytesWrite f.array a new }, 0)
    match Config.flashKind code with
    | 1 =>
      if v.testBit 8 then
        let old := bytesRead f.array a n
        run a old (old.zipWith (· &&& ·) (bytesRead op.buf 0 n))
      else (f, 0)
    | 2 =>
      let z := max (Config.flashErase code) 1
      let b := a / z * z
      run b (bytesRead f.array b z) (ones z)
    | _ => (f, 0)

/-- The window of the module flash; a read while an operation runs stalls (R396). -/
def inFlash (a : Nat) : Bool := decide (0x8000000 ≤ a) && decide (a < 0x18000000)

/-- The reads of the flash window that have stalled are made. -/
def State.flashReads (s : State) : State :=
  (s.stewardQ.filter fun r => inFlash r.addr).foldl
    (fun s r => { s with readData := BitVec.ofNat 512 (natOf (bytesRead s.flash.array (r.addr - 0x8000000) r.size)) })
    { s with stewardQ := s.stewardQ.filter fun r => !inFlash r.addr }

/-- FLASH_OP_DONE: the data of a read lies in FL_BUF, BUSY falls, an error sets ERR, stalled reads of the flash are made, and source
264 is raised (R396, Table 14-1). -/
def execFlashOpDone (err : Bool) (data : List Byte) (s : State) : Host.Outcome State Fault Refusal :=
  whenFormed (.flashOpDone err data) <|
  match s.flash.op with
  | none => .next s
  | some op =>
    let v := op.cmd.toNat
    let f : Flash := { s.flash with op := none }
    let f := if err then f.setReg 8 (f.reg 8 ||| 2) else f
    let f : Flash := if v.testBit 8 then f
      else { f with buf := bytesWrite f.buf 0 ((List.range (flashLen v)).map fun i => data.getD i 0) }
    let r := f.apply err op s.free
    .next ((State.flashReads { s with flash := r.1, free := s.free + r.2 }).icEdge 264)

/-- The four bytes at an offset of the controller; none where nothing lies. -/
def Flash.word (f : Flash) (o : Nat) : Option (List Byte) :=
  if o = 0 then some (zeros 4)
  else if o = 4 then some (bytesOf 4 (f.reg 4).toNat)
  else if o = 8 then some (bytesOf 4 f.stat)
  else if 0x100 ≤ o ∧ o < 0x200 then some (bytesRead f.buf (o - 0x100) 4)
  else none

/-- A write of the bits `m` of the word at an offset of the controller. -/
def State.flashWrite (s : State) (o : Nat) (v m : Dword) : State :=
  let merge (old : Nat) : Dword := (BitVec.ofNat 64 old &&& ~~~m) ||| (v &&& m)
  if o = 0 then s.flCommand (BitVec.ofNat 32 (v &&& m).toNat)
  else if o = 4 then { s with flash := s.flash.setReg 4 (merge (s.flash.reg 4).toNat) }
  else if o = 8 then (if (v &&& m).toNat.testBit 1 then { s with flash := s.flash.setReg 8 0 } else s)
  else if 0x100 ≤ o ∧ o < 0x200 then
    { s with flash := { s.flash with
      buf := bytesWrite s.flash.buf (o - 0x100) (bytesOf 4 (merge (natOf (bytesRead s.flash.buf (o - 0x100) 4))).toNat) } }
  else s

/-! ## The Ethernet MACs -/

def State.mac (s : State) (p : Nat) : Mac := tabGet Mac.reset s.macs p

def State.setMac (s : State) (p : Nat) (x : Mac) : State := { s with macs := tabSet Mac.reset s.macs p x }

def Mac.reg (x : Mac) (o : Nat) : Dword := tabGet (macDefault o) x.regs o

def Mac.f (x : Mac) (o lo n : Nat) : Nat := bitsOf (x.reg o).toNat lo n

def Mac.set (x : Mac) (o : Nat) (v : Dword) : Mac := { x with regs := tabSet (macDefault o) x.regs o v }

def State.macSet (s : State) (p o : Nat) (v : Dword) : State := s.setMac p ((s.mac p).set o v)

/-- A saturating counter of the MAC. -/
def State.macCount (s : State) (p o n : Nat) : State :=
  s.macSet p o (BitVec.ofNat 64 (satAdd 64 ((s.mac p).reg o).toNat n))

/-- ETH_FLAGS takes a value; the level sources follow its flags (Table 14-1). -/
def State.macFlags (s : State) (p : Nat) (v : Dword) : State :=
  (List.range 4).foldl (fun s f =>
    let a := v.toNat.testBit f
    if (s.icSrc (256 + 4 * p + f)).asserted = a then s else s.icAssert (256 + 4 * p + f) a) (s.macSet p 8 v)

def State.macFlag (s : State) (p f : Nat) : State := s.macFlags p ((s.mac p).reg 8 ||| BitVec.ofNat 64 (2 ^ f))

/-- A ring: the offset of its base register, of HEAD and of TAIL. -/
def txRing : Nat × Nat × Nat := (0x18, 0x28, 0x2C)
def rxRing : Nat × Nat × Nat := (0x20, 0x30, 0x34)

def Mac.ringSize (x : Mac) (r : Nat × Nat × Nat) : Nat := 2 ^ x.f r.1 48 4

/-- HEAD as an index of the ring. -/
def Mac.head (x : Mac) (r : Nat × Nat × Nat) : Nat := x.f r.2.1 0 16 % x.ringSize r

/-- A descriptor is offered: HEAD is not yet TAIL. -/
def Mac.offered (x : Mac) (r : Nat × Nat × Nat) : Bool := x.head r != x.f r.2.2 0 16 % x.ringSize r

def Mac.descriptor (x : Mac) (r : Nat × Nat × Nat) : Nat := x.f r.1 0 48 + 16 * x.head r

/-- HEAD advances. -/
def State.macAdvance (s : State) (p : Nat) (r : Nat × Nat × Nat) : State :=
  let x := s.mac p
  s.macSet p r.2.1 (BitVec.ofNat 64 ((x.head r + 1) % x.ringSize r))

/-- A frame is dropped: counted, and RXOVF is set (R395). -/
def State.macDrop (s : State) (p : Nat) : State := (s.macCount p 0x58 1).macFlag p 2

/-- The port accepts a frame's destination: every one under PROMISC, else the station address and the broadcast address. -/
def Mac.accepts (x : Mac) (frame : List Byte) : Bool :=
  let dst := natOf (frame.take 6)
  x.f 0 1 1 == 1 || dst == x.f 0x10 0 48 || dst == 2 ^ 48 - 1

/-- A frame arrives at an enabled port: it goes into the offered buffer, or is dropped (R395). -/
def State.macReceive (s : State) (p : Nat) (frame : List Byte) (fcsOk : Bool) : State :=
  let x := s.mac p
  if x.f 0 0 1 = 0 ∨ !x.accepts frame then s
  else
    let s := if fcsOk then s else s.macCount p 0x50 1
    if !x.offered rxRing ∨ x.f 0xC 0 14 < frame.length then s.macDrop p
    else
      let d := x.descriptor rxRing
      let r := s.dmaRead d 16
      let w := natOf (r.1.take 8)
      let own := (natOf (r.1.drop 8)).testBit 0
      if !own ∨ bitsOf w 48 14 < frame.length then r.2.macDrop p
      else
        let s := (r.2.dmaWrite (bitsOf w 0 48) frame).dmaWrite d
          (bytesOf 8 (bitsOf w 0 48 + frame.length * 2 ^ 48) ++ bytesOf 8 (4 * bit !fcsOk))
        ((s.macCount p 0x48 1).macAdvance p rxRing).macFlag p 1

/-- ETH_TRANSMIT: the frame of the descriptor at HEAD is sent, or looped back (R395). -/
def execEthTransmit (port : BitVec 1) (s : State) : Host.Outcome State Fault Refusal :=
  .next (s.outOfReset fun s =>
    let p := port.toNat
    let x := s.mac p
    if x.f 0 0 1 = 0 ∨ (x.f 4 0 1 = 0 ∧ x.f 0 2 1 = 0) ∨ !x.offered txRing then s
    else
      let d := x.descriptor txRing
      let r := s.dmaRead d 16
      let w := natOf (r.1.take 8)
      let ctl := natOf (r.1.drop 8)
      if !ctl.testBit 0 then s
      else
        let b := r.2.dmaRead (bitsOf w 0 48) (bitsOf w 48 14)
        let s := b.2.dmaWrite (d + 8) (bytesOf 8 (putBits ctl 0 1 0))
        let s := ((s.macCount p 0x40 1).macAdvance p txRing).macFlag p 0
        if x.f 0 2 1 = 1 then s.macReceive p b.1 true
        else s.setMac p { s.mac p with sent := (s.mac p).sent ++ [b.1] })

/-- ETH_RECEIVE: a frame arrives over the fibre; codewords that the FEC could not correct are counted (Table 13-15). -/
def execEthReceive (port : BitVec 1) (frame : List Byte) (fcsOk : Bool) (codewords : BitVec 16) (s : State) :
    Host.Outcome State Fault Refusal :=
  .next (s.outOfReset fun s =>
    let p := port.toNat
    let x := s.mac p
    let s := s.macCount p 0x60 codewords.toNat
    if x.f 4 0 1 = 0 ∨ x.f 0 2 1 = 1 then s else s.macReceive p frame fcsOk)

/-- ETH_LINK_CHANGE: ETH_STAT takes the state of the link, and a change of LINK sets LINKCHG (Table 13-15). -/
def execEthLinkChange (port : BitVec 1) (link pcsLock : Bool) (s : State) : Host.Outcome State Fault Refusal :=
  .next (s.outOfReset fun s =>
    let p := port.toNat
    let was := (s.mac p).f 4 0 1
    let s := s.macSet p 4 (BitVec.ofNat 64 (bit link + 2 * bit pcsLock))
    if was = bit link then s else s.macFlag p 3)

/-- A write of the bits `m` of a MAC register (Table 13-15, R27): a fabric cycle of its own (DESIGN CHOICE, log entry 44). -/
def State.macRegWrite (s : State) (p o : Nat) (v m : Dword) : State :=
  let x := (macAccess o).write ((s.mac p).reg o) v m 0
  if o = 8 then s.macFlags p x
  else s.macSet p o (if (macAccess o).rw = 0 then x else BitVec.ofNat 64 (macFix o x.toNat))

/-- The four bytes at an offset of a MAC. -/
def Mac.word (x : Mac) (o : Nat) : Option (List Byte) :=
  (macRegAt o).map fun r => bytesOf 4 ((x.reg r.1).toNat >>> (8 * (o - r.1)))

end Sys2Proof.Machine
end

