-- ==== Sys2Proof/Machine/Access.lean ====
section
/-! DEFINITION. The steward's accesses (R24, R361 to R364): the steward physical address map (Table 13-2), the device control
block (Table 13-3) and its registers as they read and write, STEWARD_ACCESS and REGISTER_WRITE. -/

namespace Sys2Proof.Machine

/-! ## Registers of the device control block as they read -/

/-- ENT_EST of the selected oscillator (Table 9-7). -/
def State.entEst (s : State) : Nat :=
  let o := tabGet Osc.reset s.ent.oscs (s.dcbF Dcb.entEstSel 0 6)
  let valid := bit ((s.dcbReg Dcb.entEstWin) != 0)
  o.ones + o.same * 2 ^ 21 + o.pair * 2 ^ 42 + valid * 2 ^ 63

/-- A register with RWS fields reads the value most recently written; LIVE says whether it is in force (R25). -/
def State.rwsRead (s : State) (o : Nat) : Nat :=
  match tabFind s.dcbRws o with
  | some v => v.toNat
  | none => (s.dcbReg o).toNat + 2 ^ 31

/-- A register of power readings (Table 17-15). -/
def isPwrReg (o : Nat) : Bool := decide (Dcb.pwrIn ≤ o) && decide (o ≤ Dcb.pwrRail 10)

/-- The value that a register of the device control block reads. -/
def State.dcbRead (s : State) (o : Nat) : Nat :=
  if o = Dcb.bootCtrl then 0
  else if o = Dcb.beatCtr then s.beatCtr.toNat
  else if o = Dcb.cfgLs ∨ o = Dcb.traceCtrl then s.rwsRead o
  else if o = Dcb.entEst then s.entEst
  else if o = Dcb.linkSys then
    putBits (s.dcbReg o).toNat 7 5 (s.jobs.filter fun e => e.2.keySlot.isSome).length
  else if isPwrReg o then s.pwrRead o
  else if globalCounter o && s.anyConf then 0
  else (s.dcbReg o).toNat

/-- The configuration, calibration and firmware areas (Table 13-3). -/
def stagingArea (o : Nat) : Bool := (decide (0x400000 ≤ o) && decide (o < 0x420000)) || decide (0x800000 ≤ o)

/-- Four bytes of an error record or of ERR_QSTAT (Table 17-15); none at an offset of no unit. -/
def State.errWord (s : State) (o : Nat) : Option (List Byte) :=
  if o < Dcb.errQstat then
    let u := (o - Dcb.errRec) / 256
    if !unitExists u then none
    else
      match (s.errUnit u).recs[o % 256 / 32]? with
      | some r => some ((r.bytes.drop (o % 32)).take 4)
      | none => some (zeros 4)
  else
    let u := (o - Dcb.errQstat) / 4
    let x := s.errUnit u
    if o < 0x2D4000 ∧ unitExists u then some (bytesOf 4 (x.recs.length + x.ovfClass * 16 + x.ovf * 256)) else none

/-- The four bytes at an offset of the device control block; none where nothing lies (R364). -/
def State.dcbWord (s : State) (o : Nat) : Option (List Byte) :=
  if Dcb.mailbox 0 ≤ o ∧ o < 0x50000 then
    ((s.mb ((o - 0x10000) / 0x1000)).read (o % 0x1000)).map fun v => bytesOf 4 v
  else if Dcb.errRec ≤ o ∧ o < Dcb.errGlobal then s.errWord o
  else if Dcb.errLastFatal ≤ o ∧ o < Dcb.errLastFatal + 32 then some ((s.lastFatalBytes.drop (o - Dcb.errLastFatal)).take 4)
  else if stagingArea o then some (bytesRead s.mem (dcbBase + o) 4)
  else (dcbRegAt o).map fun r => bytesOf 4 (s.dcbRead r.1 >>> (8 * (o - r.1)))

/-! ## Writes -/

/-- A steward write of the bits `m` of a register (R24, R25, R27, R246, R271, R387, R391). -/
def State.dcbRegWrite (s : State) (o : Nat) (v m : Dword) : State :=
  let a := dcbAccess o
  if o = Dcb.bootCtrl then (if (v &&& m).toNat.testBit 0 then s.bootGo else s)
  else if o = Dcb.cfgLs then s.setDcbBits Dcb.cfgStat 0x200
  else if o = Dcb.entTest then s.entTestSet (v &&& m).toNat
  else if Dcb.entTrim 0 ≤ o ∧ o ≤ Dcb.entTrim 3 then s.entTrim false ((o - Dcb.entTrim 0) / 8) v
  else if a.rws ≠ 0 then
    let old := tabGet (s.dcbReg o) s.dcbRws o
    { s with dcbRws := tabPut s.dcbRws o ((old &&& ~~~(a.rws &&& m)) ||| (v &&& a.rws &&& m)) }
  else
    let x := a.write (s.dcbReg o) v m (tabGet 0 s.setNow o)
    let f := if a.rw = 0 then (x.toNat, 0) else dcbFix o x.toNat
    let s := s.setDcb o (BitVec.ofNat 64 f.1)
    let s := if o = Dcb.thermCtrl then s.thermEnd else s
    if f.2 = 0 then s else (s.countDcb Dcb.memUndef f.2).setDcbBits Dcb.memFlags 0x80

/-- A write to the staging areas or the load window (R392). -/
def State.stagingWrite (s : State) (o : Nat) (bs : List Byte) : State :=
  if s.bootState = 0 ∨ s.bootState = 2 then { s with mem := bytesWrite s.mem (dcbBase + o) bs }
  else s.setDcbBits Dcb.bootStat 0x10

/-- A steward write to the device control block. A register is written once, with the bytes that the access holds of it; mailboxes
take word after word. -/
def State.dcbWrite (s : State) (o : Nat) (bs : List Byte) : State :=
  let n := bs.length
  let holes := (List.range (n / 4)).any fun i => (s.dcbWord (o + 4 * i)).isNone
  let s := if holes then s.unmapped else s
  if Dcb.mailbox 0 ≤ o ∧ o < 0x50000 then
    (List.range (n / 4)).foldl (fun s i =>
      s.mbWrite ((o - 0x10000) / 0x1000) (o % 0x1000 + 4 * i) (natOf ((bs.drop (4 * i)).take 4))) s
  else if stagingArea o then s.stagingWrite o bs
  else
    (regsTouched dcbRegAt o n).foldl (fun s r =>
      let x := regValue r.1 r.2 o bs
      s.dcbRegWrite r.1 x.1 x.2) s

/-! ## The device window (Tables 11-1, 13-2) -/

/-- A read of `n` bytes at a device address that does not enter the crossbar (R323). -/
def State.deviceRead (s : State) (d n : Nat) : List Byte × State :=
  match regionOf d with
  | .dcb o => s.readWords s.dcbWord o n
  | .rot => (zeros n, s.unmapped)
  | _ => (ones n, s.unmapped)

/-- A write at such an address. -/
def State.deviceWrite (s : State) (d : Nat) (bs : List Byte) : State :=
  match regionOf d with
  | .dcb o => s.dcbWrite o bs
  | _ => s.unmapped

/-! ## The steward die (Table 13-2) -/

/-- A read of the word at an aligned address of the steward die; one of IC_CLAIM claims (R408), and where nothing lies it is all ones
(R361). -/
def State.localWord (s : State) (a : Nat) : List Byte × State :=
  if inSram a then (bytesRead s.sram a 4, s)
  else if 0x2000000 ≤ a ∧ a < 0x2100000 then
    let o := a - 0x2000000
    if 0x10000 ≤ o ∧ o < 0x12000 ∧ o % 0x100 = 4 then
      let t := s.icClaimRead ((o - 0x10000) / 0x100)
      (bytesOf 4 t.ic.claimed.toNat, t)
    else (((s.icRead o).map fun v => bytesOf 4 v).getD (ones 4), s)
  else if 0x2100000 ≤ a ∧ a < 0x2110000 then (((s.mac ((a - 0x2100000) / 0x8000)).word (a % 0x8000)).getD (ones 4), s)
  else if 0x2110000 ≤ a ∧ a < 0x2111000 then ((s.flash.word (a - 0x2110000)).getD (ones 4), s)
  else if inFlash a then (bytesRead s.flash.array (a - 0x8000000) 4, s)
  else (ones 4, s)

/-- A read of `n` bytes of the steward die. -/
def State.localRead (s : State) (a n : Nat) : List Byte × State :=
  let r := (wordsTouched a n).foldl (fun (x : List Byte × State) w => let y := x.2.localWord w; (x.1 ++ y.1, y.2)) ([], s)
  ((r.1.drop (a % 4)).take n, r.2)

/-- A write of the steward die; boot ROM and the flash window keep their contents, and where nothing lies it is dropped (R361). -/
def State.localWrite (s : State) (a : Nat) (bs : List Byte) : State :=
  if inSram a then
    (if a < 0x10000 then s else { s with sram := bytesWrite s.sram a (bs.take (0x1800000 - a)) })
  else if 0x2000000 ≤ a ∧ a < 0x2100000 then
    (wordsTouched (a - 0x2000000) bs.length).foldl (fun s o =>
      let x := regValue o 4 (a - 0x2000000) bs
      s.icPart o x.1 x.2) s
  else if 0x2100000 ≤ a ∧ a < 0x2110000 then
    (regsTouched macRegAt (a % 0x8000) bs.length).foldl (fun s r =>
      let x := regValue r.1 r.2 (a % 0x8000) bs
      s.macRegWrite ((a - 0x2100000) / 0x8000) r.1 x.1 x.2) s
  else if 0x2110000 ≤ a ∧ a < 0x2111000 then
    (wordsTouched (a - 0x2110000) bs.length).foldl (fun s o =>
      let x := regValue o 4 (a - 0x2110000) bs
      s.flashWrite o x.1 x.2) s
  else s

/-! ## Accesses -/

/-- The access has a size and an alignment that the UCIe link carries (R362). -/
def ucieOk (size a : Nat) : Bool := (size == 4 || size == 8 || size == 64) && a % size == 0

/-- The data of a steward read is there. -/
def State.answerRead (r : List Byte × State) : State := { r.2 with readData := BitVec.ofNat 512 (natOf r.1) }

/-- A steward access that takes effect at once: to the device control block, the root of trust and what the device map reserves. -/
def State.deviceAccess (s : State) (r : StewardReq) (d : Nat) : State :=
  if r.write then s.deviceWrite d ((granBytes r.data).take r.size) else State.answerRead (s.deviceRead d r.size)

/-- The same on the steward die; a read of the flash window waits while an operation runs (R396). -/
def State.localAccess (s : State) (r : StewardReq) : State :=
  if r.write then s.localWrite r.addr ((granBytes r.data).take r.size)
  else if inFlash r.addr ∧ s.flash.op.isSome then { s with stewardQ := s.stewardQ ++ [r] }
  else State.answerRead (s.localRead r.addr r.size)

/-- A steward access: to shared memory, HBM and core windows it waits for its reserved slot (R323). While cold reset is asserted no
steward core runs. -/
def State.access (s : State) (r : StewardReq) : Host.Outcome State Fault Refusal :=
  if s.power.coldReset then .next s
  else
    match deviceAddr r.addr with
    | none => .next (s.localAccess r)
    | some d =>
      if !ucieOk r.size r.addr then .fault .unsupportedAccess
      else if (stewardPort d).isSome then .next { s with stewardQ := s.stewardQ ++ [r] }
      else .next (s.deviceAccess r d)

/-- STEWARD_ACCESS. -/
def execStewardAccess (write : Bool) (size : Nat) (addr : BitVec 48) (data : Granule) (err : XferErr) (s : State) :
    Host.Outcome State Fault Refusal :=
  whenFormed (.stewardAccess write size addr data err) (s.access ⟨write, size, addr.toNat, data, err⟩)

/-- REGISTER_WRITE. -/
def execRegisterWrite (size : Nat) (addr : BitVec 48) (value : Dword) (s : State) : Host.Outcome State Fault Refusal :=
  whenFormed (.registerWrite size addr value) (s.access ⟨true, size, addr.toNat, value.setWidth 512, XferErr.none⟩)

end Sys2Proof.Machine
end

