-- ==== Sys2Proof/Machine/Sampler.lean ====
section
/-! DEFINITION. The categorical sampler: CAT_DRAW on short and long rows (R200 to R217). -/

namespace Sys2Proof.Machine

/-! ## Entries -/

/-- An entry after R201: whether it is excluded, whether it counts as replaced, its encoding and its value. -/
structure CatEntry where
  excl : Bool
  bad : Bool
  code : Nat
  /-- A negative zero, read as +0: a replacement that CAT_BADIN does not count (R201). -/
  negZero : Bool
  deriving DecidableEq, Repr

def catFmt (fmt : Nat) : FloatFmt := if fmt = 0 then fmtE4M3 else if fmt = 1 then fmtE5M2 else fmtBF16

def catEntry (fmt b : Nat) : CatEntry :=
  let f := catFmt fmt
  let s := if f.sign b then 2 ^ (f.eb + f.fb) else 0
  if fmt = 0 ∧ b % 128 = 127 then ⟨true, true, 0, false⟩
  else if fmt ≠ 0 ∧ f.isNan b then ⟨true, true, 0, false⟩
  else if fmt ≠ 0 ∧ f.isInf b then ⟨false, true, s + (2 ^ f.eb - 1) * 2 ^ f.fb - 1, false⟩
  else ⟨false, false, if b = s then 0 else b, s ≠ 0 ∧ b = s⟩

/-- rne(z x tau) before the clamp (R202). -/
def CatEntry.raw (e : CatEntry) (fmt tinv : Nat) : Int := (((catFmt fmt).val e.code).mul (Dyad.ofInt tinv)).rne

/-- W (R202). -/
def CatEntry.w (e : CatEntry) (fmt tinv : Nat) : Int := max (-(2 ^ 30)) (min (2 ^ 30) (e.raw fmt tinv))

/-- The entry's W was clamped. -/
def CatEntry.wsat (e : CatEntry) (fmt tinv : Nat) : Bool := !e.excl && (e.raw fmt tinv).natAbs > 2 ^ 30

/-- The order key (R205). -/
def CatEntry.order (e : CatEntry) (fmt : Nat) : Nat :=
  let n := (catFmt fmt).width
  if e.code.testBit (n - 1) then e.code ^^^ (2 ^ n - 1) else e.code ^^^ 2 ^ (n - 1)

/-! ## Masks and keys -/

/-- How many entries the top-k mask ranks before entry i (R205). -/
def catRank (fmt : Nat) (es : List CatEntry) (i : Nat) (e : CatEntry) : Nat :=
  (es.zipIdx.filter fun x => !x.1.excl &&
    (decide (x.1.order fmt > e.order fmt) || (x.1.order fmt == e.order fmt && decide (x.2 < i)))).length

/-- W_max over the entries that are not excluded; none where there is none (R206). -/
def catWmax (fmt tinv : Nat) (es : List CatEntry) : Option Int :=
  (es.filter fun e => !e.excl).foldl (fun m e => some (match m with | none => e.w fmt tinv | some x => max x (e.w fmt tinv))) none

/-- Entry i of the whole row `es` is kept by the command's masks (R205 to R207). -/
def Cat.keeps (x : Cat) (es : List CatEntry) (i : Nat) (e : CatEntry) : Bool :=
  !e.excl && (x.mask == 0 || x.mask == 2 || decide (catRank x.fmt es i e < x.topk)) &&
    (x.mask == 0 || x.mask == 1 ||
      match catWmax x.fmt x.tinv es with
      | some m => decide (m - x.thr ≤ e.w x.fmt x.tinv)
      | none => false)

/-- The draw of entry i of row r (R209). -/
def catU (key : Nat) (x : Cat) (r i : Nat) : Nat :=
  lane (nap6 key (napBlock 4 ((x.base + r * x.stride) % 2 ^ 56) (x.seq * 8192 + i / 8))) (i % 8)

/-- The key (R203). -/
def catKey (key : Nat) (x : Cat) (r i : Nat) (e : CatEntry) : Int :=
  if x.greedy then e.w x.fmt x.tinv else e.w x.fmt x.tinv + gumbelQ12 (catU key x r i)

/-- The best of two candidates: the larger key, the earlier on equal keys (R208). -/
def catBetter (a : Option (Int × Nat)) (b : Int × Nat) : Option (Int × Nat) :=
  match a with
  | none => some b
  | some x => if x.1 < b.1 then some b else some x

/-- Among the kept entries, the candidate with the largest key, from `best` on; `kept` lists index and entry. -/
def catBest (key : Nat) (x : Cat) (r : Nat) (best : Option (Int × Nat)) (kept : List (Nat × CatEntry)) :
    Option (Int × Nat) :=
  kept.foldl (fun b e => catBetter b (catKey key x r e.1 e.2, e.1)) best

/-- Nap-6 calls for the kept entries: one for each group of eight (R210). -/
def catCalls (x : Cat) (kept : List (Nat × CatEntry)) : Nat :=
  if x.greedy then 0 else ((kept.map fun e => e.1 / 8).dedup).length

/-- The result word (R217). -/
def catWord (best : Option (Int × Nat)) : Nat := match best with | some b => b.2 % 65536 | none => 2 ^ 31

/-! ## The operand -/

/-- The operand's bytes by address, where it lies in shared memory: its granules as the command's reads have brought them. -/
def CoreState.catOperand (k : CoreState) (x : Cat) : Bytes :=
  x.granules.zipIdx.foldl (fun m g => bytesWrite m g.1 (k.operands 3 g.2 1)) []

/-- The code of the entry at address `a` of a store of bytes. -/
def catCode (x : Cat) (m : Bytes) (a : Nat) : Nat := natAt m a x.size

/-- The codes of the command's entries, in order. -/
def CoreState.catRead (k : CoreState) (x : Cat) : List Nat :=
  if x.src = 1 then
    let m := k.catOperand x
    x.cells.map fun p => catCode x m (x.entryAddr p.1 p.2)
  else if x.src = 2 then x.cells.map fun p => natAt k.store (Win.rowBuffer + x.size * p.2) x.size
  else x.cells.map fun p => k.startNat (Win.scratch + x.entryAddr p.1 p.2 % 2 ^ 18) x.size

/-- Replacements and clamps are counted where an entry is read from the operand (DEDUCED, log entry 39). -/
def CoreState.catCounts (k : CoreState) (x : Cat) (es : List CatEntry) : CoreState :=
  let bad := (es.filter fun e => e.bad).length
  let sat := (es.filter fun e => e.wsat x.fmt x.tinv).length
  let k := if bad = 0 then k else k.count Reg.catBadin bad
  let k := if es.any fun e => e.bad || e.negZero then k.setBits Reg.catFlags 0x1 else k
  if sat = 0 then k else (k.count Reg.catWsat sat).setBits Reg.catFlags 0x2

/-- A result word is written (R207, R217). -/
def CoreState.catResult (k : CoreState) (at_ : Nat) (best : Option (Int × Nat)) : CoreState :=
  let k := (k.writeScratch at_ (bytesOf 4 (catWord best))).count Reg.catRows 1
  if best.isNone then k.setBits Reg.catFlags 0x4 else k

/-! ## Short rows -/

/-- One short row: its entries, its result and the calls that it makes. -/
def CoreState.catRow (k : CoreState) (x : Cat) (r : Nat) (es : List CatEntry) : CoreState :=
  let kept := (es.zipIdx.filter fun e => x.keeps es e.2 e.1).map fun e => (e.2, e.1)
  ((k.catCounts x es).count Reg.catDraws (catCalls x kept)).catResult (x.out + 4 * r) (catBest k.key x r none kept)

/-- A command of short rows (R214), of which the first `n` rows are done. -/
def CoreState.catShort (k : CoreState) (x : Cat) (n : Nat) : CoreState :=
  let es := (k.catRead x).map (catEntry x.fmt)
  (List.range n).foldl (fun k r => k.catRow x r ((es.drop (r * x.n)).take x.n)) k

/-! ## Long rows -/

/-- The command ends its pass. -/
def Cat.lastBlocks (x : Cat) : Bool := x.blk0 + x.nblk == (x.n + 63) / 64

/-- The first `n` entries in the row buffer. -/
def CoreState.rowEntries (k : CoreState) (x : Cat) (n : Nat) : List CatEntry :=
  (List.range n).map fun i => catEntry x.fmt (natAt k.store (Win.rowBuffer + x.size * i) x.size)

/-- CAT_LROW while a row is open (Table 7-9). -/
def CoreState.setLrow (k : CoreState) (x : Cat) (isOpen : Bool) : CoreState :=
  k.setReg Reg.catLrow (BitVec.ofNat 64
    (bit isOpen + x.pass * 2 + (x.blk0 + x.nblk) % 1024 * 2 ^ 4 + (x.n - 1) * 2 ^ 16))

/-- The first command of a row opens it: nothing is kept yet, and the fields that are not yet determined take free values
(DESIGN CHOICE, log entry 40). -/
def State.openRow (s : State) (c : Nat) : State :=
  let v := s.freeVal
  (s.modCore c fun k => (k.setReg Reg.catLbest (BitVec.ofNat 64 (v.toNat % 2 ^ 48))).setReg Reg.catLsel
    (Config.freeValue (s.free + 1))).stepFree.stepFree

/-- The histogram with the bins of these entries counted; `bin` gives an entry's bin. -/
def CoreState.histogram (k : CoreState) (clear : Bool) (bins : List Nat) : CoreState :=
  let k := if clear then { k with store := bytesClear k.store Win.histogram 1024 } else k
  bins.foldl (fun k d => { k with store := natWrite k.store (Win.histogram + 4 * d) 4 (natAt k.store (Win.histogram + 4 * d) 4 + 1) }) k

/-- The order key of the TOPK-th entry of a row and how many entries equal to it are kept. -/
def catBoundary (fmt topk : Nat) (es : List CatEntry) : Option (Nat × Nat) :=
  (es.zipIdx.find? fun e => !e.1.excl && catRank fmt es e.2 e.1 + 1 == topk).map fun e =>
    (e.1.order fmt, topk - (es.filter fun y => !y.excl && decide (y.order fmt > e.1.order fmt)).length)

/-- KTH and KEQ are decided (R215). -/
def CoreState.setBoundary (k : CoreState) (x : Cat) : CoreState :=
  match catBoundary x.fmt x.topk (k.rowEntries x x.n) with
  | some b => (k.setRegF Reg.catLsel 32 16 b.1).setRegF Reg.catLsel 48 16 b.2
  | none => k

/-- The load pass (R215): raw entries into the row buffer, W_max and the histogram of the upper eight bits. -/
def CoreState.catLoad (k : CoreState) (x : Cat) (codes : List Nat) : CoreState :=
  let es := codes.map (catEntry x.fmt)
  let k := { k with store := bytesWrite k.store (Win.rowBuffer + x.size * 64 * x.blk0) (codes.flatMap (bytesOf x.size)) }
  let k := (k.catCounts x es).histogram (x.blk0 == 0)
    ((es.filter fun e => !e.excl).map fun e => e.order x.fmt >>> (8 * x.size - 8))
  let k := match catWmax x.fmt x.tinv (k.rowEntries x (min x.n (64 * (x.blk0 + x.nblk)))) with
    | some m => k.setRegF Reg.catLsel 0 32 (unsigned 32 m)
    | none => k
  if x.lastBlocks ∧ x.fmt ≠ 3 ∧ (x.mask = 1 ∨ x.mask = 3) then k.setBoundary x else k

/-- The select pass: the histogram of the lower eight bits of the entries in the boundary's bin, then the boundary. -/
def CoreState.catSelect (k : CoreState) (x : Cat) (codes : List Nat) : CoreState :=
  let top := (catBoundary x.fmt x.topk (k.rowEntries x x.n)).map fun b => b.1 / 256
  let es := (codes.map (catEntry x.fmt)).filter fun e => !e.excl && top == some (e.order x.fmt / 256)
  let k := k.histogram (x.blk0 == 0) (es.map fun e => e.order x.fmt % 256)
  if x.lastBlocks then k.setBoundary x else k

/-- The running best of a long row. -/
def CoreState.lbest (k : CoreState) : Option (Int × Nat) :=
  if k.regF Reg.catLbest 48 1 = 1 then some (signed 32 (k.regF Reg.catLbest 0 32), k.regF Reg.catLbest 32 16) else none

def CoreState.setLbest (k : CoreState) (b : Option (Int × Nat)) : CoreState :=
  match b with
  | some b => k.setReg Reg.catLbest (BitVec.ofNat 64 (unsigned 32 b.1 + b.2 % 65536 * 2 ^ 32 + 2 ^ 48))
  | none => k

/-- The draw pass (R205 to R210, R215, R217). Masks rank the whole row, which the row buffer holds. -/
def CoreState.catDrawPass (k : CoreState) (x : Cat) (codes : List Nat) : CoreState :=
  let es := codes.map (catEntry x.fmt)
  let row := if x.mask = 0 then [] else k.rowEntries x x.n
  let kept := (es.zipIdx.filter fun e => x.keeps row (64 * x.blk0 + e.2) e.1).map fun e => (64 * x.blk0 + e.2, e.1)
  let k := if x.src = 2 then k else k.catCounts x es
  let k := k.count Reg.catDraws (catCalls x kept)
  let k := if x.mask = 1 ∨ x.mask = 3 then
      k.setRegF Reg.catLsel 48 16 (k.regF Reg.catLsel 48 16 -
        (es.zipIdx.filter fun e => !e.1.excl && e.1.order x.fmt == k.regF Reg.catLsel 32 16 &&
          decide (catRank x.fmt row (64 * x.blk0 + e.2) e.1 < x.topk)).length)
    else k
  let k := k.setLbest (catBest k.key x 0 k.lbest kept)
  if x.lastBlocks then k.catResult x.out k.lbest else k

/-- A command of a long row (R215 to R217). -/
def State.catLong (s : State) (c : Nat) (x : Cat) : State :=
  let s := if x.blk0 = 0 ∧ (x.pass = 0 ∨ x.mask = 0) then s.openRow c else s
  s.modCore c fun k =>
    let q := k.catRead x
    if x.pass = 0 then (k.catLoad x q).setLrow x true
    else if x.pass = 1 then (k.catSelect x q).setLrow x true
    else (k.catDrawPass x q).setLrow x (!x.lastBlocks)

/-- What a CAT_DRAW leaves: the results that it writes before a stop, if one cuts it (R214, R216, R458). -/
def State.catDraw (s : State) (c : Nat) (i : Issued) : State :=
  let x := i.cat
  if x.long then (if s.partsMade i 1 (x.busy + 20) 0 = 1 then s.catLong c x else s)
  else
    let g := 64 / x.n
    let n := if s.partsMade i 1 (x.busy + 20) 0 = 1 then x.rows else min x.rows (g * s.partsMade i ((x.rows + g - 1) / g) 21 1)
    s.modCore c fun k => k.catShort x n

/-- CAT_DRAW (R211 to R217). -/
def execCatDraw (core : CoreNum) (s : State) : Host.Outcome State Fault Refusal :=
  let c := core.toNat
  match s.readyCmd c 0x40 with
  | none => .next s
  | some (_, j, i) => .next ((s.catDraw c i).finishCmd c j i)

end Sys2Proof.Machine
end

