-- ==== Sys2Proof/Machine/Debug.lean ====
section
/-! DEFINITION. The Whistle (R456 to R461), scan-out (R460), hang snapshots (R462, R463), tensor watch (R454, R455) and their
commands (R464, R465). -/

namespace Sys2Proof.Machine

/-! ## The Whistle -/

/-- WHISTLE_SOUND (R457). A JTAG request finds the TAP out of its reset state. -/
def execWhistleSound (source : BitVec 3) (s : State) : Host.Outcome State Fault Refusal :=
  whenFormed (.whistleSound source) <|
  .next (s.outOfReset fun s =>
    let s : State := if source = 4 then { s with power := { s.power with tapReset := false } } else s
    s.soundWhistle source.toNat)

/-- A CMD record of a command whose span reaches beyond the last executed cycle: END is that cycle, and CUT is 1. -/
def cutRecord (stopBeat stopCycle : Nat) (x : Nat × BitVec 128) : Nat × BitVec 128 :=
  let r := x.2.toNat
  let p := r >>> 64
  if bitsOf r 56 8 = 1 ∧ bitsOf r 0 56 = stopBeat % 2 ^ 56 ∧ stopCycle < bitsOf p 10 10 then
    (traceKey stopCycle 1 (bitsOf p 20 10) (bitsOf p 30 3),
      traceRec stopBeat 1 (putBits (putBits p 10 10 stopCycle) 48 1 1))
  else x

/-- What a command that the stop finds in its engine has done by the last cycle: the rows, chunks and steps whose cycles have come
(R458). Transfers have landed, or are in flight and stay so. -/
def State.cutCmd (s : State) (c : Nat) (h : Handle) (j : Job) (i : Issued) (last : Nat) : State :=
  if i.op = 0x20 then s.feltUpTo j i.beat (last + 1 - i.beat * beatCycles)
  else if i.op = 0x30 then s.feMma c h j i
  else if i.op = 0x31 then s.feOut c h i
  else if i.op = 0x32 then s.feBern c h i
  else if i.op = 0x33 then s.napFill c i
  else if i.op = 0x40 then s.catDraw c i
  else s

/-- The commands in a core's engines at the stop: what each has done, and its CMD record, cut where its span reaches beyond the last
cycle. -/
def State.cutCore (s : State) (c last : Nat) : State :=
  match s.coreJob c with
  | none => s
  | some (h, j) =>
    (List.range 5).foldl (fun s n =>
      match ((s.core c).engine n).cmd with
      | some i =>
        let e := i.endCycle c (s.pageAt c j i.beat) (s.cmdExtra i) j.half
        let cut := decide (last < i.beat * beatCycles + e)
        (s.cutCmd c h j i last).traceCmd c n i (if cut then last % beatCycles else e) cut
      | none => s) s

/-- The stop: what it records, and HALTED (R458). -/
def State.haltNow (s : State) : State :=
  let last := s.whistle.beat * beatCycles + s.whistle.cycle + 23
  let sb := last / beatCycles
  let sc := last % beatCycles
  let s : State := { s with
    whistle := { s.whistle with stopBeat := sb, stopCycle := sc }
    trace := { s.trace with beatRecs := s.trace.beatRecs.map (cutRecord sb sc) } }
  let s := (s.cores.map (·.1)).foldl (fun s c => { (State.cutCore { s with beat := sb, cycle := sc } c last) with
    beat := s.beat, cycle := s.cycle }) s
  let s := s.addTrace (traceKey s.whistle.cycle 2 0 0)
    (traceRec s.whistle.beat 6 (s.whistle.cycle + s.dcbF Dcb.whistleStat 1 3 * 2 ^ 10))
  let s := (s.dieEvent 135).setDcbF Dcb.whistleStat 0 1 1
  ((List.range 1024).filter s.usable).foldl (fun s c => s.takeSnapshot c 3) s

/-- The cycles that a sounding leaves to the deterministic domain pass; `n` bounds them. -/
def State.runToStop : Nat → State → State
  | 0, s => s
  | n + 1, s => if s.stopPassed then s else State.runToStop n s.tick

/-- WHISTLE_STOP: the domain has executed its last cycle, 23 after the sounding (R458). -/
def execWhistleStop (s : State) : Host.Outcome State Fault Refusal :=
  if s.whistle.pending ∧ !s.halted ∧ !s.power.coldReset then .next (s.runToStop 24).haltNow else .next s

/-- DBG_WHISTLE. -/
def execDbgWhistle (mb : MailboxNum) (s : State) : Host.Outcome State Fault Refusal :=
  let m := mb.toNat
  .next (s.onTaken m 0x70 fun t =>
    if s.occupied m then s.answer m t Status.busy [] else (s.soundWhistle 2).answer m t Status.ok [])

/-! ## Scan-out -/

/-- A scan-out runs. -/
def State.scanning (s : State) : Bool := s.dcbF Dcb.whistleStat 14 2 == 1

/-- The header fields of a scan record at 0x30 to 0x47. -/
def State.scanHead (s : State) (c : Nat) (conf : Bool) : List Byte :=
  let h := bytesOf 4 ((s.core c).job.getD 0).toNat ++ bytesOf 4 (bit conf)
  if conf then zeros 16 ++ h
  else
    bytesOf 8 s.whistle.stopBeat ++ bytesOf 4 s.whistle.stopCycle ++
      bytesOf 4 (s.transfers.filter fun x => x.core == c).length ++ h

/-- The scan record of core `c`: the layout of a native context record, with the state at the stop in place of the
snapshot. -/
def State.scanRecord (s : State) (c : Nat) : List Byte :=
  if !s.usable c then zeros recordBytes
  else
    let conf := (s.corePart c).any fun p => s.partActive p
    let s := s.modCore c fun k => { k with snap := k.spins }
    let k := s.core c
    let j := k.job.bind s.job
    let head :=
      if conf then bytesOf 4 0x103 ++ zeros 8 ++ bytesOf 4 c ++ zeros 32
      else
        bytesOf 4 0x103 ++ bytesOf 4 (s.dcbReg Dcb.dclass).toNat ++ bytesOf 4 (s.dcbF Dcb.abiId 0 16) ++ bytesOf 4 c ++
          zeros 8 ++ bytesOf 8 ((j.map fun j => j.startK + (s.whistle.stopBeat - j.startBeat)).getD 0) ++
          bytesOf 8 (k.reg Reg.schedIter).toNat ++ bytesOf 4 ((j.map fun j => j.image.e).getD 0) ++
          bytesOf 4 ((j.map fun j => j.image.p).getD 0)
    let head := head ++ s.scanHead c conf ++ zeros 184 ++ (if conf then zeros 128 else s.gradeBytes) ++ zeros 3704
    let body := if conf then zeros (recordBytes - 0x1000)
      else s.recordBody c ((j.map fun j => j.engineOf c).getD 0) false
    head ++ bytesOf 8 (digest (head ++ body)) ++ body

/-- The range lies in HBM, outside every confidential partition. -/
def State.scanRangeOk (s : State) (a n : Nat) : Bool :=
  decide (a + n ≤ 0xC000000000) &&
    (List.range 8).all fun g => !(decide (a < stackGroupBytes * (g + 1)) && decide (stackGroupBytes * g < a + n) &&
      (s.stackPart g).any fun p => s.partConf p)

/-- DBG_SCANOUT. -/
def execDbgScanout (mb : MailboxNum) (s : State) : Host.Outcome State Fault Refusal :=
  let m := mb.toNat
  .next (s.onTaken m 0x71 fun t =>
    let dest := t.arg64 0
    let stride := t.arg 2
    let first := t.arg 3
    let count := t.arg 4
    if dest % 4096 ≠ 0 ∨ stride % 4096 ≠ 0 ∨ stride < recordBytes ∨ 1024 ≤ first ∨ count = 0 ∨ 1024 < first + count ∨
        !s.scanRangeOk dest (recordsSpan count stride) then s.answer m t Status.badArg []
    else if s.occupied m ∨ s.scanning then s.answer m t Status.busy []
    else if !s.halted then s.answer m t Status.refused []
    else
      let s' := (List.range count).foldl (fun s' i => s'.putBytes (dest + i * stride) (s.scanRecord (first + i))) s
      (s'.setDcbF Dcb.whistleStat 14 2 1).answer m t Status.ok [])

/-- SCANOUT_DONE: SCAN moves from running to done. -/
def execScanoutDone (s : State) : Host.Outcome State Fault Refusal :=
  .next (if s.scanning then s.setDcbF Dcb.whistleStat 14 2 2 else s)

/-- DBG_RELEASE: the halt ends at the first boundary after the CP has it (R461). -/
def execDbgRelease (mb : MailboxNum) (s : State) : Host.Outcome State Fault Refusal :=
  let m := mb.toNat
  .next (s.onTaken m 0x72 fun t =>
    if s.occupied m ∨ s.scanning then s.answer m t Status.busy []
    else if !s.halted then s.answer m t Status.refused []
    else
      let b := s.cp.release.getD (s.beat + 1)
      State.answer { s with cp := { s.cp with release := some b } } m t Status.ok (wordsOf b))

/-! ## Hang snapshots on request -/

/-- DBG_SNAPSHOT and DBG_WATCH refuse a job that is not RUNNING or ADMITTED, and a halted die (R464). -/
def State.debugRefused (s : State) (j : Job) : Bool := s.halted || !(j.st == .running || j.st == .admitted)

/-- DBG_SNAPSHOT: it waits for every core of the job (R463). -/
def execDbgSnapshot (mb : MailboxNum) (s : State) : Host.Outcome State Fault Refusal :=
  let m := mb.toNat
  .next (s.onTaken m 0x73 fun t =>
    match s.job t.jobHandle with
    | none => s.answer m t Status.refused []
    | some j =>
      if t.arg 0 / 2 ^ 16 ≠ 0 then s.answer m t Status.badArg []
      else if s.occupied m then s.answer m t Status.busy []
      else if s.debugRefused j then s.answer m t Status.refused []
      else if j.engines = [] then s.answer m t Status.ok (wordsOf (s.beat + 1))
      else
        let s := s.accept m t
        { s with cp := { s.cp with snapshots := s.cp.snapshots ++ [(m, t.jobHandle, s.beat, j.engines.map (·.2))] } })

/-- A DBG_SNAPSHOT waits for this core. -/
def State.wantsSnapshot (s : State) (c : Nat) (x : Nat × Handle × Nat × List Nat) : Bool :=
  decide (x.2.2.1 < s.beat) && x.2.2.2.contains c

/-- The deadlock detector has taken the core's snapshot at this boundary (R465). -/
def State.deadlockSnapshot (s : State) (c : Nat) : Bool :=
  (s.core c).regF Reg.dbgSnapstat 0 3 == 3 && natAt (s.core c).store Reg.hang 8 == s.beatCtr.toNat

/-- HANG_SNAPSHOT: at the boundary after a DBG_SNAPSHOT the core's snapshot is taken, of the state at its cycle 0 before any end of the
job; the command completes with the last core (R462, R463). -/
def execHangSnapshot (core : CoreNum) (s : State) : Host.Outcome State Fault Refusal :=
  let c := core.toNat
  if s.cycle ≠ 0 ∨ !s.cp.snapshots.any (s.wantsSnapshot c) then .next s
  else
    let held := (s.core c).hangHeld
    let t := if s.deadlockSnapshot c then s else if held = [] then s.takeSnapshot c 2 else s.putSnapshot c 2 held
    let t := t.modCore c fun k => { k with hangHeld := [] }
    let rest := t.cp.snapshots.map fun x => if s.wantsSnapshot c x then (x.1, x.2.1, x.2.2.1, x.2.2.2.filter (· != c)) else x
    let t : State := { t with cp := { t.cp with snapshots := rest.filter fun x => x.2.2.2 != [] } }
    .next ((rest.filter fun x => x.2.2.2 == []).foldl (fun t x => t.complete x.1 Status.ok (wordsOf s.beat) 0) t)

/-! ## Tensor watch -/

/-- U, SRC, TILE, ANY and ENGINE of the watch commands. -/
def TakenCmd.unit (t : TakenCmd) : Nat := bitsOf (t.arg 0) 16 2
def TakenCmd.watchEngine (t : TakenCmd) : Nat := bitsOf (t.arg 1) 0 17

/-- DBG_WATCH (R454); it arms nothing here for an engine that another module holds. -/
def execDbgWatch (mb : MailboxNum) (s : State) : Host.Outcome State Fault Refusal :=
  let m := mb.toNat
  .next (s.onTaken m 0x74 fun t =>
    match s.job t.jobHandle with
    | none => s.answer m t Status.refused []
    | some j =>
      let src := bitsOf (t.arg 0) 18 2
      if src = 3 ∨ t.arg 0 / 2 ^ 25 ≠ 0 ∨ t.arg 1 / 2 ^ 17 ≠ 0 ∨ t.arg 2 / 2 ^ 18 ≠ 0 ∨ j.image.e ≤ t.watchEngine then
        s.answer m t Status.badArg []
      else if s.occupied m then s.answer m t Status.busy []
      else if s.debugRefused j ∨ s.anyPartConf j.parts then s.answer m t Status.refused []
      else
        match j.coreOf t.watchEngine with
        | none => s.answer m t Status.ok []
        | some c =>
          let s := s.modCore c fun k =>
            let w := if src = 2 then { tabGet Watch.reset k.watches t.unit with armed := false }
              else { Watch.reset with
                armed := true, handle := t.jobHandle, srcAcc := src == 1, tile := BitVec.ofNat 4 (t.arg 0 >>> 20)
                any := (t.arg 0).testBit 24, matchBeat := BitVec.ofNat 8 (t.arg 2)
                matchCycle := BitVec.ofNat 10 (t.arg 2 >>> 8), since := s.now }
            { k with watches := tabSet Watch.reset k.watches t.unit w }
          s.answer m t Status.ok [])

/-- rne64 of x / n. -/
def meanOf (x : Dyad) (n : Nat) : Nat :=
  if x.m = 0 ∨ n = 0 then 0
  else
    let p := x.m.natAbs * 2 ^ 140
    let q : Int := 2 * (p / n) + bit (p % n != 0)
    fmtF64.enc (rne64 ⟨if x.m < 0 then -q else q, x.e - 141⟩)

/-- The running digest, ended (R444). -/
def Watch.digestNow (w : Watch) : Nat :=
  digestEnd (match w.half with
    | some x => digestStep w.digest.toNat x.toNat
    | none => w.digest.toNat) w.bytes

/-- The response of DBG_WATCHREAD (Table 16-4). -/
def Watch.words (w : Watch) : List Word :=
  wordsOf w.count.toNat ++ wordsOf w.sat.toNat ++ wordsOf w.minV.toNat ++ wordsOf w.maxV.toNat ++
    wordsOf (meanOf (Acc.val ⟨w.sumM.toNat, w.sumE.toNat⟩) w.count.toNat) ++ wordsOf w.digestNow ++ [w.ncmd]

/-- The unit with its statistics cleared. -/
def Watch.cleared (w : Watch) : Watch :=
  { Watch.reset with
    armed := w.armed, handle := w.handle, srcAcc := w.srcAcc, tile := w.tile, any := w.any, matchBeat := w.matchBeat
    matchCycle := w.matchCycle, since := w.since }

/-- DBG_WATCHREAD (R455): the statistics that the unit holds for the job. -/
def execDbgWatchread (mb : MailboxNum) (s : State) : Host.Outcome State Fault Refusal :=
  let m := mb.toNat
  .next (s.onTaken m 0x75 fun t =>
    match s.job t.jobHandle with
    | none => s.answer m t Status.refused []
    | some j =>
      if t.arg 0 / 2 ^ 19 ≠ 0 ∨ t.arg 1 / 2 ^ 17 ≠ 0 ∨ j.image.e ≤ t.watchEngine then s.answer m t Status.badArg []
      else if s.occupied m then s.answer m t Status.busy []
      else
        match j.coreOf t.watchEngine with
        | none => s.answer m t Status.ok Watch.reset.words
        | some c =>
          let w := tabGet Watch.reset (s.core c).watches t.unit
          if w.handle ≠ t.jobHandle then s.answer m t Status.ok Watch.reset.words
          else
            let s := if (t.arg 0).testBit 18 then
                s.modCore c fun k => { k with watches := tabSet Watch.reset k.watches t.unit w.cleared }
              else s
            s.answer m t Status.ok w.words)

end Sys2Proof.Machine
end

