-- ==== Sys2Proof/Machine/LinkCode.lean ====
section
/-! DEFINITION. The codes of a link frame: the interleaved RS(160,144) of its codewords (R338) and the CRC-32 of its header
(R339). Symbol m of an interleave is the coefficient of degree 159 - m (DEDUCED, log entry 42). -/

namespace Sys2Proof.Machine

/-! ## GF(256) with x^8 + x^4 + x^3 + x^2 + 1 -/

def gmul (a b : Nat) : Nat :=
  ((List.range 8).foldl (fun (x : Nat × Nat) i =>
    (if b.testBit i then x.1 ^^^ x.2 else x.1, if x.2 ≥ 128 then (x.2 * 2) ^^^ 0x11D else x.2 * 2)) (0, a)).1

/-- The power of an element; `fuel` bounds the bits of the exponent. -/
def gpow : Nat → Nat → Nat → Nat
  | 0, _, _ => 1
  | n + 1, a, e => if e = 0 then 1 else gmul (if e % 2 = 1 then a else 1) (gpow n (gmul a a) (e / 2))

def ginv (a : Nat) : Nat := gpow 8 a 254

/-- The primitive element to a power. -/
def galpha (e : Nat) : Nat := gpow 8 2 (e % 255)

/-- A polynomial, lowest coefficient first, at a point. -/
def gpoly (p : List Nat) (x : Nat) : Nat := p.foldr (fun c y => gmul y x ^^^ c) 0

def gaddPoly (p q : List Nat) : List Nat := (List.range (max p.length q.length)).map fun i => p.getD i 0 ^^^ q.getD i 0

def gmulPoly (p q : List Nat) : List Nat :=
  (List.range (p.length + q.length - 1)).map fun k =>
    (List.range (k + 1)).foldl (fun v i => v ^^^ gmul (p.getD i 0) (q.getD (k - i) 0)) 0

/-! ## One interleave -/

/-- The generator polynomial, with the roots of exponents 0 to 15. -/
def rsGen : List Nat := (List.range 16).foldl (fun g i => gmulPoly g [galpha i, 1]) [1]

/-- The 16 parity symbols of 144 data symbols: the remainder, highest degree first. -/
def rsParity (d : List Nat) : List Nat :=
  let g := (rsGen.take 16).reverse
  d.foldl (fun r x =>
    let f := x ^^^ r.getD 0 0
    (List.range 16).map fun i => r.getD (i + 1) 0 ^^^ gmul f (g.getD i 0)) (List.replicate 16 0)

/-- Syndrome i of 160 symbols. -/
def rsSyndrome (r : List Nat) (i : Nat) : Nat := r.foldl (fun y c => gmul y (galpha i) ^^^ c) 0

/-- The error-locator polynomial: Berlekamp's iteration over the syndromes. The state is the locator, the previous one,
its discrepancy, the number of errors and the steps since the last change. -/
def rsLocator (s : List Nat) : List Nat × Nat :=
  let r := (List.range 16).foldl (fun (x : List Nat × List Nat × Nat × Nat × Nat) n =>
    let (c, b, d0, l, m) := x
    let d := (List.range (l + 1)).foldl (fun v i => v ^^^ gmul (c.getD i 0) (s.getD (n - i) 0)) 0
    if d = 0 then (c, b, d0, l, m + 1)
    else
      let t := gaddPoly c (List.replicate m 0 ++ b.map fun y => gmul (gmul d (ginv d0)) y)
      if 2 * l ≤ n then (t, c, d, n + 1 - l, 1) else (t, b, d0, l, m + 1)) ([1], [1], 1, 0, 1)
  (r.1, r.2.2.2.1)

/-- The decoded symbols and the symbols corrected; none where the interleave cannot be corrected (more than 8). -/
def rsDecode (r : List Nat) : Option (List Nat × List Nat) :=
  let s := (List.range 16).map (rsSyndrome r)
  if s.all (· == 0) then some (r, [])
  else
    let (c, l) := rsLocator s
    let roots := (List.range 160).filter fun j => gpoly c (galpha (255 - j % 255)) == 0
    if l ≤ 8 ∧ roots.length = l then
      let om := (gmulPoly s c).take 16
      let dc := (List.range c.length).map fun i => if i % 2 = 0 then c.getD (i + 1) 0 else 0
      let bad := roots.map fun j => 159 - j
      let fixed := r.mapIdx fun m x =>
        if bad.contains m then
          let y := galpha (255 - (159 - m) % 255)
          x ^^^ gmul (galpha (159 - m)) (gmul (gpoly om y) (ginv (gpoly dc y)))
        else x
      some (fixed, bad)
    else none

/-! ## A codeword (R338) -/

def interleave (bs : List Byte) (j n : Nat) : List Nat := (List.range n).map fun m => (bs.getD (4 * m + j) 0).toNat

/-- 576 data bytes as a codeword of 640. -/
def codeword (d : List Byte) : List Byte :=
  let p := (List.range 4).map fun j => rsParity (interleave d j 144)
  d ++ (List.range 64).map fun i => BitVec.ofNat 8 ((p.getD (i % 4) []).getD (i / 4) 0)

/-- What a received codeword gives: its 576 data bytes, whether every interleave could be corrected, and the lanes of
the symbols corrected. An interleave that cannot be corrected stays as received (DEDUCED, log entry 43). -/
structure Decoded where
  data : List Byte
  good : Bool
  lanes : List Nat
  deriving DecidableEq, Repr

def decodeCodeword (cw : List Byte) : Decoded :=
  let rs := (List.range 4).map fun j => (interleave cw j 160, rsDecode (interleave cw j 160))
  let out (j : Nat) : List Nat := match rs[j]? with
    | some (r, d) => (d.map (·.1)).getD r
    | none => []
  ⟨(List.range 576).map fun b => BitVec.ofNat 8 ((out (b % 4)).getD (b / 4) 0), rs.all fun x => x.2.isSome,
    (rs.zipIdx.flatMap fun x => ((x.1.2.map (·.2)).getD []).map fun m => m % 32)⟩

/-! ## The frame (R337) -/

/-- start(w): the cycle in which codeword w starts. -/
def cwStart (w : Nat) : Nat := 15 * w / 2

/-- The 64,000 bytes of a frame of 900 flits. -/
def frameOf (flits : List Byte) : List Byte := (List.range 100).flatMap fun w => codeword (octets flits (576 * w) 576)

/-- IEEE 802.3 CRC-32. -/
def crc32 (bs : List Byte) : Nat :=
  (bs.foldl (fun c b =>
    (List.range 8).foldl (fun c _ => if c % 2 = 1 then (c / 2) ^^^ 0xEDB88320 else c / 2) (c ^^^ b.toNat)) 0xFFFFFFFF) ^^^
    0xFFFFFFFF

end Sys2Proof.Machine
end

