-- ==== Sys2Proof/Machine/Links.lean ====
section
/-! DEFINITION. Optical links: the frame of a beat (R337 to R340), landing (R343 to R345), errors (R346), port states (R347, R348),
beat lock (R80, R81, R84, R349, R350), the relay of tokens, GO, census entries and bases (R351, R499), key records
(R436), encryption (R353), the lock-step channel (R87, R352) and the Sideline frame (R356, R451). -/

namespace Sys2Proof.Machine

/-! ## Ports -/

def State.link (s : State) (l : Nat) : LinkPort := tabGet LinkPort.reset s.links l

def State.setLink (s : State) (l : Nat) (p : LinkPort) : State := { s with links := tabSet LinkPort.reset s.links l p }

/-- LINK_STAT.STATE: 0 OFF, 1 TRAIN, 2 UP, 3 DOWN. -/
def State.linkState (s : State) (l : Nat) : Nat := s.dcbF (Dcb.linkStat l) 0 2

/-- The configured upstream port, if there is one (R349). -/
def State.upstream (s : State) : Option Nat := if s.dcbF Dcb.linkSys 6 1 = 1 then some (s.dcbF Dcb.linkSys 2 4) else none

def State.locked (s : State) : Bool := s.dcbF Dcb.beatSync 0 1 == 1

/-- One contained record for an event that reaches several jobs: it names the first, and all are marked (R469, R475). -/
def State.enterFor (s : State) (unit code detail : Nat) (hs : List Handle) : State :=
  let i : ErrInfo := { handle := hs.head?.getD 0, detail }
  let id := (s.makeRecord unit code i).id
  hs.foldl (fun s h => s.markEnd h .contained id) (s.enterError unit code i)

/-! ## The sender (R337 to R342) -/

/-- Bytes 0 to 23 of the header (Table 12-2). -/
def State.headerHead (s : State) (port flags key0 key1 : Nat) : List Byte :=
  bytesOf 8 0x5A3C96E10F87D24B ++ bytesOf 8 s.beat ++ bytesOf 1 s.moduleId ++ bytesOf 1 port ++ bytesOf 1 flags ++
    zeros 1 ++ bytesOf 1 key0 ++ bytesOf 1 key1 ++ zeros 2

/-- The header flit. -/
def headerFlit (head tag0 tag1 : List Byte) : List Byte :=
  head ++ bytesOf 4 (crc32 head) ++ zeros 4 ++ octets tag0 0 16 ++ octets tag1 0 16

/-- The control flit (Table 12-3): `up` and `down` are the messages that it carries. -/
def controlFlit (p : LinkPort) (up down : Option CtlMsg) (dig : Option (Dword × Dword)) : List Byte :=
  let kind (m : Option CtlMsg) (a b : Nat) : Nat := match m with
    | some c => if c.special then b else a
    | none => 0
  let msg (m : Option CtlMsg) : List Byte := match m with
    | some c => bytesOf 8 c.token.toNat ++ bytesOf 8 c.word.toNat
    | none => zeros 16
  bytesOf 8 p.echoBeat.toNat ++ bytesOf 2 p.echoCycle ++ bytesOf 1 (kind up 1 8 + kind down 2 16 + 4 * bit dig.isSome) ++
    zeros 5 ++ msg up ++ msg down ++
    match dig with
    | some d => bytesOf 8 d.1.toNat ++ bytesOf 8 d.2.toNat
    | none => zeros 16

/-- The jobs that encrypt flits of this frame, at most two: each with its positions in ascending order (R353). -/
def State.encJobs (s : State) (p : LinkPort) : List (Job × List Nat) :=
  ((s.jobs.filterMap fun e =>
    match e.2.keySlot with
    | some _ =>
      let ps := (p.payloadJob.filter fun x => x.2 == e.1).map (·.1)
      if e.2.linkEnc ∧ ps ≠ [] then some (e.2, ps) else none
    | none => none)).take 2

def linkIv (module port beat : Nat) : List Byte := beBytes 12 (module * 2 ^ 88 + port * 2 ^ 80 + beat % 2 ^ 64)

/-- One job's flits of the frame as ciphertext at their positions, and the tag. -/
def State.encryptFlits (s : State) (l : Nat) (p : LinkPort) (head : List Byte) (x : Job × List Nat) : Tab Granule × List Byte :=
  let pt := x.2.flatMap fun f => granBytes (tabGet 0 p.payload f)
  let r := gcmSeal (beBytes 32 x.1.linkKey.toNat) (linkIv s.moduleId l s.beat) head pt
  ((x.2.zipIdx.map fun y => (y.1, BitVec.ofNat 512 (natOf (octets r.1 (64 * y.2) 64)))), r.2)

/-- The positions that scheduled flits of running jobs declare on a port in this beat (R342). -/
def State.declaredOn (s : State) (l : Nat) : List Nat :=
  s.jobs.flatMap fun e =>
    if e.2.st = .running then
      ((s.planUses e.2.image e.2.engines).filter fun (u : SlotUse) =>
        u.port == 4096 + l && u.beat == e.2.entryAt s.beat).map fun (u : SlotUse) => u.slot
    else []

def FreeMsg.flits (m : FreeMsg) : List Granule := m.header :: m.data

/-- Whole messages take the free positions in arrival order; what finds no room waits (R345). -/
def placeFree : List FreeMsg → List Nat → List (Nat × Granule) × List FreeMsg
  | [], _ => ([], [])
  | m :: r, free =>
    if m.flits.length ≤ free.length then
      let q := placeFree r (free.drop m.flits.length)
      (free.zip m.flits ++ q.1, q.2)
    else ([], m :: r)

/-- The digest that the frame carries: of beat n in the frame of beat n + 2, on the lock-step port (R352). -/
def State.digestOut (s : State) (l : Nat) : Option (Dword × Dword) :=
  if s.dcbF (Dcb.linkCtrl l) 2 1 = 1 then s.linkSys.ownDigests.find? fun x => x.1 + 2 == s.beatCtr else none

/-- The 900 flits of port l's frame of this beat, and the messages that remain. While the die is halted the payload positions
carry zeros (R458). -/
def State.buildFrame (s : State) (l : Nat) : List Byte × List FreeMsg :=
  let p := s.link l
  let enc := s.encJobs p
  let key (i : Nat) : Nat := ((enc[i]?).bind fun x => x.1.keySlot).getD 0
  let flags := s.dcbF Dcb.beatSync 1 1 + 2 * bit s.locked + 4 * bit (decide (0 < enc.length)) + 8 * bit (decide (1 < enc.length))
  let head := s.headerHead l flags (key 0) (key 1)
  let cts := enc.map (s.encryptFlits l p head)
  let free := if s.halted then ([], p.free) else
    placeFree p.free ((List.range 898).filter fun f => !(s.declaredOn l).contains f && !(p.payloadJob.map (·.1)).contains f)
  let sent : Tab Granule := (cts.flatMap (·.1)) ++ p.payload ++ free.1
  let flit (f : Nat) : List Byte := if s.halted then zeros 64 else granBytes (tabGet 0 sent f)
  let tag (i : Nat) : List Byte := ((cts[i]?).map (·.2)).getD (zeros 16)
  (headerFlit head (tag 0) (tag 1) ++ controlFlit p p.up.head? p.down.head? (s.digestOut l) ++ (List.range 898).flatMap flit,
    free.2)

/-- LINK_FRAME_TX: the port's one frame of this beat (R337). -/
def execLinkFrameTx (port : BitVec 4) (s : State) : Host.Outcome State Fault Refusal :=
  let l := port.toNat
  let p := s.link l
  if s.linkState l = 0 ∨ p.sent = some s.beat ∨ s.power.coldReset then .next s
  else
    let r := s.buildFrame l
    .next (s.setLink l { p with
      up := p.up.drop 1, down := p.down.drop 1, free := r.2, payload := [], payloadJob := [], sent := some s.beat
      out := frameOf r.1 })

/-! ## Port states and lock (R84, R347 to R350) -/

/-- The jobs that use a port: they hold resources and have not ended. -/
def State.jobsOnLink (s : State) (l : Nat) : List Handle :=
  (s.jobs.filter fun e => s.canEnd e.2 && e.2.st != .waiting &&
    (planLinks e.2.image (s.planUses e.2.image e.2.engines)).contains l).map fun e => BitVec.ofNat 16 e.1

/-- Lock is lost: every multi-module job ends as contained (R84, R350). -/
def State.lockLoss (s : State) : State :=
  if s.locked ∨ s.dcbF Dcb.beatSync 2 1 = 1 then
    let multi := (s.jobs.filter fun e => s.canEnd e.2 && e.2.st != .waiting && e.2.multi).map fun e => (BitVec.ofNat 16 e.1 : Handle)
    let id := (s.makeRecord UnitNo.cp 0x14 {}).id
    let s := ((s.setDcbF Dcb.beatSync 0 1 0).setDcbF Dcb.beatSync 2 1 0).setDcbBits Dcb.beatSync 0x8
    multi.foldl (fun s h => s.markEnd h .contained id) ((s.dieEvent 134).enterError UnitNo.cp 0x14 {})
  else s

/-- A port goes DOWN, and trains again at once (Table 12-4). -/
def State.linkFall (s : State) (l : Nat) : State :=
  if s.linkState l = 2 then
    let hs := s.jobsOnLink l
    let s := ((s.setDcbF (Dcb.linkStat l) 0 2 1).setDcbBits (Dcb.linkFlags l) 0x4).dieEvent (152 + l)
    let s := (s.setLink l { s.link l with lostRun := 0 }).enterFor (UnitNo.link l) 0x12 0 hs
    if s.upstream = some l then s.lockLoss else s
  else s

/-- One measurement of the distance: half of the round trip less the peer's hold, rounded up (R348; DEDUCED, log entry 80). -/
def halfRound (x : Nat × Nat) : Nat := (x.1 - x.2 + 1) / 2

/-- d: the largest of the measurements (R348). -/
def measuredD (rounds : List (Nat × Nat)) : Nat := rounds.foldl (fun n x => max n (halfRound x)) 0

/-- LINK_UP: training has measured d; LAT and T follow (R343, R347, R348). Each of the 1,024 measurements is the round trip between a
header and the echo of it, and the peer's hold, in cycles. -/
def execLinkUp (port : BitVec 4) (rounds : List (Nat × Nat)) (peerModule : BitVec 6) (peerPort : BitVec 4) (s : State) :
    Host.Outcome State Fault Refusal :=
  whenFormed (.linkUp port rounds peerModule peerPort) <|
  let l := port.toNat
  if s.linkState l ≠ 1 ∨ s.power.coldReset then .next s
  else
    let d := measuredD rounds
    let lat := d + 132
    let s := (s.setDcbF (Dcb.linkDelay l) 0 16 d).setDcbF (Dcb.linkDelay l) 16 8 (1 + lat / 750)
    let s := (s.setDcbF (Dcb.linkStat l) 0 3 (2 + 4 * bit (decide (lat ≤ 742)))).setDcbF (Dcb.linkStat l) 16 6 peerModule.toNat
    let s := (s.setDcbF (Dcb.linkStat l) 24 4 peerPort.toNat).dieEvent (136 + l)
    .next (s.setLink l { s.link l with lostRun := 0 })

/-- LINK_DOWN. -/
def execLinkDown (port : BitVec 4) (s : State) : Host.Outcome State Fault Refusal := .next (s.linkFall port.toNat)

/-- A job is admitted or runs (R81). -/
def State.jobHeld (s : State) : Bool :=
  s.jobs.any fun e => e.2.st == .admitted || e.2.st == .armed || (e.2.st == .running && decide (s.beat ≤ e.2.compBeat))

/-- The master's count now, in cycles from its 0:0: the last header became available end(0) + LAT cycles after its beat began
(R343). -/
def State.masterNow (s : State) (l : Nat) : Nat :=
  let p := s.link l
  p.peerBeat.toNat * beatCycles + 7 + s.linkLat l + (s.now - p.peerAt.getD s.now)

/-- A job by a new count: a job that has completed and is not yet DONE keeps its distance from now (R76, R81), and the LAUNCH_BEAT of
one that waits is a beat of the new count (`g`). -/
def Job.recount (f g : Nat → Nat) (b : Nat) (j : Job) : Job :=
  { j with
    takenBeat := if j.st = .waiting then b else j.takenBeat
    launch := if j.launch = 0 then 0 else g j.launch
    startBeat := if j.st = .running then f j.startBeat else j.startBeat
    compBeat := if j.st = .running then f j.compBeat else j.compBeat
    endBeat := if j.lockstep.isSome then f j.endBeat else j.endBeat
    pendingEnd := j.pendingEnd.map fun x => (x.1, x.2.1, f x.2.2) }

/-- The counter and the cycle phase take the master's; what waits for a boundary waits for the same one by the new count. The count is
the master's plus 2^64, so that beats that have passed keep their distance below it (R53; log entry 71). -/
def State.loadCount (s : State) (now : Nat) : State :=
  let b := now / beatCycles % 2 ^ 64 + 2 ^ 64
  let f (x : Nat) : Nat := x + b - s.beat
  let g := State.beatOf64 { s with beat := b }
  let d : Dword := BitVec.ofNat 64 b - s.beatCtr
  { s with
    beat := b
    cycle := now % beatCycles
    cores := s.cores.map fun e => (e.1, { e.2 with
      fenceAt := e.2.fenceAt.map f, regNext := e.2.regNext.map fun x => { x with beat := f x.beat } })
    transfers := s.transfers.map fun x => { x with beat := f x.beat }
    jobs := s.jobs.map fun e => (e.1, e.2.recount f g b)
    cp := { s.cp with
      doorbells := s.cp.doorbells.map fun x => x + 64 * (b * beatCycles + now % beatCycles) - 64 * s.now
      overlayNext := s.cp.overlayNext.map fun x => (x.1, f x.2)
      snapshots := s.cp.snapshots.map fun x => (x.1, x.2.1, f x.2.2.1, x.2.2.2)
      clusterNext := s.cp.clusterNext.map fun x => (x.1, f x.2)
      release := s.cp.release.map f }
    err := { s.err with
      units := s.err.units.map fun e => (e.1, { e.2 with
        recs := e.2.recs.map fun r => { r with entry := f r.entry }
        entered := e.2.entered.map fun x => (x.1, x.2.map f) })
      fatalNext := s.err.fatalNext.map fun x => (x.1, f x.2) }
    sec := { s.sec with scrub := s.sec.scrub.map fun e => (e.1, e.2.map f) }
    linkSys := { s.linkSys with
      tokens := s.linkSys.tokens.map fun x => (x.1, x.2.1, f x.2.2)
      ownDigests := s.linkSys.ownDigests.map fun x => (x.1 + d, x.2)
      peerDigests := s.linkSys.peerDigests.map fun x => (x.1 + d, x.2) }
    whistle := { s.whistle with beat := f s.whistle.beat, stopBeat := f s.whistle.stopBeat }
    links := s.links.map fun e => (e.1, { e.2 with peerAt := none, sent := none }) }

/-- Locked: the count is the master's (R349). -/
def State.takeLock (s : State) (l : Nat) : State :=
  let depth := if (s.link l).peerMaster then 1 else 2
  (((s.loadCount (s.masterNow l)).setDcbF Dcb.beatSync 0 1 1).setDcbF Dcb.beatSync 2 1 0).setDcbF Dcb.linkSys 0 2 depth

/-- BEAT_LOCK: over an upstream port that is UP and brings MASTER or LOCKED; with a job admitted the count waits (R81). -/
def execBeatLock (align : BitVec 8) (s : State) : Host.Outcome State Fault Refusal :=
  whenFormed (.beatLock align) <|
  match s.upstream with
  | none => .next s
  | some l =>
    let p := s.link l
    if s.linkState l ≠ 2 ∨ !(p.peerLocked || p.peerMaster) ∨ p.peerAt = none ∨ s.locked then .next s
    else
      let s := s.setDcbF Dcb.beatSync 16 8 align.toNat
      .next (if s.jobHeld then s.setDcbF Dcb.beatSync 2 1 1 else s.takeLock l)

/-- BEAT_LOCK_LOSS. -/
def execBeatLockLoss (s : State) : Host.Outcome State Fault Refusal := .next s.lockLoss

/-- COUNTER_LOAD: at the first boundary after the last job has ended (R81). -/
def execCounterLoad (s : State) : Host.Outcome State Fault Refusal :=
  match s.upstream with
  | some l => if s.dcbF Dcb.beatSync 2 1 = 1 ∧ !s.jobHeld ∧ s.cycle = 0 then .next (s.takeLock l) else .next s
  | none => .next s

/-! ## The receiver: control flit and messages -/

/-- A message of the beat tree that a frame brings: upwards from a downstream port, downwards from the upstream port. -/
def State.takeControl (s : State) (l : Nat) (c : List Byte) : State :=
  let ctl := natOf (octets c 10 1)
  let at8 (o : Nat) : Dword := BitVec.ofNat 64 (natOf (octets c o 8))
  let up := s.upstream == some l
  let s := if up then s
    else if ctl.testBit 3 then s.sendUp ⟨at8 16, at8 24, true⟩
    else if ctl.testBit 0 then s.sendUp ⟨at8 16, at8 24, false⟩
    else s
  let s := if !up then s
    else if ctl.testBit 4 then
      let n := bitsOf (at8 40).toNat 56 6
      if n = s.moduleId then s.takeBase (at8 32) n (bitsOf (at8 40).toNat 0 17) else s.sendDown s.downPorts ⟨at8 32, at8 40, true⟩
    else if ctl.testBit 1 then (s.sendDown s.downPorts ⟨at8 32, at8 40, false⟩).takeGo (at8 32)
    else s
  if ctl.testBit 2 ∧ s.dcbF (Dcb.linkCtrl l) 2 1 = 1 then
    { s with linkSys := { s.linkSys with peerDigests := s.linkSys.peerDigests ++ [(at8 48, at8 56)] } }
  else s

/-- A failed tag of the root of trust counts (R430, R433, R436). -/
def State.tagFail (s : State) : State := (s.countDcb32 Dcb.secTagfail 1).setDcbBits Dcb.secFlags 0x2

/-- A key record: unwrapped under the TKEY of the job whose token is its AAD, relayed on the path of armed tokens and GO where it is for
another module, discarded where it fails (R436). A record of a job that has its key already does not fail. -/
def State.takeKeyRecord (s : State) (l : Nat) (m : FreeMsg) : State :=
  let target := bitsOf m.header.toNat 16 6
  if target ≠ s.moduleId then
    (if s.upstream = some l then s.downPorts else s.treePorts).foldl (fun s k => s.queueFree k m) s
  else
    let bs := m.data.flatMap granBytes
    let key (e : Nat × Job) : Option (List Byte) :=
      match e.2.keyset with
      | some (p, k) =>
        if e.2.live ∧ e.2.linkEnc ∧ e.2.multi then
          gcmOpen (beBytes 32 (tabGet KeySet.reset s.sec.keysets (4 * p + k)).tkey.toNat) (octets bs 0 12)
            (bytesOf 8 e.2.token.toNat) (octets bs 12 32) (octets bs 44 16)
        else none
      | none => none
    match s.jobs.find? fun e => (key e).isSome with
    | some e =>
      if e.2.st = .waiting then
        s.setJob (BitVec.ofNat 16 e.1) { e.2 with keyRecord := true, linkKey := BitVec.ofNat 256 (beNat ((key e).getD [])) }
      else s
    | none => s.tagFail

/-- An addressed message reaches the staging buffer of the engine that it names, of a running job in free exchange (R146,
R345). -/
def State.takeAddressed (s : State) (m : FreeMsg) : State :=
  let e := bitsOf m.header.toNat 16 16
  let d := bitsOf m.header.toNat 32 8 % 8
  match s.jobs.find? fun x => s.jobRuns x.2 && x.2.image.freeExchange && (x.2.coreOf e).isSome with
  | some (_, j) =>
    match j.coreOf e with
    | some c => m.data.zipIdx.foldl (fun s x => s.modCore c fun k => k.stageHalf d x.2 (granuleWords x.1)) s
    | none => s
  | none => s

/-- The messages in the free positions, in ascending order; `fuel` bounds their number. -/
def readFree (flit : Nat → Granule) : Nat → List Nat → List FreeMsg
  | 0, _ => []
  | _, [] => []
  | n + 1, f :: r =>
    let h := flit f
    let k := bitsOf h.toNat 40 8
    if (bitsOf h.toNat 0 16 = 0xA5C3 ∨ bitsOf h.toNat 0 16 = 0xA5C4) ∧ 1 ≤ k ∧ k ≤ 2 ∧ k ≤ r.length then
      ⟨h, (r.take k).map flit⟩ :: readFree flit n (r.drop k)
    else readFree flit n r

/-! ## The receiver: landing (R344, R346, R353) -/

/-- The landings on a port in the frame of beat `x`, of the jobs that execute and that ran in that beat. -/
def State.landingsOf (s : State) (l x : Nat) : List (Handle × Job × List Landing) :=
  s.jobs.filterMap fun e =>
    let j := e.2
    if j.st = .running ∧ j.startBeat ≤ x ∧ x ≤ j.compBeat ∧ !s.endDue j ∧ s.domainRuns then
      let ls := j.image.landings.filter fun y => y.port == l && y.beat == j.entryAt x && y.dkind != 0
      if ls = [] then none else some (BitVec.ofNat 16 e.1, j, ls)
    else none

/-- The direction and the half of exchanged data that a payload position brings: those of the EXCH_SEND that fills the position (R141,
R498). -/
def Image.sentHalf (m : Image) (x : Landing) : Option (Nat × Nat) :=
  m.engines.findSome? fun r => r.issues.findSome? fun y =>
    if y.2.op = 0x25 ∧ y.2.f 0 16 16 = x.engine ∧ y.2.stampBeat = x.beat then
      ((y.2.slots (m.pageOf r x.beat) 0).zipIdx.find? fun e => slotKind e.1.2 == 2 && slotK e.1.2 == x.position).map fun e =>
        (y.2.f 0 8 3, e.2)
    else none

/-- A granule lands in a staging buffer: an edge half at its place, corner data with the direction and half that the schedule sends in
its position (R129, R141, R143; Table 4-5). A flit that no EXCH_SEND fills completes no corner: it lands as it is. -/
def State.stageGranule (s : State) (c : Nat) (j : Job) (x : Landing) (g : Granule) : State :=
  let i := (x.offset - Win.staging) / 64
  let place := if i < 8 then some ([0, 4, 6, 2].getD (i / 2) 0, i % 2) else j.image.sentHalf x
  s.modCore c fun k =>
    match place with
    | some (d, half) => k.stageHalf d half (granuleWords g)
    | none => { k with store := bytesWrite k.store x.offset ((granBytes g).take 8) }

/-- One scheduled flit lands where the receive table says (R344). -/
def State.landFlit (s : State) (h : Handle) (j : Job) (x : Landing) (g : Granule) : State :=
  if x.dkind = 1 then
    match regionOf x.addr with
    | .slice p =>
      let r := s.meetErrors true false p 0 4 x.addr h XferErr.none g
      r.2.2.putGranule x.addr (firstBytes 64) r.1 r.2.1
    | _ => s
  else
    match j.coreOf x.engine with
    | none => s
    | some c =>
      if (s.core c).job ≠ some h then s
      else
        let a := 0x20000000000 + 0x1000000 * c + x.offset
        let r := s.meetErrors true false c c 4 a h XferErr.none g
        if Win.staging ≤ x.offset ∧ x.offset < 0x905800 then r.2.2.stageGranule c j x r.1
        else if jobWindow x.offset 64 true then r.2.2.putGranule a (firstBytes 64) r.1 r.2.1
        else r.2.2.accessError c 4 a

/-- The address and the core that a record of a landing names. -/
def Landing.place (x : Landing) (j : Job) : Nat × Nat :=
  if x.dkind = 1 then (0, x.addr)
  else
    let c := (j.coreOf x.engine).getD 0
    (c, 0x20000000000 + 0x1000000 * c + x.offset)

/-- A frame as it was decoded: its codewords, and those that came late. -/
structure RxFrame where
  words : List Decoded
  late : List Nat
  deriving DecidableEq, Repr

def RxFrame.word (f : RxFrame) (w : Nat) : Decoded := f.words.getD w ⟨[], false, []⟩
def RxFrame.flit (f : RxFrame) (i : Nat) : List Byte := octets (f.word (i / 9)).data (64 * (i % 9)) 64
def RxFrame.granule (f : RxFrame) (pos : Nat) : Granule := BitVec.ofNat 512 (natOf (f.flit (pos + 2)))
/-- 1 uncorrectable, 2 late, 0 good. -/
def RxFrame.badness (f : RxFrame) (w : Nat) : Nat := if !(f.word w).good then 1 else if f.late.contains w then 2 else 0

/-- SYNC and CRC hold, and codeword 0 was corrected (R346). -/
def RxFrame.kept (f : RxFrame) : Bool :=
  let h := f.flit 0
  (f.word 0).good && natOf (octets h 0 8) == 0x5A3C96E10F87D24B && natOf (octets h 24 4) == crc32 (h.take 24)

def RxFrame.beat (f : RxFrame) : Nat := natOf (octets (f.flit 0) 8 8)

/-- The plaintext of an encrypted job's flits, by position: none where no valid TAG of the frame holds (R353). -/
def RxFrame.decrypt (f : RxFrame) (j : Job) (ps : List Nat) : Option (Nat → Granule) :=
  let h := f.flit 0
  let ct := ps.flatMap fun p => granBytes (f.granule p)
  let iv := linkIv (bitsOf (natOf (octets h 16 1)) 0 6) (natOf (octets h 17 1)) f.beat
  let flags := natOf (octets h 18 1)
  let opened := [2, 3].findSome? fun i =>
    if flags.testBit i then gcmOpen (beBytes 32 j.linkKey.toNat) iv (h.take 24) ct (octets h (32 + 16 * (i - 2)) 16) else none
  opened.map fun pt p => BitVec.ofNat 512 (natOf (octets pt (64 * (ps.idxOf p)) 64))

/-- Every scheduled flit of one job lands; those of a bad codeword land as decoded and end the job (R29, R346). -/
def State.landJob (s : State) (l : Nat) (f : RxFrame) (x : Handle × Job × List Landing) : State :=
  let (h, j, ls) := x
  let enc := j.linkEnc && j.keySlot.isSome
  match (if enc then f.decrypt j (ls.map Landing.position) else some f.granule) with
  | none =>
    ((s.countDcb32 (Dcb.linkTagerr l) 1).setDcbBits (Dcb.linkFlags l) 0x8).enterError (UnitNo.link l) 0x13 { handle := h }
  | some g =>
    ls.foldl (fun s y =>
      let b := f.badness ((y.position + 2) / 9)
      let at_ := y.place j
      let s := if b = 0 then s
        else s.enterError (UnitNo.link l) 0x11 { handle := h, detail := b, core := at_.1, addr := at_.2, engine := 4 }
      s.landFlit h j y (g y.position)) s

/-- Counters and flags of the codewords; a corrected codeword is a corrected error, named to the first job that has a flit in
it (R346). A bad codeword with no scheduled flit is recorded for itself. -/
def State.countWords (s : State) (l : Nat) (f : RxFrame) (jobs : List (Handle × Job × List Landing)) (kept : Bool) : State :=
  (List.range 100).foldl (fun s w =>
    let owner := jobs.find? fun x => x.2.2.any fun y => (y.position + 2) / 9 == w
    let d := f.word w
    let b := f.badness w
    if b ≠ 0 then
      let s := (s.countDcb (Dcb.linkUe l) 1).setDcbBits (Dcb.linkFlags l) (if b = 1 then 0x1 else 0x20)
      if kept ∧ owner.isNone then s.enterError (UnitNo.link l) 0x11 { detail := b } else s
    else if d.lanes = [] then s
    else
      (s.countDcb (Dcb.linkCe l) 1).enterError (UnitNo.link l) 0x10 { handle := (owner.map (·.1)).getD 0, detail := w }) s

/-- The lane that every codeword had to correct: LANEFAIL and LANE (DEDUCED, log entry 43). -/
def State.laneState (s : State) (l : Nat) (f : RxFrame) : State :=
  match (List.range 32).find? fun n => f.words.all fun d => d.good && d.lanes.contains n with
  | some n => s.setDcbF (Dcb.linkStat l) 3 6 (1 + 2 * n)
  | none => s.setDcbF (Dcb.linkStat l) 3 6 0

/-- An injected error (R478) strikes codeword 1. -/
def injectWord (i : Option Nat) (ws : List Decoded) : List Decoded :=
  match i with
  | some 0x10 => ws.mapIdx fun n d => if n = 1 ∧ d.lanes = [] then { d with lanes := [0] } else d
  | some 0x11 => ws.mapIdx fun n d => if n = 1 then { d with good := false } else d
  | _ => ws

/-- A kept frame of a port that is UP: header, control flit, scheduled flits, messages. -/
def State.takeFrame (s : State) (l : Nat) (f : RxFrame) : State :=
  let h := f.flit 0
  let flags := natOf (octets h 18 1)
  let up := s.linkState l == 2
  let s := s.setLink l { s.link l with
    echoBeat := BitVec.ofNat 64 f.beat, echoCycle := s.cycle, lostRun := 0, peerMaster := flags.testBit 0
    peerLocked := flags.testBit 1, peerBeat := BitVec.ofNat 64 f.beat, peerAt := some s.now }
  if !up then s
  else
    let s := (s.setDcbF (Dcb.linkStat l) 16 6 (natOf (octets h 16 1))).setDcbF (Dcb.linkStat l) 24 4 (natOf (octets h 17 1))
    let jobs := s.landingsOf l (s.beatOf64 f.beat)
    let used := jobs.flatMap fun x => x.2.2.map Landing.position
    let s := jobs.foldl (fun s x => s.landJob l f x) (s.takeControl l (f.flit 1))
    (readFree f.granule 898 ((List.range 898).filter fun p => !used.contains p && f.badness ((p + 2) / 9) == 0)).foldl
      (fun s m => if bitsOf m.header.toNat 0 16 = 0xA5C4 then s.takeKeyRecord l m else s.takeAddressed m) s

/-- A lost frame: the jobs with a scheduled flit in it end as contained; three in a row take the port DOWN (R346). -/
def State.loseFrame (s : State) (l : Nat) : State :=
  let p := s.link l
  let n := p.lostRun + 1
  let x := if p.peerAt.isSome then s.beatOf64 (p.peerBeat.toNat + n) else s.beat - s.linkT l
  let s := s.setLink l { p with lostRun := n }
  let s := (s.countDcb32 (Dcb.linkLost l) 1).setDcbBits (Dcb.linkFlags l) 0x2
  let s := s.enterFor (UnitNo.link l) 0x11 3 ((s.landingsOf l x).map (·.1))
  if n = 3 then s.linkFall l else s

/-- LINK_FRAME_RX. -/
def execLinkFrameRx (port : BitVec 4) (frame : List Byte) (late : List Nat) (s : State) : Host.Outcome State Fault Refusal :=
  whenFormed (.linkFrameRx port frame late) <|
  let l := port.toNat
  if s.linkState l = 0 ∨ s.power.coldReset then .next s
  else
    let up := s.linkState l == 2
    let r := if up then s.takeInject (UnitNo.link l) else (none, s)
    let f : RxFrame := ⟨injectWord r.1 ((List.range 100).map fun w => decodeCodeword (octets (frame.drop (640 * w)) 0 640)), late⟩
    if !up then .next (if f.kept then s.takeFrame l f else s)
    else
      let s := (r.2.laneState l f).countWords l f (r.2.landingsOf l (r.2.beatOf64 f.beat)) f.kept
      .next (if f.kept then s.takeFrame l f else s.loseFrame l)

/-! ## Lock-step (R86, R87) -/

/-- LOCKSTEP_COMPARE: at n + 3:0 the digests of beat n are compared; at the first mismatch, or where the peer's is missing, the
Whistle sounds. -/
def execLockstepCompare (s : State) : Host.Outcome State Fault Refusal :=
  let n := s.beatCtr - 3
  if s.cycle ≠ 0 ∨ s.halted ∨ s.whistle.pending then .next s
  else
    match s.linkSys.ownDigests.find? fun x => x.1 == n with
    | none => .next s
    | some (_, own) =>
      let peer := (s.linkSys.peerDigests.find? fun x => x.1 == n).map (·.2)
      let s : State := { s with linkSys := { s.linkSys with
        ownDigests := s.linkSys.ownDigests.filter fun x => decide (s.beat < s.beatOf64 x.1.toNat + 3)
        peerDigests := s.linkSys.peerDigests.filter fun x => decide (s.beat < s.beatOf64 x.1.toNat + 3) } }
      if peer = some own then .next s
      else
        let h := ((s.jobs.find? fun e =>
          e.2.lockstep.isSome && decide (e.2.startBeat + 3 ≤ s.beat) && decide (s.beat ≤ e.2.compBeat + 3)).map fun e => (BitVec.ofNat 16 e.1 : Handle)).getD 0
        let s := s.setDcbBits Dcb.lockstepStat (if peer.isSome then 0x2 else 0x4)
        let s := ((s.setDcb Dcb.lockstepBeat n).setDcb Dcb.lockstepOwn own).setDcb Dcb.lockstepPeer (peer.getD 0)
        .next (((s.dieEvent 132).enterError UnitNo.cp 0x15 { handle := h, detail := if peer.isSome then 1 else 2 }).soundWhistle 1)

/-! ## The Sideline port (R356, R451) -/

/-- The LOSS record after drops. -/
def Trace.lossRec (t : Trace) : BitVec 128 :=
  traceRec t.dropFirst.toNat 3 (min t.dropped 0xFFFFFFFF + min (t.dropLast.toNat - t.dropFirst.toNat) 0xFFFFFFFF * 2 ^ 32)

/-- SIDELINE_FRAME: the frame of this beat carries up to 3,596 records, a LOSS record first after a drop. -/
def execSidelineFrame (s : State) : Host.Outcome State Fault Refusal :=
  if s.dcbF Dcb.sideStat 0 2 ≠ 2 ∨ s.power.coldReset then .next s
  else
    let t := s.trace
    let loss := if t.dropped = 0 then [] else [t.lossRec]
    let take := 3596 - loss.length
    let rs := loss ++ t.buffer.take take
    let head := s.headerHead 16 (s.dcbF Dcb.beatSync 1 1 + 2 * bit s.locked) 0 0
    let body := (List.range 3596).flatMap fun i => bytesOf 16 (rs.getD i 0).toNat
    let s : State := { s with trace := { t with
      buffer := t.buffer.drop take, dropped := 0, dropFirst := 0, dropLast := 0
      frame := frameOf (headerFlit head [] [] ++ body) } }
    .next ((s.setDcbF Dcb.traceStat 0 20 s.trace.buffer.length).countDcb Dcb.sideFrames 1)

end Sys2Proof.Machine
end

