-- ==== Sys2Proof/Machine/Security.lean ====
section
/-! DEFINITION. The root of trust: SPDM sessions (R418, R429, R430), the signed report (R417, R419, R420), SEC_CTRREAD (R439),
SEC_LIFECYCLE (R440), key sets (R432), import and export (R433, R434) and the scrub (R427). -/

namespace Sys2Proof.Machine

/-! ## Key sets and sessions -/

def State.keySet (s : State) (p k : Nat) : KeySet := tabGet KeySet.reset s.sec.keysets (4 * p + k)

/-- A key set takes a value; SEC_PSTAT.KEYSETS shows whether it is installed. -/
def State.setKeySet (s : State) (p k : Nat) (x : KeySet) : State :=
  State.setDcbF { s with sec := { s.sec with keysets := tabSet KeySet.reset s.sec.keysets (4 * p + k) x } } (Dcb.secPstat p)
    (10 + k) 1 (bit x.installed)

/-- A transfer runs for a mailbox. -/
def State.xfer (s : State) (m : Nat) : Option CryptXfer := tabGet none s.sec.xfers m

def State.setXfer (s : State) (m : Nat) (x : Option CryptXfer) : State :=
  { s with sec := { s.sec with xfers := tabSet none s.sec.xfers m x } }

/-- The job of the key set is admitted or running (R432). -/
def State.keySetHeld (s : State) (p k : Nat) : Bool :=
  match (s.keySet p k).bound.bind s.job with
  | some j => j.st == .admitted || j.st == .armed || j.st == .running
  | none => false

/-- A tag or secured message failed (R430, R433). -/
def State.secTagFail (s : State) : State := (s.countDcb32 Dcb.secTagfail 1).setDcbBits Dcb.secFlags 0x2

/-! ## SEC_SPDM (R418, R429, R430) -/

/-- The message that a SEC_SPDM carries. -/
def TakenCmd.message (t : TakenCmd) : List Byte := (wordBytes (t.args.drop 1)).take (bitsOf (t.arg 0) 0 10)

/-- The body of Table 15-3. -/
def State.reportBody (s : State) (part : Nat) (nonce : List Byte) : List Byte :=
  let all := part == 0xFF
  bytesOf 4 1 ++ bytesOf 4 (s.dcbF Dcb.secLcs 0 3) ++ bytesOf 8 (s.dcbReg Dcb.secSerial).toNat ++
    bytesOf 4 (s.dcbReg Dcb.dclass).toNat ++ bytesOf 4 (s.dcbReg Dcb.fwId).toNat ++ bytesOf 4 (s.dcbReg Dcb.abiId).toNat ++
    bytesOf 4 part ++ beBytes 48 s.sec.fwHash.toNat ++ beBytes 48 s.sec.cfgHash.toNat ++
    bytesOf 8 (s.dcbReg Dcb.gradeMap ||| s.dcbReg Dcb.clusterFence).toNat ++
    (if all then zeros 16
     else bytesOf 8 (s.dcbReg (Dcb.secPclu part)).toNat ++ bytesOf 8 (s.dcbReg (Dcb.secPres part)).toNat) ++
    octets nonce 0 32 ++ zeros 72

/-- The measurement blocks 1 to 3 (Table 15-7). -/
def State.measurements (s : State) (p : Nat) : List (List Byte) :=
  [beBytes 48 s.sec.fwHash.toNat, beBytes 48 s.sec.cfgHash.toNat, s.reportBody p (zeros 32)]

/-- The response of the SPDM responder. -/
def State.spdmAnswer (s : State) (m p : Nat) (t : TakenCmd) : State :=
  let keys := tabGet 0 s.sec.sessionKeys p
  let reply := Config.spdmReply s.free keys (tabGet 0 s.sec.seqIn p) [s.sec.deviceCert, s.sec.aliasCert] (s.measurements p)
    s.sec.aliasKey t.message
  s.stepFree.answer m t Status.ok (spdmWords (reply.take 1012))

/-- KEY_EXCHANGE draws one block over the private wire. -/
def State.keyExchange (s : State) (m p : Nat) (t : TakenCmd) : State :=
  match s.ent.wireKey with
  | some k :: rest =>
    let s : State := { s with
      ent := { s.ent with wireKey := rest }
      sec := { s.sec with
        handshake := tabSet 0 s.sec.handshake p k
        sessionKeys := tabSet 0 s.sec.sessionKeys p (Config.spdmKeys s.free k t.message)
        kex := tabSet false s.sec.kex p true } }
    s.spdmAnswer m p t
  | none :: rest => State.answer { s with ent := { s.ent with wireKey := rest } } m t Status.refused []
  | [] => s.answer m t (if s.entState = 3 ∨ s.entMode ≠ 0 then Status.refused else Status.notReady) []

/-- FINISH completes: the session is open (R426). -/
def State.openSession (s : State) (p : Nat) : State :=
  State.setPartState { s with sec := { s.sec with
    kex := tabSet false s.sec.kex p false
    handshake := tabSet 0 s.sec.handshake p 0
    seqIn := tabSet 0 s.sec.seqIn p 0
    seqOut := tabSet 0 s.sec.seqOut p 0 } } p 1

/-- The mailbox command in a secured message: a wrapper word, the header, the arguments (R430). -/
def innerCmd (p : Nat) (g : Byte) (ws : List Word) : TakenCmd :=
  let h := ws.getD 1 0
  ⟨h, (ws.drop 2).take (bitsOf h.toNat 16 8), some (p, bitsOf (ws.getD 0 0).toNat 0 2, g)⟩

/-- Application data: the command that it holds passes the CP's checks, and its own row carries it out. -/
def State.securedData (s : State) (m p : Nat) (t : TakenCmd) : State :=
  let n := tabGet 0 s.sec.seqIn p
  let ws := wordsOfBytes (Config.spdmOpen (tabGet 0 s.sec.sessionKeys p) n t.message)
  let s : State := { s with sec := { s.sec with seqIn := tabSet 0 s.sec.seqIn p (n + 1) } }
  let c := innerCmd p t.tag ws
  if (ws.getD 0 0).toNat / 4 ≠ 0 ∨ ws.length < 2 then s.answer m c Status.badArg []
  else (s.modMb m fun b => { b with taken := none }).takeCmd m c

/-- SEC_SPDM. -/
def execSecSpdm (mb : MailboxNum) (s : State) : Host.Outcome State Fault Refusal :=
  let m := mb.toNat
  .next (s.onTaken m 0x60 fun t =>
    match s.secureOf m with
    | none => s.answer m t Status.denied []
    | some p =>
      let len := bitsOf (t.arg 0) 0 10
      if len = 0 ∨ 1012 < len then s.answer m t Status.badArg []
      else
        let keys := tabGet 0 s.sec.sessionKeys p
        let kind := Config.spdmKind s.free keys (tabGet 0 s.sec.seqIn p) t.message
        let st := s.partState p
        if s.occupied m ∧ kind ≠ 3 then s.answer m t Status.busy []
        else if kind = 1 ∧ st = 0 then s.keyExchange m p t
        else if kind = 2 ∧ st = 0 ∧ tabGet false s.sec.kex p then (s.spdmAnswer m p t).openSession p
        else if kind = 3 ∧ st = 1 then (s.spdmAnswer m p t).endSession p
        else if kind = 4 ∧ st = 1 then s.securedData m p t
        else if kind = 5 ∧ st = 1 then s.secTagFail.spdmAnswer m p t
        else s.spdmAnswer m p t)

/-! ## SEC_REPORT (R417, R419, R420) -/

/-- SEC_REPORT. -/
def execSecReport (mb : MailboxNum) (s : State) : Host.Outcome State Fault Refusal :=
  let m := mb.toNat
  .next (s.onTaken m 0x61 fun t =>
    let part := bitsOf (t.arg 0) 0 8
    if s.dcbF Dcb.secLcs 0 2 = 2 then s.answer m t Status.denied []
    else if (7 < part ∧ part ≠ 0xFF) ∨ (part ≤ 7 ∧ !s.partValid part) then s.answer m t Status.badArg []
    else if s.occupied m then s.answer m t Status.busy []
    else
      let body := s.reportBody part (wordBytes (t.args.drop 1))
      let sig := ecdsaSign s.sec.aliasKey (sha384 body)
      s.answer m t Status.ok (wordsOfBytes (body ++ octets sig 0 96)))

/-! ## SEC_CTRREAD (R439, Table 15-8) -/

/-- SEC_CTRREAD. -/
def execSecCtrread (mb : MailboxNum) (s : State) : Host.Outcome State Fault Refusal :=
  let m := mb.toNat
  .next (s.onTaken m 0x62 fun t =>
    let a := t.arg64 0
    if a < dcbBase ∨ !globalCounter (a - dcbBase) then s.answer m t Status.badArg []
    else if s.occupied m then s.answer m t Status.busy []
    else s.answer m t Status.ok (wordsOf (s.dcbReg (a - dcbBase)).toNat))

/-! ## SEC_LIFECYCLE (R440) -/

/-- The signature of a return token holds, under the key whose hash is fused. -/
def State.returnTokenOk (s : State) (sig : List Byte) : Bool :=
  sha384 Config.returnKey == (List.range 12).flatMap (fun w => bytesOf 4 (s.dcbReg (Dcb.secRetkey w)).toNat) &&
    s.sec.challenge != [] &&
    ecdsaVerify Config.returnKey (sha384 (bytesOf 8 (s.dcbReg Dcb.secSerial).toNat ++ s.sec.challenge)) sig

/-- The state with a new challenge of four free doublewords. -/
def State.newChallenge (s : State) : State :=
  { s with
    free := s.free + 4
    sec := { s.sec with challenge := (List.range 4).flatMap fun i => bytesOf 8 (Config.freeValue (s.free + i)).toNat } }

/-- SEC_LIFECYCLE. -/
def execSecLifecycle (mb : MailboxNum) (s : State) : Host.Outcome State Fault Refusal :=
  let m := mb.toNat
  .next (s.onTaken m 0x63 fun t =>
    let op := bitsOf (t.arg 0) 0 2
    if 2 ≤ op then s.answer m t Status.badArg []
    else if s.occupied m then s.answer m t Status.busy []
    else if s.anyConf ∨ s.dcbF Dcb.secLcs 0 2 ≠ 1 then s.answer m t Status.refused []
    else if op = 0 then
      let s := s.newChallenge
      s.answer m t Status.ok (wordsOfBytes s.sec.challenge)
    else if s.returnTokenOk (wordBytes (t.args.drop 1)) then (s.setDcbF Dcb.secLcs 4 1 1).answer m t Status.ok []
    else s.answer m t Status.refused [])

/-! ## SEC_KEYSET and SEC_KEYDEL (R432) -/

/-- The key in eight argument words, its first byte in the low byte of the first word. -/
def TakenCmd.key (t : TakenCmd) (i : Nat) : BitVec 256 := BitVec.ofNat 256 (beNat (octets (wordBytes (t.args.drop i)) 0 32))

/-- SEC_KEYSET. -/
def execSecKeyset (mb : MailboxNum) (s : State) : Host.Outcome State Fault Refusal :=
  let m := mb.toNat
  .next (s.onTaken m 0x64 fun t =>
    match t.session with
    | none => s.answer m t Status.denied []
    | some (p, k, _) =>
      if s.occupied m ∨ s.keySetHeld p k then s.answer m t Status.busy []
      else
        (s.setKeySet p k { KeySet.reset with wkey := t.key 0, xkey := t.key 8, tkey := t.key 16, installed := true }).answer m t
          Status.ok [])

/-- SEC_KEYDEL. -/
def execSecKeydel (mb : MailboxNum) (s : State) : Host.Outcome State Fault Refusal :=
  let m := mb.toNat
  .next (s.onTaken m 0x65 fun t =>
    match t.session with
    | none => s.answer m t Status.denied []
    | some (p, k, _) =>
      if s.occupied m ∨ s.keySetHeld p k then s.answer m t Status.busy []
      else (s.setKeySet p k KeySet.reset).answer m t Status.ok [])

/-! ## SEC_IMPORT and SEC_EXPORT (R433 to R435) -/

/-- A byte of the range lies in a confidential partition. -/
def State.touchesConf (s : State) (a n : Nat) : Bool :=
  if a < 0xC000000000 then
    (List.range 8).any fun g => decide (a < stackGroupBytes * (g + 1)) && decide (stackGroupBytes * g < a + n) &&
      (s.stackPart g).any fun p => s.partConf p
  else
    (List.range 16).any fun i =>
      let lo := 0x10000000000 + 0x2000000 * i
      decide (a < lo + 0x2000000) && decide (lo < a + n) && (s.slicePart (64 * i)).any fun p => s.partConf p

/-- LEN is a multiple of 64 from 64 to 2^28, and the addresses are multiples of 64. -/
def xferShapeOk (src dest len : Nat) : Bool :=
  src % 64 == 0 && dest % 64 == 0 && len % 64 == 0 && decide (64 ≤ len) && decide (len ≤ 2 ^ 28)

/-- The highest IV[31:0] accepted for a key set, imports that run included. -/
def State.lastIvOf (s : State) (p k : Nat) : Nat :=
  ((s.sec.xfers.filterMap fun e => e.2.bind fun x =>
    if x.import_ ∧ x.part = p ∧ x.keyset = k then some (bitsOf x.iv.toNat 0 32) else none)).foldl max (s.keySet p k).lastIv

/-- The AAD of a transfer. -/
def xferAad (dest len p k : Nat) : List Byte := bytesOf 8 dest ++ bytesOf 4 len ++ bytesOf 1 p ++ bytesOf 1 k ++ zeros 2

/-- SEC_IMPORT: accepted, it runs until SEC_IMPORT_DONE. -/
def execSecImport (mb : MailboxNum) (s : State) : Host.Outcome State Fault Refusal :=
  let m := mb.toNat
  .next (s.onTaken m 0x66 fun t =>
    match t.session with
    | none => s.answer m t Status.denied []
    | some (p, k, _) =>
      let src := t.arg64 0
      let dest := t.arg64 2
      let len := t.arg 4
      let iv := t.arg64 5 + t.arg 7 * 2 ^ 64
      if !xferShapeOk src dest len ∨ !inMemory src len ∨ s.touchesConf src len ∨
          !s.rangeIn (BitVec.ofNat 8 (2 ^ p)) dest len then s.answer m t Status.badArg []
      else if s.occupied m then s.answer m t Status.busy []
      else if bitsOf iv 0 32 ≤ s.lastIvOf p k then
        (s.setDcbBits Dcb.secFlags 0x4).answer m t Status.refused []
      else if !(s.keySet p k).installed then s.answer m t Status.refused []
      else
        (s.accept m t).setXfer m (some ⟨true, p, k, src, dest, len, BitVec.ofNat 96 iv,
          BitVec.ofNat 128 (natOf (octets (wordBytes (t.args.drop 8)) 0 16))⟩))

/-- SEC_IMPORT_DONE: the tag holds and DEST is the plaintext, or DEST is zeroed (R433). The FAULT names record 0 (DESIGN CHOICE, log
entry 83). -/
def execSecImportDone (mb : MailboxNum) (s : State) : Host.Outcome State Fault Refusal :=
  let m := mb.toNat
  match s.xfer m with
  | none => .next s
  | some x =>
    if !x.import_ then .next s
    else
      let ks := s.keySet x.part x.keyset
      let s := s.setXfer m none
      match gcmOpen (beBytes 32 ks.wkey.toNat) (beBytes 12 x.iv.toNat) (xferAad x.dest x.len x.part x.keyset)
          (bytesRead s.mem x.src x.len) (bytesOf 16 x.tag.toNat) with
      | some pt =>
        let s := s.setKeySet x.part x.keyset { ks with lastIv := bitsOf x.iv.toNat 0 32 }
        .next ((s.putBytes x.dest pt).complete m Status.ok [] 0)
      | none => .next ((s.putBytes x.dest (zeros x.len)).secTagFail.complete m Status.fault [] 0)

/-- SEC_EXPORT: accepted, it runs until SEC_EXPORT_DONE; the export count is used up. -/
def execSecExport (mb : MailboxNum) (s : State) : Host.Outcome State Fault Refusal :=
  let m := mb.toNat
  .next (s.onTaken m 0x67 fun t =>
    match t.session with
    | none => s.answer m t Status.denied []
    | some (p, k, _) =>
      let src := t.arg64 0
      let dest := t.arg64 2
      let len := t.arg 4
      let ks := s.keySet p k
      if !xferShapeOk src dest len ∨ !s.rangeIn (BitVec.ofNat 8 (2 ^ p)) src len ∨ !inMemory dest len ∨
          s.touchesConf dest len then s.answer m t Status.badArg []
      else if s.occupied m then s.answer m t Status.busy []
      else if 2 ^ 32 ≤ ks.exports + 1 ∨ !ks.installed then s.answer m t Status.refused []
      else
        ((s.accept m t).setKeySet p k { ks with exports := ks.exports + 1 }).setXfer m (some ⟨false, p, k, src, dest, len,
          BitVec.ofNat 96 (p * 2 ^ 88 + k * 2 ^ 80 + ks.exports), 0⟩))

/-- SEC_EXPORT_DONE: DEST is the ciphertext; the response holds the IV and the tag (R434). -/
def execSecExportDone (mb : MailboxNum) (s : State) : Host.Outcome State Fault Refusal :=
  let m := mb.toNat
  match s.xfer m with
  | none => .next s
  | some x =>
    if x.import_ then .next s
    else
      let ks := s.keySet x.part x.keyset
      let r := gcmSeal (beBytes 32 ks.xkey.toNat) (beBytes 12 x.iv.toNat) (xferAad x.dest x.len x.part x.keyset)
        (bytesRead s.mem x.src x.len)
      let words := (List.range 3).map (fun i => BitVec.ofNat 32 (x.iv.toNat >>> (32 * i))) ++ wordsOfBytes (octets r.2 0 16)
      .next (((s.setXfer m none).putBytes x.dest r.1).complete m Status.ok words 0)

/-! ## The scrub (R426, R427) -/

/-- A job of the partition has not ended. -/
def State.partBusy (s : State) (p : Nat) : Bool :=
  s.jobs.any fun e => e.2.parts.toNat.testBit p &&
    (match e.2.st with
      | .waiting | .armed | .admitted | .running => true
      | .suspended => e.2.save.isSome
      | _ => false)

/-- The core's storage that the first beat of the scrub clears. -/
def CoreState.scrub (k : CoreState) : CoreState :=
  { k with
    store := k.store.filter fun e => decide (Win.schedule ≤ e.1) && decide (e.1 < 0xF00000)
    spins := [], snap := [], hold := [], feltWrites := [], staged := [] }

/-- SCRUB_START: at the boundary after the partition's last job has ended its cores are cleared. -/
def execScrubStart (part : BitVec 3) (s : State) : Host.Outcome State Fault Refusal :=
  let p := part.toNat
  if s.partState p = 2 ∧ !s.partBusy p ∧ tabGet none s.sec.scrub p = none then
    let s := s.cores.foldl (fun s e => if s.partHasCluster p (clusterOf e.1) then s.modCore e.1 CoreState.scrub else s) s
    .next { s with sec := { s.sec with scrub := tabSet none s.sec.scrub p (some s.beat) } }
  else .next s

/-- The partition's slices and HBM are zero. -/
def State.scrubMemory (s : State) (p : Nat) : State :=
  let inPart (a : Nat) : Bool := match regionOf a with
    | .hbm _ => s.partHasStack p (stackGroup a)
    | .slice x => s.partHasSlice p x
    | _ => false
  { s with mem := s.mem.filter fun e => !inPart e.1, badWords := s.badWords.filter fun e => !inPart (64 * e.1) }

/-- SCRUB_DONE: memory is zero and the partition is IDLE. -/
def execScrubDone (part : BitVec 3) (s : State) : Host.Outcome State Fault Refusal :=
  let p := part.toNat
  if s.partState p = 2 ∧ (tabGet none s.sec.scrub p).isSome then
    let s := s.scrubMemory p
    .next (State.setPartState { s with sec := { s.sec with
      scrub := tabSet none s.sec.scrub p none, sessionKeys := tabSet 0 s.sec.sessionKeys p 0 } } p 0)
  else .next s

end Sys2Proof.Machine
end

