-- ==== Sys2Proof/Machine/Dispatch.lean ====
section
/-! DEFINITION. One arm per command: the meaning that carries it out. -/

namespace Sys2Proof.Machine

def exec (i : Instr) (s : State) : Host.Outcome State Fault Refusal :=
  match i with
  | .beatBoundary => Sys2Proof.Machine.execBeatBoundary s
  | .deadlockDetect core => Sys2Proof.Machine.execDeadlockDetect core s
  | .issue core thread => Sys2Proof.Machine.execIssue core thread s
  | .wait core thread => Sys2Proof.Machine.execWait core thread s
  | .waitRelease core thread => Sys2Proof.Machine.execWaitRelease core thread s
  | .sig core thread => Sys2Proof.Machine.execSig core thread s
  | .scoreboardIncrement core => Sys2Proof.Machine.execScoreboardIncrement core s
  | .arrive core thread => Sys2Proof.Machine.execArrive core thread s
  | .rwait core thread => Sys2Proof.Machine.execRwait core thread s
  | .rwaitRelease core thread => Sys2Proof.Machine.execRwaitRelease core thread s
  | .rally core thread => Sys2Proof.Machine.execRally core thread s
  | .mark core thread => Sys2Proof.Machine.execMark core thread s
  | .feltRun core => Sys2Proof.Machine.execFeltRun core s
  | .feltQscan core => Sys2Proof.Machine.execFeltQscan core s
  | .feltQconv core => Sys2Proof.Machine.execFeltQconv core s
  | .rotStore core => Sys2Proof.Machine.execRotStore core s
  | .rotLoad core => Sys2Proof.Machine.execRotLoad core s
  | .exchSend core => Sys2Proof.Machine.execExchSend core s
  | .feltBetaSet core => Sys2Proof.Machine.execFeltBetaSet core s
  | .exchangeBeat handle => Sys2Proof.Machine.execExchangeBeat handle s
  | .replicaExchangeDecide handle => Sys2Proof.Machine.execReplicaExchangeDecide handle s
  | .stagingMove core => Sys2Proof.Machine.execStagingMove core s
  | .feMma core => Sys2Proof.Machine.execFeMma core s
  | .feOut core => Sys2Proof.Machine.execFeOut core s
  | .feBern core => Sys2Proof.Machine.execFeBern core s
  | .napFill core => Sys2Proof.Machine.execNapFill core s
  | .catDraw core => Sys2Proof.Machine.execCatDraw core s
  | .accStore core => Sys2Proof.Machine.execAccStore core s
  | .accLoad core => Sys2Proof.Machine.execAccLoad core s
  | .accRed core => Sys2Proof.Machine.execAccRed core s
  | .nodeAdd port => Sys2Proof.Machine.execNodeAdd port s
  | .lsMove core => Sys2Proof.Machine.execLsMove core s
  | .sliceWriteLand port err => Sys2Proof.Machine.execSliceWriteLand port err s
  | .readDataDeliver core err => Sys2Proof.Machine.execReadDataDeliver core err s
  | .hbmAccess pc err => Sys2Proof.Machine.execHbmAccess pc err s
  | .hbmRefresh pc => Sys2Proof.Machine.execHbmRefresh pc s
  | .phyMaintenance pc => Sys2Proof.Machine.execPhyMaintenance pc s
  | .stewardAccess write size addr data err => Sys2Proof.Machine.execStewardAccess write size addr data err s
  | .registerWrite size addr value => Sys2Proof.Machine.execRegisterWrite size addr value s
  | .jobContainedEnd handle => Sys2Proof.Machine.execJobContainedEnd handle s
  | .fatalEnd => Sys2Proof.Machine.execFatalEnd s
  | .fenceApply core => Sys2Proof.Machine.execFenceApply core s
  | .clusterFence cluster => Sys2Proof.Machine.execClusterFence cluster s
  | .doorbell mb => Sys2Proof.Machine.execDoorbell mb s
  | .ack mb => Sys2Proof.Machine.execAck mb s
  | .mbCommandTake => Sys2Proof.Machine.execMbCommandTake s
  | .mbResponseWrite mb => Sys2Proof.Machine.execMbResponseWrite mb s
  | .jobAdmit mb => Sys2Proof.Machine.execJobAdmit mb s
  | .jobCancel mb => Sys2Proof.Machine.execJobCancel mb s
  | .jobStatus mb => Sys2Proof.Machine.execJobStatus mb s
  | .schedInfo mb => Sys2Proof.Machine.execSchedInfo mb s
  | .ctxSave mb => Sys2Proof.Machine.execCtxSave mb s
  | .ctxSuspend handle => Sys2Proof.Machine.execCtxSuspend handle s
  | .ctxSaveDone handle => Sys2Proof.Machine.execCtxSaveDone handle s
  | .ctxRestore mb => Sys2Proof.Machine.execCtxRestore mb s
  | .admission handle => Sys2Proof.Machine.execAdmission handle s
  | .launchDeadlineWithdraw handle => Sys2Proof.Machine.execLaunchDeadlineWithdraw handle s
  | .jobStart handle => Sys2Proof.Machine.execJobStart handle s
  | .jobDone handle => Sys2Proof.Machine.execJobDone handle s
  | .goSend token => Sys2Proof.Machine.execGoSend token s
  | .goTimeoutWithdraw handle => Sys2Proof.Machine.execGoTimeoutWithdraw handle s
  | .baseSend token => Sys2Proof.Machine.execBaseSend token s
  | .cfgOverlay mb => Sys2Proof.Machine.execCfgOverlay mb s
  | .overlayApply => Sys2Proof.Machine.execOverlayApply s
  | .entRead mb => Sys2Proof.Machine.execEntRead mb s
  | .entReadComplete mb => Sys2Proof.Machine.execEntReadComplete mb s
  | .entRestart mb => Sys2Proof.Machine.execEntRestart mb s
  | .napEval mb => Sys2Proof.Machine.execNapEval mb s
  | .coreFence mb => Sys2Proof.Machine.execCoreFence mb s
  | .distRead mb => Sys2Proof.Machine.execDistRead mb s
  | .entSample sample => Sys2Proof.Machine.execEntSample sample s
  | .startupTestEnd katOk => Sys2Proof.Machine.execStartupTestEnd katOk s
  | .drbgInstantiate => Sys2Proof.Machine.execDrbgInstantiate s
  | .estWindow => Sys2Proof.Machine.execEstWindow s
  | .privateWireRequest link => Sys2Proof.Machine.execPrivateWireRequest link s
  | .privateWireServe => Sys2Proof.Machine.execPrivateWireServe s
  | .entTrimWrite fromCp n value => Sys2Proof.Machine.execEntTrimWrite fromCp n value s
  | .entTestWrite value => Sys2Proof.Machine.execEntTestWrite value s
  | .linkFrameTx port => Sys2Proof.Machine.execLinkFrameTx port s
  | .linkFrameRx port frame late => Sys2Proof.Machine.execLinkFrameRx port frame late s
  | .linkUp port rounds peerModule peerPort => Sys2Proof.Machine.execLinkUp port rounds peerModule peerPort s
  | .linkDown port => Sys2Proof.Machine.execLinkDown port s
  | .beatLock align => Sys2Proof.Machine.execBeatLock align s
  | .beatLockLoss => Sys2Proof.Machine.execBeatLockLoss s
  | .counterLoad => Sys2Proof.Machine.execCounterLoad s
  | .lockstepCompare => Sys2Proof.Machine.execLockstepCompare s
  | .sidelineFrame => Sys2Proof.Machine.execSidelineFrame s
  | .dieEventSend source => Sys2Proof.Machine.execDieEventSend source s
  | .dieInterruptMessage => Sys2Proof.Machine.execDieInterruptMessage s
  | .stewardEdge source => Sys2Proof.Machine.execStewardEdge source s
  | .levelSourceChange source asserted => Sys2Proof.Machine.execLevelSourceChange source asserted s
  | .icClaim ctx => Sys2Proof.Machine.execIcClaim ctx s
  | .icComplete ctx source => Sys2Proof.Machine.execIcComplete ctx source s
  | .icSwset source => Sys2Proof.Machine.execIcSwset source s
  | .icSrcWrite source value => Sys2Proof.Machine.execIcSrcWrite source value s
  | .icThreshWrite ctx value => Sys2Proof.Machine.execIcThreshWrite ctx value s
  | .fabricClockStop => Sys2Proof.Machine.execFabricClockStop s
  | .fabricClockRestart => Sys2Proof.Machine.execFabricClockRestart s
  | .ucieLinkDown => Sys2Proof.Machine.execUcieLinkDown s
  | .ucieLinkUp => Sys2Proof.Machine.execUcieLinkUp s
  | .bootGo => Sys2Proof.Machine.execBootGo s
  | .fwVerifyDone => Sys2Proof.Machine.execFwVerifyDone s
  | .bootReady trained faulty => Sys2Proof.Machine.execBootReady trained faulty s
  | .whistleSound source => Sys2Proof.Machine.execWhistleSound source s
  | .whistleStop => Sys2Proof.Machine.execWhistleStop s
  | .hangSnapshot core => Sys2Proof.Machine.execHangSnapshot core s
  | .dbgWhistle mb => Sys2Proof.Machine.execDbgWhistle mb s
  | .dbgScanout mb => Sys2Proof.Machine.execDbgScanout mb s
  | .dbgRelease mb => Sys2Proof.Machine.execDbgRelease mb s
  | .dbgSnapshot mb => Sys2Proof.Machine.execDbgSnapshot mb s
  | .dbgWatch mb => Sys2Proof.Machine.execDbgWatch mb s
  | .dbgWatchread mb => Sys2Proof.Machine.execDbgWatchread mb s
  | .secSpdm mb => Sys2Proof.Machine.execSecSpdm mb s
  | .secReport mb => Sys2Proof.Machine.execSecReport mb s
  | .secCtrread mb => Sys2Proof.Machine.execSecCtrread mb s
  | .secLifecycle mb => Sys2Proof.Machine.execSecLifecycle mb s
  | .secKeyset mb => Sys2Proof.Machine.execSecKeyset mb s
  | .secKeydel mb => Sys2Proof.Machine.execSecKeydel mb s
  | .secImport mb => Sys2Proof.Machine.execSecImport mb s
  | .secExport mb => Sys2Proof.Machine.execSecExport mb s
  | .scrubStart part => Sys2Proof.Machine.execScrubStart part s
  | .scrubDone part => Sys2Proof.Machine.execScrubDone part s
  | .errAck mb => Sys2Proof.Machine.execErrAck mb s
  | .errInject mb => Sys2Proof.Machine.execErrInject mb s
  | .stwReset mb => Sys2Proof.Machine.execStwReset mb s
  | .stewardReset => Sys2Proof.Machine.execStewardReset s
  | .coldResetAssert cause => Sys2Proof.Machine.execColdResetAssert cause s
  | .coldResetRelease => Sys2Proof.Machine.execColdResetRelease s
  | .clockLoss => Sys2Proof.Machine.execClockLoss s
  | .tapReset => Sys2Proof.Machine.execTapReset s
  | .railPowerGood rail => Sys2Proof.Machine.execRailPowerGood rail s
  | .shutdown index => Sys2Proof.Machine.execShutdown index s
  | .powerWindow input rails => Sys2Proof.Machine.execPowerWindow input rails s
  | .powerReadingWindow input parts rails => Sys2Proof.Machine.execPowerReadingWindow input parts rails s
  | .thermalThreshold sensor temp => Sys2Proof.Machine.execThermalThreshold sensor temp s
  | .operation value => Sys2Proof.Machine.execOperation value s
  | .clearFaults => Sys2Proof.Machine.execClearFaults s
  | .capability => Sys2Proof.Machine.execCapability s
  | .pmbusRevision => Sys2Proof.Machine.execPmbusRevision s
  | .statusWord => Sys2Proof.Machine.execStatusWord s
  | .readVin => Sys2Proof.Machine.execReadVin s
  | .readIin => Sys2Proof.Machine.execReadIin s
  | .readPin => Sys2Proof.Machine.execReadPin s
  | .readTemperature1 => Sys2Proof.Machine.execReadTemperature1 s
  | .readTemperature2 => Sys2Proof.Machine.execReadTemperature2 s
  | .readTemperature3 => Sys2Proof.Machine.execReadTemperature3 s
  | .mfrId => Sys2Proof.Machine.execMfrId s
  | .mfrModel => Sys2Proof.Machine.execMfrModel s
  | .mfrSerial => Sys2Proof.Machine.execMfrSerial s
  | .mfrGradeMap => Sys2Proof.Machine.execMfrGradeMap s
  | .mfrDclass => Sys2Proof.Machine.execMfrDclass s
  | .mfrRstCause => Sys2Proof.Machine.execMfrRstCause s
  | .mfrColdReset value => Sys2Proof.Machine.execMfrColdReset value s
  | .mfrWhistle value => Sys2Proof.Machine.execMfrWhistle value s
  | .mfrStwReset value => Sys2Proof.Machine.execMfrStwReset value s
  | .mfrLastFatal => Sys2Proof.Machine.execMfrLastFatal s
  | .mfrPartPower => Sys2Proof.Machine.execMfrPartPower s
  | .pmbusInvalidCommand code => Sys2Proof.Machine.execPmbusInvalidCommand code s
  | .flCmd value => Sys2Proof.Machine.execFlCmd value s
  | .flashOpDone err data => Sys2Proof.Machine.execFlashOpDone err data s
  | .ethTransmit port => Sys2Proof.Machine.execEthTransmit port s
  | .ethReceive port frame fcsOk codewords => Sys2Proof.Machine.execEthReceive port frame fcsOk codewords s
  | .scanoutDone => Sys2Proof.Machine.execScanoutDone s
  | .secImportDone mb => Sys2Proof.Machine.execSecImportDone mb s
  | .secExportDone mb => Sys2Proof.Machine.execSecExportDone mb s
  | .sidelineTrainDone => Sys2Proof.Machine.execSidelineTrainDone s
  | .ethLinkChange port link pcsLock => Sys2Proof.Machine.execEthLinkChange port link pcsLock s
  | .vin48Loss => Sys2Proof.Machine.execVin48Loss s
  | .cpFault => Sys2Proof.Machine.execCpFault s
  | .logicFault fault => Sys2Proof.Machine.execLogicFault fault s

end Sys2Proof.Machine
end

