-- ==== Sys2Proof/Safety.lean ====
section
/-! DEFINITION. What counts as a safe run, and the kinds of commands that the statements speak of: which commands move the
clock, which may store to memory, which act on one core, which a mailbox carries. -/

namespace Sys2Proof.Machine

/-- What every step keeps: the cycle is one of 0 to 749 (R52), and memory has its canonical form. -/
def State.Sound (s : State) : Prop := s.cycle < 750 ∧ Memory.wf s.mem = true

/-- A run of `k` steps is safe when it meets no fault and no refusal. -/
def safeRun (k : Nat) (s : State) : Prop :=
  match k with
  | 0 => True
  | n + 1 => ∃ t, step s = .next t ∧ safeRun n t

/-- A well-formed access of the device window of a size or an alignment that the UCIe link does not carry (R362). -/
def badAccess (c : Instr) (s : State) : Bool :=
  let bad (size a : Nat) := c.wf && !s.power.coldReset && (deviceAddr a).isSome && !ucieOk size a
  match c with
  | .stewardAccess _ size addr _ _ => bad size addr.toNat
  | .registerWrite size addr _ => bad size addr.toNat
  | _ => false

/-- The commands that may change the beat or the cycle: the boundary itself, beat lock, the stop of the Whistle, and what may
assert cold reset or take the power away. -/
def movesClock (c : Instr) : Bool :=
  match c with
  | .beatBoundary | .beatLock _ | .counterLoad | .whistleStop | .coldResetAssert _ | .clockLoss | .vin48Loss | .shutdown _
  | .operation _ | .mfrColdReset _ | .thermalThreshold _ _ => true
  | _ => false

/-- The commands that may store to memory: landings, accesses of the steward, which the clock serves in their slots, and of its MACs,
records and transfers that are written, clearing, and a loss of power. -/
def storesMemory (c : Instr) : Bool :=
  match c with
  | .sliceWriteLand _ _ | .hbmAccess _ _ | .nodeAdd _ | .linkFrameRx _ _ _ | .stewardAccess _ _ _ _ _ | .registerWrite _ _ _
  | .ethTransmit _ | .ethReceive _ _ _ _ | .ctxSaveDone _ | .dbgScanout _ | .secImportDone _ | .secExportDone _ | .scrubDone _
  | .bootReady _ _ | .coldResetAssert _ | .clockLoss | .vin48Loss | .shutdown _ | .operation _ | .mfrColdReset _
  | .thermalThreshold _ _ | .beatBoundary | .whistleStop => true
  | _ => false

/-- The core of a command of the sequencer. -/
def threadCore (c : Instr) : Option CoreNum :=
  match c with
  | .issue n _ | .wait n _ | .waitRelease n _ | .sig n _ | .scoreboardIncrement n | .arrive n _ | .rwait n _ | .rwaitRelease n _
  | .rally n _ | .mark n _ | .deadlockDetect n => some n
  | _ => none

/-- The core of a command of an engine that changes no other core. -/
def engineCore (c : Instr) : Option CoreNum :=
  match c with
  | .feltQscan n | .feltQconv n | .rotStore n | .rotLoad n | .feltBetaSet n | .stagingMove n | .feMma n | .feOut n | .feBern n
  | .napFill n | .catDraw n | .accStore n | .accLoad n | .accRed n | .lsMove n => some n
  | _ => none

/-- The mailbox of a command that the CP carries out at its check. SEC_SPDM, whose messages have a state of their own, and SEC_IMPORT,
whose refusal sets a flag (R433), are left out. -/
def checkedMailbox (c : Instr) : Option MailboxNum :=
  match c with
  | .jobAdmit m | .jobCancel m | .jobStatus m | .schedInfo m | .ctxSave m | .ctxRestore m | .cfgOverlay m | .entRead m
  | .entRestart m | .napEval m | .coreFence m | .distRead m | .dbgWhistle m | .dbgScanout m | .dbgRelease m | .dbgSnapshot m
  | .dbgWatch m | .dbgWatchread m | .secReport m | .secCtrread m | .secLifecycle m | .secKeyset m | .secKeydel m | .secExport m
  | .errAck m | .errInject m | .stwReset m => some m
  | _ => none

/-- The write transfer that a command on core `c` launches through its slot. -/
def writeTransfer (s : State) (c : Nat) (h : Handle) (slot : Nat × Word) (a n : Nat) (fill : WriteData) (target : WriteTarget)
    (data : Granule) : Transfer :=
  ⟨c, 4, h, true, slotHbm slot.2, slotPort slot.2, a, s.beat, slot.1, accessAt c slot.1 slot.2, firstBytes n, data,
    slotKind slot.2 != 1, false, .scratch 0 0, fill, target⟩

/-- The transfer as it stands once its command has launched it: one whose slot has come has its data. -/
def launched (s : State) (x : Transfer) : Transfer :=
  if x.leaves s.now then { x with data := (s.fillData x).1, fill := .ready } else x

/-- The read transfer into scratch that a command on core `c` launches through its slot. -/
def readTransfer (s : State) (c : Nat) (h : Handle) (slot : Nat × Word) (a off n : Nat) : Transfer :=
  ⟨c, 4, h, false, slotHbm slot.2, slotPort slot.2, a, s.beat, slot.1, accessAt c slot.1 slot.2, firstBytes n, 0, false,
    slotKind slot.2 != 0, .scratch off n, .ready, .memory⟩

/-- The `n` bytes from address `a` are those of the number `v`, little-endian, and every other byte is as before. -/
def bytesLanded (before after : Bytes) (a n v : Nat) : Prop :=
  ∀ b : Nat, byteAt after b = if a ≤ b ∧ b < a + n then BitVec.ofNat 8 (v >>> (8 * (b - a))) else byteAt before b

/-- The CP holds a command of this opcode from mailbox `m`, which it has taken and has yet to carry out. -/
def holds (s : State) (m : MailboxNum) (opcode : Nat) (x : TakenCmd) : Prop :=
  (s.mb m.toNat).taken = some x ∧ x.opcode = opcode

/-- In `t` the command that the CP held from mailbox `m` has its response: this status and these words, ready to be written. -/
def answered (s t : State) (m : MailboxNum) (x : TakenCmd) (status : Nat) (words : List Word) : Prop :=
  (t.mb m.toNat).taken = none ∧
    (t.mb m.toNat).ready = (s.mb m.toNat).ready ++ [⟨false, BitVec.ofNat 8 status, x.tag, words, 0, x.session⟩]

/-- In `t` the accepted command of mailbox `m` has its response. -/
def completed (s t : State) (m : Nat) (x : TakenCmd) (status : Nat) (words : List Word) (record : Word) : Prop :=
  (t.mb m).waiting = none ∧
    (t.mb m).ready = (s.mb m).ready ++ [⟨true, BitVec.ofNat 8 status, x.tag, words, record, x.session⟩]

end Sys2Proof.Machine
end

