-- ==== Sys2Proof/Certificates/Slice0/Obligations.lean ====
section
/-! DEFINITION. The statements for the provers, each listed in OBLIGATIONS.json under the same number. -/

open Sys2Proof Sys2Proof.Machine


/-- O1. A step carries out the command at the front of the queue; on an empty queue the clock ticks. For every command
c, every queue rest and every state s: the step of s with c in front of rest is exec c on s with the queue rest. With
an empty queue the step answers the tick (the model's choice, log entry 1). -/
def Obligations.StepRunsTheFrontCommand : Prop :=
  (∀ (c : Instr) (rest : List Instr) (s : State),
    step { s with pending := c :: rest } = exec c { s with pending := rest }) ∧
  (∀ s : State, s.pending = [] → step s = .next s.tick)

/-- O2. The state right after reset: counter 0:0, empty queues, and the reset values of the tables. State.reset is at
beat 0, cycle 0, with no command waiting, no job, no transfer in flight, no doorbell and handle 1 next.
BOOT_STAT.STATE is LOAD (0), the entropy source is in STARTUP with every trim code 8, every link port is OFF, PWR_CTRL
and THERM_CTRL hold their reset values, no interrupt source has a priority or is pending, no context is enabled, and
on every core FELT_SIZE is 64 by 64, FELT_PERM the identity and FELT_XCFG.LAG 2. Cold reset is not asserted and the
die is not halted. -/
def Obligations.ResetHoldsTheTablesValues : Prop :=
  State.reset.beat = 0 ∧ State.reset.cycle = 0 ∧ State.reset.pending = [] ∧ State.reset.jobs = [] ∧
  State.reset.transfers = [] ∧ State.reset.cp.doorbells = [] ∧ State.reset.cp.nextHandle = 1 ∧
  State.reset.bootState = 0 ∧ State.reset.entState = 1 ∧
  (∀ n < 4, State.reset.dcbReg (Dcb.entTrim n) = 0x8888888888888888) ∧
  (∀ l < 16, State.reset.linkState l = 0) ∧
  State.reset.dcbF Dcb.pwrCtrl 0 12 = 0xAC3 ∧ State.reset.dcbF Dcb.thermCtrl 0 8 = 0x5F ∧
  State.reset.dcbF Dcb.thermCtrl 8 8 = 0x4B ∧
  (∀ n : Nat, (State.reset.icSrc n).prio = 0 ∧ (State.reset.icSrc n).pend = false) ∧
  (∀ x : Nat, (State.reset.icCtx x).en = false) ∧
  (∀ c : Nat, (State.reset.core c).reg Reg.feltSize = 0x4040 ∧
    (State.reset.core c).reg Reg.feltPerm = 0xFEDCBA9876543210 ∧ (State.reset.core c).regF Reg.feltXcfg 8 6 = 2) ∧
  State.reset.power.coldReset = false ∧ State.reset.halted = false

/-- O3. The invariant of the machine holds right after reset. State.reset is Sound: its cycle is below 750 and its
memory has the canonical form. -/
def Obligations.ResetIsSound : Prop :=
  State.reset.Sound

/-- O4. Every step that answers a next state keeps the cycle below 750 and memory canonical. For every state s that is
Sound (cycle 0 to 749, memory in canonical form): if a step of s, with any command in front of the queue or with none,
answers a next state t, then t is Sound. -/
def Obligations.EveryStepKeepsTheStateSound : Prop :=
  ∀ s t : State, s.Sound → step s = .next t → t.Sound

/-- O5. No command adds to, removes from or reorders the commands that wait. For every command c and state s: if exec
c s answers a next state t, then t holds the same waiting commands in the same order as s. With
StepRunsTheFrontCommand: a step takes exactly the front command. -/
def Obligations.EveryCommandLeavesTheQueue : Prop :=
  ∀ (c : Instr) (s t : State), exec c s = .next t → t.pending = s.pending

/-- O6. Beat and cycle stand under every command but the boundary, beat lock, the stop of the Whistle and losses of
the domain. For every command c that is none of BEAT_BOUNDARY, BEAT_LOCK, COUNTER_LOAD, WHISTLE_STOP,
COLD_RESET_ASSERT, CLOCK_LOSS, VIN48_LOSS, SHUTDOWN, OPERATION, MFR_COLD_RESET and THERMAL_THRESHOLD, and every state
s: if exec c s answers t, then the beat and the cycle of t are those of s. That a command takes no time of its own is
the model's choice (log entry 1). -/
def Obligations.OnlyTimeCommandsMoveTheClock : Prop :=
  ∀ (c : Instr) (s t : State), movesClock c = false → exec c s = .next t → t.beat = s.beat ∧ t.cycle = s.cycle

/-- O7. The commands that store nothing leave every byte of memory as it was. For every command c that is not one of
the storing commands (SLICE_WRITE_LAND, HBM_ACCESS, NODE_ADD, LINK_FRAME_RX, STEWARD_ACCESS, REGISTER_WRITE, the MACs'
transfers, CTX_SAVE_DONE, DBG_SCANOUT, SEC_IMPORT_DONE, SEC_EXPORT_DONE, SCRUB_DONE, BOOT_READY, BEAT_BOUNDARY and
WHISTLE_STOP, in whose cycles the steward's waiting accesses are served, and what may assert cold reset or cut the
power): if exec c s answers t, every byte of memory reads in t as in s. Engine commands in particular store only when
their transfers land. -/
def Obligations.OtherCommandsLeaveEveryByteOfMemory : Prop :=
  ∀ (c : Instr) (s t : State), storesMemory c = false → exec c s = .next t → ∀ a : Nat, byteAt t.mem a = byteAt s.mem a

/-- O8. Every command answers a next state; only a device access of a size the UCIe link does not carry faults. For
every command c and state s: if c is ill-formed, exec refuses it as illFormed; if c is well-formed and is not a
steward access or register write of the device window of a size or alignment that the UCIe link does not carry,
outside cold reset, exec answers a next state; such an access faults with unsupportedAccess. -/
def Obligations.EveryCommandCompletesOrStopsByName : Prop :=
  ∀ (c : Instr) (s : State),
    (c.wf = false → exec c s = .refused .illFormed) ∧
    (c.wf = true → badAccess c s = false → ∃ t, exec c s = .next t) ∧
    (c.wf = true → badAccess c s = true → exec c s = .fault .unsupportedAccess)

/-- O9. A mailbox command that is answered NOT_READY, BUSY, REFUSED, BAD_ARG or DENIED at its check has had no effect.
For every mailbox command but SEC_SPDM and SEC_IMPORT, carried out on the command x that the CP took from mailbox m:
if its mailbox gets exactly one new response and its status is 1 to 5, then nothing of the state has changed but
mailbox m, which has the response and no longer holds the taken command (and the model's own counter of free values,
log entry 2). -/
def Obligations.RefusedCommandsHaveNoEffect : Prop :=
  ∀ (c : Instr) (m : MailboxNum) (s t : State) (r : Response),
    checkedMailbox c = some m → exec c s = .next t → (t.mb m.toNat).ready = (s.mb m.toNat).ready ++ [r] →
    1 ≤ r.status.toNat → r.status.toNat ≤ 5 →
      t = { s with mbs := t.mbs, free := t.free } ∧ (∀ n : Nat, n ≠ m.toNat → t.mb n = s.mb n) ∧
      t.mb m.toNat = { s.mb m.toNat with taken := none, ready := (s.mb m.toNat).ready ++ [r] }

/-- O10. An instruction of a thread changes its own core, counters and marks, and nothing else of the module. For
ISSUE, WAIT, WAIT_RELEASE, SIG, SCOREBOARD_INCREMENT, ARRIVE, RWAIT, RWAIT_RELEASE, RALLY, MARK and DEADLOCK_DETECT on
core n: if exec answers t, every other core, every mailbox, link port, node operand, the entropy source, the CP, the
root of trust, the interrupt controller's sources and contexts, the MACs, the flash, the SRAM and the power unit are
as in s; the transfers in flight are those of s, behind which an ISSUE alone adds its command's operand reads. -/
def Obligations.SequencerCommandsTouchOneCore : Prop :=
  ∀ (c : Instr) (n : CoreNum) (s t : State), threadCore c = some n → exec c s = .next t →
    (∀ k : Nat, k ≠ n.toNat → t.core k = s.core k) ∧ t.mbs = s.mbs ∧ t.links = s.links ∧
    (∃ l, t.transfers = s.transfers ++ l ∧ ((∀ th, c ≠ .issue n th) → l = [])) ∧
    t.nodes = s.nodes ∧ t.ent = s.ent ∧ t.sec = s.sec ∧ t.ic.sources = s.ic.sources ∧ t.ic.contexts = s.ic.contexts ∧
    t.macs = s.macs ∧ t.flash = s.flash ∧ t.sram = s.sram ∧ t.power = s.power ∧ t.cp = s.cp

/-- O11. A command of an engine other than FELT_RUN and EXCH_SEND changes its own core only, and no snapshot. For
FELT_QSCAN, FELT_QCONV, FELT_BETA_SET, ROT_STORE, ROT_LOAD, STAGING_MOVE, FE_MMA, FE_OUT, FE_BERN, NAP_FILL, CAT_DRAW,
ACC_STORE, ACC_LOAD, ACC_RED and LS_MOVE on core n: if exec answers t, every other core, every mailbox, the entropy
source, the root of trust, the CP, the MACs, the flash, the SRAM and the power unit are as in s, and so is the Felt
snapshot of core n. -/
def Obligations.EngineCommandsTouchOneCore : Prop :=
  ∀ (c : Instr) (n : CoreNum) (s t : State), engineCore c = some n → exec c s = .next t →
    (∀ k : Nat, k ≠ n.toNat → t.core k = s.core k) ∧ (t.core n.toNat).snap = (s.core n.toNat).snap ∧ t.mbs = s.mbs ∧
    t.ent = s.ent ∧ t.sec = s.sec ∧ t.cp = s.cp ∧ t.macs = s.macs ∧ t.flash = s.flash ∧ t.sram = s.sram ∧ t.power = s.power

/-- O12. BEAT_CTR reads 0 after cold reset, rises by one at cycle 0 of every beat, and wraps; the boundary brings
waiting writes into force. Outside cold reset, BEAT_BOUNDARY answers the next beat, cycle 0, with the RWS values of
the device control block in force; the tick adds one to the cycle below 749, and at 749 opens the next beat at cycle
0. The addition to BEAT_CTR is modulo 2^64. COLD_RESET_ASSERT sets the counter to 0:0, the tick under cold reset
leaves it, and COLD_RESET_RELEASE begins at that count. At the boundary after cycle 749, in a core whose job goes on
and with no steward access waiting, further (R25, R43, R44, R113, R451, R494): no Felt write waits; a byte written in
a plane that one side alone wrote holds the last value written, and a plane that both sides wrote holds what it held;
the snapshot of every spin plane is that plane; FELT_EXP and FELT_BETA hold the values that waited and no RWS value
waits; a value that waited for FELT_PERM or FELT_XROUND until this boundary is in the register, in the bits of its
mask, and one for a later boundary still waits; and the trace records of the beat are in the buffer, in their order,
as far as it has room. -/
def Obligations.BeatCounterCountsBeats : Prop :=
  (∀ s : State, s.power.coldReset = false → s.cycle < 750 →
    ∃ t, exec .beatBoundary s = .next t ∧ t.beat = s.beat + 1 ∧ t.beatCtr = s.beatCtr + 1 ∧ t.cycle = 0 ∧ t.dcbRws = []) ∧
  (∀ s : State, s.power.coldReset = false → s.cycle < 749 → s.tick.beat = s.beat ∧ s.tick.cycle = s.cycle + 1) ∧
  (∀ s : State, s.power.coldReset = false → s.cycle = 749 → s.tick.beat = s.beat + 1 ∧ s.tick.cycle = 0) ∧
  (∀ (cause : BitVec 3) (s : State), cause.toNat ≤ 4 →
    ∃ t, exec (.coldResetAssert cause) s = .next t ∧ t.beatCtr = 0 ∧ t.beat = 0 ∧ t.cycle = 0) ∧
  (∀ s : State, s.power.coldReset = true → s.tick = s) ∧
  (∀ s : State, s.power.coldReset = true → s.power.on = true → s.power.railGood = 0x7FF →
    ∃ t, exec .coldResetRelease s = .next t ∧ t.power.coldReset = false ∧ t.beat = s.beat ∧ t.cycle = s.cycle) ∧
  (∀ (s : State) (c : Nat) (h : Handle) (j : Job), s.power.coldReset = false → s.cycle = 749 → s.domainRuns = true →
    s.cp.release = none → s.stewardQ = [] → (s.core c).job = some h → s.job h = some j → j.st = .running →
    s.beat < j.compBeat → j.pendingEnd = none → (∀ e ∈ s.jobs, BitVec.ofNat 16 e.1 = h → e.2 = j) →
    let k := s.core c
    ∃ t, exec .beatBoundary s = .next t ∧ (t.core c).feltWrites = [] ∧ (t.core c).rws = [] ∧
      (∀ p < 16, (t.core c).snapshot p = (t.core c).spin p) ∧
      (∀ p < 16, k.conflict p = true → (t.core c).spin p = k.spin p) ∧
      (∀ o p, feltPlane o = some p → 16 ≤ p → k.conflict p = true → byteAt (t.core c).store o = byteAt k.store o) ∧
      ((∀ x ∈ k.feltWrites, Win.spins ≤ x.offset) → ∀ pre w post, k.feltWrites = pre ++ w :: post →
        (∀ x ∈ post, x.offset ≠ w.offset) → (∀ p, feltPlane w.offset = some p → k.conflict p = false) → w.mask = 0xFF →
        (∀ p < 16, feltPlane w.offset = some p → planeByte ((t.core c).spin p) (w.offset % 512) = w.value) ∧
        (Win.cond ≤ w.offset → feltMask w.offset = 0xFF → byteAt (t.core c).store w.offset = w.value)) ∧
      ((k.rws.map (·.1)).Nodup → ∀ o v, (o = Reg.feltExp ∨ ∃ n < 16, o = Reg.feltBeta n) → tabFind k.rws o = some v →
        (∀ x ∈ k.regNext, x.offset ≠ o) → (t.core c).reg o = v) ∧
      (∀ x ∈ k.regNext, (x.offset = Reg.feltPerm ∨ x.offset = Reg.feltXround) → (∀ e ∈ k.rws, e.1 ≠ x.offset) →
        (x.beat ≤ s.beat + 1 → (∀ y ∈ k.regNext, y.offset = x.offset → y = x) →
          (t.core c).reg x.offset = (k.reg x.offset &&& ~~~x.mask) ||| (x.value &&& x.mask)) ∧
        (s.beat + 1 < x.beat → x ∈ (t.core c).regNext))) ∧
  (∀ s : State, s.power.coldReset = false → s.cycle = 749 → s.cp.release = none →
    let u := s.cycleEnd
    let rs := (sortKeys u.trace.beatRecs).map (·.2) ++ (sortKeys u.trace.jobRecs).map (·.2) ++ u.trace.digestRecs
    u.trace.buffer.length ≤ 524288 →
    ∃ t, exec .beatBoundary s = .next t ∧
      t.trace.buffer = u.trace.buffer ++ rs.take (524288 - u.trace.buffer.length))

/-- O13. ISSUE hands the patched command to a free engine and retires; a late pinned one is not issued and stops its
thread. Where a thread can execute an ISSUE in this cycle (threadReady, OP 1), the engine is free and the cycle is one
in which the job's engines issue: an ISSUE that is on time, or late but floating and able to complete in this beat,
answers a state in which the engine holds the command with its queue patch, the thread's next instruction may execute
in the next cycle, and the queue's count has risen by one modulo 2^32 if QUSE is 1. A late ISSUE of a pinned command
answers a state in which no engine of the core has changed its command, CORE_STAT.SLIPEND is set and the thread is
stopped. -/
def Obligations.IssueHandsTheCommandToItsEngine : Prop :=
  (∀ (core : CoreNum) (thread : ThreadNum) (s : State) (h : Handle) (j : Job) (w : Nat) (late : Bool),
    s.threadReady core.toNat thread.toNat 1 = some (h, j, w, late) → s.engineFree core.toNat (insEngine w) = true →
    s.cycle < j.issueCycles →
    let i := (s.issuedAt core.toNat thread.toNat j w late).1
    (late = true → i.pinned = false ∧ State.remoteOperand j core.toNat i = false ∧
      i.endCycle core.toNat (s.pageAt core.toNat j s.beat) (s.cmdExtra i) j.half ≤ 749) →
    ∃ t, exec (.issue core thread) s = .next t ∧ ((t.core core.toNat).engine (insEngine w)).cmd = some i ∧
      tabGet 0 (t.core core.toNat).readyAt thread.toNat = s.now + 1 ∧
      (insQuse w = true → (t.core core.toNat).regF (Reg.qPtr (insQueue w)) (32 * insQrole w) 32 =
        ((s.core core.toNat).regF (Reg.qPtr (insQueue w)) (32 * insQrole w) 32 + 1) % 2 ^ 32)) ∧
  (∀ (core : CoreNum) (thread : ThreadNum) (s : State) (h : Handle) (j : Job) (w : Nat),
    s.threadReady core.toNat thread.toNat 1 = some (h, j, w, true) → s.engineFree core.toNat (insEngine w) = true →
    s.cycle < j.issueCycles → ((s.issuedAt core.toNat thread.toNat j w true).1.pinned = true ∨
      State.remoteOperand j core.toNat (s.issuedAt core.toNat thread.toNat j w true).1 = true) →
    ∃ t, exec (.issue core thread) s = .next t ∧ (t.core core.toNat).engines = (s.core core.toNat).engines ∧
      (t.core core.toNat).regF Reg.coreStat 2 1 = 1 ∧ tabGet false (t.core core.toNat).stopped thread.toNat = true)

/-- O14. The queue patch adds BASE + (n mod BUFS) x SLOT x 64 to bits [43:0], modulo 2^44, and leaves bits [63:44].
For every 64-bit command word w, queue configuration and count n: the patched word has (w + BASE + (n mod BUFS) x SLOT
x 64) mod 2^44 in bits [43:0] and the bits [63:44] of w. In the patched command, every word but QWORD is the
program's. -/
def Obligations.QueuePatchAddsToTheAddressField : Prop :=
  (∀ (w : Dword) (cfg n : Nat), 0 < bitsOf cfg 32 16 →
    let off := bitsOf cfg 0 18 + n % bitsOf cfg 32 16 * bitsOf cfg 20 12 * 64
    patchWord w.toNat (queueOffset cfg n) % 2 ^ 44 = (w.toNat % 2 ^ 44 + off) % 2 ^ 44 ∧
    patchWord w.toNat (queueOffset cfg n) / 2 ^ 44 = w.toNat / 2 ^ 44) ∧
  (∀ (k : CoreState) (w : Nat) (ws : List Dword) (i : Nat),
    i ≠ insQword w ∨ insQuse w = false → (k.patch w ws).1[i]? = ws[i]?)

/-- O15. WAIT compares the count with T = min(THR + ITER x INC, 0xFFFF_FFFF) and retires or blocks. Where a thread can
execute a WAIT (threadReady, OP 2), WAIT answers a next state, in which, with T the least of THR + ITER x INC and
0xFFFF_FFFF and ITER the job beat divided by P (R276): if the count in force at the start of the cycle is at least T,
the WAIT has retired (its next instruction may execute in the next cycle) and nothing but the core has changed;
otherwise the thread is blocked and THR_STATE records the scoreboard, the count and T. WAIT_RELEASE of a blocked
thread whose release has come answers the state in which the WAIT has retired. Of a thread in any other state both
answer the state as it is. -/
def Obligations.WaitBlocksUntilItsThreshold : Prop :=
  (∀ (core : CoreNum) (thread : ThreadNum) (s : State) (h : Handle) (j : Job) (w : Nat) (late : Bool),
    s.threadReady core.toNat thread.toNat 2 = some (h, j, w, late) →
    let k := (s.core core.toNat).executed thread.toNat late
    let w1 := k.insWord (k.thrPc thread.toNat + 1)
    let th := min (bitsOf w1 0 32 + s.jobBeat j / max j.image.p 1 * bitsOf w1 32 32) 0xFFFFFFFF
    (∃ t, exec (.wait core thread) s = .next t) ∧
    (th ≤ k.sbAtStart s.now (insSb w) (insCtr w) →
      exec (.wait core thread) s = .next (s.setCore core.toNat (k.retire s.now thread.toNat 2 (s.jobIter j))) ∧
      tabGet 0 (k.retire s.now thread.toNat 2 (s.jobIter j)).readyAt thread.toNat = s.now + 1) ∧
    (k.sbAtStart s.now (insSb w) (insCtr w) < th →
      ∃ t, exec (.wait core thread) s = .next t ∧ (t.core core.toNat).thrSt thread.toNat = 2 ∧
        (t.core core.toNat).thrObj thread.toNat = insSb w ∧ (t.core core.toNat).thrCtr thread.toNat = insCtr w ∧
        (t.core core.toNat).thrWthr thread.toNat = th)) ∧
  (∀ (core : CoreNum) (thread : ThreadNum) (s : State) (h : Handle) (j : Job),
    s.coreJob core.toNat = some (h, j) → (s.core core.toNat).thrSt thread.toNat = 2 →
    tabGet 0 (s.core core.toNat).releaseAt thread.toNat ≠ 0 → tabGet 0 (s.core core.toNat).releaseAt thread.toNat ≤ s.now →
    ∃ t, exec (.waitRelease core thread) s = .next t ∧
      t = s.setCore core.toNat ((s.core core.toNat).retire s.now thread.toNat 2 (s.jobIter j)) ∧
      tabGet 0 (t.core core.toNat).readyAt thread.toNat = s.now + 1 ∧ (t.core core.toNat).thrSt thread.toNat ≠ 2) ∧
  (∀ (core : CoreNum) (thread : ThreadNum) (s : State),
    (s.threadReady core.toNat thread.toNat 2 = none → exec (.wait core thread) s = .next s) ∧
    ((s.core core.toNat).thrSt thread.toNat ≠ 2 → exec (.waitRelease core thread) s = .next s))

/-- O16. SIG leaves an increment due in the next cycle; increments that are due are applied with saturation and
underflow. Where a thread can execute a SIG, it answers a state with one increment more, of N to its count, due in the
next cycle, and every count as before. SCOREBOARD_INCREMENT on a core that a job runs on applies, on each of the 48
scoreboards, the sums of the increments that are due: PROD saturates at 0xFFFF_FFFF, and CONS takes its sum, saturated
likewise, unless it would exceed PROD, where it keeps its value. The increments not yet due stay. -/
def Obligations.SigAndIncrementsAddToTheCounts : Prop :=
  (∀ (core : CoreNum) (thread : ThreadNum) (s : State) (h : Handle) (j : Job) (w : Nat) (late : Bool),
    s.threadReady core.toNat thread.toNat 3 = some (h, j, w, late) →
    ∃ t, exec (.sig core thread) s = .next t ∧
      (t.core core.toNat).incs = (s.core core.toNat).incs ++ [⟨insSb w, insCtr w, insN w, s.beat, s.cycle + 1⟩] ∧
      (∀ sb < 48, ∀ cons : Bool, (t.core core.toNat).sbCount sb cons = (s.core core.toNat).sbCount sb cons)) ∧
  (∀ (core : CoreNum) (s : State) (x : Handle × Job), s.coreJob core.toNat = some x →
    let k := s.core core.toNat
    let due := (k.incsDue s.now).1
    ∃ t, exec (.scoreboardIncrement core) s = .next t ∧
      (t.core core.toNat).incs = (k.incsDue s.now).2 ∧
      (∀ sb < 48,
        let p := min (k.sbCount sb false + incSum due sb false) 0xFFFFFFFF
        let c := min (k.sbCount sb true + incSum due sb true) 0xFFFFFFFF
        (t.core core.toNat).sbCount sb false = p ∧
        (t.core core.toNat).sbCount sb true = if p < c then k.sbCount sb true else c))

/-- O17. ARRIVE adds one to A unless it is an overrun; RWAIT leaves a phase, owes nothing, or blocks; RALLY does both.
Where a thread can execute the instruction, with r its Rally unit: an ARRIVE that stays within two of the least D of
the members, after the departures of this cycle, adds one to A and retires; an overrun leaves A, sets OVERRUN and
CORE_STAT.OVR and stops the thread. RWAIT sets EMPTY where D = A, adds one to D where the phase was complete at the
start of the cycle, and otherwise blocks on the unit. RWAIT_RELEASE adds one to D and retires. An accepted RALLY adds
one to A and then either has left its phase or is blocked. -/
def Obligations.RallyCountsArrivalsAndDepartures : Prop :=
  (∀ (core : CoreNum) (thread : ThreadNum) (s : State) (h : Handle) (j : Job) (w : Nat) (late : Bool),
    s.threadReady core.toNat thread.toNat 4 = some (h, j, w, late) →
    let k := s.core core.toNat
    let r := insRly w
    let least := (s.setCore core.toNat (k.executed thread.toNat late)).minLeftNow core.toNat thread.toNat r
    (k.arrived r thread.toNat + 1 - least ≤ 2 →
      ∃ t, exec (.arrive core thread) s = .next t ∧
        (t.core core.toNat).arrived r thread.toNat = k.arrived r thread.toNat + 1 ∧
        tabGet 0 (t.core core.toNat).readyAt thread.toNat = s.now + 1) ∧
    (2 < k.arrived r thread.toNat + 1 - least →
      ∃ t, exec (.arrive core thread) s = .next t ∧ (t.core core.toNat).arrivals = k.arrivals ∧
        (t.core core.toNat).regF (Reg.rlyFlags r) 0 1 = 1 ∧ (t.core core.toNat).regF Reg.coreStat 3 1 = 1 ∧
        tabGet false (t.core core.toNat).stopped thread.toNat = true)) ∧
  (∀ (core : CoreNum) (thread : ThreadNum) (s : State) (h : Handle) (j : Job) (w : Nat) (late : Bool),
    s.threadReady core.toNat thread.toNat 5 = some (h, j, w, late) →
    let k := s.core core.toNat
    let r := insRly w
    ∃ t, exec (.rwait core thread) s = .next t ∧
      (k.left r thread.toNat = k.arrived r thread.toNat →
        (t.core core.toNat).regF (Reg.rlyFlags r) 1 1 = 1 ∧ tabGet 0 (t.core core.toNat).readyAt thread.toNat = s.now + 1) ∧
      (k.left r thread.toNat ≠ k.arrived r thread.toNat → k.left r thread.toNat + 1 ≤ k.phaseAtStart s.now r →
        (t.core core.toNat).left r thread.toNat = k.left r thread.toNat + 1 ∧
          tabGet 0 (t.core core.toNat).readyAt thread.toNat = s.now + 1) ∧
      (k.left r thread.toNat ≠ k.arrived r thread.toNat → k.phaseAtStart s.now r < k.left r thread.toNat + 1 →
        (t.core core.toNat).thrSt thread.toNat = 3 ∧ (t.core core.toNat).thrObj thread.toNat = r ∧
          (t.core core.toNat).departures = k.departures)) ∧
  (∀ (core : CoreNum) (thread : ThreadNum) (s : State) (x : Handle × Job), s.coreJob core.toNat = some x →
    let k := s.core core.toNat
    k.thrSt thread.toNat = 3 → tabGet 0 k.releaseAt thread.toNat ≠ 0 → tabGet 0 k.releaseAt thread.toNat ≤ s.now →
    ∃ t, exec (.rwaitRelease core thread) s = .next t ∧
      (t.core core.toNat).left (k.thrObj thread.toNat) thread.toNat = k.left (k.thrObj thread.toNat) thread.toNat + 1 ∧
      (t.core core.toNat).thrSt thread.toNat ≠ 3) ∧
  (∀ (core : CoreNum) (thread : ThreadNum) (s : State) (h : Handle) (j : Job) (w : Nat) (late : Bool),
    s.threadReady core.toNat thread.toNat 6 = some (h, j, w, late) →
    let k := s.core core.toNat
    let r := insRly w
    let least := (s.setCore core.toNat (k.executed thread.toNat late)).minLeftNow core.toNat thread.toNat r
    k.arrived r thread.toNat + 1 - least ≤ 2 → k.left r thread.toNat ≤ k.arrived r thread.toNat →
    ∃ t, exec (.rally core thread) s = .next t ∧
      (t.core core.toNat).arrived r thread.toNat = k.arrived r thread.toNat + 1 ∧
      ((t.core core.toNat).left r thread.toNat = k.left r thread.toNat + 1 ∨ (t.core core.toNat).thrSt thread.toNat = 3))

/-- O18. MARK retires and emits its record while TRACE_CTRL.MARKS is 1 and the job is not confidential. Where a thread
can execute a MARK, it answers a state in which the thread's next instruction may execute in the next cycle; the
records of the beat have one more, of TYPE 2 with KIND, VALUE, CYCLE, CORE and THREAD, exactly if TRACE_CTRL.MARKS is
1 and the job is in no active confidential partition. -/
def Obligations.MarkEmitsItsRecord : Prop :=
  ∀ (core : CoreNum) (thread : ThreadNum) (s : State) (h : Handle) (j : Job) (w : Nat) (late : Bool),
    s.threadReady core.toNat thread.toNat 7 = some (h, j, w, late) →
    ∃ t, exec (.mark core thread) s = .next t ∧ tabGet 0 (t.core core.toNat).readyAt thread.toNat = s.now + 1 ∧
      t.trace.beatRecs = s.trace.beatRecs ++
        (if s.dcbF Dcb.traceCtrl 5 1 = 1 ∧ s.jobConf j = false then
          [(traceKey s.cycle 0 core.toNat thread.toNat, traceRec s.beat 2
            (insMarkKind w + insMarkValue w * 2 ^ 2 + s.cycle * 2 ^ 34 + core.toNat * 2 ^ 44 + thread.toNat * 2 ^ 54 +
              j.part * 2 ^ 60))]
        else [])

/-- O19. When DLK_COUNT is 4 the detector sets DLK, takes the snapshot, raises source 133 and ends the job at this
boundary. At cycle 0, on a core that job h runs on, with DLK_COUNT 4 and DLK 0: DEADLOCK_DETECT answers a state with
CORE_STAT.DLK set, DBG_SNAPSTAT valid with cause 1, the latch of source 133 one higher (at most 255), and, where the
job had no end marked and no record of code 0x0C, an end of the job that is due at this beat. -/
def Obligations.DeadlockDetectorEndsTheJob : Prop :=
  ∀ (core : CoreNum) (s : State) (h : Handle) (j : Job), s.coreJob core.toNat = some (h, j) →
    (s.core core.toNat).regF Reg.dlkCount 0 3 = 4 → (s.core core.toNat).regF Reg.coreStat 5 1 = 0 → s.cycle = 0 →
    ∃ t, exec (.deadlockDetect core) s = .next t ∧ (t.core core.toNat).regF Reg.coreStat 5 1 = 1 ∧
      (t.core core.toNat).reg Reg.dbgSnapstat = 3 ∧
      tabGet 0 t.ic.latches 133 = min (tabGet 0 s.ic.latches 133 + 1) 255 ∧
      (j.pendingEnd = none → (s.core core.toNat).jobCodes.contains 0x0C = false →
        ∃ (k : Job) (e : JobSt × Word × Nat), t.job h = some k ∧ k.pendingEnd = some e ∧ e.2.2 = s.beat)

/-- O20. FELT_RUN completes, never changes a held cell's spin, and no snapshot. For every state in which the tile of a
core holds a FELT_RUN of its running job: once the cycle of the run's last step has come, FELT_RUN answers a next
state in which the command has left the engine, and before that it changes nothing. In any state: if FELT_RUN answers
t, then on every core and in every plane, every cell whose hold-mask bit is set keeps its spin, the hold masks are
unchanged, and every plane of the Felt snapshot is as before. -/
def Obligations.FeltRunKeepsHeldSpinsAndTheSnapshot : Prop :=
  (∀ (core : CoreNum) (s : State) (h : Handle) (j : Job) (i : Issued), s.engineCmd core.toNat 0x20 = some (h, j, i) →
    (s.runOver i = true → ∃ t, exec (.feltRun core) s = .next t ∧ ((t.core core.toNat).engine (cmdEngine 0x20)).cmd = none) ∧
    (s.runOver i = false → exec (.feltRun core) s = .next s)) ∧
  (∀ (core : CoreNum) (s t : State), exec (.feltRun core) s = .next t →
    ∀ m p : Nat, (t.core m).holdMask p = (s.core m).holdMask p ∧ (t.core m).snapshot p = (s.core m).snapshot p ∧
      ∀ n < 4096, ((s.core m).holdMask p).getLsbD n = true →
        ((t.core m).spin p).getLsbD n = ((s.core m).spin p).getLsbD n)

/-- O21. FELT_QSCAN takes the largest need, FELT_QCONV writes the mantissas, FELT_BETA_SET writes the 16 codes. Where
the load/store engine holds the command and every granule that it reads has come (readyCmd), each answers a next state
in which the engine no longer holds it. FELT_QSCAN: FELT_QACC holds the largest need of the finite values read,
counted from 0 for a FIRST command and from its old value otherwise, with VALID set. FELT_QCONV: the mantissas of the
values read, under the FIXED exponent or the one of FELT_QACC, wait as Felt writes behind those that waited, and a
FIRST command leaves the exponent as the most recently written FELT_EXP. FELT_BETA_SET: the most recently written
FELT_BETA n is the n-th halfword at the schedule's address in the granule read, for every n below 16. While a granule
is still to come they change nothing. -/
def Obligations.QuantisingLoadsAndBetaSet : Prop :=
  (∀ (core : CoreNum) (s : State) (h : Handle) (j : Job) (i : Issued), s.readyCmd core.toNat 0x21 = some (h, j, i) →
    let vs := (s.qRead core.toNat i).1
    let prev := if i.quant.first then 0 else (s.core core.toNat).regF Reg.feltQacc 0 6
    ∃ t, exec (.feltQscan core) s = .next t ∧ ((t.core core.toNat).engine (cmdEngine 0x21)).cmd = none ∧
      (t.core core.toNat).regF Reg.feltQacc 8 1 = 1 ∧
      (t.core core.toNat).regF Reg.feltQacc 0 6 = ((vs.filter QValue.finite).map QValue.need).foldl max prev) ∧
  (∀ (core : CoreNum) (s : State) (h : Handle) (j : Job) (i : Issued), s.readyCmd core.toNat 0x22 = some (h, j, i) →
    let e := if i.quant.fixed then i.quant.exp else (s.core core.toNat).regF Reg.feltQacc 0 6
    let s0 : State := if i.quant.first then s.modCore core.toNat fun k =>
      { k.setReg Reg.feltQerr 0 with rws := tabPut k.rws Reg.feltExp (BitVec.ofNat 64 e) } else s
    let vs := (s0.qRead core.toNat i).1
    ∃ t, exec (.feltQconv core) s = .next t ∧ ((t.core core.toNat).engine (cmdEngine 0x22)).cmd = none ∧
      (t.core core.toNat).feltWrites = (s.core core.toNat).feltWrites ++ vs.flatMap (fun v => v.bytes e) ∧
      (i.quant.first = true → tabFind (t.core core.toNat).rws Reg.feltExp = some (BitVec.ofNat 64 e))) ∧
  (∀ (core : CoreNum) (s : State) (h : Handle) (j : Job) (i : Issued), s.readyCmd core.toNat 0x26 = some (h, j, i) →
    let a := ((s.core core.toNat).regF Reg.feltAnneal 0 44 + 32 * i.f 0 8 16) % 2 ^ 44
    let bs := (s.core core.toNat).operands 4 0 1
    ∃ t, exec (.feltBetaSet core) s = .next t ∧ ((t.core core.toNat).engine (cmdEngine 0x26)).cmd = none ∧
      ∀ n < 16, tabFind (t.core core.toNat).rws (Reg.feltBeta n) =
        some (BitVec.ofNat 64 (natOf ((bs.drop (a % 64 + 2 * n)).take 2)))) ∧
  (∀ (core : CoreNum) (s : State), s.operandsDue core.toNat 4 = true →
    exec (.feltQscan core) s = .next s ∧ exec (.feltQconv core) s = .next s ∧ exec (.feltBetaSet core) s = .next s)

/-- O22. ROT_STORE, ACC_STORE and LS_MOVE to memory launch their granules in order, through their slots in order.
Where the load/store engine holds the command, its slots are as many as its granules and none is a link tap, and the
job may write every granule: ROT_STORE launches the 640 granules of the tile image, ACC_STORE the 256 granules of the
tile's rows in slot form, and an LS_MOVE to memory (DIR 1) its COUNT granules of scratch, the last with TAIL bytes;
granule n goes through slot n to its address, with the data that its slot finds in its own cycle (launched), nothing
else joins the transfers in flight, and the engine no longer holds the command. An LS_MOVE to scratch (DIR 0) launches
its COUNT reads likewise. -/
def Obligations.StoringCommandsLaunchOneWritePerGranule : Prop :=
  (∀ (core : CoreNum) (s : State) (h : Handle) (j : Job) (i : Issued), s.engineCmd core.toNat 0x23 = some (h, j, i) →
    let slots := s.cmdSlots core.toNat j i
    let as := granules (i.f 1 0 44) 640
    slots.length = 640 → (∀ sl ∈ slots, slotKind sl.2 ≠ 2) → (∀ a ∈ as, s.jobMay j core.toNat a 64 true = true) →
    ∃ t, exec (.rotStore core) s = .next t ∧ ((t.core core.toNat).engine (cmdEngine 0x23)).cmd = none ∧
      t.transfers = s.transfers ++ (List.range 640).map fun n =>
        launched s (writeTransfer s core.toNat h (slots.getD n (0, 0)) (as.getD n 0) 64 .ready .memory
          (granuleAt (s.core core.toNat).image n))) ∧
  (∀ (core : CoreNum) (s : State) (h : Handle) (j : Job) (i : Issued), s.engineCmd core.toNat 0x27 = some (h, j, i) →
    let slots := s.cmdSlots core.toNat j i
    let as := granules (i.f 1 0 44) 256
    slots.length = 256 → (∀ sl ∈ slots, slotKind sl.2 ≠ 2) → (∀ a ∈ as, s.jobMay j core.toNat a 64 true = true) →
    ∃ t, exec (.accStore core) s = .next t ∧ ((t.core core.toNat).engine (cmdEngine 0x27)).cmd = none ∧
      t.transfers = s.transfers ++ (List.range 256).map fun n =>
        launched s (writeTransfer s core.toNat h (slots.getD n (0, 0)) (as.getD n 0) 64 (.tile (i.f 0 8 4) n) .memory 0)) ∧
  (∀ (core : CoreNum) (s : State) (h : Handle) (j : Job) (i : Issued), s.engineCmd core.toNat 0x2A = some (h, j, i) →
    let slots := s.cmdSlots core.toNat j i
    let m := i.move
    let bytes := fun n : Nat => if n + 1 = m.count then m.tail else 64
    m.toMem = true → slots.length = m.count → (∀ sl ∈ slots, slotKind sl.2 ≠ 2) →
    (∀ n < m.count, s.jobMay j core.toNat (m.addrOf n) (bytes n) true = true) →
    ∃ t, exec (.lsMove core) s = .next t ∧ ((t.core core.toNat).engine (cmdEngine 0x2A)).cmd = none ∧
      t.transfers = s.transfers ++ (List.range m.count).map fun n =>
        launched s (writeTransfer s core.toNat h (slots.getD n (0, 0)) (m.addrOf n) (bytes n) (.scratch (m.scr + 64 * n))
          .memory 0)) ∧
  (∀ (core : CoreNum) (s : State) (h : Handle) (j : Job) (i : Issued), s.engineCmd core.toNat 0x2A = some (h, j, i) →
    let slots := s.cmdSlots core.toNat j i
    let m := i.move
    let bytes := fun n : Nat => if n + 1 = m.count then m.tail else 64
    m.toMem = false → slots.length = m.count →
    (∀ n < m.count, s.jobMay j core.toNat (m.addrOf n) (bytes n) false = true) →
    ∃ t, exec (.lsMove core) s = .next t ∧ ((t.core core.toNat).engine (cmdEngine 0x2A)).cmd = none ∧
      t.transfers = s.transfers ++ (List.range m.count).map fun n =>
        readTransfer s core.toNat h (slots.getD n (0, 0)) (m.addrOf n) (m.scr + 64 * n) (bytes n))

/-- O23. ROT_LOAD makes a good image's values wait for the boundary; of a faulty image nothing comes into force. Where
the load/store engine holds a ROT_LOAD and every granule that it reads has come, with img the 40,960 bytes of the
first 640: if the image is faulty (digest, FORMAT or a neighbour that the module does not hold), the command leaves
the waiting register values, the waiting Felt writes and the descriptors as they were, sets the fault's bits of
FELT_IMGSTAT, and a record of code 0x0D of the job exists; if it is good, the image's registers wait for the next
boundary behind those that waited and the core holds the image's eight descriptors. In both cases the engine no longer
holds the command. While a granule is still to come nothing changes. -/
def Obligations.RotLoadTakesAGoodImageOnly : Prop :=
  (∀ (core : CoreNum) (s : State) (h : Handle) (j : Job) (i : Issued), s.readyCmd core.toNat 0x24 = some (h, j, i) →
    let src := i.f 1 0 44
    let img := (s.core core.toNat).operands 4 0 640
    let k := s.core core.toNat
    ∃ t, exec (.rotLoad core) s = .next t ∧ ((t.core core.toNat).engine (cmdEngine 0x24)).cmd = none ∧
      (imageFaults j img ≠ 0 →
        (t.core core.toNat).regNext = k.regNext ∧ (t.core core.toNat).feltWrites = k.feltWrites ∧
        (t.core core.toNat).descriptors = k.descriptors ∧ (t.core core.toNat).jobCodes.contains 0x0D = true ∧
        ∀ b < 3, (imageFaults j img).testBit b = true → ((t.core core.toNat).reg Reg.feltImgstat).getLsbD (1 + b) = true) ∧
      (imageFaults j img = 0 →
        (t.core core.toNat).regNext = k.regNext ++ imageRegs j img src (s.beat + 1) ∧
        (∀ d < 8, tabGet 0 (t.core core.toNat).descriptors d = imageDesc img d) ∧
        ∃ ws, (t.core core.toNat).feltWrites = k.feltWrites ++ imageWrites img ++ ws)) ∧
  (∀ (core : CoreNum) (s : State), s.operandsDue core.toNat 4 = true → exec (.rotLoad core) s = .next s)

/-- O24. EXCH_SEND launches a direction for its receiver, landing stages it, STAGING_MOVE moves what is complete and
marks what is missing. Where the load/store engine holds an EXCH_SEND for an engine of this module, with two slots: it
launches the two granules of the snapshot's perimeter part for that engine's staging buffer through the slots, and the
engine no longer holds the command. The landing of such a granule, half 0 or 1 of a direction that the receiver
accepts, in mode 1, stages that half, and with both halves staged sets the direction's bit of FELT_XSTAT; of a
direction that it does not accept nothing is staged and FELT_XSTAT bit 17 is set. STAGING_MOVE on a core in mode 1 at
the exchange that falls due: every direction whose data was complete is no longer staged and FELT_XLAST is this beat
where there was one, and every accepted direction without complete data has its late bit, with the common late bit,
set. -/
def Obligations.ExchangeDataIsStagedAndMoved : Prop :=
  (∀ (core : CoreNum) (s : State) (h : Handle) (j : Job) (i : Issued) (m : Nat) (s0 s1 : Nat × Word),
    s.engineCmd core.toNat 0x25 = some (h, j, i) → s.cmdSlots core.toNat j i = [s0, s1] →
    j.coreOf (i.f 0 16 16) = some m →
    let d := i.f 0 8 3
    let a := 0x20000000000 + 0x1000000 * m + Win.staging + boundaryOffset d / 64 * 64
    let g := (s.core core.toNat).perimeterGranules d
    ∃ t, exec (.exchSend core) s = .next t ∧ ((t.core core.toNat).engine (cmdEngine 0x25)).cmd = none ∧
      t.transfers = s.transfers ++
        [writeTransfer s core.toNat h s0 a 64 .ready (.staging d 0) (g.getD 0 0),
         writeTransfer s core.toNat h s1 a 64 .ready (.staging d 1) (g.getD 1 0)]) ∧
  (∀ (core : CoreNum) (s : State) (h : Handle) (j : Job) (i : Issued), s.engineCmd core.toNat 0x25 = some (h, j, i) →
    ∃ t, exec (.exchSend core) s = .next t ∧ ((t.core core.toNat).engine (cmdEngine 0x25)).cmd = none) ∧
  (∀ (port : PortNum) (s : State) (x : Transfer) (rest : List Transfer) (d half m o : Nat), s.domainRuns = true →
    takeDue s.transfers (fun y => y.write && !y.hbm && y.port == port.toNat && decide (y.dueAt ≤ s.now)) Transfer.dueAt =
      some (x, rest) → x.target = .staging d half → x.mismatch = false → regionOf x.addr = .window m o → d < 8 → half < 2 →
    (s.errUnit (UnitNo.slice x.port)).inject = none → (s.core m).regF Reg.feltXcfg 0 2 = 1 →
    let old := tabGet 0 (s.core m).staged d
    ∃ t, exec (.sliceWriteLand port XferErr.none) s = .next t ∧ t.transfers = rest ∧
      (((s.core m).regF Reg.feltXcfg 16 8).testBit d = true → tabGet 0 (t.core m).staged d = old ||| 2 ^ half ∧
        (old ||| 2 ^ half = 3 → ((t.core m).reg Reg.feltXstat).getLsbD d = true)) ∧
      (((s.core m).regF Reg.feltXcfg 16 8).testBit d = false → (t.core m).staged = (s.core m).staged ∧
        ((t.core m).reg Reg.feltXstat).getLsbD 17 = true)) ∧
  (∀ (core : CoreNum) (s : State) (x : Handle × Job), s.coreJob core.toNat = some x → s.cycle = 0 →
    (s.core core.toNat).regF Reg.feltXcfg 0 2 = 1 → s.exchangeDue x.2 core.toNat = true →
    let k := s.core core.toNat
    ∃ t, exec (.stagingMove core) s = .next t ∧
      (∀ d < 8, tabGet 0 k.staged d = 3 →
        tabGet 0 (t.core core.toNat).staged d = 0 ∧ (t.core core.toNat).reg Reg.feltXlast = s.beatCtr) ∧
      (∀ d < 8, tabGet 0 k.staged d ≠ 3 → (k.regF Reg.feltXcfg 16 8).testBit d = true →
        ((t.core core.toNat).reg Reg.feltXstat).getLsbD (8 + d) = true ∧
        ((t.core core.toNat).reg Reg.feltXstat).getLsbD 16 = true))

/-- O25. EXCHANGE_BEAT latches every tile's energies; REPLICA_EXCHANGE_DECIDE makes the new order wait for the
boundary. For a running job whose cores are distinct, in a beat that is an exchange beat: EXCHANGE_BEAT answers a
state in which FELT_ENERGY p of every core of the job is the 32-bit two's complement of the energy of that core's
share of plane p, and the exchange's round is FELT_XROUND as at the start of the beat. In the beat in which the
decision of an exchange of round r falls due: REPLICA_EXCHANGE_DECIDE answers a state in which, on every core of the
job, the new FELT_PERM and the round number r + 1 wait for the next boundary. -/
def Obligations.ReplicaExchangeLatchesEnergiesAndSwaps : Prop :=
  (∀ (handle : Handle) (s : State) (j : Job), s.job handle = some j → s.jobRuns j = true →
    j.firstCore.any (fun c => (s.core c).exchangeBeat (s.jobBeat j)) = true →
    ∃ t, exec (.exchangeBeat handle) s = .next t ∧
      ∀ e ∈ j.engines, ∀ p < 16, (t.core e.2).reg (Reg.feltEnergy p) = BitVec.ofNat 64 (unsigned 32 (s.energyPartial e.2 p)) ∧
        (s.jobBeat j, BitVec.ofNat 64 ((s.core e.2).reg0 Reg.feltXround)) ∈ (t.core e.2).rounds) ∧
  (∀ (handle : Handle) (s : State) (j : Job) (c0 : Nat) (r : Dword), s.job handle = some j → j.firstCore = some c0 →
    (j.engines.map (·.2)).Nodup → s.jobRuns j = true → (s.core c0).roundDue (s.jobBeat j) = some r →
    ∃ t, exec (.replicaExchangeDecide handle) s = .next t ∧
      ∀ e ∈ j.engines,
        (t.core e.2).regNext = (s.core e.2).regNext ++
          [⟨s.beat + 1, Reg.feltPerm, BitVec.ofNat 64 ((s.core e.2).exchange r.toNat fun p => s.planeEnergy j p), -1⟩,
           ⟨s.beat + 1, Reg.feltXround, r + 1, -1⟩])

/-- O26. FE_MMA, FE_OUT, FE_BERN and NAP_FILL write exactly their results over the core's storage. Where the engine
holds the command, and FE_MMA's operand granules have come, each answers a state in which the engine no longer holds
it. A Whistle that has sounded cuts a command to the chunks, rows and vectors of the cycles that it lets pass (R458);
otherwise all are made. FE_MMA: the storage is that of before with the accumulator tile's 32 rows replaced by the sums
of the chunks. FE_OUT and FE_BERN: to scratch, the storage is that of before with the output vectors (and scales), or
the outcomes, written; to a plane, those values wait as Felt writes behind the ones that waited. NAP_FILL: scratch
holds the draws at the command's address, and the storage is otherwise as before. -/
def Obligations.FieldEngineWritesItsResults : Prop :=
  (∀ (core : CoreNum) (s : State) (h : Handle) (j : Job) (i : Issued), s.readyCmd core.toNat 0x30 = some (h, j, i) →
    let k := s.core core.toNat
    let n := s.mmaMade i j
    let tile := (k.mmaChunks i.mma n 0 (k.accTile i.mma.acc i.mma.zero) 0).1
    ∃ t, exec (.feMma core) s = .next t ∧ ((t.core core.toNat).engine (cmdEngine 0x30)).cmd = none ∧
      (s.whistle.pending = false → n = i.mma.kt) ∧ (n = 0 → (t.core core.toNat).store = k.store) ∧
      (n ≠ 0 → (t.core core.toNat).store =
        (tile.zipIdx.foldl (fun k r => k.setAccRow i.mma.acc r.2 (r.1.map fun e => e.acc)) k).store)) ∧
  (∀ (core : CoreNum) (s : State), s.operandsDue core.toNat 1 = true → exec (.feMma core) s = .next s) ∧
  (∀ (s : State) (i : Issued) (n first step : Nat), s.whistle.pending = false → s.partsMade i n first step = n) ∧
  (∀ (core : CoreNum) (s : State) (h : Handle) (j : Job) (i : Issued), s.engineCmd core.toNat 0x31 = some (h, j, i) →
    let k := s.core core.toNat
    let ex := k.regF Reg.feltExp 0 6
    let rows := (List.range (s.partsMade i 32 8 1)).map (k.outRow i.out ex)
    ∃ t, exec (.feOut core) s = .next t ∧ ((t.core core.toNat).engine (cmdEngine 0x31)).cmd = none ∧
      (i.out.dest = 0 → (t.core core.toNat).store = (k.outScratch i.out rows).store ∧
        (t.core core.toNat).feltWrites = k.feltWrites) ∧
      (i.out.dest = 1 → (t.core core.toNat).store = k.store ∧
        (t.core core.toNat).feltWrites = k.feltWrites ++ outPlane i.out ex rows)) ∧
  (∀ (core : CoreNum) (s : State) (h : Handle) (j : Job) (i : Issued), s.engineCmd core.toNat 0x32 = some (h, j, i) →
    let k := s.core core.toNat
    let rows := (List.range (s.partsMade i 32 8 1)).map fun r => (List.range 32).map (k.bernElem i.bern r)
    ∃ t, exec (.feBern core) s = .next t ∧ ((t.core core.toNat).engine (cmdEngine 0x32)).cmd = none ∧
      (i.bern.dest = 0 → (t.core core.toNat).store = (k.writeScratch i.bern.addr (bernBytes i.bern rows)).store) ∧
      (i.bern.dest = 1 → (t.core core.toNat).feltWrites = k.feltWrites ++ rows.zipIdx.flatMap fun r =>
        feltBytes false (Win.spins + 512 * bitsOf i.bern.addr 0 4 + quadCell (bitsOf i.bern.addr 4 2) r.2 0 / 8)
          (bytesOf 4 (rowBits r.1)))) ∧
  (∀ (core : CoreNum) (s : State) (h : Handle) (j : Job) (i : Issued), s.engineCmd core.toNat 0x33 = some (h, j, i) →
    let k := s.core core.toNat
    ∃ t, exec (.napFill core) s = .next t ∧ ((t.core core.toNat).engine (cmdEngine 0x33)).cmd = none ∧
      (t.core core.toNat).store = (k.writeScratch i.fill.addr
        ((List.range (s.partsMade i i.fill.rows 8 1)).flatMap fun r => (List.range 32).flatMap (k.fillElem i.fill r))).store)

/-- O27. CAT_DRAW writes a word for every short row; a long row stays open until its last draw command. Where the
sampler holds a CAT_DRAW whose operand granules have come, it answers a state in which it no longer holds it. With no
Whistle sounded, a command of short rows whose operand lies in scratch leaves the storage as the rows leave it one
after the other, each with its result word. After a command of a long row, CAT_LROW.OPEN is 0 exactly if the command
ended the row's draw pass. While a granule is still to come nothing changes. -/
def Obligations.SamplerWritesItsWordsOrKeepsTheRowOpen : Prop :=
  (∀ (core : CoreNum) (s : State) (h : Handle) (j : Job) (i : Issued), s.readyCmd core.toNat 0x40 = some (h, j, i) →
    let k := s.core core.toNat
    let x := i.cat
    let es := ((List.range x.rows).flatMap fun r => (List.range x.n).map fun n =>
      catEntry x.fmt (k.startNat (Win.scratch + x.entryAddr r n % 2 ^ 18) x.size))
    ∃ t, exec (.catDraw core) s = .next t ∧ ((t.core core.toNat).engine (cmdEngine 0x40)).cmd = none ∧
      (s.whistle.pending = false → x.long = false → x.src = 0 → (t.core core.toNat).store =
        ((List.range x.rows).foldl (fun k r => k.catRow x r ((es.drop (r * x.n)).take x.n)) k).store) ∧
      (s.whistle.pending = false → x.long = true → ((t.core core.toNat).regF Reg.catLrow 0 1 = 0 ↔ (x.pass ≠ 0 ∧ x.pass ≠ 1 ∧ x.lastBlocks = true)))) ∧
  (∀ (core : CoreNum) (s : State), s.operandsDue core.toNat 3 = true → exec (.catDraw core) s = .next s)

/-- O28. ACC_LOAD replaces the tile's rows; ACC_RED sends operands to node adders, which hold them; NODE_ADD writes a
node's sums once. Where the load/store engine holds the command: ACC_LOAD, once its granules have come, leaves the
storage with the 32 rows of the tile replaced by the loaded elements, and changes nothing before that; ACC_RED, where
the job may write every granule and no slot is a link tap, launches operand granule n of the tile (SRCK 0), or, for
slots still to come, of SRC (SRCK 1), for DEST + 64n through slot n. SLICE_WRITE_LAND of such an operand without error
puts it behind those that the node adder of its port holds. NODE_ADD on a port that holds the two sides of one granule
of shared memory empties the adder and writes the four elements that the node's operation makes of side 0 and side 1,
and no other byte of memory. -/
def Obligations.AccumulatorLoadsAndReductions : Prop :=
  (∀ (core : CoreNum) (s : State) (h : Handle) (j : Job) (i : Issued), s.readyCmd core.toNat 0x28 = some (h, j, i) →
    let k := s.core core.toNat
    let xs := loadedAccs (k.operands 4 0 256) 1024
    ∃ t, exec (.accLoad core) s = .next t ∧ ((t.core core.toNat).engine (cmdEngine 0x28)).cmd = none ∧
      (t.core core.toNat).store = ((List.range 32).foldl (fun k r =>
        k.setAccRow (i.f 0 8 4) r (((xs.drop (32 * r)).take 32).map (·.1))) k).store) ∧
  (∀ (core : CoreNum) (s : State), s.operandsDue core.toNat 4 = true → exec (.accLoad core) s = .next s) ∧
  (∀ (core : CoreNum) (s : State) (h : Handle) (j : Job) (i : Issued), s.engineCmd core.toNat 0x29 = some (h, j, i) →
    let slots := s.cmdSlots core.toNat j i
    let r := i.red
    let fill (n : Nat) : WriteData := if r.srck = 1 then .copy (granuleOf r.src + 64 * n) else .tile r.tile n
    (∀ sl ∈ slots, slotKind sl.2 ≠ 2) → (∀ n < slots.length, s.jobMay j core.toNat (r.dest + 64 * n) 64 true = true) →
    (r.srck = 1 → ∀ sl ∈ slots, s.now < s.beat * 750 + sl.1) →
    ∃ t, exec (.accRed core) s = .next t ∧ ((t.core core.toNat).engine (cmdEngine 0x29)).cmd = none ∧
      t.transfers = s.transfers ++ (List.range slots.length).map fun n =>
        launched s (writeTransfer s core.toNat h (slots.getD n (0, 0)) (r.dest + 64 * n) 64 (fill n)
          (.node (r.side == 1) (BitVec.ofNat 2 r.op) (r.srck == 1)) 0)) ∧
  (∀ (port : PortNum) (s : State) (x : Transfer) (rest : List Transfer) (side fromMem : Bool) (op : BitVec 2),
    s.domainRuns = true →
    takeDue s.transfers (fun y => y.write && !y.hbm && y.port == port.toNat && decide (y.dueAt ≤ s.now)) Transfer.dueAt =
      some (x, rest) → x.target = .node side op fromMem → x.mismatch = false →
    (s.errUnit (UnitNo.slice x.port)).inject = none →
    ∃ t, exec (.sliceWriteLand port XferErr.none) s = .next t ∧ t.transfers = rest ∧ t.mem = s.mem ∧
      tabGet [] t.nodes x.port =
        tabGet [] s.nodes x.port ++ [⟨granuleOf x.addr, side, op, fromMem, x.core, x.handle, x.data, 0⟩]) ∧
  (∀ (port : PortNum) (s : State) (x y : NodeOperand), s.domainRuns = true →
    tabGet [] s.nodes port.toNat = [x, y] → nodePair x y = true →
    let a := if x.side then y else x
    let b := if x.side then x else y
    let es := (a.elems.1.zip b.elems.1).map fun e => nodeElem x.op.toNat e.1 e.2
    let g : Granule := BitVec.ofNat 512 (natOf (es.flatMap fun e => e.acc.slot))
    ∃ t, exec (.nodeAdd port) s = .next t ∧ tabGet [] t.nodes port.toNat = [] ∧
      bytesRead t.mem (granuleOf y.dest) 64 = granBytes g ∧
      (∀ a : Nat, a < granuleOf y.dest ∨ granuleOf y.dest + 64 ≤ a → byteAt t.mem a = byteAt s.mem a))

/-- O29. A write lands in its slot under its byte mask or, misdirected, not at all; a read brings what the granule
held. While the deterministic domain runs and no error comes on the way: SLICE_WRITE_LAND, and HBM_ACCESS for a write,
take the transfer whose slot has come out of flight. Where the address decodes to the declared target, the granule's
bytes under the mask become the data's and every other byte of memory stays; where it does not, memory stays and
MEM_SLOTERR rises. HBM_ACCESS for a read takes the granule as it is, for every member of a merged read in the one
access (R315), and leaves memory. READ_DATA_DELIVER writes the data to its place in scratch and leaves every other
byte of the core's storage and of memory; data that an engine's command waits for goes to the engine that holds the
command, and the core's storage stays. HBM_REFRESH and PHY_MAINTENANCE change nothing (the model's reading: the spec
gives them no observable effect). -/
def Obligations.WritesLandAndReadsArrive : Prop :=
  (∀ (c : Instr) (hbm : Bool) (port : PortNum) (s : State) (x : Transfer) (rest : List Transfer), s.domainRuns = true →
    (c = .sliceWriteLand port XferErr.none ∧ hbm = false ∧
        takeDue s.transfers (fun y => y.write && !y.hbm && y.port == port.toNat && decide (y.dueAt ≤ s.now)) Transfer.dueAt =
          some (x, rest) ∧ (∃ p, regionOf x.addr = .slice p)) ∨
      (c = .hbmAccess port XferErr.none ∧ hbm = true ∧ x.write = true ∧
        takeDue s.transfers (fun y => y.hbm && y.port == port.toNat && !y.taken && decide (y.dueAt ≤ s.now)) Transfer.dueAt =
          some (x, rest) ∧ (∃ p, regionOf x.addr = .hbm p)) →
    x.target = .memory → (s.errUnit (UnitNo.slice x.port)).inject = none →
    (hbm = true → (s.errUnit (UnitNo.hbm x.port)).inject = none) →
    ∃ t, exec c s = .next t ∧ t.transfers = rest ∧
      (x.mismatch = false → ∀ b, byteAt t.mem b =
        if granuleOf x.addr ≤ b ∧ b < granuleOf x.addr + 64 ∧ x.mask.toNat.testBit (b - granuleOf x.addr) = true then
          BitVec.ofNat 8 (x.data.toNat >>> (8 * (b - granuleOf x.addr)))
        else byteAt s.mem b) ∧
      (x.mismatch = true → t.mem = s.mem ∧
        t.dcbReg Dcb.memSloterr = BitVec.ofNat 64 (min ((s.dcbReg Dcb.memSloterr).toNat + 1) (2 ^ 64 - 1)))) ∧
  (∀ (port : PortNum) (s : State) (x : Transfer) (rest : List Transfer), s.domainRuns = true → x.write = false →
    takeDue s.transfers (fun y => y.hbm && y.port == port.toNat && !y.taken && decide (y.dueAt ≤ s.now)) Transfer.dueAt =
      some (x, rest) →
    (s.errUnit (UnitNo.hbm port.toNat)).inject = none →
    ∃ t, exec (.hbmAccess port XferErr.none) s = .next t ∧ t.mem = s.mem ∧
      t.transfers = s.transfers.filter (fun y => !x.mergesWith y) ++ (s.transfers.filter x.mergesWith).map s.takeData) ∧
  (∀ (core : CoreNum) (s : State) (x : Transfer) (rest : List Transfer), s.domainRuns = true →
    takeDue s.transfers (fun y => !y.write && y.core == core.toNat && (y.taken || !y.hbm) && decide (y.deliverAt ≤ s.now))
      Transfer.deliverAt = some (x, rest) →
    (s.errUnit (UnitNo.slice x.port)).inject = none →
    let y := if x.taken then x else s.takeData x
    y.mismatch = false →
    ∃ t, exec (.readDataDeliver core XferErr.none) s = .next t ∧ t.transfers = rest ∧ t.mem = s.mem ∧
      (∀ off n, x.dest = .scratch off n → n ≤ 64 →
        bytesLanded (s.core core.toNat).store (t.core core.toNat).store (Win.scratch + off) n y.data.toNat) ∧
      (∀ n, x.dest = .operand n → (t.core core.toNat).store = (s.core core.toNat).store ∧
        ((s.core core.toNat).job = some x.handle → ((s.core core.toNat).engine x.engine).cmd.isSome = true →
          tabFind ((t.core core.toNat).engine x.engine).operand n = some y.data))) ∧
  (∀ (pc : PortNum) (s : State), exec (.hbmRefresh pc) s = .next s ∧ exec (.phyMaintenance pc) s = .next s)

/-- O30. Steward accesses wait for their slots, and there write exactly their bytes, or read them; an access the link
does not carry faults. Outside cold reset a STEWARD_ACCESS or REGISTER_WRITE of 4, 8 or 64 aligned bytes to a slice,
HBM or a core window joins the queue of accesses that wait for a reserved slot. In the slot (cycle 748 of a slice
port, access slot 99 of a pseudo-channel) the queue's access takes effect: for unblocked slice memory or, once boot is
READY, HBM, a write leaves a state in which exactly those bytes hold the data, a read one whose read data are the
bytes, with memory unchanged. On the steward die an access of 1 to 64 bytes is made at once: of SRAM, it writes
exactly its bytes or reads them; at addresses not in the table it reads ones, and a write changes nothing. An access
to the device window of another size or alignment faults (R362 gives the link no such access). -/
def Obligations.StewardMovesBytes : Prop :=
  (∀ (write : Bool) (size : Nat) (addr : BitVec 48) (data : Granule) (err : XferErr) (value : Dword) (s : State) (d p : Nat),
    s.power.coldReset = false → deviceAddr addr.toNat = some d → stewardPort d = some p → ucieOk size addr.toNat = true →
    (err.wf = true → exec (.stewardAccess write size addr data err) s =
      .next { s with stewardQ := s.stewardQ ++ [⟨write, size, addr.toNat, data, err⟩] }) ∧
    (size ≠ 64 → exec (.registerWrite size addr value) s =
      .next { s with stewardQ := s.stewardQ ++ [⟨true, size, addr.toNat, value.setWidth 512, XferErr.none⟩] })) ∧
  (∀ (write : Bool) (size : Nat) (addr : BitVec 48) (data : Granule) (s : State) (d : Nat), s.power.coldReset = false →
    deviceAddr addr.toNat = some d → ucieOk size addr.toNat = true → s.blocked d = false →
    s.stewardQ = [⟨write, size, addr.toNat, data, XferErr.none⟩] →
    ((∃ p, regionOf d = .slice p) ∧ s.cycle = 748) ∨ ((∃ p, regionOf d = .hbm p) ∧ s.bootState = 4 ∧ s.cycle = 742) →
    s.tick.stewardQ = [] ∧ (write = true → bytesLanded s.mem s.tick.mem d size data.toNat) ∧
      (write = false → s.tick.mem = s.mem ∧ s.tick.readData = BitVec.ofNat 512 (natAt s.mem d size))) ∧
  (∀ (write : Bool) (size : Nat) (addr : BitVec 48) (data : Granule) (s : State), s.power.coldReset = false →
    1 ≤ size → size ≤ 64 →
    let c : Instr := .stewardAccess write size addr data XferErr.none
    (0x1000000 ≤ addr.toNat → addr.toNat + size ≤ 0x1800000 →
      ∃ t, exec c s = .next t ∧ t.mem = s.mem ∧
        (write = true → bytesLanded s.sram t.sram addr.toNat size data.toNat) ∧
        (write = false → t.sram = s.sram ∧ t.readData = BitVec.ofNat 512 (natAt s.sram addr.toNat size))) ∧
    (0x2111000 ≤ addr.toNat ∧ addr.toNat + size ≤ 0x8000000 ∨
        0x18000000 ≤ addr.toNat ∧ addr.toNat + size ≤ 0x100000000000 ∨ 0x200000000000 ≤ addr.toNat →
      exec c s = .next (if write then s else { s with readData := BitVec.ofNat 512 (2 ^ (8 * size) - 1) })) ∧
    ((deviceAddr addr.toNat).isSome = true → ucieOk size addr.toNat = false → exec c s = .fault .unsupportedAccess))

/-- O31. Register writes: RW keeps its range, RWS waits in its shadow with LIVE 0, W1C clears but for bits set in the
cycle, owned cores drop and count. Outside cold reset a REGISTER_WRITE of 4 bytes to PWR_CTRL answers a state in which
WARN holds the written value if that lies in 1,000 to 2,900, with MEM_UNDEF as before, and otherwise holds 2,755, with
MEM_UNDEF one higher and MEM_FLAGS bit 7 set; bits [31:12] stay. One to the read-only BEAT_SYNC bits leaves MODULE_ID.
One to TRACE_CTRL leaves the register in force, reads back its bits with LIVE 0, and what it reads comes into force at
the boundary. One to MEM_FLAGS clears the flags written as 1, but for those that hardware has set in this cycle. A
steward write of 4 bytes that reaches a core window, unblocked and mapped, in its slot: to FELT_EXP, while a job owns
the core and the die is not halted, waits in the shadow with LIVE 0, and otherwise is in force at once with LIVE 1; to
FELT_FLAGS, clears what it writes as 1, but for bits set in this cycle; to a core or synchronisation register or to
storage other than scratch (Felt storage, accumulators, row buffer) while a job owns the core, to the schedule store
always, or to a Felt RW register in a beat whose schedule runs steps, is dropped and counted, and changes nothing else
of the core; to CORE_STAT while no job owns the core, clears its W1C bits; to scratch, writes exactly its bytes; to
the spin window while no job owns the core, is in force at once, in the storage and in the snapshot alike. -/
def Obligations.RegisterWritesKeepTheirRanges : Prop :=
  (∀ (value : Dword) (s : State), s.power.coldReset = false →
    let w := bitsOf value.toNat 0 12
    let write (o : Nat) : Instr := .registerWrite 4 (BitVec.ofNat 48 (0x100000000000 + dcbBase + o)) value
    (∃ t, exec (write Dcb.pwrCtrl) s = .next t ∧
      t.dcbF Dcb.pwrCtrl 12 20 = s.dcbF Dcb.pwrCtrl 12 20 ∧
      (1000 ≤ w ∧ w ≤ 2900 → t.dcbF Dcb.pwrCtrl 0 12 = w ∧ t.dcbReg Dcb.memUndef = s.dcbReg Dcb.memUndef) ∧
      (w < 1000 ∨ 2900 < w → t.dcbF Dcb.pwrCtrl 0 12 = 2755 ∧
        t.dcbReg Dcb.memUndef = BitVec.ofNat 64 (min ((s.dcbReg Dcb.memUndef).toNat + 1) (2 ^ 64 - 1)) ∧
        t.dcbF Dcb.memFlags 7 1 = 1)) ∧
    (∃ t, exec (write Dcb.beatSync) s = .next t ∧ t.moduleId = s.moduleId) ∧
    (∃ t, exec (write Dcb.traceCtrl) s = .next t ∧ t.dcbReg Dcb.traceCtrl = s.dcbReg Dcb.traceCtrl ∧
      bitsOf (t.dcbRead Dcb.traceCtrl) 0 7 = bitsOf value.toNat 0 7 ∧
      ((tabGet (s.dcbReg Dcb.traceCtrl) s.dcbRws Dcb.traceCtrl).toNat < 2 ^ 31 → bitsOf (t.dcbRead Dcb.traceCtrl) 31 1 = 0) ∧
      (tabWf false (t.dcbRws.map fun e => (e.1, true)) = true → (t.dcbInForce.dcbReg Dcb.traceCtrl).toNat = t.dcbRead Dcb.traceCtrl)) ∧
    ∃ t, exec (write Dcb.memFlags) s = .next t ∧
      t.dcbReg Dcb.memFlags = s.dcbReg Dcb.memFlags &&& ~~~(value &&& 0xFF &&& ~~~(tabGet 0 s.setNow Dcb.memFlags))) ∧
  ∀ (addr : BitVec 48) (data : Granule) (s : State) (d c o : Nat), deviceAddr addr.toNat = some d → addr.toNat % 4 = 0 →
    regionOf d = .window c o → s.blocked d = false → s.windowMapped c = true →
    let t := s.serveSteward ⟨true, 4, addr.toNat, data, XferErr.none⟩
    let v : Dword := BitVec.ofNat 64 (data.toNat % 2 ^ 32)
    let k := s.core c
    let x := (k.written Reg.feltExp &&& ~~~0x3F) ||| (v &&& 0x3F)
    (o = Reg.feltExp → k.job.isSome = true → s.halted = false →
      (t.core c).reg Reg.feltExp = k.reg Reg.feltExp ∧ (t.core c).written Reg.feltExp = x ∧
      t.coreRegRead c Reg.feltExp = x.toNat) ∧
    (o = Reg.feltExp → k.job = none ∨ s.halted = true →
      (t.core c).reg Reg.feltExp = x ∧ t.coreRegRead c Reg.feltExp = x.toNat + 2 ^ 31) ∧
    (o = Reg.feltFlags →
      (t.core c).reg Reg.feltFlags = k.reg Reg.feltFlags &&& ~~~(v &&& 0xF &&& ~~~(tabGet 0 k.setNow Reg.feltFlags))) ∧
    (o = Reg.coreStat → k.job = none →
      (t.core c).reg Reg.coreStat = k.reg Reg.coreStat &&& ~~~(v &&& 0x3E &&& ~~~(tabGet 0 k.setNow Reg.coreStat))) ∧
    ((regAt seqRanges o).isSome = true ∧ k.job.isSome = true ∨
        storageMapped o = true ∧ 0x40000 ≤ o ∧ o < Reg.hang ∧ (k.job.isSome = true ∨ Win.schedule ≤ o) ∨
        s.tileRuns c = true ∧ ∃ n, (n = Reg.feltPos ∨ n = Reg.feltOrigin ∨ n = Reg.feltSize ∨ n = Reg.feltNbrA ∨
          n = Reg.feltNbrB ∨ n = Reg.feltXchg ∨ n = Reg.feltXround ∨ n = Reg.feltPerm ∨ n = Reg.feltXcfg ∨
          n = Reg.feltAnneal ∨ (∃ p < 16, ∃ l < 2, n = Reg.feltSweep p l)) ∧ coreRegAt o = some (n, (coreRegAt n).elim 0 (·.2)) →
      t.core c = k.errCount) ∧
    (o < 0x40000 → bytesLanded k.store (t.core c).store o 4 v.toNat) ∧
    (Win.spins ≤ o → o < 0x802000 → k.job = none →
      (t.core c).spin ((o - Win.spins) / 512) = (t.core c).snapshot ((o - Win.spins) / 512) ∧
      ∀ i < 4, (t.core c).feltByte (o + i) = BitVec.ofNat 8 (v.toNat >>> (8 * i)))

/-- O32. JOB_CONTAINED_END ends the job it names and frees its cores; FATAL_END ends every job but those completed
before or halted. Where a contained end of a job is due: JOB_CONTAINED_END answers a state in which the job has the
end state and the record of endOf (contained with its own record, unless a fatal record's boundary has come too), its
end beat is this beat, the latch of its mailbox's end source is one higher (at most 255), and none of its cores holds
it; a job that the Whistle has halted stays as it is (R459). Where a fatal record's boundary has come: FATAL_END
answers a state in which every job has ended, but for one that had completed before the beat of the record, which
waits to be DONE, and those that the Whistle has halted (R492). -/
def Obligations.RecordedEndsComeAtTheBoundary : Prop :=
  (∀ (handle : Handle) (s : State) (j : Job) (r : Word) (b : Nat), s.job handle = some j →
    j.pendingEnd = some (.contained, r, b) → b ≤ s.beat →
    ((s.halted && s.haltedJob j) = true → exec (.jobContainedEnd handle) s = .next s) ∧
    ((s.halted && s.haltedJob j) = false → ∃ t k, exec (.jobContainedEnd handle) s = .next t ∧ t.job handle = some k ∧
      (k.st, k.record) = s.endOf .contained r ∧ k.endBeat = s.beat ∧ k.pendingEnd = none ∧
      tabGet 0 t.ic.latches (65 + j.mailbox) = min (tabGet 0 s.ic.latches (65 + j.mailbox) + 1) 255 ∧
      ∀ x ∈ j.engines, (t.core x.2).job ≠ some handle)) ∧
  (∀ (s : State) (r : Word) (b : Nat), s.err.fatalNext = some (r, b) → b ≤ s.beat →
    ∃ t, exec .fatalEnd s = .next t ∧ t.err.fatalNext = none ∧
      ∀ (h : Handle) (k : Job), t.job h = some k →
        k.st ≠ .waiting ∧ k.st ≠ .armed ∧ (k.st = .admitted → s.halted = true) ∧
          (k.st = .running → (s.halted = true ∧ s.haltedJob k = true) ∨ (k.compBeat + 1 < b ∧ k.pendingEnd = none)))

/-- O33. A fence that is due loses what its core or its cluster's cores held and is recorded; CORE_FENCE sets or lifts
fences. FENCE_APPLY with the core's fence due answers a state in which the core is as after reset and CORE_FENCE_MAP
records it; CLUSTER_FENCE does so for the 16 cores of its cluster and records the cluster. A CORE_FENCE that passes
its checks is answered OK: one that fences a core leaves its fence due at the next beat, unless it is fenced already;
one that lifts the fence leaves the core unfenced, with no fence due, and its idle counters start from zero (R448).
Where the cluster is fenced it is refused. -/
def Obligations.FencesTakeTheirCores : Prop :=
  (∀ (core : CoreNum) (s : State) (b : Nat), (s.core core.toNat).fenceAt = some b → b ≤ s.beat →
    ∃ t, exec (.fenceApply core) s = .next t ∧ t.fenced core.toNat = true ∧ t.core core.toNat = CoreState.reset) ∧
  (∀ (cluster : BitVec 6) (s : State) (e : Nat × Nat), s.cp.clusterNext.find? (fun e => e.1 == cluster.toNat) = some e →
    e.2 ≤ s.beat →
    ∃ t, exec (.clusterFence cluster) s = .next t ∧ t.dcbF Dcb.clusterFence cluster.toNat 1 = 1 ∧
      ∀ i < 16, t.fenced (16 * cluster.toNat + i) = true ∧ t.core (16 * cluster.toNat + i) = CoreState.reset) ∧
  (∀ (mb : MailboxNum) (s : State) (x : TakenCmd) (c : Nat), holds s mb 0x30 x → c < 1024 → s.enabled c = true →
    s.occupied mb.toNat = false →
    (x.arg 0 = c → ∃ t, exec (.coreFence mb) s = .next t ∧ answered s t mb x Status.ok [1] ∧
      (s.fenced c = false → (t.core c).fenceAt = some (s.beat + 1))) ∧
    (x.arg 0 = c + 2 ^ 16 → s.dcbF Dcb.clusterFence (clusterOf c) 1 = 0 →
      ∃ t, exec (.coreFence mb) s = .next t ∧ answered s t mb x Status.ok [0] ∧ t.fenced c = false ∧
        (t.core c).fenceAt = none ∧ (s.fenced c = true → (t.core c).cntBase = s.runCycles)) ∧
    (x.arg 0 = c + 2 ^ 16 → s.dcbF Dcb.clusterFence (clusterOf c) 1 = 1 →
      ∃ t, exec (.coreFence mb) s = .next t ∧ answered s t mb x Status.refused []))

/-- O34. A doorbell posts once, the CP takes the first posted command and checks it, responses are written in order,
ACK clears DONE. Outside cold reset DOORBELL raises PEND and joins the order of doorbells, at its end where all others
came first; while PEND is 1 it only sets WRDROP. ACK clears DONE. While the CP runs and has no command unchecked,
MB_COMMAND_TAKE takes the command of the first doorbell, clears PEND, and holds it if it passes the class and shape
checks, else answers DENIED or BAD_ARG. MB_RESPONSE_WRITE, with a response ready and DONE 0, writes the oldest one's
header, record and words, sets DONE, raises the mailbox's completion source, and clears ACTIVE where it answers the
accepted command. -/
def Obligations.MailboxHandshake : Prop :=
  (∀ (mb : MailboxNum) (s : State), s.power.coldReset = false →
    ((s.mb mb.toNat).pend = false → (∀ d ∈ s.cp.doorbells, d ≤ 64 * s.now + mb.toNat) →
      ∃ t, exec (.doorbell mb) s = .next t ∧ (t.mb mb.toNat).pend = true ∧
        t.cp.doorbells = s.cp.doorbells ++ [64 * s.now + mb.toNat]) ∧
    ((s.mb mb.toNat).pend = true →
      ∃ t, exec (.doorbell mb) s = .next t ∧ (t.mb mb.toNat).wrdrop = true ∧ (t.mb mb.toNat).pend = true ∧
        t.cp.doorbells = s.cp.doorbells) ∧
    ∃ t, exec (.ack mb) s = .next t ∧ (t.mb mb.toNat).done = false ∧ (t.mb mb.toNat).ready = (s.mb mb.toNat).ready) ∧
  (∀ (s : State) (d : Nat) (rest : List Nat), s.cpRuns = true → s.checking = false → s.cp.doorbells = d :: rest →
    let m : MailboxNum := BitVec.ofNat 6 d
    let x := (s.mb m.toNat).posted
    ∃ t, exec .mbCommandTake s = .next t ∧ t.cp.doorbells = rest ∧ (t.mb m.toNat).pend = false ∧
      (s.classOk m.toNat x = true → s.shapeOk x = true → (t.mb m.toNat).taken = some x) ∧
      (s.classOk m.toNat x = false → answered s t m x Status.denied []) ∧
      (s.classOk m.toNat x = true → s.shapeOk x = false → answered s t m x Status.badArg [])) ∧
  (∀ (mb : MailboxNum) (s : State) (r : Response) (rest : List Response), (s.mb mb.toNat).ready = r :: rest →
    (s.mb mb.toNat).done = false →
    ∃ t, exec (.mbResponseWrite mb) s = .next t ∧ (t.mb mb.toNat).ready = rest ∧ (t.mb mb.toNat).done = true ∧
      (r.active = true → (t.mb mb.toNat).active = false) ∧
      (r.active = false → (t.mb mb.toNat).active = (s.mb mb.toNat).active) ∧
      tabGet 0 t.ic.latches (1 + mb.toNat) = min (tabGet 0 s.ic.latches (1 + mb.toNat) + 1) 255 ∧
      ∀ i, i < (s.responseOut r).length → tabGet 0 (t.mb mb.toNat).rsp i = (s.responseOut r).getD i 0)

/-- O35. JOB_ADMIT holds a good request under the next handle; ADMISSION fixes s and c and answers OK; the job starts
at s and is DONE at c + 2. A JOB_ADMIT that passes every check is accepted: the job waits under the next handle, and
the next handle follows (1 after 65,535). ADMISSION of a waiting job of one module with its own seed and no link
encryption, whose map, schedule and links are good, which fits and is first in order, answers a state in which the job
is admitted with start beat the later of this beat + 4 and its launch beat and completion beat s + L - 1, and its
command has OK with the words of R377; where it does not fit it waits, or with NOWAIT is withdrawn. JOB_START at s:0
makes it run on its cores. JOB_DONE from c + 2 makes it DONE with that end beat and raises its end source. -/
def Obligations.AdmittedJobsStartAndComplete : Prop :=
  (∀ (mb : MailboxNum) (s : State) (x : TakenCmd) (im : Image), holds s mb 0x01 x →
    readImage s.mem x.admitReq.image (s.dcbF Dcb.abiId 0 16) s.moduleId = some im →
    let j := s.newJob mb.toNat x x.admitReq im none
    s.admitArgsBad mb.toNat x x.admitReq = false → s.admitImageBad x.admitReq j = false → s.admitNotReady j = false →
    s.occupied mb.toNat = false → s.admitRefused j = false → s.cp.nextHandle ≤ 65535 →
    ∃ t, exec (.jobAdmit mb) s = .next t ∧ t.job (BitVec.ofNat 16 s.cp.nextHandle) = some j ∧ j.st = .waiting ∧
      (t.mb mb.toNat).waiting = some x ∧ (t.mb mb.toNat).taken = none ∧ (t.mb mb.toNat).active = true ∧
      (t.mb mb.toNat).handle = BitVec.ofNat 16 s.cp.nextHandle ∧
      t.cp.nextHandle = (if s.cp.nextHandle = 65535 then 1 else s.cp.nextHandle + 1)) ∧
  (∀ (handle : Handle) (s : State) (j : Job), s.job handle = some j → j.st = .waiting → s.cycle = 0 →
    j.takenBeat < s.beat → s.halted = false → s.fatal = false → s.cpRuns = true → j.multi = false →
    s.mapShort j = false → j.entropySeed = false → j.linkEnc = false → j.restore = none →
    let p := s.placed j s.beat
    j.launch = 0 ∨ p.startBeat ≤ j.launch → s.admissionFault j p = none →
    (s.fits p = true → s.laterThan handle p = false →
      ∃ t k, exec (.admission handle) s = .next t ∧ t.job handle = some k ∧ k.st = .admitted ∧
        k.startBeat = max (s.beat + 4) j.launch ∧ k.compBeat = k.startBeat + j.image.l - 1 ∧ k.key = j.key ∧
        k.engines = s.mapOf j ∧
        ∀ w, (s.mb j.mailbox).waiting = some w → completed s t j.mailbox w Status.ok (k.admitWords handle) 0) ∧
    (s.fits p = false → j.nowait = false → exec (.admission handle) s = .next s) ∧
    (s.fits p = false → j.nowait = true →
      ∃ t k, exec (.admission handle) s = .next t ∧ t.job handle = some k ∧ k.st = .withdrawn)) ∧
  (∀ (handle : Handle) (s : State) (j : Job), s.job handle = some j → j.st = .admitted → s.cycle = 0 →
    s.beat = j.startBeat → s.endDue j = false → s.domainRuns = true →
    ∃ t, exec (.jobStart handle) s = .next t ∧ t.job handle = some { j with st := .running } ∧
      (j.restore = none → ∀ x ∈ j.engines, x.1 < j.image.engines.length → (t.core x.2).job = some handle)) ∧
  (∀ (handle : Handle) (s : State) (j : Job), s.job handle = some j → j.st = .running → j.compBeat + 2 ≤ s.beat →
    j.pendingEnd = none → s.halted = false →
    ∃ t k, exec (.jobDone handle) s = .next t ∧ t.job handle = some k ∧ k.st = .done ∧ k.endBeat = j.compBeat + 2 ∧
      k.record = 0 ∧ tabGet 0 t.ic.latches (65 + j.mailbox) = min (tabGet 0 s.ic.latches (65 + j.mailbox) + 1) 255)

/-- O36. JOB_CANCEL withdraws a waiting job or marks a started one; deadlines withdraw; JOB_STATUS and SCHED_INFO
answer. A JOB_CANCEL of a job that can still end: a waiting or armed one is withdrawn, and an admitted or running one
with no end marked is marked to end as cancelled at the next boundary; either way the command gets OK. One of a job
that has ended, or completed, is refused. LAUNCH_DEADLINE_WITHDRAW withdraws a job that still waits after beat
LAUNCH_BEAT - 4, with REFUSED; GO_TIMEOUT_WITHDRAW an armed job at its launch beat, with FAULT. JOB_STATUS of a job in
no confidential partition answers its state, start, completion and end beats and its record. SCHED_INFO answers four
words, the last the number of waiting jobs. -/
def Obligations.JobsAreCancelledWithdrawnAndShown : Prop :=
  (∀ (mb : MailboxNum) (s : State) (x : TakenCmd) (j : Job), s.occupied mb.toNat = false → s.job x.jobHandle = some j →
    (holds s mb 0x02 x → s.canEnd j = true → j.save = none → (j.st = .waiting ∨ j.st = .armed) → j.mailbox ≠ mb.toNat →
      ∃ t k, exec (.jobCancel mb) s = .next t ∧ answered s t mb x Status.ok [] ∧ t.job x.jobHandle = some k ∧
        k.st = .withdrawn) ∧
    (holds s mb 0x02 x → s.canEnd j = true → j.save = none → (j.st = .admitted ∨ j.st = .running) → j.pendingEnd = none →
      ∃ t, exec (.jobCancel mb) s = .next t ∧ answered s t mb x Status.ok [] ∧
        t.job x.jobHandle = some { j with pendingEnd := some (.cancelled, 0, s.beat + 1) }) ∧
    (holds s mb 0x02 x → s.canEnd j = false →
      ∃ t, exec (.jobCancel mb) s = .next t ∧ answered s t mb x Status.refused [] ∧ t.jobs = s.jobs) ∧
    (holds s mb 0x03 x → s.anyPartConf j.parts = false →
      ∃ t, exec (.jobStatus mb) s = .next t ∧
        answered s t mb x Status.ok (BitVec.ofNat 32 j.st.code :: (wordsOf j.startBeat ++ wordsOf j.compBeat ++
          wordsOf j.endBeat ++ [j.record])))) ∧
  (∀ (mb : MailboxNum) (s : State) (x : TakenCmd), holds s mb 0x04 x → s.occupied mb.toNat = false →
    ∃ t v, exec (.schedInfo mb) s = .next t ∧
      answered s t mb x Status.ok [0x63626160, 748 + 749 * 65536, v,
        BitVec.ofNat 32 ((s.jobs.filter fun e => e.2.st == .waiting).length % 65536)]) ∧
  (∀ (handle : Handle) (s : State) (j : Job) (w : TakenCmd), s.job handle = some j → (s.mb j.mailbox).waiting = some w →
    (j.st = .waiting → j.launch ≠ 0 → j.launch < s.beat + 4 →
      ∃ t k, exec (.launchDeadlineWithdraw handle) s = .next t ∧ t.job handle = some k ∧ k.st = .withdrawn ∧
        completed s t j.mailbox w Status.refused [] 0) ∧
    (j.st = .armed → j.launch ≤ s.beat →
      ∃ t k, exec (.goTimeoutWithdraw handle) s = .next t ∧ t.job handle = some k ∧ k.st = .withdrawn ∧
        completed s t j.mailbox w Status.fault [] 0))

/-- O37. The master sends GO in beat b - 3 when it holds every token, and each module's base when it holds every
census entry. GO_SEND on the master, armed itself, in beat LAUNCH_BEAT - 3 with as many tokens as the set has modules,
all there by the end of beat LAUNCH_BEAT - 4: the tokens are used up, GO joins each port that leads away from the
master with fewer than 16 messages waiting, its own job is admitted and its command gets OK. With fewer tokens nothing
happens. BASE_SEND on the master, with an entry from every module of the set: the entries are used up and its own
job's base is the sum of the counts of the modules with lower numbers, or 0x1FFFF where the sum of all falls short of
the engines. -/
def Obligations.TheMasterSendsGoAndBases : Prop :=
  (∀ (token : Dword) (s : State) (h : Handle) (j : Job), s.jobOfToken token .armed = some (h, j) → s.isMaster = true →
    s.beat + 3 = j.launch →
    let held := (s.linkSys.tokens.filter fun x => x.1 == token && decide (x.2.2 + 4 ≤ j.launch)).length
    (popcount 64 j.modset.toNat ≤ held →
      ∃ t, exec (.goSend token) s = .next t ∧ t.linkSys.tokens = s.linkSys.tokens.filter (fun x => x.1 != token) ∧
        t.job h = some { j with st := .admitted } ∧
        (∀ w, (s.mb j.mailbox).waiting = some w → completed s t j.mailbox w Status.ok (j.admitWords h) 0) ∧
        ∀ l ∈ s.downPorts, (s.link l).down.length < 16 →
          (t.link l).down = (s.link l).down ++ [⟨token, BitVec.ofNat 64 j.launch, false⟩]) ∧
    (held < popcount 64 j.modset.toNat → exec (.goSend token) s = .next s)) ∧
  (∀ (token : Dword) (s : State) (h : Handle) (j : Job), s.jobOfToken token .waiting = some (h, j) → s.isMaster = true →
    j.needsBase = true → j.modset.toNat.testBit s.moduleId = true →
    let es := s.linkSys.census.filter fun x => x.1 == token
    let mods := (List.range 64).filter fun n => j.modset.toNat.testBit n
    let count (n : Nat) : Nat := ((es.find? fun x => x.2.1 == n).map (·.2.2)).getD 0
    (∀ n ∈ mods, ∃ x ∈ es, x.2.1 = n) →
    ∃ t, exec (.baseSend token) s = .next t ∧ t.linkSys.census = s.linkSys.census.filter (fun x => x.1 != token) ∧
      t.job h = some { j with base := some (if (mods.map count).sum < j.image.e then 0x1FFFF
        else ((mods.filter fun k => decide (k < s.moduleId)).map count).sum) })

/-- O38. CTX_SAVE is held, suspends the job at a boundary and writes each core's record; CTX_RESTORE holds a job with
its records. A CTX_SAVE that passes its checks, of a running job with no end marked and no other save, is accepted and
held with the job. CTX_SUSPEND at the next boundary (native form) suspends the job, notes k0, its job beat, and takes
the record of each of its cores as the boundary leaves it, with the increments due then applied. CTX_SAVE_DONE answers
OK with k0, frees the job's cores and leaves the record of each engine e at DEST + e x STRIDE. A CTX_RESTORE that
passes its checks is accepted: the job waits under the next handle, with where its records lie and a free number of
loading beats. -/
def Obligations.ContextsAreSavedAndRestored : Prop :=
  (∀ (mb : MailboxNum) (s : State) (x : TakenCmd) (j : Job), holds s mb 0x05 x → s.job x.jobHandle = some j →
    let dest := x.arg64 1 % 2 ^ 44
    dest % 4096 = 0 → x.arg 3 % 4096 = 0 → recordBytes ≤ x.arg 3 →
    s.rangeIn j.parts dest (recordsSpan j.image.e (x.arg 3)) = true → s.occupied mb.toNat = false → j.save = none →
    j.st = .running → s.beat ≤ j.compBeat → j.pendingEnd = none →
    ∃ t, exec (.ctxSave mb) s = .next t ∧ (t.mb mb.toNat).waiting = some x ∧ (t.mb mb.toNat).active = true ∧
      t.job x.jobHandle =
        some { j with save := some ⟨mb.toNat, s.beat, (x.arg 0).testBit 16, dest, x.arg 3, false, 0, []⟩ }) ∧
  (∀ (handle : Handle) (s : State) (j : Job) (r : SaveReq), s.job handle = some j → j.save = some r → j.st = .running →
    r.suspended = false → r.portable = false → r.since < s.beat → s.cycle = 0 → s.endDue j = false →
    s.halted = false → s.beat ≤ j.compBeat →
    ∃ t k, exec (.ctxSuspend handle) s = .next t ∧ t.job handle = some k ∧ k.st = .suspended ∧
      k.endBeat = s.beat ∧
      (let u := j.engines.foldl (fun u x => u.applyIncs x.2) s
       k.save = some { r with
         suspended := true, k0 := s.jobBeat j
         records := j.engines.map fun x => (x.1, cellsOf 0 (u.contextRecord x.2 x.1 j false (s.jobBeat j))) })) ∧
  (∀ (handle : Handle) (s : State) (j : Job) (r : SaveReq) (w : TakenCmd), s.job handle = some j → j.save = some r →
    r.suspended = true → (s.mb r.mb).waiting = some w →
    ∃ t, exec (.ctxSaveDone handle) s = .next t ∧ completed s t r.mb w Status.ok (wordsOf r.k0) 0 ∧
      (∃ k, t.job handle = some k ∧ k.save = none ∧ k.st = j.st) ∧ (∀ x ∈ j.engines, (t.core x.2).job ≠ some handle) ∧
      (recordBytes ≤ r.stride → (r.records.map (·.1)).Nodup →
        ∀ x ∈ r.records, bytesRead t.mem (r.dest + x.1 * r.stride) recordBytes = bytesRead x.2 0 recordBytes)) ∧
  (∀ (mb : MailboxNum) (s : State) (x : TakenCmd) (im : Image), holds s mb 0x06 x →
    readImage s.mem x.admitReq.image (s.dcbF Dcb.abiId 0 16) s.moduleId = some im →
    let r : RestoreReq := { x.restoreReq with beats := s.freeVal.toNat % 2 ^ 32 }
    let u := s.stepFree
    let j := u.newJob mb.toNat x x.admitReq im (some r)
    u.admitArgsBad mb.toNat x x.admitReq = false → u.admitImageBad x.admitReq j = false →
    u.admitNotReady j = false → s.occupied mb.toNat = false → u.admitRefused j = false →
    (j.needsBase = false → u.restoreStatus j = none) →
    s.cp.nextHandle ≤ 65535 →
    ∃ t, exec (.ctxRestore mb) s = .next t ∧ t.job (BitVec.ofNat 16 s.cp.nextHandle) = some j ∧ j.st = .waiting ∧
      (t.mb mb.toNat).waiting = some x ∧ (t.mb mb.toNat).active = true)

/-- O39. CFG_OVERLAY answers the mask that comes into force and its beat; OVERLAY_APPLY puts that mask into
CFG_ACTIVE. A CFG_OVERLAY whose SET and CLEAR share no bit, which sets no empty overlay, leaves no two overlays of one
kind other than general and clears no lock-step overlay of a held lock-step job, is answered OK with the mask (target
OR SET) AND NOT CLEAR and the next beat, and that mask waits for that beat. At its beat OVERLAY_APPLY answers a state
in which CFG_ACTIVE holds the mask and nothing waits; with the empty mask CFG_LS and TRACE_CTRL hold their reset
values. -/
def Obligations.OverlaysComeIntoForceAtTheBoundary : Prop :=
  (∀ (mb : MailboxNum) (s : State) (x : TakenCmd) (set clear : Nat), holds s mb 0x10 x → set < 256 → clear < 256 →
    x.arg 0 = set + 256 * clear → set &&& clear = 0 →
    let mask := (s.overlayTarget ||| set) &&& (255 - clear)
    s.kindsClash mask = false → (∀ n < 8, set.testBit n = true → s.overlayKind n ≠ 0) → s.occupied mb.toNat = false →
    s.lockstepHeld = false →
    ∃ t, exec (.cfgOverlay mb) s = .next t ∧ t.cp.overlayNext = some (BitVec.ofNat 8 mask, s.beat + 1) ∧
      answered s t mb x Status.ok (BitVec.ofNat 32 mask :: wordsOf (s.beat + 1))) ∧
  (∀ (s : State) (m : Byte) (b : Nat), s.cp.overlayNext = some (m, b) → b ≤ s.beat →
    ∃ t, exec .overlayApply s = .next t ∧ t.cp.overlayNext = none ∧ t.dcbF Dcb.cfgActive 0 8 = m.toNat ∧
      (m = 0 → t.dcbReg Dcb.cfgLs = 0 ∧ t.dcbReg Dcb.traceCtrl = 0x7F))

/-- O40. BOOT_GO starts the check from ROM or FWBAD alone; a good image gives INIT with its identity, a bad one FWBAD;
training ends in READY. Outside cold reset BOOT_GO in state ROM or FWBAD answers a state in VERIFY; in another state
it only sets WRDROP. FW_VERIFY_DONE in VERIFY: where every check passes the state is INIT, with FW_ID, ABI_ID and the
firmware hash from the image, and the device and alias keys derived (R417; how they are derived is an open value, log
entries); where one fails it is FWBAD, with the reason of the first check that fails and the count of failures one
higher, at most 255. BOOT_READY in INIT answers READY with BOOT_TIME this beat, source 129 raised once, the clusters
whose routers the checks at boot found faulty fenced beside those that were, each stack's TRAINED bit as brought, and,
on a part with confidential mode, every byte of HBM and shared memory zero; otherwise memory is as before. -/
def Obligations.BootGoesThroughItsStates : Prop :=
  (∀ s : State, s.power.coldReset = false →
    (s.bootState = 0 ∨ s.bootState = 2 → ∃ t, exec .bootGo s = .next t ∧ t.bootState = 1) ∧
    (s.bootState ≠ 0 → s.bootState ≠ 2 →
      ∃ t, exec .bootGo s = .next t ∧ t.bootState = s.bootState ∧ t.dcbF Dcb.bootStat 4 1 = 1)) ∧
  (∀ s : State, s.bootState = 1 →
    ∃ t, exec .fwVerifyDone s = .next t ∧ t.bootState = (if s.fwReason = 0 then 3 else 2) ∧
      (s.fwReason = 0 → t.dcbReg Dcb.fwId = BitVec.ofNat 64 (s.fwAt 8 4) ∧
        t.dcbReg Dcb.abiId = BitVec.ofNat 64 (s.fwAt 0x0C 2) ∧ t.sec.fwHash = BitVec.ofNat 384 (beNat s.fwHash) ∧
        t.sec.deviceKey = Config.deviceKey s.sec.deviceSecret ∧
        t.sec.aliasKey = Config.aliasKey s.sec.deviceSecret (BitVec.ofNat 384 (beNat s.fwHash))) ∧
      (s.fwReason ≠ 0 → t.dcbF Dcb.bootStat 16 2 = s.fwReason ∧
        t.dcbF Dcb.bootStat 8 8 = min (s.dcbF Dcb.bootStat 8 8 + 1) 255)) ∧
  (∀ (trained : Word) (faulty : Dword) (s : State), s.bootState = 3 → s.power.coldReset = false →
    ∃ t, exec (.bootReady trained faulty) s = .next t ∧ t.bootState = 4 ∧ t.dcbReg Dcb.bootTime = s.beatCtr ∧
      tabGet 0 t.ic.latches 129 = min (tabGet 0 s.ic.latches 129 + 1) 255 ∧
      (∀ q < 64, (t.dcbReg Dcb.clusterFence).toNat.testBit q =
        ((s.dcbReg Dcb.clusterFence).toNat.testBit q || faulty.toNat.testBit q)) ∧
      (∀ c < 1024, t.fenced c = (s.fenced c || faulty.toNat.testBit (clusterOf c))) ∧
      (∀ k < 32, t.dcbF (Dcb.hbmStat k) 0 1 = bit (trained.toNat.testBit k)) ∧
      (s.dcbF Dcb.secLcs 2 1 = 1 → ∀ a, isPlain a = true → byteAt t.mem a = 0) ∧
      (s.dcbF Dcb.secLcs 2 1 = 0 → t.mem = s.mem))

/-- O41. A good ENT_READ waits for its bits; a conditioned read returns the DRBG's blocks in order; ENT_RESTART clears
the source. An ENT_READ of one to eight units, of a form 0 to 2 that is allowed, with the source READY, is accepted
and joins the waiting reads; in STARTUP it gets NOT_READY. ENT_READ_COMPLETE of the DRBG read that is first of all
requests to the DRBG, seed draws of waiting jobs among them, with no reseed due, answers the blocks that the DRBG
generates from its key and V, which then move on; of a raw or shift-register read whose bits are complete, those bits.
ENT_RESTART from an occupied mailbox is BUSY; from another, with no read of its own waiting, it is answered OK and
leaves the DRBG uninstantiated and zeroed, the conditioners empty, and the restart due. -/
def Obligations.EntropyReadsReturnTheirBits : Prop :=
  (∀ (mb : MailboxNum) (s : State) (x : TakenCmd) (form len : Nat), holds s mb 0x20 x → form ≤ 2 → 1 ≤ len → len ≤ 8 →
    x.arg 0 = form + 256 * len → (form = 2 → s.anyConf = false) →
    (s.entState = 2 → s.occupied mb.toNat = false → (form = 0 → s.entMode = 0) →
      ∃ t, exec (.entRead mb) s = .next t ∧ (t.mb mb.toNat).waiting = some x ∧ (t.mb mb.toNat).active = true ∧
        t.ent.reads = s.ent.reads ++ [⟨mb.toNat, form, len, false, [], none⟩]) ∧
    (s.entState = 1 → ∃ t, exec (.entRead mb) s = .next t ∧ answered s t mb x Status.notReady [])) ∧
  (∀ (mb : MailboxNum) (s : State) (w : EntWait) (x : TakenCmd), s.ent.reads.find? (fun w => w.mb == mb.toNat && w.job.isNone) = some w →
    (s.mb mb.toNat).waiting = some x →
    (w.form = 0 → s.nextDraw = some w → s.drbgUp = true → s.mustReseed w.pr = false →
      ∃ t, exec (.entReadComplete mb) s = .next t ∧
        completed s t mb.toNat x Status.ok (wordsOfBytes (drbgBlocks s.ent.key s.ent.v w.len)) 0 ∧
        (t.ent.key, t.ent.v) = drbgUpdate s.ent.key (s.ent.v + BitVec.ofNat 128 w.len) (List.replicate 48 0) ∧
        t.ent.reads = s.ent.reads.filter fun y => y.mb != mb.toNat || y.job.isSome) ∧
    (w.form ≠ 0 → w.full = true →
      ∃ t, exec (.entReadComplete mb) s = .next t ∧
        completed s t mb.toNat x Status.ok (w.got.flatMap fun d => wordsOf d.toNat) 0)) ∧
  (∀ (mb : MailboxNum) (s : State) (x : TakenCmd), holds s mb 0x21 x →
    (s.occupied mb.toNat = true → ∃ t, exec (.entRestart mb) s = .next t ∧ answered s t mb x Status.busy []) ∧
    (s.occupied mb.toNat = false → (∀ w ∈ s.ent.reads, w.mb ≠ mb.toNat) → ∃ t, exec (.entRestart mb) s = .next t ∧ answered s t mb x Status.ok [] ∧ t.drbgUp = false ∧ t.ent.key = 0 ∧
      t.ent.v = 0 ∧ t.ent.block = [] ∧ t.ent.buffer = [] ∧ t.ent.restart = true))

/-- O42. NAP_EVAL answers NAP-6 of its key and counter, DIST_READ a byte for each distance, SEC_CTRREAD a counter's 64
bits. From a mailbox that is not occupied: NAP_EVAL is answered OK with the 128 bits of NAP-6 of its first and second
128 bits of arguments; DIST_READ of n distances from core port c, at slice ports p to p + n - 1, with 64 bytes of
which byte i is the distance to port p + i; SEC_CTRREAD of a global counter with its 64 bits, and of another address
with BAD_ARG. Nothing else changes in the state than the mailbox. -/
def Obligations.ReadingCommandsAnswerAtOnce : Prop :=
  (∀ (mb : MailboxNum) (s : State) (x : TakenCmd), s.occupied mb.toNat = false →
    (holds s mb 0x22 x →
      let y := nap6 (x.arg64 0 + x.arg64 2 * 2 ^ 64) (x.arg64 4 + x.arg64 6 * 2 ^ 64)
      ∃ t, exec (.napEval mb) s = .next t ∧ answered s t mb x Status.ok (wordsOf y ++ wordsOf (y / 2 ^ 64)) ∧
        t = { s with mbs := t.mbs }) ∧
    (∀ c p n : Nat, holds s mb 0x31 x → c < 1024 → 1 ≤ n → n ≤ 64 → p + n ≤ 1024 → x.arg 0 = c + 65536 * p → x.arg 1 = n →
      ∃ t ws, exec (.distRead mb) s = .next t ∧ answered s t mb x Status.ok ws ∧ ws.length = 16 ∧
        t = { s with mbs := t.mbs } ∧
        ∀ i < n, (ws.getD (i / 4) 0).toNat / 2 ^ (8 * (i % 4)) % 256 = readDistance c (p + i) % 256) ∧
    (holds s mb 0x62 x →
      (∀ o : Nat, x.arg64 0 = dcbBase + o → globalCounter o = true →
        ∃ t, exec (.secCtrread mb) s = .next t ∧ answered s t mb x Status.ok (wordsOf (s.dcbReg o).toNat) ∧
          t = { s with mbs := t.mbs }) ∧
      ((∀ o : Nat, x.arg64 0 = dcbBase + o → globalCounter o = false) →
        ∃ t, exec (.secCtrread mb) s = .next t ∧ answered s t mb x Status.badArg [])))

/-- O43. Samples are counted; the startup tests pass or fail the source; two blocks instantiate the DRBG; a window of
2^20 samples closes. Outside cold reset ENT_SAMPLE adds one to ENT_SAMPLES (saturating at 64 bits) and, without a test
pattern, keeps the sample as the previous one. STARTUP_TEST_END after the startup samples: where the known-answer
tests pass, that is noted, and under a test pattern the source becomes READY; where they fail, the source is FAILED,
source 131 is raised and the DRBG is zeroed. DRBG_INSTANTIATE then takes two blocks, fixes key and V, clears the
request count and makes the source READY with source 130 raised once. EST_WINDOW after 2^20 samples shows every
oscillator's counts and clears them. -/
def Obligations.TheSourceRunsItsTests : Prop :=
  (∀ (sample : Dword) (s : State), s.power.coldReset = false →
    ∃ t, exec (.entSample sample) s = .next t ∧
      t.dcbReg Dcb.entSamples = BitVec.ofNat 64 (min ((s.dcbReg Dcb.entSamples).toNat + 1) (2 ^ 64 - 1)) ∧
      (s.entMode = 0 → t.ent.prev = sample)) ∧
  (∀ s : State, s.ent.windowEnded = true → s.entState = 1 → s.ent.katPassed = false → s.power.coldReset = false →
    (∃ t, exec (.startupTestEnd true) s = .next t ∧ t.ent.katPassed = true ∧
      t.entState = if s.entMode = 0 then 1 else 2) ∧
    ∃ t, exec (.startupTestEnd false) s = .next t ∧ t.entState = 3 ∧ t.drbgUp = false ∧ t.ent.key = 0 ∧ t.ent.v = 0 ∧
      min (tabGet 0 s.ic.latches 131 + 1) 255 ≤ tabGet 0 t.ic.latches 131) ∧
  (∀ (s : State) (a b : BitVec 256) (rest : List (BitVec 256)), s.ent.katPassed = true → s.entState = 1 → s.entMode = 0 →
    s.ent.restart = false → s.power.coldReset = false → s.ent.buffer = a :: b :: rest →
    ∃ t, exec .drbgInstantiate s = .next t ∧ (t.ent.key, t.ent.v) = drbgUpdate 0 0 (drbgSeed a b) ∧
      t.ent.buffer = rest ∧ t.dcbReg Dcb.entReqs = 0 ∧ t.drbgUp = true ∧ t.entState = 2 ∧
      tabGet 0 t.ic.latches 130 = min (tabGet 0 s.ic.latches 130 + 1) 255) ∧
  (∀ s : State, s.ent.estCount = 2 ^ 20 →
    ∃ t, exec .estWindow s = .next t ∧ t.ent.estCount = 0 ∧
      t.dcbReg Dcb.entEstWin = BitVec.ofNat 64 (min ((s.dcbReg Dcb.entEstWin).toNat + 1) (2 ^ 32 - 1)) ∧
      ∀ k < 64, (tabGet Osc.reset t.ent.oscs k).ones = (tabGet Osc.reset s.ent.oscs k).winOnes ∧
        (tabGet Osc.reset t.ent.oscs k).same = (tabGet Osc.reset s.ent.oscs k).winSame ∧
        (tabGet Osc.reset t.ent.oscs k).pair = (tabGet Osc.reset s.ent.oscs k).winPair ∧
        (tabGet Osc.reset t.ent.oscs k).winOnes = 0)

/-- O44. The key block is served before the link cipher; trims are the CP's alone; test modes need lifecycle state
TEST. Outside cold reset a PRIVATE_WIRE_REQUEST joins the waiting ones while the source can serve, and otherwise gets
error status. PRIVATE_WIRE_SERVE, with a block, a waiting request, the source READY without a test pattern and no
reseed waiting, gives the oldest block to the key block if it waits, else to the link cipher. ENT_TRIM_WRITE by the CP
sets the trim, makes a restart due and zeroes the DRBG; another's leaves the trim and sets ENT_FLAGS bit 1.
ENT_TEST_WRITE in a lifecycle state other than TEST leaves ENT_TEST and sets ENT_FLAGS bit 2; in TEST the mode becomes
the written one (where it changes, a restart is due and the DRBG is zeroed at once), the undefined value 3 counting as
0 and in MEM_UNDEF. -/
def Obligations.PrivateWiresAndEntropyControls : Prop :=
  (∀ (link : Bool) (s : State), s.power.coldReset = false →
    (s.entState ≠ 3 → s.entMode = 0 →
      ∃ t, exec (.privateWireRequest link) s = .next t ∧ t.ent.wires = s.ent.wires ++ [link]) ∧
    (s.entState = 3 ∨ s.entMode ≠ 0 →
      ∃ t, exec (.privateWireRequest link) s = .next t ∧ t.ent.wires = [] ∧
        (if link then t.ent.wireLink else t.ent.wireKey).getLast? = some none)) ∧
  (∀ (s : State) (b : BitVec 256) (rest : List (BitVec 256)) (w : Bool) (ws : List Bool), s.ent.buffer = b :: rest →
    s.ent.wires = w :: ws → s.entState = 2 → s.entMode = 0 → s.reseedWaits = false →
    ∃ t, exec .privateWireServe s = .next t ∧ t.ent.buffer = rest ∧
      (false ∈ w :: ws → t.ent.wireKey = s.ent.wireKey ++ [some b] ∧ t.ent.wireLink = s.ent.wireLink ∧
        t.ent.wires = (w :: ws).erase false) ∧
      (false ∉ w :: ws → t.ent.wireLink = s.ent.wireLink ++ [some b] ∧ t.ent.wireKey = s.ent.wireKey ∧ t.ent.wires = ws)) ∧
  (∀ (n : BitVec 2) (value : Dword) (s : State), s.power.coldReset = false →
    (∃ t, exec (.entTrimWrite true n value) s = .next t ∧ t.dcbReg (Dcb.entTrim n.toNat) = value ∧ t.ent.restart = true ∧
      t.drbgUp = false ∧ t.ent.key = 0 ∧ t.ent.v = 0) ∧
    ∃ t, exec (.entTrimWrite false n value) s = .next t ∧ t.dcbReg (Dcb.entTrim n.toNat) = s.dcbReg (Dcb.entTrim n.toNat) ∧
      t.dcbF Dcb.entFlags 1 1 = 1 ∧ t.ent = s.ent) ∧
  (∀ (value : Word) (s : State), s.power.coldReset = false →
    (s.dcbF Dcb.secLcs 0 2 ≠ 0 →
      ∃ t, exec (.entTestWrite value) s = .next t ∧ t.dcbReg Dcb.entTest = s.dcbReg Dcb.entTest ∧
        t.dcbF Dcb.entFlags 2 1 = 1) ∧
    (s.dcbF Dcb.secLcs 0 2 = 0 →
      let m := if value.toNat % 4 = 3 then 0 else value.toNat % 4
      ∃ t, exec (.entTestWrite value) s = .next t ∧ t.entMode = m ∧ 
        (m ≠ s.entMode → t.ent.restart = true ∧ t.drbgUp = false ∧ t.ent.key = 0 ∧ t.ent.v = 0) ∧
        (value.toNat % 4 = 3 →
          t.dcbReg Dcb.memUndef = BitVec.ofNat 64 (min ((s.dcbReg Dcb.memUndef).toNat + 1) (2 ^ 64 - 1)))))

/-- O45. A port sends one frame a beat; a kept frame is echoed and names the peer, a lost one counts, and the third in
a row takes the port DOWN. Outside cold reset, for a port that is not OFF: LINK_FRAME_TX in a beat whose frame has not
been sent leaves in the port's output the coded frame of the state before, takes the first waiting message of each
direction out of its queue, and empties the payload; in a beat whose frame has been sent it changes nothing.
LINK_FRAME_RX of 64,000 bytes at a port that is UP, with no error injected: a kept frame sets the echo to the frame's
beat and this cycle, ends the run of lost frames, and gives LINK_STAT the peer's module and port; a lost frame counts
in LINK_LOST, and the third in a row leaves the port training, with the run at 0. -/
def Obligations.LinkFramesAreSentAndTaken : Prop :=
  (∀ (port : BitVec 4) (s : State), s.power.coldReset = false → s.linkState port.toNat ≠ 0 →
    ((s.link port.toNat).sent ≠ some s.beat →
      ∃ t, exec (.linkFrameTx port) s = .next t ∧ (t.link port.toNat).out = frameOf (s.buildFrame port.toNat).1 ∧
        (t.link port.toNat).sent = some s.beat ∧ (t.link port.toNat).up = (s.link port.toNat).up.drop 1 ∧
        (t.link port.toNat).down = (s.link port.toNat).down.drop 1 ∧ (t.link port.toNat).payload = []) ∧
    ((s.link port.toNat).sent = some s.beat → exec (.linkFrameTx port) s = .next s)) ∧
  (∀ (port : BitVec 4) (frame : List Byte) (late : List Nat) (s : State), s.power.coldReset = false →
    frame.length = 64000 → s.linkState port.toNat = 2 → (s.errUnit (UnitNo.link port.toNat)).inject = none →
    let f : RxFrame := ⟨(List.range 100).map fun w => decodeCodeword (octets (frame.drop (640 * w)) 0 640), late⟩
    let n := (s.link port.toNat).lostRun + 1
    ∃ t, exec (.linkFrameRx port frame late) s = .next t ∧
      (f.kept = true →
        (t.link port.toNat).echoBeat = BitVec.ofNat 64 f.beat ∧ (t.link port.toNat).echoCycle = s.cycle ∧
        (t.link port.toNat).lostRun = 0 ∧ t.dcbF (Dcb.linkStat port.toNat) 16 6 = natOf (octets (f.flit 0) 16 1) % 64 ∧
        t.dcbF (Dcb.linkStat port.toNat) 24 4 = natOf (octets (f.flit 0) 17 1) % 16) ∧
      (f.kept = false →
        t.dcbReg (Dcb.linkLost port.toNat) =
          BitVec.ofNat 64 (min ((s.dcbReg (Dcb.linkLost port.toNat)).toNat + 1) (2 ^ 32 - 1)) ∧
        (n ≠ 3 → (t.link port.toNat).lostRun = n) ∧
        (n = 3 → (t.link port.toNat).lostRun = 0 ∧ t.linkState port.toNat = 1)))

/-- O46. LINK_UP fixes delay and period of a port, LINK_DOWN trains it anew; lock loads the master's count at once or
once no job is held. Outside cold reset LINK_UP of a training port takes for d the largest of its 1,024 measurements,
each half of a round trip less the peer's hold, rounded up (the model's reading, log entry 80), and makes the port UP
with d, T = 1 + (d + 132) / 750, SHORT exactly if d + 132 is at most 742, the peer's numbers, and its up source raised
once. LINK_DOWN of an UP port makes it train again, sets PORTDOWN and raises its down source once. BEAT_LOCK over an
UP upstream port that brings MASTER or LOCKED records ALIGN; without a held job the counter and cycle become the
master's and LOCKED is set, with one the load is pending and the count stays. COUNTER_LOAD at a boundary without a
held job does the pending load. BEAT_LOCK_LOSS clears LOCKED, sets LOSTLOCK, raises source 134 once and marks every
multi-module job that can end for the next boundary. -/
def Obligations.PortsAndTheBeatLock : Prop :=
  (∀ (port : BitVec 4) (rounds : List (Nat × Nat)) (pm : BitVec 6) (pp : BitVec 4) (s : State), s.power.coldReset = false →
    s.linkState port.toNat = 1 → (Instr.linkUp port rounds pm pp).wf = true →
    let d := measuredD rounds
    (∀ x ∈ rounds, x.1 - x.2 ≤ 2 * d) ∧ (∃ x ∈ rounds, 2 * d ≤ x.1 - x.2 + 1) ∧
    ∃ t, exec (.linkUp port rounds pm pp) s = .next t ∧ t.linkState port.toNat = 2 ∧
      t.dcbF (Dcb.linkDelay port.toNat) 0 16 = d ∧
      t.dcbF (Dcb.linkDelay port.toNat) 16 8 = 1 + (d + 132) / 750 ∧
      t.dcbF (Dcb.linkStat port.toNat) 2 1 = bit (decide (d + 132 ≤ 742)) ∧
      t.dcbF (Dcb.linkStat port.toNat) 16 6 = pm.toNat ∧ t.dcbF (Dcb.linkStat port.toNat) 24 4 = pp.toNat ∧
      tabGet 0 t.ic.latches (136 + port.toNat) = min (tabGet 0 s.ic.latches (136 + port.toNat) + 1) 255) ∧
  (∀ (port : BitVec 4) (s : State), s.linkState port.toNat = 2 →
    ∃ t, exec (.linkDown port) s = .next t ∧ t.linkState port.toNat = 1 ∧ t.dcbF (Dcb.linkFlags port.toNat) 2 1 = 1 ∧
      tabGet 0 t.ic.latches (152 + port.toNat) = min (tabGet 0 s.ic.latches (152 + port.toNat) + 1) 255) ∧
  (∀ (align : BitVec 8) (s : State) (l : Nat), (align.toNat ≤ 4 ∨ 252 ≤ align.toNat) → s.upstream = some l →
    s.linkState l = 2 → ((s.link l).peerLocked || (s.link l).peerMaster) = true → (s.link l).peerAt ≠ none →
    s.locked = false →
    ∃ t, exec (.beatLock align) s = .next t ∧ t.dcbF Dcb.beatSync 16 8 = align.toNat ∧
      (s.jobHeld = false → t.locked = true ∧ t.beatCtr = BitVec.ofNat 64 (s.masterNow l / 750) ∧
        t.cycle = s.masterNow l % 750) ∧
      (s.jobHeld = true → t.locked = false ∧ t.dcbF Dcb.beatSync 2 1 = 1 ∧ t.beat = s.beat ∧ t.cycle = s.cycle)) ∧
  (∀ (s : State) (l : Nat), s.upstream = some l → s.dcbF Dcb.beatSync 2 1 = 1 → s.jobHeld = false → s.cycle = 0 →
    ∃ t, exec .counterLoad s = .next t ∧ t.locked = true ∧ t.dcbF Dcb.beatSync 2 1 = 0 ∧
      t.beatCtr = BitVec.ofNat 64 (s.masterNow l / 750) ∧ t.cycle = s.masterNow l % 750) ∧
  (∀ s : State, s.locked = true →
    ∃ t, exec .beatLockLoss s = .next t ∧ t.locked = false ∧ t.dcbF Dcb.beatSync 3 1 = 1 ∧
      tabGet 0 t.ic.latches 134 = min (tabGet 0 s.ic.latches 134 + 1) 255 ∧
      ∀ (h : Handle) (j : Job), s.job h = some j → s.canEnd j = true → j.st ≠ .waiting → j.multi = true →
        ∃ k, t.job h = some k ∧ k.pendingEnd.isSome = true)

/-- O47. Equal digests pass, a mismatch or a missing one sounds the Whistle; the Sideline port trains, and its frame
carries the oldest records. LOCKSTEP_COMPARE at n + 3:0, with the own digest of beat n held and no Whistle sounded: an
equal digest of the peer leaves everything but the held digests; another, or none, records n and both digests, raises
source 132 once, sets the mismatch or the missing bit and sounds the Whistle. SIDELINE_TRAIN_DONE outside cold reset
makes the port UP. SIDELINE_FRAME of a port that is UP takes up to 3,596 of the oldest records out of the trace
buffer, one fewer after a drop, whose LOSS record it carries, and counts in SIDE_FRAMES. -/
def Obligations.LockstepAndSideline : Prop :=
  (∀ (s : State) (own : Dword) (n : Dword), s.cycle = 0 → s.halted = false → s.whistle.pending = false →
    s.linkSys.ownDigests.find? (fun x => x.1 == s.beatCtr - 3) = some (n, own) →
    let peer := (s.linkSys.peerDigests.find? fun x => x.1 == s.beatCtr - 3).map (·.2)
    (peer = some own → ∃ t, exec .lockstepCompare s = .next t ∧ t = { s with linkSys := t.linkSys }) ∧
    (peer ≠ some own → ∃ t, exec .lockstepCompare s = .next t ∧ t.whistle.pending = true ∧
      t.dcbReg Dcb.lockstepBeat = s.beatCtr - 3 ∧ t.dcbReg Dcb.lockstepOwn = own ∧
      t.dcbReg Dcb.lockstepPeer = peer.getD 0 ∧ t.dcbF Dcb.lockstepStat (if peer.isSome then 1 else 2) 1 = 1 ∧
      tabGet 0 t.ic.latches 132 = min (tabGet 0 s.ic.latches 132 + 1) 255)) ∧
  (∀ s : State, s.power.coldReset = false →
    (∃ t, exec .sidelineTrainDone s = .next t ∧ t.dcbF Dcb.sideStat 0 2 = 2) ∧
    (s.dcbF Dcb.sideStat 0 2 = 2 →
      ∃ t, exec .sidelineFrame s = .next t ∧
        t.trace.buffer = s.trace.buffer.drop (if s.trace.dropped = 0 then 3596 else 3595) ∧ t.trace.dropped = 0 ∧
        t.dcbReg Dcb.sideFrames = BitVec.ofNat 64 (min ((s.dcbReg Dcb.sideFrames).toNat + 1) (2 ^ 64 - 1))))

/-- O48. A latch sends its count and clears; the controller takes good messages as events and counts bad ones; a
stopped clock keeps edges in latches. Outside cold reset, with UCIe up, DIE_EVENT_SEND of a set latch of source 1 to
255 clears it and queues a message of its number and count; with UCIe down it changes nothing. DIE_INTERRUPT_MESSAGE
with the fabric clock running takes the oldest message: a good one sets PEND and adds its count to EVENTS, a bad one
adds one to IC_BADMSG and sets its flag. FABRIC_CLOCK_STOP stops the clock where it may, and FABRIC_CLOCK_RESTART
starts it and makes every latched edge pending. UCIE_LINK_DOWN takes the link down and raises source 266, in its latch
while the clock is stopped; UCIE_LINK_UP brings it up. -/
def Obligations.DieEventsTravelAsMessages : Prop :=
  (∀ (source : BitVec 9) (s : State), 1 ≤ source.toNat → source.toNat ≤ 255 → s.power.coldReset = false →
    (s.ic.ucieUp = true → tabGet 0 s.ic.latches source.toNat ≠ 0 →
      ∃ t, exec (.dieEventSend source) s = .next t ∧ tabGet 0 t.ic.latches source.toNat = 0 ∧
        t.ic.messages = s.ic.messages ++
          [BitVec.ofNat 32 (source.toNat + 65536 * tabGet 0 s.ic.latches source.toNat)]) ∧
    (s.ic.ucieUp = false → exec (.dieEventSend source) s = .next s)) ∧
  (∀ (s : State) (w : Word) (rest : List Word), s.ic.messages = w :: rest → s.ic.clock = true →
    let n := w.toNat % 512
    let k := w.toNat / 65536 % 256
    (1 ≤ n ∧ n < 176 ∧ k ≠ 0 →
      ∃ t, exec .dieInterruptMessage s = .next t ∧ t.ic.messages = rest ∧ (t.icSrc n).pend = true ∧
        (t.icSrc n).events = (s.icSrc n).events + BitVec.ofNat 16 k) ∧
    (n = 0 ∨ 176 ≤ n ∨ k = 0 →
      ∃ t, exec .dieInterruptMessage s = .next t ∧ t.ic.messages = rest ∧ t.ic.sources = s.ic.sources ∧
        t.ic.badmsg.toNat = min (s.ic.badmsg.toNat + 1) (2 ^ 32 - 1) ∧ t.ic.flags.toNat % 2 = 1)) ∧
  (∀ s : State, s.power.coldReset = false →
    (s.ic.stopen = true → s.ic.clock = true → s.ic.messages = [] → s.flash.op = none → s.stewardQ = [] →
      (∀ e ∈ s.ic.sources, e.2.bound = false ∧ (e.2.pend = false ∨ e.2.prio = 0)) →
      ∃ t, exec .fabricClockStop s = .next t ∧ t.ic.clock = false ∧ t.ic.stops = s.ic.stops + 1) ∧
    (s.ic.clock = false → ∃ t, exec .fabricClockRestart s = .next t ∧ t.ic.clock = true ∧
      ∀ n, (s.icSrc n).latch = true → (t.icSrc n).latch = false ∧ (t.icSrc n).pend = true) ∧
    (s.ic.ucieUp = true → ∃ t, exec .ucieLinkDown s = .next t ∧ t.ic.ucieUp = false ∧
      (s.ic.clock = true → (t.icSrc 266).pend = true) ∧ (s.ic.clock = false → (t.icSrc 266).latch = true)) ∧
    ∃ t, exec .ucieLinkUp s = .next t ∧ t.ic.ucieUp = true ∧ t.ic.latches = s.ic.latches)

/-- O49. A write of s to IC_SWSET, with s from 384 to 511, is an edge on software source s; any other is ignored and
sets BADSW. Outside cold reset, IC_SWSET of a source from 384 to 511 is that source's edge: with the fabric clock
running the source is pending and its EVENTS one higher, with the clock stopped its latch holds the edge. Of another
source it changes nothing but IC_FLAGS.BADSW, which is set. -/
def Obligations.SoftwareSourcesAreEdges : Prop :=
  ∀ (source : BitVec 9) (s : State), s.power.coldReset = false →
    (384 ≤ source.toNat → s.ic.clock = true →
      ∃ t, exec (.icSwset source) s = .next t ∧ (t.icSrc source.toNat).pend = true ∧
        (t.icSrc source.toNat).events = (s.icSrc source.toNat).events + 1) ∧
    (384 ≤ source.toNat → s.ic.clock = false →
      ∃ t, exec (.icSwset source) s = .next t ∧ (t.icSrc source.toNat).latch = true ∧
        (t.icSrc source.toNat).events = (s.icSrc source.toNat).events) ∧
    (source.toNat < 384 → ∃ t, exec (.icSwset source) s = .next t ∧ t = { s with ic := { s.ic with flags := t.ic.flags } } ∧
      t.ic.flags = s.ic.flags ||| 4)

/-- O50. A claim returns the top bound source and puts it in service; completion takes it out; source and threshold
writes take effect. Outside cold reset: IC_CLAIM returns the bound source of highest priority of its context, and, if
there is one, leaves it active, not pending and not bound, and last in the context's list; with none it returns 0 and
changes no source. IC_COMPLETE of a source active in the writing context clears ACTIVE and takes it off the list, with
a level source that is still asserted pending again; of another it only sets BADCPL. STEWARD_EDGE makes its source
pending with one event more, or sets its latch while the clock is stopped. LEVEL_SOURCE_CHANGE makes a level source
pending exactly if it is asserted and not in service. IC_SRC_WRITE sets priority, mode and eligibility, and the
priority of reserved sources stays 0; IC_THRESH_WRITE sets threshold and enable. -/
def Obligations.ClaimsAndCompletions : Prop :=
  ∀ s : State, s.power.coldReset = false →
    (∀ ctx : BitVec 5, ∃ t, exec (.icClaim ctx) s = .next t ∧ t.ic.claimed = BitVec.ofNat 32 (s.icTop ctx.toNat) ∧
      (s.icTop ctx.toNat = 0 → t.ic.sources = s.ic.sources) ∧
      (s.icTop ctx.toNat ≠ 0 → (t.icSrc (s.icTop ctx.toNat)).active = true ∧
        (t.icSrc (s.icTop ctx.toNat)).pend = false ∧ (t.icSrc (s.icTop ctx.toNat)).bound = false ∧
        (t.icCtx ctx.toNat).claimed = (s.icCtx ctx.toNat).claimed ++ [s.icTop ctx.toNat])) ∧
    (∀ (ctx : BitVec 5) (source : BitVec 9),
      let good := (s.icSrc source.toNat).active = true ∧ (s.icCtx ctx.toNat).claimed.contains source.toNat = true
      (good → ∃ t, exec (.icComplete ctx source) s = .next t ∧ (t.icSrc source.toNat).active = false ∧
        (t.icCtx ctx.toNat).claimed = (s.icCtx ctx.toNat).claimed.erase source.toNat ∧
        (t.icSrc source.toNat).pend =
          ((s.icSrc source.toNat).pend || (icLevel source.toNat && (s.icSrc source.toNat).asserted))) ∧
      (¬ good → exec (.icComplete ctx source) s = .next { s with ic := { s.ic with flags := s.ic.flags ||| 2 } })) ∧
    (∀ source : BitVec 9, 264 ≤ source.toNat → source.toNat ≤ 266 →
      ∃ t, exec (.stewardEdge source) s = .next t ∧
        (s.ic.clock = true → (t.icSrc source.toNat).pend = true ∧
          (t.icSrc source.toNat).events = (s.icSrc source.toNat).events + 1) ∧
        (s.ic.clock = false → (t.icSrc source.toNat).latch = true)) ∧
    (∀ (source : BitVec 9) (a : Bool), 256 ≤ source.toNat → source.toNat ≤ 263 →
      ∃ t, exec (.levelSourceChange source a) s = .next t ∧ (t.icSrc source.toNat).asserted = a ∧
        (t.icSrc source.toNat).pend = (a && !(s.icSrc source.toNat).active)) ∧
    (∀ (source : BitVec 9) (v : Word), ∃ t, exec (.icSrcWrite source v) s = .next t ∧
      (t.icSrc source.toNat).prio = (if icReserved source.toNat then 0 else BitVec.ofNat 4 v.toNat) ∧
      (t.icSrc source.toNat).mode = v.toNat.testBit 4 ∧ (t.icSrc source.toNat).elig = BitVec.ofNat 16 (v.toNat / 65536)) ∧
    ∀ (ctx : BitVec 5) (v : Word), ∃ t, exec (.icThreshWrite ctx v) s = .next t ∧
      (t.icCtx ctx.toNat).thr = BitVec.ofNat 4 v.toNat ∧ (t.icCtx ctx.toNat).en = v.toNat.testBit 8

/-- O51. A sounding is recorded once; WHISTLE_STOP halts the die 23 cycles after it; DBG_RELEASE sets the boundary
that ends the halt. Outside cold reset WHISTLE_SOUND of sources 1 to 5, with the die neither halted nor stopping,
records source, beat and cycle; while halted, sources other than JTAG change nothing. WHISTLE_STOP of a sounded
Whistle answers a halted die; where the last cycle has passed already it records the stop 23 cycles after the
sounding. DBG_WHISTLE that is not occupied gets OK and sounds source 2. DBG_RELEASE of a halted die with no scan-out
running gets OK with the boundary that ends the halt, the next one; of a running die it is refused. -/
def Obligations.TheWhistleStopsAndReleases : Prop :=
  (∀ (source : BitVec 3) (s : State), 1 ≤ source.toNat → source.toNat ≤ 5 → s.power.coldReset = false →
    (s.halted = false → s.whistle.pending = false →
      ∃ t, exec (.whistleSound source) s = .next t ∧ t.whistle.pending = true ∧ t.whistle.beat = s.beat ∧
        t.whistle.cycle = s.cycle ∧ t.dcbF Dcb.whistleStat 1 3 = source.toNat ∧ t.dcbReg Dcb.whistleBeat = s.beatCtr ∧
        t.dcbF Dcb.whistleStat 4 10 = s.cycle % 1024) ∧
    (s.halted = true → source.toNat ≠ 4 → exec (.whistleSound source) s = .next s)) ∧
  (∀ s : State, s.whistle.pending = true → s.halted = false → s.power.coldReset = false →
    ∃ t, exec .whistleStop s = .next t ∧ t.halted = true ∧
      (s.stopPassed = true →
        let last := s.whistle.beat * 750 + s.whistle.cycle + 23
        t.whistle.stopBeat = last / 750 ∧ t.whistle.stopCycle = last % 750 ∧ t.beat = s.beat ∧
          t.cycle = s.cycle)) ∧
  (∀ (mb : MailboxNum) (s : State) (x : TakenCmd), s.occupied mb.toNat = false →
    (holds s mb 0x70 x → s.halted = false → s.whistle.pending = false →
      ∃ t, exec (.dbgWhistle mb) s = .next t ∧ answered s t mb x Status.ok [] ∧ t.whistle.pending = true ∧
        t.dcbF Dcb.whistleStat 1 3 = 2) ∧
    (holds s mb 0x72 x → s.scanning = false → s.halted = true → s.cp.release = none →
      ∃ t, exec (.dbgRelease mb) s = .next t ∧ answered s t mb x Status.ok (wordsOf (s.beat + 1)) ∧
        t.cp.release = some (s.beat + 1)) ∧
    (holds s mb 0x72 x → s.scanning = false → s.halted = false →
      ∃ t, exec (.dbgRelease mb) s = .next t ∧ answered s t mb x Status.refused [] ∧ t.cp.release = s.cp.release))

/-- O52. A scan-out of a halted die leaves its records; snapshots wait for their cores; watch units are armed,
stopped, read and cleared. From a mailbox that is not occupied: DBG_SCANOUT with good arguments, on a halted die
without a scan-out running, gets OK, makes SCAN running, and for one core leaves its record at DEST; SCANOUT_DONE
makes SCAN done. DBG_SNAPSHOT of a running or admitted job that holds cores is accepted and waits for each of them;
HANG_SNAPSHOT at a later boundary takes the last one's snapshot with cause 2, unless the deadlock detector's stands,
and answers OK with the beat. DBG_WATCH arms the unit with its selection and clear statistics, or stops it with its
statistics kept; for an engine that another module holds it gets OK and changes nothing here. DBG_WATCHREAD of a unit
that holds statistics of the job answers them, and with CLEAR clears them. -/
def Obligations.DebugCommandsSaveAndWatch : Prop :=
  (∀ (mb : MailboxNum) (s : State) (x : TakenCmd), holds s mb 0x71 x → s.occupied mb.toNat = false → s.scanning = false →
    s.halted = true → x.arg64 0 % 4096 = 0 → x.arg 2 % 4096 = 0 → recordBytes ≤ x.arg 2 → 1 ≤ x.arg 4 →
    x.arg 3 + x.arg 4 ≤ 1024 → s.scanRangeOk (x.arg64 0) (recordsSpan (x.arg 4) (x.arg 2)) = true →
    ∃ t, exec (.dbgScanout mb) s = .next t ∧ answered s t mb x Status.ok [] ∧ t.scanning = true ∧
      (x.arg 4 = 1 → bytesRead t.mem (x.arg64 0) (s.scanRecord (x.arg 3)).length = s.scanRecord (x.arg 3))) ∧
  (∀ s : State, s.scanning = true → ∃ t, exec .scanoutDone s = .next t ∧ t.dcbF Dcb.whistleStat 14 2 = 2) ∧
  (∀ (mb : MailboxNum) (s : State) (x : TakenCmd) (j : Job), holds s mb 0x73 x → s.job x.jobHandle = some j →
    x.arg 0 < 2 ^ 16 → s.occupied mb.toNat = false → s.debugRefused j = false → j.engines ≠ [] →
    ∃ t, exec (.dbgSnapshot mb) s = .next t ∧ (t.mb mb.toNat).waiting = some x ∧ (t.mb mb.toNat).active = true ∧
      t.cp.snapshots = s.cp.snapshots ++ [(mb.toNat, x.jobHandle, s.beat, j.engines.map (·.2))]) ∧
  (∀ (core : CoreNum) (s : State) (m : Nat) (h : Handle) (b : Nat) (w : TakenCmd), s.cycle = 0 →
    s.cp.snapshots = [(m, h, b, [core.toNat])] → b < s.beat → (s.mb m).waiting = some w →
    ∃ t, exec (.hangSnapshot core) s = .next t ∧ completed s t m w Status.ok (wordsOf s.beat) 0 ∧
      t.cp.snapshots = [] ∧
      (s.deadlockSnapshot core.toNat = false → (t.core core.toNat).reg Reg.dbgSnapstat = 5) ∧
      (s.deadlockSnapshot core.toNat = true → t.core core.toNat = { s.core core.toNat with hangHeld := [] })) ∧
  (∀ (mb : MailboxNum) (s : State) (x : TakenCmd) (j : Job) (c : Nat), s.job x.jobHandle = some j →
    s.occupied mb.toNat = false → j.coreOf x.watchEngine = some c → x.watchEngine < j.image.e → x.arg 1 < 2 ^ 17 →
    (holds s mb 0x74 x → x.arg 0 < 2 ^ 25 → x.arg 2 < 2 ^ 18 → s.debugRefused j = false → s.anyPartConf j.parts = false →
      let src := bitsOf (x.arg 0) 18 2
      src ≠ 3 →
      ∃ t, exec (.dbgWatch mb) s = .next t ∧ answered s t mb x Status.ok [] ∧
        (src ≠ 2 → tabGet Watch.reset (t.core c).watches x.unit =
          { Watch.reset with
            armed := true, handle := x.jobHandle, srcAcc := src == 1, tile := BitVec.ofNat 4 (x.arg 0 / 2 ^ 20)
            any := (x.arg 0).testBit 24, matchBeat := BitVec.ofNat 8 (x.arg 2)
            matchCycle := BitVec.ofNat 10 (x.arg 2 / 2 ^ 8), since := s.now }) ∧
        (src = 2 → tabGet Watch.reset (t.core c).watches x.unit =
          { tabGet Watch.reset (s.core c).watches x.unit with armed := false })) ∧
    (holds s mb 0x75 x → x.arg 0 < 2 ^ 19 → (tabGet Watch.reset (s.core c).watches x.unit).handle = x.jobHandle →
      let w := tabGet Watch.reset (s.core c).watches x.unit
      ∃ t, exec (.dbgWatchread mb) s = .next t ∧ answered s t mb x Status.ok w.words ∧
        tabGet Watch.reset (t.core c).watches x.unit = if (x.arg 0).testBit 18 then w.cleared else w)) ∧
  (∀ (mb : MailboxNum) (s : State) (x : TakenCmd) (j : Job), holds s mb 0x74 x → s.job x.jobHandle = some j →
    s.occupied mb.toNat = false → j.coreOf x.watchEngine = none → x.watchEngine < j.image.e → x.arg 0 < 2 ^ 25 →
    bitsOf (x.arg 0) 18 2 ≠ 3 → x.arg 1 < 2 ^ 17 → x.arg 2 < 2 ^ 18 → s.debugRefused j = false →
    s.anyPartConf j.parts = false →
    ∃ t, exec (.dbgWatch mb) s = .next t ∧ answered s t mb x Status.ok [] ∧ t = { s with mbs := t.mbs })

/-- O53. Sessions open and end by their messages; reports are signed; the lifecycle challenge and key sets change as
the commands say. From a mailbox that is not occupied: a SEC_SPDM of 1 to 1,012 bytes at the secure mailbox of
partition p: with p IDLE and a key waiting, it is answered OK, and a KEY_EXCHANGE alone draws the key and opens the
handshake (what the message is, and the reply, is free: log entry 20); in the handshake a completing FINISH alone
brings p into SESSION; in SESSION END_SESSION alone brings p into SCRUB, and a message that fails authentication alone
counts in SEC_TAGFAIL. SEC_REPORT of a valid partition or of 0xFF, outside RETURNED, gets the report body and its
signature. SEC_LIFECYCLE operation 0 gives four free doublewords as the challenge, and operation 1 sets the pending
return if the token holds. SEC_KEYSET and SEC_KEYDEL of a key set whose job is not held install or clear it. -/
def Obligations.SecurityCommandsAnswer : Prop :=
  (∀ (mb : MailboxNum) (s : State) (x : TakenCmd) (p : Nat), holds s mb 0x60 x → s.secureOf mb.toNat = some p →
    s.occupied mb.toNat = false → 1 ≤ bitsOf (x.arg 0) 0 10 → bitsOf (x.arg 0) 0 10 ≤ 1012 →
    let kind := Config.spdmKind s.free (tabGet 0 s.sec.sessionKeys p) (tabGet 0 s.sec.seqIn p) x.message
    (∀ k rest, s.partState p = 0 → tabGet false s.sec.kex p = false → s.ent.wireKey = some k :: rest →
      ∃ t ws, exec (.secSpdm mb) s = .next t ∧ answered s t mb x Status.ok ws ∧ t.partState p = 0 ∧
        tabGet false t.sec.kex p = (kind == 1) ∧ t.ent.wireKey = if kind = 1 then rest else s.ent.wireKey) ∧
    (s.partState p = 0 → tabGet false s.sec.kex p = true →
      ∃ t, exec (.secSpdm mb) s = .next t ∧ t.partState p = (if kind = 2 then 1 else 0)) ∧
    (s.partState p = 1 →
      ∃ t, exec (.secSpdm mb) s = .next t ∧ t.partState p = (if kind = 3 then 2 else 1) ∧
        t.dcbReg Dcb.secTagfail = if kind = 5 then BitVec.ofNat 64 (min ((s.dcbReg Dcb.secTagfail).toNat + 1) (2 ^ 32 - 1))
          else s.dcbReg Dcb.secTagfail)) ∧
  (∀ (mb : MailboxNum) (s : State) (x : TakenCmd), s.occupied mb.toNat = false →
    (holds s mb 0x61 x → s.dcbF Dcb.secLcs 0 2 ≠ 2 → (let part := bitsOf (x.arg 0) 0 8; part = 0xFF ∨ (part ≤ 7 ∧ s.partValid part = true)) →
      ∃ t, exec (.secReport mb) s = .next t ∧
        let body := s.reportBody (bitsOf (x.arg 0) 0 8) (wordBytes (x.args.drop 1))
        answered s t mb x Status.ok (wordsOfBytes (body ++
          octets (ecdsaSign s.sec.aliasKey (sha384 body)) 0 96))) ∧
    (holds s mb 0x63 x → s.anyConf = false → s.dcbF Dcb.secLcs 0 2 = 1 →
      (bitsOf (x.arg 0) 0 2 = 0 → ∃ t, exec (.secLifecycle mb) s = .next t ∧ answered s t mb x Status.ok (wordsOfBytes t.sec.challenge) ∧
        t.sec.challenge = (List.range 4).flatMap fun i => bytesOf 8 (Config.freeValue (s.free + i)).toNat) ∧
      (bitsOf (x.arg 0) 0 2 = 1 → ∃ t, exec (.secLifecycle mb) s = .next t ∧
        if s.returnTokenOk (wordBytes (x.args.drop 1)) then
          answered s t mb x Status.ok [] ∧ t.dcbF Dcb.secLcs 4 1 = 1 ∧ t.dcbF Dcb.secLcs 0 2 = 1
        else answered s t mb x Status.refused [] ∧ t.dcb = s.dcb)) ∧
    (∀ p k g, x.session = some (p, k, g) → k < 4 → s.keySetHeld p k = false →
      (holds s mb 0x64 x → ∃ t, exec (.secKeyset mb) s = .next t ∧ answered s t mb x Status.ok [] ∧
        t.keySet p k =
          { KeySet.reset with wkey := x.key 0, xkey := x.key 8, tkey := x.key 16, installed := true } ∧
        t.dcbF (Dcb.secPstat p) (10 + k) 1 = 1) ∧
      (holds s mb 0x65 x → ∃ t, exec (.secKeydel mb) s = .next t ∧ answered s t mb x Status.ok [] ∧
        t.keySet p k = KeySet.reset ∧ t.dcbF (Dcb.secPstat p) (10 + k) 1 = 0)))

/-- O54. Imports land their plaintext or zeros, exports their ciphertext under a fresh IV; a scrub clears cores and
memory and ends in IDLE. From a mailbox that is not occupied, inside a session, with good addresses and an installed
key set: a SEC_IMPORT whose IV is higher than every one accepted, and a SEC_EXPORT with exports left, are accepted and
run; the export takes the next IV and count. SEC_IMPORT_DONE leaves at DEST the plaintext and answers OK where the tag
holds, and otherwise zeros, counts in SEC_TAGFAIL and answers FAULT. SEC_EXPORT_DONE leaves the ciphertext at DEST and
answers OK with IV and tag. SCRUB_START of a partition in SCRUB, with no job left and no scrub started, clears planes
and storage of its cores; SCRUB_DONE leaves every byte of its memory zero and the partition IDLE. -/
def Obligations.ProtectedTransfersAndScrub : Prop :=
  (∀ (mb : MailboxNum) (s : State) (x : TakenCmd) (p k : Nat) (g : Byte), s.occupied mb.toNat = false →
    x.session = some (p, k, g) → xferShapeOk (x.arg64 0) (x.arg64 2) (x.arg 4) = true → (s.keySet p k).installed = true →
    (holds s mb 0x66 x → inMemory (x.arg64 0) (x.arg 4) = true → s.touchesConf (x.arg64 0) (x.arg 4) = false →
      s.rangeIn (BitVec.ofNat 8 (2 ^ p)) (x.arg64 2) (x.arg 4) = true → s.lastIvOf p k < x.arg 5 →
      ∃ t y, exec (.secImport mb) s = .next t ∧ (t.mb mb.toNat).waiting = some x ∧ t.xfer mb.toNat = some y ∧
        y.import_ = true ∧ y.part = p ∧ y.keyset = k ∧ y.src = x.arg64 0 ∧ y.dest = x.arg64 2 ∧ y.len = x.arg 4 ∧
        bitsOf y.iv.toNat 0 32 = x.arg 5) ∧
    (holds s mb 0x67 x → inMemory (x.arg64 2) (x.arg 4) = true → s.touchesConf (x.arg64 2) (x.arg 4) = false →
      s.rangeIn (BitVec.ofNat 8 (2 ^ p)) (x.arg64 0) (x.arg 4) = true → (s.keySet p k).exports + 1 < 2 ^ 32 →
      ∃ t y, exec (.secExport mb) s = .next t ∧ (t.mb mb.toNat).waiting = some x ∧ t.xfer mb.toNat = some y ∧
        y.import_ = false ∧ bitsOf y.iv.toNat 0 32 = (s.keySet p k).exports ∧
        (t.keySet p k).exports = (s.keySet p k).exports + 1)) ∧
  (∀ (mb : MailboxNum) (s : State) (x : CryptXfer) (w : TakenCmd), s.xfer mb.toNat = some x →
    (s.mb mb.toNat).waiting = some w →
    let ks := s.keySet x.part x.keyset
    let aad := xferAad x.dest x.len x.part x.keyset
    let iv := beBytes 12 x.iv.toNat
    (x.import_ = true →
      let pt := gcmOpen (beBytes 32 ks.wkey.toNat) iv aad (bytesRead s.mem x.src x.len) (bytesOf 16 x.tag.toNat)
      ∃ t, exec (.secImportDone mb) s = .next t ∧ t.xfer mb.toNat = none ∧
        (∀ bs, pt = some bs → completed s t mb.toNat w Status.ok [] 0 ∧ bytesRead t.mem x.dest bs.length = bs ∧
          (t.keySet x.part x.keyset).lastIv = bitsOf x.iv.toNat 0 32) ∧
        (pt = none → completed s t mb.toNat w Status.fault [] 0 ∧ bytesRead t.mem x.dest x.len = zeros x.len ∧
          t.dcbReg Dcb.secTagfail = BitVec.ofNat 64 (min ((s.dcbReg Dcb.secTagfail).toNat + 1) (2 ^ 32 - 1)))) ∧
    (x.import_ = false →
      let r := gcmSeal (beBytes 32 ks.xkey.toNat) iv aad (bytesRead s.mem x.src x.len)
      ∃ t, exec (.secExportDone mb) s = .next t ∧ t.xfer mb.toNat = none ∧ bytesRead t.mem x.dest r.1.length = r.1 ∧
        completed s t mb.toNat w Status.ok ((List.range 3).map (fun i => BitVec.ofNat 32 (x.iv.toNat >>> (32 * i))) ++
          wordsOfBytes (octets r.2 0 16)) 0)) ∧
  (∀ (part : BitVec 3) (s : State), s.partState part.toNat = 2 →
    (s.partBusy part.toNat = false → tabGet none s.sec.scrub part.toNat = none →
      ∃ t, exec (.scrubStart part) s = .next t ∧ tabGet none t.sec.scrub part.toNat = some s.beat ∧
        ∀ c, s.partHasCluster part.toNat (clusterOf c) = true →
          (t.core c).spins = [] ∧ (t.core c).hold = [] ∧ ∀ a < Win.schedule, byteAt (t.core c).store a = 0) ∧
    ((tabGet none s.sec.scrub part.toNat).isSome = true →
      ∃ t, exec (.scrubDone part) s = .next t ∧ t.partState part.toNat = 0 ∧
        tabGet none t.sec.scrub part.toNat = none ∧
        ∀ a, (∃ q, regionOf a = .hbm q) → s.partHasStack part.toNat (stackGroup a) = true → byteAt t.mem a = 0))

/-- O55. CP, network and root-of-trust faults are fatal, a core or router fault fences; ERR_ACK takes records out;
ERR_INJECT arms; redaction. Outside cold reset CP_FAULT, and LOGIC_FAULT of the control network and of the root of
trust, set ERR_GLOBAL.FATAL, raise source 171 once, copy the record to ERR_LASTFATAL and leave the fatal boundary
marked. LOGIC_FAULT of a core that is not fenced leaves its fence due at the next beat, and of a router its cluster's,
if none was due. From a mailbox that is not occupied, ERR_ACK of a held record gets OK and removes it and every older
one, but for records entered in this very beat; LOGIC_FAULT of a core's storage and of a retry of the UCIe link enter
their records; ERR_INJECT of a code that fits its unit, with no other injected and no active confidential partition
holding it, gets OK and arms it. A record made in an active confidential partition keeps only ID and FLAGS (R470). -/
def Obligations.ErrorRecordsAreEnteredAndAcknowledged : Prop :=
  (∀ (c : Instr) (unit code : Nat) (s : State), s.power.coldReset = false →
    ((c = .cpFault ∧ unit = UnitNo.cp ∧ code = 0x1B) ∨ (c = .logicFault .controlNetwork ∧ unit = UnitNo.cp ∧ code = 0x1A) ∨
      (c = .logicFault .rootOfTrust ∧ unit = UnitNo.rot ∧ code = 0x1C)) →
    ∃ t, exec c s = .next t ∧ t.fatal = true ∧ t.err.last = some (s.makeRecord unit code {}) ∧
      t.err.fatalNext.isSome = true ∧ tabGet 0 t.ic.latches 171 = min (tabGet 0 s.ic.latches 171 + 1) 255) ∧
  (∀ (core : CoreNum) (s : State), s.power.coldReset = false →
    (s.fenced core.toNat = false → ∃ t, exec (.logicFault (.coreLogic core)) s = .next t ∧
      (t.core core.toNat).fenceAt = some (s.beat + 1)) ∧
    ((∀ e ∈ s.cp.clusterNext, e.1 ≠ clusterOf core.toNat) → ∃ t, exec (.logicFault (.router core)) s = .next t ∧
      t.cp.clusterNext = s.cp.clusterNext ++ [(clusterOf core.toNat, s.beat + 1)]) ∧
    (∀ (engine : BitVec 3) (offset : BitVec 24) (double : Bool), engine.toNat ≤ 4 →
      (s.errUnit (UnitNo.core core.toNat)).recs.length < 8 →
      ∃ t i, exec (.logicFault (.storage core engine offset double)) s = .next t ∧ i.core = core.toNat ∧
        i.engine = engine.toNat ∧ (t.errUnit (UnitNo.core core.toNat)).recs = (s.errUnit (UnitNo.core core.toNat)).recs ++
          [s.stepFree.makeRecord (UnitNo.core core.toNat) (if double then 0x07 else 0x06) i]) ∧
    ((s.errUnit UnitNo.ucie).recs.length < 8 →
      ∃ t, exec (.logicFault .ucieRetry) s = .next t ∧
        (t.errUnit UnitNo.ucie).recs = (s.errUnit UnitNo.ucie).recs ++ [s.makeRecord UnitNo.ucie 0x19 { detail := 1 }])) ∧
  (∀ (mb : MailboxNum) (s : State) (x : TakenCmd), s.occupied mb.toNat = false →
    let unit := x.arg 0 % 2 ^ 12
    (holds s mb 0x80 x → (∃ r ∈ (s.errUnit unit).recs, r.id = BitVec.ofNat 32 (x.arg 1)) →
      ∃ t, exec (.errAck mb) s = .next t ∧ answered s t mb x Status.ok [] ∧
        let recs := (s.errUnit unit).recs
        let n := (recs.takeWhile fun r => r.id != BitVec.ofNat 32 (x.arg 1)).length + 1
        (t.errUnit unit).recs.map ErrRec.id =
          ((recs.take n).filter (fun r => r.entry == s.beat) ++ recs.drop n).map ErrRec.id) ∧
    (holds s mb 0x81 x → (s.unitPart unit).any s.partActive = false →
      injectFits unit (x.arg 0 / 2 ^ 12 % 2 ^ 8) = true → (s.errUnit unit).inject = none →
      ∃ t, exec (.errInject mb) s = .next t ∧ answered s t mb x Status.ok [] ∧
        (t.errUnit unit).inject = some (BitVec.ofNat 8 (x.arg 0 / 2 ^ 12)))) ∧
  (∀ (s : State) (unit code p : Nat) (i : ErrInfo), s.errPart unit i = some p → p < 8 →
    let r := s.makeRecord unit code i
    r.id = BitVec.ofNat 32 (unit * 2 ^ 20 + (s.errUnit unit).seq) ∧ bitsOf r.flags.toNat 4 3 = p ∧
      bitsOf r.flags.toNat 7 1 = 1 ∧
      (s.partActive p = true → r.code = 0 ∧ r.handle = 0 ∧ r.beat = 0 ∧ r.cycleEngine = 0 ∧ r.detail = 0 ∧ r.core = 0 ∧
        r.addr = 0) ∧
      (s.partActive p = false → r.code = BitVec.ofNat 8 code ∧ r.handle = i.handle ∧ r.beat = s.beatCtr ∧
        r.addr = BitVec.ofNat 64 i.addr))

/-- O56. A steward reset leaves die, memory and mailboxes; clock loss keeps memory; SHUTDOWN and VIN48 loss lose it;
rails come up in order. From a mailbox that is not occupied STW_RESET gets OK and asks for the reset; outside cold
reset STEWARD_RESET, when asked for, clears the SRAM, takes UCIe down and leaves memory, mailboxes, cores and the
count of STOP messages, and when not asked for changes nothing. CLOCK_LOSS asserts cold reset with RST_CAUSE bit 2 and
keeps HBM and shared memory (log entry 4), without any job. TAP_RESET changes the TAP alone. SHUTDOWN of a running
module stops its rails, loses its memory and keeps its record in ERR_LASTFATAL. VIN48_LOSS takes every rail and the
standby domain's registers. RAIL_POWER_GOOD of a rail after those of lower index adds it; of rail 0 it is a power-on
with RST_CAUSE bit 0, which samples the pins MADDR. -/
def Obligations.ResetsAndPowerTakeTheirState : Prop :=
  (∀ (mb : MailboxNum) (s : State) (x : TakenCmd), holds s mb 0x82 x → s.occupied mb.toNat = false →
    ∃ t, exec (.stwReset mb) s = .next t ∧ answered s t mb x Status.ok [] ∧ t.cp.stwReset = true) ∧
  (∀ s : State, s.power.coldReset = false →
    (s.cp.stwReset = true → ∃ t, exec .stewardReset s = .next t ∧ t.cp.stwReset = false ∧ t.ic.ucieUp = false ∧
      (∀ a, 0x10000 ≤ a → byteAt t.sram a = 0) ∧ t.mem = s.mem ∧ t.mbs = s.mbs ∧ t.cores = s.cores ∧
      t.ic.stops = s.ic.stops) ∧
    (s.cp.stwReset = false → exec .stewardReset s = .next s)) ∧
  (∀ s : State,
    (∃ t, exec .clockLoss s = .next t ∧ t.power.coldReset = true ∧ t.power.refclk = false ∧ t.dcbReg Dcb.rstCause = 4 ∧
      t.jobs = [] ∧ ∀ a, isPlain a = true → byteAt t.mem a = byteAt s.mem a) ∧
    (exec .tapReset s = .next { s with power := { s.power with tapReset := true } }) ∧
    (∀ index : Byte, s.power.on = true →
      ∃ t, exec (.shutdown index) s = .next t ∧ t.power.shutdown = true ∧ t.power.on = false ∧ t.power.operation = 0 ∧
        t.power.coldReset = true ∧ t.mem = [] ∧
        t.err.last = some (s.makeRecord UnitNo.power 0x1F { detail := index.toNat })) ∧
    (∃ t, exec .vin48Loss s = .next t ∧ t.power.vin48 = false ∧ t.power.railGood = 0 ∧ t.dcbReg Dcb.rstCause = 0 ∧
      t.mem = [] ∧ t.err.last = none) ∧
    ∀ rail : BitVec 4, rail.toNat ≤ 10 →
      (rail ≠ 0 → s.power.on = true → (∀ i < rail.toNat, s.power.railGood.toNat.testBit i = true) →
        ∃ t, exec (.railPowerGood rail) s = .next t ∧ t.power.railGood.toNat.testBit rail.toNat = true ∧
          t.power.maddr = s.power.maddr ∧ ∀ i, i ≠ rail.toNat → t.power.railGood.toNat.testBit i = s.power.railGood.toNat.testBit i) ∧
      (rail = 0 → s.power.railGood.toNat.testBit 0 = false →
        ∃ t, exec (.railPowerGood rail) s = .next t ∧ t.power.railGood.toNat.testBit 0 = true ∧
          t.power.maddr = s.power.maddrPins ∧ t.power.vin48 = true ∧ t.dcbReg Dcb.rstCause = 1))

/-- O57. 1 ms windows warn above WARN and trip with the jobs that run; 40-beat readings fill the registers;
temperatures warn, trip and shut down. Outside cold reset: POWER_WINDOW at a multiple of 4,000 beats takes the
window's means; an input above WARN raises PWR_FLAGS bit 0 and source 173 once where the warning was armed; a rail or
input at its trip level sets PWR_FLAGS bit 1 and marks every running job for its end; in another beat nothing changes.
POWER_READING_WINDOW at a multiple of 40 beats leaves the readings of input, parts (without V) and rails in their
registers. THERMAL_THRESHOLD that crosses no shutdown threshold leaves the reading of a THERM sensor, with VALID, in
its register; one that crosses the trip threshold marks every running job; one that crosses the shutdown threshold
stops a running module. -/
def Obligations.SupervisionWarnsTripsAndShutsDown : Prop :=
  ∀ s : State, s.power.coldReset = false →
    let marked (t : State) : Prop := ∀ (h : Handle) (j : Job), s.job h = some j → j.st = .running →
      s.beat ≤ j.compBeat → ∃ k, t.job h = some k ∧ (k.pendingEnd.isSome = true ∨ k.st = .contained)
    (∀ (input : BitVec 20) (rails : List (BitVec 20)), rails.length = 11 →
      (s.beat % 4000 = 0 →
        ∃ t, exec (.powerWindow input rails) s = .next t ∧ t.power.winInput = input ∧
          (s.power.warnArmed = true → 100 * s.dcbF Dcb.pwrCtrl 0 12 < input.toNat →
            t.dcbF Dcb.pwrFlags 0 1 = 1 ∧ t.power.warnArmed = false ∧
              tabGet 0 t.ic.latches 173 = min (tabGet 0 s.ic.latches 173 + 1) 255) ∧
          ((tripIndex input.toNat (rails.map (·.toNat))).isSome = true →
            t.dcbF Dcb.pwrFlags 1 1 = 1 ∧ t.power.tripHold = true ∧ marked t)) ∧
      (s.beat % 4000 ≠ 0 → exec (.powerWindow input rails) s = .next s)) ∧
    (∀ (input : PowerReading) (parts rails : List PowerReading), parts.length = 4 → rails.length = 11 →
      s.beat % 40 = 0 →
      ∃ t, exec (.powerReadingWindow input parts rails) s = .next t ∧ t.dcbReg Dcb.pwrIn = powerWord input ∧
        (∀ k r, parts[k]? = some r → t.dcbReg (Dcb.pwrPart k) = powerWord { r with v := 0 }) ∧
        (∀ i r, rails[i]? = some r → t.dcbReg (Dcb.pwrRail i) = powerWord r)) ∧
    ∀ (sensor : Byte) (temp : BitVec 12), (sensor.toNat ≤ 88 ∨ (128 ≤ sensor.toNat ∧ sensor.toNat < 160)) →
      let i := sensor.toNat
      (crosses (s.thermBefore i) temp (thermShutAt i) = false →
        ∃ t, exec (.thermalThreshold sensor temp) s = .next t ∧
          (i ≤ 88 → t.dcbReg (Dcb.therm i) = BitVec.ofNat 64 (temp.toNat + 4096)) ∧
          (crosses (s.thermBefore i) temp (thermTripAt i) = true → marked t)) ∧
      (crosses (s.thermBefore i) temp (thermShutAt i) = true → s.power.on = true →
        ∃ t, exec (.thermalThreshold sensor temp) s = .next t ∧ t.power.shutdown = true ∧ t.power.on = false)

/-- O58. Each read command at the endpoint's address answers its register's bytes and changes nothing but the
endpoint's reply. With the standby supply there and the endpoint's address 0x40 + MADDR on the bus (log entry 10),
each of the seventeen read commands answers a state that differs from the one before in the endpoint alone, whose
reply holds: the standard's constants (free: log entry 21), the status word, the input voltage, current and power, the
die's hottest sensor, the inlet and outlet temperatures in LINEAR11 (exponent and rounding free: log entry 21), the
grade name, SEC_SERIAL, GRADE_MAP, DCLASS, RST_CAUSE, ERR_LASTFATAL and the four parts' power. Without the supply, or
with another address on the bus, nothing changes. -/
def Obligations.ManagementBusReads : Prop :=
  ∀ s : State,
    (s.power.vin48 = true → s.power.busAddr = 0x40 + s.power.maddr.setWidth 7 →
      let reads (c : Instr) (bs : List Byte) : Prop :=
        ∃ t, exec c s = .next t ∧ t.power.reply = bs ∧ t.power.invalid = false ∧ t = { s with power := t.power }
      reads .capability (Config.pmbusConstant 0x19) ∧ reads .pmbusRevision (Config.pmbusConstant 0x98) ∧
      reads .statusWord (bytesOf 2 s.statusWord) ∧
      reads .readVin (linear11 ((bitsOf (s.pwrRead Dcb.pwrIn) 0 16 : Nat) : Int) 1000) ∧
      reads .readIin (linear11 ((bitsOf (s.pwrRead Dcb.pwrIn) 16 20 : Nat) : Int) 100) ∧
      reads .readPin (linear11 ((bitsOf (s.pwrRead Dcb.pwrIn) 36 20 : Nat) : Int) 100) ∧
      reads .readTemperature1 (linear11 s.hottest 4) ∧ reads .readTemperature2 (linear11 (s.thermOf 87) 4) ∧
      reads .readTemperature3 (linear11 (s.thermOf 88) 4) ∧ reads .mfrId (Config.pmbusConstant 0x99) ∧
      reads .mfrModel s.gradeName ∧ reads .mfrSerial (bytesOf 8 (s.dcbReg Dcb.secSerial).toNat) ∧
      reads .mfrGradeMap (bytesOf 8 (s.dcbReg Dcb.gradeMap).toNat) ∧
      reads .mfrDclass (bytesOf 2 (s.dcbReg Dcb.dclass).toNat) ∧
      reads .mfrRstCause (bytesOf 1 (s.dcbReg Dcb.rstCause).toNat) ∧ reads .mfrLastFatal s.lastFatalBytes ∧
      reads .mfrPartPower ((List.range 4).flatMap fun k =>
        linear11 ((bitsOf (s.pwrRead (Dcb.pwrPart k)) 36 20 : Nat) : Int) 100)) ∧
    (s.power.vin48 = false ∨ s.power.busAddr ≠ 0x40 + s.power.maddr.setWidth 7 →
      ∀ c ∈ [Instr.capability, .pmbusRevision, .statusWord, .readVin, .readIin, .readPin, .readTemperature1,
          .readTemperature2, .readTemperature3, .mfrId, .mfrModel, .mfrSerial, .mfrGradeMap, .mfrDclass,
          .mfrRstCause, .mfrLastFatal, .mfrPartPower], exec c s = .next s)

/-- O59. OPERATION starts and stops the rails, the resets and the Whistle need their codes, an unknown command is a
fault in STATUS_WORD. With the standby supply there and the endpoint's address 0x40 + MADDR on the bus (log entry 10):
OPERATION 0x80 of a module that is off, with VSTBY good and not in SHUTDOWN, turns it on with RST_CAUSE bit 0, and
0x00 of one that is on turns it off, its memory lost. MFR_COLD_RESET 0xA5 asserts cold reset with RST_CAUSE bit 3.
Outside cold reset MFR_WHISTLE 0x5A sounds source 3 and MFR_STW_RESET 0xC3 asks for the reset of the steward die.
Other values change nothing but clear the endpoint's fault. CLEAR_FAULTS clears the faults held, and an unknown
command code is a fault, held in bit 1 (CML: log entry 21), with no reply. -/
def Obligations.ManagementBusWrites : Prop :=
  ∀ s : State, s.power.vin48 = true → s.power.busAddr = s.pmbusAddress →
    (s.power.on = false → s.power.railGood.toNat.testBit 0 = true → s.power.shutdown = false →
      ∃ t, exec (.operation 0x80) s = .next t ∧ t.power.on = true ∧ t.dcbReg Dcb.rstCause = 1) ∧
    (s.power.on = true → ∃ t, exec (.operation 0x00) s = .next t ∧ t.power.on = false ∧ t.power.operation = 0 ∧
      t.mem = [] ∧ t.power.railGood = s.power.railGood &&& 1) ∧
    (∃ t, exec (.mfrColdReset 0xA5) s = .next t ∧ t.power.coldReset = true ∧ t.dcbReg Dcb.rstCause = 8) ∧
    (s.power.coldReset = false → s.halted = false → s.whistle.pending = false →
      ∃ t, exec (.mfrWhistle 0x5A) s = .next t ∧ t.whistle.pending = true ∧ t.dcbF Dcb.whistleStat 1 3 = 3) ∧
    (s.power.coldReset = false → ∃ t, exec (.mfrStwReset 0xC3) s = .next t ∧ t.cp.stwReset = true) ∧
    (∀ v : Byte, let same : State := { s with power := { s.power with invalid := false } }
      (v ≠ 0x80 → v ≠ 0x00 → exec (.operation v) s = .next same) ∧
      (v ≠ 0xA5 → exec (.mfrColdReset v) s = .next same) ∧ (v ≠ 0x5A → exec (.mfrWhistle v) s = .next same) ∧
      (v ≠ 0xC3 → exec (.mfrStwReset v) s = .next same)) ∧
    (∃ t, exec .clearFaults s = .next t ∧ t.power.statusBits = 0 ∧ t = { s with power := t.power }) ∧
    ∀ code : Byte, ∃ t, exec (.pmbusInvalidCommand code) s = .next t ∧ t.power.invalid = true ∧ t.power.reply = [] ∧
      t.power.statusBits.toNat.testBit 1 = true ∧ t = { s with power := t.power }

/-- O60. A flash command runs until its end brings data to FL_BUF; the MACs send and take frames of offered
descriptors and count; link changes set LINKCHG. Outside cold reset FL_CMD with GO set starts an operation on FL_ADDR
and FL_BUF as they stand, and while one runs, or without GO, changes nothing. FLASH_OP_DONE ends the operation: a read
without error leaves its LEN bytes in FL_BUF, padded with zeros, an operation that changes no array leaves the array,
a program of an opcode that programs (free: log entry 22) clears bits of it from the data as they stood at the start,
and does nothing with DIR 0, an error sets ERR, the stalled reads of the flash window are made, and source 264 is
raised. ETH_TRANSMIT of an enabled port with its link and an owned descriptor sends the descriptor's frame, counts it
and advances HEAD. ETH_RECEIVE counts the uncorrected codewords; a good, accepted frame that fits an owned buffer is
counted and advances the receive HEAD; with no descriptor offered it is counted as dropped. ETH_LINK_CHANGE sets the
link state and, on a change, LINKCHG and its level source. -/
def Obligations.FlashAndEthernetMoveTheirData : Prop :=
  ∀ s : State, s.power.coldReset = false →
    (∀ v : Word,
      (v.toNat.testBit 31 = true → s.flash.op = none →
        ∃ t, exec (.flCmd v) s = .next t ∧ t = { s with flash := { s.flash with op := some ⟨v, (s.flash.reg 4).toNat, s.flash.buf⟩ } }) ∧
      (v.toNat.testBit 31 = false ∨ s.flash.op ≠ none → exec (.flCmd v) s = .next s)) ∧
    (∀ (err : Bool) (data : List Byte) (op : FlashOp), data.length ≤ 256 → s.flash.op = some op →
      let v := op.cmd
      ∃ t, exec (.flashOpDone err data) s = .next t ∧ t.flash.op = none ∧
        (v.toNat.testBit 8 = false → ∀ i < flashLen v.toNat, byteAt t.flash.buf i = data.getD i 0) ∧
        (v.toNat.testBit 8 = true → t.flash.buf = s.flash.buf) ∧
        (v.toNat.testBit 9 = false → t.flash.array = s.flash.array) ∧
        (Config.flashKind (BitVec.ofNat 8 v.toNat) = 1 → v.toNat.testBit 8 = false → t.flash.array = s.flash.array) ∧
        (Config.flashKind (BitVec.ofNat 8 v.toNat) = 1 → v.toNat.testBit 8 = true → v.toNat.testBit 9 = true → err = false →
          ∀ i < flashLen v.toNat, byteAt t.flash.array (op.addr % 2 ^ 28 + i) =
            byteAt s.flash.array (op.addr % 2 ^ 28 + i) &&& byteAt op.buf i) ∧
        t.stewardQ = s.stewardQ.filter (fun r => !inFlash r.addr) ∧
        (err = true → bitsOf (t.flash.reg 8).toNat 1 1 = 1) ∧
        (s.ic.clock = true → (t.icSrc 264).pend = true) ∧ (s.ic.clock = false → (t.icSrc 264).latch = true)) ∧
    (∀ port : BitVec 1,
      let p := port.toNat
      let x := s.mac p
      let r := s.dmaRead (x.descriptor txRing) 16
      let w := natOf (r.1.take 8)
      x.f 0 0 1 = 1 → x.f 4 0 1 = 1 → x.f 0 2 1 = 0 → x.offered txRing = true → (natOf (r.1.drop 8)).testBit 0 = true →
      ∃ t, exec (.ethTransmit port) s = .next t ∧
        (t.mac p).sent = x.sent ++ [(r.2.dmaRead (bitsOf w 0 48) (bitsOf w 48 14)).1] ∧
        (t.mac p).head txRing = (x.head txRing + 1) % x.ringSize txRing ∧
        (t.mac p).reg 0x40 = BitVec.ofNat 64 (min ((x.reg 0x40).toNat + 1) (2 ^ 64 - 1))) ∧
    (∀ (port : BitVec 1) (frame : List Byte) (codewords : BitVec 16),
      let p := port.toNat
      let x := s.mac p
      let u := s.macCount p 0x60 codewords.toNat
      let r := u.dmaRead (x.descriptor rxRing) 16
      x.f 0 0 1 = 1 → x.f 4 0 1 = 1 → x.f 0 2 1 = 0 → x.accepts frame = true → frame.length ≤ x.f 0xC 0 14 →
      (x.offered rxRing = true → (natOf (r.1.drop 8)).testBit 0 = true → frame.length ≤ bitsOf (natOf (r.1.take 8)) 48 14 →
        ∃ t, exec (.ethReceive port frame true codewords) s = .next t ∧
          (t.mac p).head rxRing = (x.head rxRing + 1) % x.ringSize rxRing ∧
          (t.mac p).reg 0x48 = BitVec.ofNat 64 (min ((x.reg 0x48).toNat + 1) (2 ^ 64 - 1)) ∧
          (t.mac p).reg 0x60 = BitVec.ofNat 64 (min ((x.reg 0x60).toNat + codewords.toNat) (2 ^ 64 - 1))) ∧
      (x.offered rxRing = false →
        ∃ t, exec (.ethReceive port frame true codewords) s = .next t ∧
          (t.mac p).reg 0x58 = BitVec.ofNat 64 (min ((x.reg 0x58).toNat + 1) (2 ^ 64 - 1)) ∧ (t.mac p).f 8 2 1 = 1)) ∧
    ∀ (port : BitVec 1) (link pcs : Bool),
      let p := port.toNat
      ∃ t, exec (.ethLinkChange port link pcs) s = .next t ∧ (t.mac p).f 4 0 1 = bit link ∧ (t.mac p).f 4 1 1 = bit pcs ∧
        ((s.mac p).f 4 0 1 ≠ bit link → (t.mac p).f 8 3 1 = 1 ∧ (t.icSrc (259 + 4 * p)).asserted = true)
end

