-- ==== Sys2Proof/Laws/Table.lean ====
section
/-! SUPPORT. Laws of tables and bytes: a read after a write gives the value written, a write leaves every other place alone, and
every operation keeps the canonical form. -/

namespace Sys2Proof.Machine

/-! ## Tables -/

theorem tabFind_append {β : Type} (a b : Tab β) (k : Nat) : tabFind (a ++ b) k = (tabFind a k).or (tabFind b k) := by
  induction a with
  | nil => simp [tabFind]
  | cons e r ih =>
    obtain ⟨x, v⟩ := e
    by_cases h : x = k <;> simp [tabFind, h, ih]

theorem tabFind_filter {β : Type} (p : Nat → Bool) (t : Tab β) (k : Nat) :
    tabFind (t.filter fun e => p e.1) k = if p k then tabFind t k else none := by
  induction t with
  | nil => simp [tabFind]
  | cons e r ih =>
    obtain ⟨x, v⟩ := e
    by_cases h : x = k
    · subst h
      by_cases hp : p x <;> simp [hp, tabFind, ih]
    · by_cases hp : p x <;> simp [hp, tabFind, h, ih]

theorem tabFind_tabDel {β : Type} (t : Tab β) (k x : Nat) : tabFind (tabDel t k) x = if x = k then none else tabFind t x := by
  unfold tabDel
  rw [tabFind_filter fun a => a != k]
  by_cases h : x = k <;> simp [h]

theorem tabFind_tabIns {β : Type} (t : Tab β) (k x : Nat) (v : β) (h : tabFind t k = none) :
    tabFind (tabIns t k v) x = if x = k then some v else tabFind t x := by
  induction t with
  | nil =>
    by_cases hx : x = k
    · simp [tabIns, tabFind, hx]
    · simp [tabIns, tabFind, hx, Ne.symm hx]
  | cons e r ih =>
    obtain ⟨a, b⟩ := e
    have hak : a ≠ k := fun e => by simp [tabFind, e] at h
    have hr : tabFind r k = none := by simpa [tabFind, hak] using h
    by_cases hlt : k < a
    · by_cases hx : x = k
      · simp [tabIns, hlt, tabFind, hx]
      · simp [tabIns, hlt, tabFind, hx, Ne.symm hx]
    · by_cases hax : a = x
      · subst hax
        simp [tabIns, hlt, tabFind, hak]
      · simp [tabIns, hlt, tabFind, hax, ih hr]

/-- A table after a write: the value at its number, every other number as before. -/
theorem tabGet_tabSet {β : Type} [DecidableEq β] (d : β) (t : Tab β) (k x : Nat) (v : β) :
    tabGet d (tabSet d t k v) x = if x = k then v else tabGet d t x := by
  unfold tabGet tabSet
  by_cases hv : v = d
  · simp only [hv, if_true, tabFind_tabDel]
    by_cases hx : x = k <;> simp [hx]
  · have h : tabFind (tabDel t k) k = none := by simp [tabFind_tabDel]
    simp only [hv, if_false, tabFind_tabIns _ _ _ _ h, tabFind_tabDel]
    by_cases hx : x = k <;> simp [hx]

@[simp] theorem tabGet_tabSet_self {β : Type} [DecidableEq β] (d : β) (t : Tab β) (k : Nat) (v : β) :
    tabGet d (tabSet d t k v) k = v := by simp [tabGet_tabSet]

theorem tabGet_tabSet_ne {β : Type} [DecidableEq β] (d : β) (t : Tab β) {k x : Nat} (v : β) (h : x ≠ k) :
    tabGet d (tabSet d t k v) x = tabGet d t x := by simp [tabGet_tabSet, h]

theorem tabFind_tabPut {β : Type} (t : Tab β) (k x : Nat) (v : β) :
    tabFind (tabPut t k v) x = if x = k then some v else tabFind t x := by
  have h : tabFind (tabDel t k) k = none := by simp [tabFind_tabDel]
  rw [tabPut, tabFind_tabIns _ _ _ _ h, tabFind_tabDel]
  by_cases hx : x = k <;> simp [hx]

@[simp] theorem tabFind_tabPut_self {β : Type} (t : Tab β) (k : Nat) (v : β) : tabFind (tabPut t k v) k = some v := by
  simp [tabFind_tabPut]

/-- The canonical form: numbers strictly rise, and no entry holds the default. -/
theorem tabWf_iff {β : Type} [DecidableEq β] (d : β) (t : Tab β) :
    tabWf d t = true ↔ t.Pairwise (fun a b => a.1 < b.1) ∧ ∀ e ∈ t, e.2 ≠ d := by
  induction t with
  | nil => simp [tabWf]
  | cons e r ih =>
    obtain ⟨a, v⟩ := e
    cases r with
    | nil => simp [tabWf]
    | cons f q =>
      obtain ⟨b, w⟩ := f
      simp only [tabWf, Bool.and_eq_true, decide_eq_true_eq, ih, List.pairwise_cons, List.forall_mem_cons]
      constructor
      · rintro ⟨⟨hab, hv⟩, ⟨hb, hq⟩, hw, hqs⟩
        exact ⟨⟨⟨hab, fun x hx => lt_trans hab (hb x hx)⟩, hb, hq⟩, hv, hw, hqs⟩
      · rintro ⟨⟨⟨hab, -⟩, hb, hq⟩, hv, hw, hqs⟩
        exact ⟨⟨hab, hv⟩, ⟨hb, hq⟩, hw, hqs⟩

theorem tabWf_filter {β : Type} [DecidableEq β] (d : β) (t : Tab β) (p : Nat × β → Bool) (h : tabWf d t = true) :
    tabWf d (t.filter p) = true := by
  rw [tabWf_iff] at h ⊢
  exact ⟨h.1.filter p, fun e he => h.2 e (List.mem_of_mem_filter he)⟩

theorem tabWf_tabDel {β : Type} [DecidableEq β] (d : β) (t : Tab β) (k : Nat) (h : tabWf d t = true) :
    tabWf d (tabDel t k) = true := tabWf_filter d t _ h

theorem mem_tabIns {β : Type} (t : Tab β) (k : Nat) (v : β) (e : Nat × β) : e ∈ tabIns t k v ↔ e = (k, v) ∨ e ∈ t := by
  induction t with
  | nil => simp [tabIns]
  | cons f r ih =>
    obtain ⟨a, b⟩ := f
    by_cases h : k < a
    · simp [tabIns, h]
    · simp [tabIns, h, ih]
      tauto

theorem pairwise_tabIns {β : Type} (t : Tab β) (k : Nat) (v : β) (ht : t.Pairwise (fun a b => a.1 < b.1))
    (hk : ∀ e ∈ t, e.1 ≠ k) : (tabIns t k v).Pairwise (fun a b => a.1 < b.1) := by
  induction t with
  | nil => simp [tabIns]
  | cons f r ih =>
    obtain ⟨a, b⟩ := f
    rw [List.pairwise_cons] at ht
    by_cases h : k < a
    · simp only [tabIns, h, if_true, List.pairwise_cons, List.forall_mem_cons]
      exact ⟨⟨trivial, fun e he => lt_trans h (ht.1 e he)⟩, ht⟩
    · have hka : a < k := lt_of_le_of_ne (not_lt.mp h) (hk (a, b) (by simp))
      simp only [tabIns, h, if_false, List.pairwise_cons]
      refine ⟨fun e he => ?_, ih ht.2 fun e he => hk e (by simp [he])⟩
      rcases (mem_tabIns r k v e).mp he with rfl | he
      · exact hka
      · exact ht.1 e he

/-- A write keeps the canonical form. -/
theorem tabWf_tabSet {β : Type} [DecidableEq β] (d : β) (t : Tab β) (k : Nat) (v : β) (h : tabWf d t = true) :
    tabWf d (tabSet d t k v) = true := by
  have hd := tabWf_tabDel d t k h
  unfold tabSet
  split
  · exact hd
  · rename_i hv
    rw [tabWf_iff] at hd ⊢
    refine ⟨pairwise_tabIns _ k v hd.1 fun e he => ?_, fun e he => ?_⟩
    · simpa using (List.mem_filter.mp he).2
    · rcases (mem_tabIns _ k v e).mp he with rfl | he
      · exact hv
      · exact hd.2 e he

/-! ## Bytes -/

theorem cellsOf_cons_zero (a : Nat) (b : Byte) (r : List Byte) (h : b = 0) : cellsOf a (b :: r) = cellsOf (a + 1) r :=
  if_pos h

theorem cellsOf_cons_ne (a : Nat) (b : Byte) (r : List Byte) (h : b ≠ 0) :
    cellsOf a (b :: r) = (a, b) :: cellsOf (a + 1) r := if_neg h

theorem tabFind_cellsOf (a : Nat) (bs : List Byte) (x : Nat) :
    (tabFind (cellsOf a bs) x).getD 0 = if a ≤ x then bs.getD (x - a) 0 else 0 := by
  induction bs generalizing a with
  | nil => simp [cellsOf, tabFind]
  | cons b r ih =>
    by_cases hx : a = x
    · subst hx
      by_cases hb : b = 0
      · rw [cellsOf_cons_zero _ _ _ hb, ih]
        simp [hb]
      · simp [cellsOf_cons_ne _ _ _ hb, tabFind]
    · have hs : tabFind (cellsOf a (b :: r)) x = tabFind (cellsOf (a + 1) r) x := by
        by_cases hb : b = 0
        · rw [cellsOf_cons_zero _ _ _ hb]
        · simp [cellsOf_cons_ne _ _ _ hb, tabFind, hx]
      rw [hs, ih]
      by_cases h : a < x
      · obtain ⟨n, rfl⟩ : ∃ n, x = a + 1 + n := ⟨x - (a + 1), by omega⟩
        simp [show a ≤ a + 1 + n by omega, show a + 1 + n - a = n + 1 by omega]
      · simp [show ¬ a ≤ x by omega, show ¬ a + 1 ≤ x by omega]

theorem cellsOf_range (a : Nat) (bs : List Byte) : ∀ e ∈ cellsOf a bs, a ≤ e.1 ∧ e.1 < a + bs.length := by
  induction bs generalizing a with
  | nil => simp [cellsOf]
  | cons b r ih =>
    intro e he
    by_cases hb : b = 0
    · simp only [cellsOf, hb, if_true] at he
      have := ih (a + 1) e he
      simp only [List.length_cons]
      omega
    · simp only [cellsOf, hb, if_false, List.mem_cons] at he
      rcases he with rfl | he
      · simp
      · have := ih (a + 1) e he
        simp only [List.length_cons]
        omega

theorem tabFind_none_of_keys {β : Type} (t : Tab β) (x : Nat) (h : ∀ e ∈ t, e.1 ≠ x) : tabFind t x = none := by
  induction t with
  | nil => rfl
  | cons e r ih =>
    obtain ⟨a, v⟩ := e
    simp only [List.forall_mem_cons] at h
    simp [tabFind, h.1, ih h.2]

/-- Memory after a write: the bytes written where they were written, every other byte as before. -/
theorem byteAt_bytesWrite (m : Bytes) (a : Nat) (bs : List Byte) (x : Nat) :
    byteAt (bytesWrite m a bs) x = if a ≤ x ∧ x < a + bs.length then bs.getD (x - a) 0 else byteAt m x := by
  unfold byteAt tabGet bytesWrite
  rw [tabFind_append, tabFind_append, tabFind_filter fun k => decide (k < a),
    tabFind_filter fun k => decide (a + bs.length ≤ k)]
  have hc := tabFind_cellsOf a bs x
  by_cases h1 : x < a
  · have hn : tabFind (cellsOf a bs) x = none :=
      tabFind_none_of_keys _ _ fun e he => by have := cellsOf_range a bs e he; omega
    simp [h1, hn, show ¬ a ≤ x by omega, show ¬ a + bs.length ≤ x by omega]
  · by_cases h2 : a + bs.length ≤ x
    · have hn : tabFind (cellsOf a bs) x = none :=
        tabFind_none_of_keys _ _ fun e he => by have := cellsOf_range a bs e he; omega
      simp [h1, h2, hn, show ¬ x < a + bs.length by omega]
    · simpa [h1, h2, show a ≤ x by omega, show x < a + bs.length by omega] using hc

theorem pairwise_cellsOf (a : Nat) (bs : List Byte) :
    (cellsOf a bs).Pairwise (fun x y => x.1 < y.1) ∧ ∀ e ∈ cellsOf a bs, e.2 ≠ 0 := by
  induction bs generalizing a with
  | nil => simp [cellsOf]
  | cons b r ih =>
    by_cases hb : b = 0
    · simpa [cellsOf, hb] using ih (a + 1)
    · simp only [cellsOf, hb, if_false, List.pairwise_cons, List.forall_mem_cons]
      exact ⟨⟨fun e he => by have := cellsOf_range (a + 1) r e he; simp; omega, (ih (a + 1)).1⟩, hb, (ih (a + 1)).2⟩

/-- A write of bytes keeps memory's canonical form. -/
theorem wf_bytesWrite (m : Bytes) (a : Nat) (bs : List Byte) (h : Memory.wf m = true) : Memory.wf (bytesWrite m a bs) = true := by
  unfold Memory.wf at h ⊢
  rw [tabWf_iff] at h ⊢
  have hc := pairwise_cellsOf a bs
  have hr := cellsOf_range a bs
  unfold bytesWrite
  refine ⟨List.pairwise_append.mpr ⟨List.pairwise_append.mpr ⟨h.1.filter _, hc.1, ?_⟩, h.1.filter _, ?_⟩, ?_⟩
  · intro x hx y hy
    have h1 := (List.mem_filter.mp hx).2
    have h2 := hr y hy
    simp only [decide_eq_true_eq] at h1
    omega
  · intro x hx y hy
    have h2 := (List.mem_filter.mp hy).2
    simp only [decide_eq_true_eq] at h2
    rcases List.mem_append.mp hx with hx | hx
    · have h1 := (List.mem_filter.mp hx).2
      simp only [decide_eq_true_eq] at h1
      omega
    · have h1 := hr x hx
      omega
  · intro e he
    rcases List.mem_append.mp he with he | he
    · rcases List.mem_append.mp he with he | he
      · exact h.2 e (List.mem_of_mem_filter he)
      · exact hc.2 e he
    · exact h.2 e (List.mem_of_mem_filter he)

theorem wf_natWrite (m : Bytes) (a n v : Nat) (h : Memory.wf m = true) : Memory.wf (natWrite m a n v) = true :=
  wf_bytesWrite m a _ h

theorem wf_bytesClear (m : Bytes) (a n : Nat) (h : Memory.wf m = true) : Memory.wf (bytesClear m a n) = true :=
  tabWf_filter 0 m _ h

theorem wf_filter (m : Bytes) (p : Nat × Byte → Bool) (h : Memory.wf m = true) : Memory.wf (m.filter p) = true :=
  tabWf_filter 0 m p h

end Sys2Proof.Machine
end

