-- ==== Sys2Proof/Laws/State.lean ====
section
/-! SUPPORT. For every update of the state and every field: what the field holds after the update. No later proof unfolds a
record update. -/

namespace Sys2Proof.Machine

/-! ## setCore changes `cores` alone -/

@[simp] theorem State.setCore_beat (s : State) (c : Nat) (k : CoreState) : (s.setCore c k).beat = s.beat := rfl
@[simp] theorem State.setCore_cycle (s : State) (c : Nat) (k : CoreState) : (s.setCore c k).cycle = s.cycle := rfl
@[simp] theorem State.setCore_free (s : State) (c : Nat) (k : CoreState) : (s.setCore c k).free = s.free := rfl
@[simp] theorem State.setCore_pending (s : State) (c : Nat) (k : CoreState) : (s.setCore c k).pending = s.pending := rfl
@[simp] theorem State.setCore_runCycles (s : State) (c : Nat) (k : CoreState) : (s.setCore c k).runCycles = s.runCycles := rfl
@[simp] theorem State.setCore_devTally (s : State) (c : Nat) (k : CoreState) : (s.setCore c k).devTally = s.devTally := rfl
@[simp] theorem State.setCore_dcb (s : State) (c : Nat) (k : CoreState) : (s.setCore c k).dcb = s.dcb := rfl
@[simp] theorem State.setCore_dcbRws (s : State) (c : Nat) (k : CoreState) : (s.setCore c k).dcbRws = s.dcbRws := rfl
@[simp] theorem State.setCore_mem (s : State) (c : Nat) (k : CoreState) : (s.setCore c k).mem = s.mem := rfl
@[simp] theorem State.setCore_badWords (s : State) (c : Nat) (k : CoreState) : (s.setCore c k).badWords = s.badWords := rfl
@[simp] theorem State.setCore_transfers (s : State) (c : Nat) (k : CoreState) : (s.setCore c k).transfers = s.transfers := rfl
@[simp] theorem State.setCore_nodes (s : State) (c : Nat) (k : CoreState) : (s.setCore c k).nodes = s.nodes := rfl
@[simp] theorem State.setCore_jobs (s : State) (c : Nat) (k : CoreState) : (s.setCore c k).jobs = s.jobs := rfl
@[simp] theorem State.setCore_mbs (s : State) (c : Nat) (k : CoreState) : (s.setCore c k).mbs = s.mbs := rfl
@[simp] theorem State.setCore_cp (s : State) (c : Nat) (k : CoreState) : (s.setCore c k).cp = s.cp := rfl
@[simp] theorem State.setCore_ent (s : State) (c : Nat) (k : CoreState) : (s.setCore c k).ent = s.ent := rfl
@[simp] theorem State.setCore_links (s : State) (c : Nat) (k : CoreState) : (s.setCore c k).links = s.links := rfl
@[simp] theorem State.setCore_linkSys (s : State) (c : Nat) (k : CoreState) : (s.setCore c k).linkSys = s.linkSys := rfl
@[simp] theorem State.setCore_ic (s : State) (c : Nat) (k : CoreState) : (s.setCore c k).ic = s.ic := rfl
@[simp] theorem State.setCore_macs (s : State) (c : Nat) (k : CoreState) : (s.setCore c k).macs = s.macs := rfl
@[simp] theorem State.setCore_flash (s : State) (c : Nat) (k : CoreState) : (s.setCore c k).flash = s.flash := rfl
@[simp] theorem State.setCore_sram (s : State) (c : Nat) (k : CoreState) : (s.setCore c k).sram = s.sram := rfl
@[simp] theorem State.setCore_err (s : State) (c : Nat) (k : CoreState) : (s.setCore c k).err = s.err := rfl
@[simp] theorem State.setCore_sec (s : State) (c : Nat) (k : CoreState) : (s.setCore c k).sec = s.sec := rfl
@[simp] theorem State.setCore_trace (s : State) (c : Nat) (k : CoreState) : (s.setCore c k).trace = s.trace := rfl
@[simp] theorem State.setCore_whistle (s : State) (c : Nat) (k : CoreState) : (s.setCore c k).whistle = s.whistle := rfl
@[simp] theorem State.setCore_power (s : State) (c : Nat) (k : CoreState) : (s.setCore c k).power = s.power := rfl
@[simp] theorem State.setCore_setNow (s : State) (c : Nat) (k : CoreState) : (s.setCore c k).setNow = s.setNow := rfl
@[simp] theorem State.setCore_stewardQ (s : State) (c : Nat) (k : CoreState) : (s.setCore c k).stewardQ = s.stewardQ := rfl
@[simp] theorem State.setCore_readData (s : State) (c : Nat) (k : CoreState) : (s.setCore c k).readData = s.readData := rfl

/-! ## modCore changes `cores` alone -/

@[simp] theorem State.modCore_beat (s : State) (c : Nat) (f : CoreState → CoreState) : (s.modCore c f).beat = s.beat := rfl
@[simp] theorem State.modCore_cycle (s : State) (c : Nat) (f : CoreState → CoreState) : (s.modCore c f).cycle = s.cycle := rfl
@[simp] theorem State.modCore_free (s : State) (c : Nat) (f : CoreState → CoreState) : (s.modCore c f).free = s.free := rfl
@[simp] theorem State.modCore_pending (s : State) (c : Nat) (f : CoreState → CoreState) : (s.modCore c f).pending = s.pending := rfl
@[simp] theorem State.modCore_runCycles (s : State) (c : Nat) (f : CoreState → CoreState) : (s.modCore c f).runCycles = s.runCycles := rfl
@[simp] theorem State.modCore_devTally (s : State) (c : Nat) (f : CoreState → CoreState) : (s.modCore c f).devTally = s.devTally := rfl
@[simp] theorem State.modCore_dcb (s : State) (c : Nat) (f : CoreState → CoreState) : (s.modCore c f).dcb = s.dcb := rfl
@[simp] theorem State.modCore_dcbRws (s : State) (c : Nat) (f : CoreState → CoreState) : (s.modCore c f).dcbRws = s.dcbRws := rfl
@[simp] theorem State.modCore_mem (s : State) (c : Nat) (f : CoreState → CoreState) : (s.modCore c f).mem = s.mem := rfl
@[simp] theorem State.modCore_badWords (s : State) (c : Nat) (f : CoreState → CoreState) : (s.modCore c f).badWords = s.badWords := rfl
@[simp] theorem State.modCore_transfers (s : State) (c : Nat) (f : CoreState → CoreState) : (s.modCore c f).transfers = s.transfers := rfl
@[simp] theorem State.modCore_nodes (s : State) (c : Nat) (f : CoreState → CoreState) : (s.modCore c f).nodes = s.nodes := rfl
@[simp] theorem State.modCore_jobs (s : State) (c : Nat) (f : CoreState → CoreState) : (s.modCore c f).jobs = s.jobs := rfl
@[simp] theorem State.modCore_mbs (s : State) (c : Nat) (f : CoreState → CoreState) : (s.modCore c f).mbs = s.mbs := rfl
@[simp] theorem State.modCore_cp (s : State) (c : Nat) (f : CoreState → CoreState) : (s.modCore c f).cp = s.cp := rfl
@[simp] theorem State.modCore_ent (s : State) (c : Nat) (f : CoreState → CoreState) : (s.modCore c f).ent = s.ent := rfl
@[simp] theorem State.modCore_links (s : State) (c : Nat) (f : CoreState → CoreState) : (s.modCore c f).links = s.links := rfl
@[simp] theorem State.modCore_linkSys (s : State) (c : Nat) (f : CoreState → CoreState) : (s.modCore c f).linkSys = s.linkSys := rfl
@[simp] theorem State.modCore_ic (s : State) (c : Nat) (f : CoreState → CoreState) : (s.modCore c f).ic = s.ic := rfl
@[simp] theorem State.modCore_macs (s : State) (c : Nat) (f : CoreState → CoreState) : (s.modCore c f).macs = s.macs := rfl
@[simp] theorem State.modCore_flash (s : State) (c : Nat) (f : CoreState → CoreState) : (s.modCore c f).flash = s.flash := rfl
@[simp] theorem State.modCore_sram (s : State) (c : Nat) (f : CoreState → CoreState) : (s.modCore c f).sram = s.sram := rfl
@[simp] theorem State.modCore_err (s : State) (c : Nat) (f : CoreState → CoreState) : (s.modCore c f).err = s.err := rfl
@[simp] theorem State.modCore_sec (s : State) (c : Nat) (f : CoreState → CoreState) : (s.modCore c f).sec = s.sec := rfl
@[simp] theorem State.modCore_trace (s : State) (c : Nat) (f : CoreState → CoreState) : (s.modCore c f).trace = s.trace := rfl
@[simp] theorem State.modCore_whistle (s : State) (c : Nat) (f : CoreState → CoreState) : (s.modCore c f).whistle = s.whistle := rfl
@[simp] theorem State.modCore_power (s : State) (c : Nat) (f : CoreState → CoreState) : (s.modCore c f).power = s.power := rfl
@[simp] theorem State.modCore_setNow (s : State) (c : Nat) (f : CoreState → CoreState) : (s.modCore c f).setNow = s.setNow := rfl
@[simp] theorem State.modCore_stewardQ (s : State) (c : Nat) (f : CoreState → CoreState) : (s.modCore c f).stewardQ = s.stewardQ := rfl
@[simp] theorem State.modCore_readData (s : State) (c : Nat) (f : CoreState → CoreState) : (s.modCore c f).readData = s.readData := rfl

/-! ## setDcb changes `dcb` alone -/

@[simp] theorem State.setDcb_beat (s : State) (o : Nat) (v : Dword) : (s.setDcb o v).beat = s.beat := rfl
@[simp] theorem State.setDcb_cycle (s : State) (o : Nat) (v : Dword) : (s.setDcb o v).cycle = s.cycle := rfl
@[simp] theorem State.setDcb_free (s : State) (o : Nat) (v : Dword) : (s.setDcb o v).free = s.free := rfl
@[simp] theorem State.setDcb_pending (s : State) (o : Nat) (v : Dword) : (s.setDcb o v).pending = s.pending := rfl
@[simp] theorem State.setDcb_runCycles (s : State) (o : Nat) (v : Dword) : (s.setDcb o v).runCycles = s.runCycles := rfl
@[simp] theorem State.setDcb_devTally (s : State) (o : Nat) (v : Dword) : (s.setDcb o v).devTally = s.devTally := rfl
@[simp] theorem State.setDcb_dcbRws (s : State) (o : Nat) (v : Dword) : (s.setDcb o v).dcbRws = s.dcbRws := rfl
@[simp] theorem State.setDcb_cores (s : State) (o : Nat) (v : Dword) : (s.setDcb o v).cores = s.cores := rfl
@[simp] theorem State.setDcb_mem (s : State) (o : Nat) (v : Dword) : (s.setDcb o v).mem = s.mem := rfl
@[simp] theorem State.setDcb_badWords (s : State) (o : Nat) (v : Dword) : (s.setDcb o v).badWords = s.badWords := rfl
@[simp] theorem State.setDcb_transfers (s : State) (o : Nat) (v : Dword) : (s.setDcb o v).transfers = s.transfers := rfl
@[simp] theorem State.setDcb_nodes (s : State) (o : Nat) (v : Dword) : (s.setDcb o v).nodes = s.nodes := rfl
@[simp] theorem State.setDcb_jobs (s : State) (o : Nat) (v : Dword) : (s.setDcb o v).jobs = s.jobs := rfl
@[simp] theorem State.setDcb_mbs (s : State) (o : Nat) (v : Dword) : (s.setDcb o v).mbs = s.mbs := rfl
@[simp] theorem State.setDcb_cp (s : State) (o : Nat) (v : Dword) : (s.setDcb o v).cp = s.cp := rfl
@[simp] theorem State.setDcb_ent (s : State) (o : Nat) (v : Dword) : (s.setDcb o v).ent = s.ent := rfl
@[simp] theorem State.setDcb_links (s : State) (o : Nat) (v : Dword) : (s.setDcb o v).links = s.links := rfl
@[simp] theorem State.setDcb_linkSys (s : State) (o : Nat) (v : Dword) : (s.setDcb o v).linkSys = s.linkSys := rfl
@[simp] theorem State.setDcb_ic (s : State) (o : Nat) (v : Dword) : (s.setDcb o v).ic = s.ic := rfl
@[simp] theorem State.setDcb_macs (s : State) (o : Nat) (v : Dword) : (s.setDcb o v).macs = s.macs := rfl
@[simp] theorem State.setDcb_flash (s : State) (o : Nat) (v : Dword) : (s.setDcb o v).flash = s.flash := rfl
@[simp] theorem State.setDcb_sram (s : State) (o : Nat) (v : Dword) : (s.setDcb o v).sram = s.sram := rfl
@[simp] theorem State.setDcb_err (s : State) (o : Nat) (v : Dword) : (s.setDcb o v).err = s.err := rfl
@[simp] theorem State.setDcb_sec (s : State) (o : Nat) (v : Dword) : (s.setDcb o v).sec = s.sec := rfl
@[simp] theorem State.setDcb_trace (s : State) (o : Nat) (v : Dword) : (s.setDcb o v).trace = s.trace := rfl
@[simp] theorem State.setDcb_whistle (s : State) (o : Nat) (v : Dword) : (s.setDcb o v).whistle = s.whistle := rfl
@[simp] theorem State.setDcb_power (s : State) (o : Nat) (v : Dword) : (s.setDcb o v).power = s.power := rfl
@[simp] theorem State.setDcb_setNow (s : State) (o : Nat) (v : Dword) : (s.setDcb o v).setNow = s.setNow := rfl
@[simp] theorem State.setDcb_stewardQ (s : State) (o : Nat) (v : Dword) : (s.setDcb o v).stewardQ = s.stewardQ := rfl
@[simp] theorem State.setDcb_readData (s : State) (o : Nat) (v : Dword) : (s.setDcb o v).readData = s.readData := rfl

/-! ## setDcbF changes `dcb` alone -/

@[simp] theorem State.setDcbF_beat (s : State) (o lo n v : Nat) : (s.setDcbF o lo n v).beat = s.beat := rfl
@[simp] theorem State.setDcbF_cycle (s : State) (o lo n v : Nat) : (s.setDcbF o lo n v).cycle = s.cycle := rfl
@[simp] theorem State.setDcbF_free (s : State) (o lo n v : Nat) : (s.setDcbF o lo n v).free = s.free := rfl
@[simp] theorem State.setDcbF_pending (s : State) (o lo n v : Nat) : (s.setDcbF o lo n v).pending = s.pending := rfl
@[simp] theorem State.setDcbF_runCycles (s : State) (o lo n v : Nat) : (s.setDcbF o lo n v).runCycles = s.runCycles := rfl
@[simp] theorem State.setDcbF_devTally (s : State) (o lo n v : Nat) : (s.setDcbF o lo n v).devTally = s.devTally := rfl
@[simp] theorem State.setDcbF_dcbRws (s : State) (o lo n v : Nat) : (s.setDcbF o lo n v).dcbRws = s.dcbRws := rfl
@[simp] theorem State.setDcbF_cores (s : State) (o lo n v : Nat) : (s.setDcbF o lo n v).cores = s.cores := rfl
@[simp] theorem State.setDcbF_mem (s : State) (o lo n v : Nat) : (s.setDcbF o lo n v).mem = s.mem := rfl
@[simp] theorem State.setDcbF_badWords (s : State) (o lo n v : Nat) : (s.setDcbF o lo n v).badWords = s.badWords := rfl
@[simp] theorem State.setDcbF_transfers (s : State) (o lo n v : Nat) : (s.setDcbF o lo n v).transfers = s.transfers := rfl
@[simp] theorem State.setDcbF_nodes (s : State) (o lo n v : Nat) : (s.setDcbF o lo n v).nodes = s.nodes := rfl
@[simp] theorem State.setDcbF_jobs (s : State) (o lo n v : Nat) : (s.setDcbF o lo n v).jobs = s.jobs := rfl
@[simp] theorem State.setDcbF_mbs (s : State) (o lo n v : Nat) : (s.setDcbF o lo n v).mbs = s.mbs := rfl
@[simp] theorem State.setDcbF_cp (s : State) (o lo n v : Nat) : (s.setDcbF o lo n v).cp = s.cp := rfl
@[simp] theorem State.setDcbF_ent (s : State) (o lo n v : Nat) : (s.setDcbF o lo n v).ent = s.ent := rfl
@[simp] theorem State.setDcbF_links (s : State) (o lo n v : Nat) : (s.setDcbF o lo n v).links = s.links := rfl
@[simp] theorem State.setDcbF_linkSys (s : State) (o lo n v : Nat) : (s.setDcbF o lo n v).linkSys = s.linkSys := rfl
@[simp] theorem State.setDcbF_ic (s : State) (o lo n v : Nat) : (s.setDcbF o lo n v).ic = s.ic := rfl
@[simp] theorem State.setDcbF_macs (s : State) (o lo n v : Nat) : (s.setDcbF o lo n v).macs = s.macs := rfl
@[simp] theorem State.setDcbF_flash (s : State) (o lo n v : Nat) : (s.setDcbF o lo n v).flash = s.flash := rfl
@[simp] theorem State.setDcbF_sram (s : State) (o lo n v : Nat) : (s.setDcbF o lo n v).sram = s.sram := rfl
@[simp] theorem State.setDcbF_err (s : State) (o lo n v : Nat) : (s.setDcbF o lo n v).err = s.err := rfl
@[simp] theorem State.setDcbF_sec (s : State) (o lo n v : Nat) : (s.setDcbF o lo n v).sec = s.sec := rfl
@[simp] theorem State.setDcbF_trace (s : State) (o lo n v : Nat) : (s.setDcbF o lo n v).trace = s.trace := rfl
@[simp] theorem State.setDcbF_whistle (s : State) (o lo n v : Nat) : (s.setDcbF o lo n v).whistle = s.whistle := rfl
@[simp] theorem State.setDcbF_power (s : State) (o lo n v : Nat) : (s.setDcbF o lo n v).power = s.power := rfl
@[simp] theorem State.setDcbF_setNow (s : State) (o lo n v : Nat) : (s.setDcbF o lo n v).setNow = s.setNow := rfl
@[simp] theorem State.setDcbF_stewardQ (s : State) (o lo n v : Nat) : (s.setDcbF o lo n v).stewardQ = s.stewardQ := rfl
@[simp] theorem State.setDcbF_readData (s : State) (o lo n v : Nat) : (s.setDcbF o lo n v).readData = s.readData := rfl

/-! ## setDcbBits changes `dcb` and `setNow` alone -/

@[simp] theorem State.setDcbBits_beat (s : State) (o : Nat) (m : Dword) : (s.setDcbBits o m).beat = s.beat := rfl
@[simp] theorem State.setDcbBits_cycle (s : State) (o : Nat) (m : Dword) : (s.setDcbBits o m).cycle = s.cycle := rfl
@[simp] theorem State.setDcbBits_free (s : State) (o : Nat) (m : Dword) : (s.setDcbBits o m).free = s.free := rfl
@[simp] theorem State.setDcbBits_pending (s : State) (o : Nat) (m : Dword) : (s.setDcbBits o m).pending = s.pending := rfl
@[simp] theorem State.setDcbBits_runCycles (s : State) (o : Nat) (m : Dword) : (s.setDcbBits o m).runCycles = s.runCycles := rfl
@[simp] theorem State.setDcbBits_devTally (s : State) (o : Nat) (m : Dword) : (s.setDcbBits o m).devTally = s.devTally := rfl
@[simp] theorem State.setDcbBits_dcbRws (s : State) (o : Nat) (m : Dword) : (s.setDcbBits o m).dcbRws = s.dcbRws := rfl
@[simp] theorem State.setDcbBits_cores (s : State) (o : Nat) (m : Dword) : (s.setDcbBits o m).cores = s.cores := rfl
@[simp] theorem State.setDcbBits_mem (s : State) (o : Nat) (m : Dword) : (s.setDcbBits o m).mem = s.mem := rfl
@[simp] theorem State.setDcbBits_badWords (s : State) (o : Nat) (m : Dword) : (s.setDcbBits o m).badWords = s.badWords := rfl
@[simp] theorem State.setDcbBits_transfers (s : State) (o : Nat) (m : Dword) : (s.setDcbBits o m).transfers = s.transfers := rfl
@[simp] theorem State.setDcbBits_nodes (s : State) (o : Nat) (m : Dword) : (s.setDcbBits o m).nodes = s.nodes := rfl
@[simp] theorem State.setDcbBits_jobs (s : State) (o : Nat) (m : Dword) : (s.setDcbBits o m).jobs = s.jobs := rfl
@[simp] theorem State.setDcbBits_mbs (s : State) (o : Nat) (m : Dword) : (s.setDcbBits o m).mbs = s.mbs := rfl
@[simp] theorem State.setDcbBits_cp (s : State) (o : Nat) (m : Dword) : (s.setDcbBits o m).cp = s.cp := rfl
@[simp] theorem State.setDcbBits_ent (s : State) (o : Nat) (m : Dword) : (s.setDcbBits o m).ent = s.ent := rfl
@[simp] theorem State.setDcbBits_links (s : State) (o : Nat) (m : Dword) : (s.setDcbBits o m).links = s.links := rfl
@[simp] theorem State.setDcbBits_linkSys (s : State) (o : Nat) (m : Dword) : (s.setDcbBits o m).linkSys = s.linkSys := rfl
@[simp] theorem State.setDcbBits_ic (s : State) (o : Nat) (m : Dword) : (s.setDcbBits o m).ic = s.ic := rfl
@[simp] theorem State.setDcbBits_macs (s : State) (o : Nat) (m : Dword) : (s.setDcbBits o m).macs = s.macs := rfl
@[simp] theorem State.setDcbBits_flash (s : State) (o : Nat) (m : Dword) : (s.setDcbBits o m).flash = s.flash := rfl
@[simp] theorem State.setDcbBits_sram (s : State) (o : Nat) (m : Dword) : (s.setDcbBits o m).sram = s.sram := rfl
@[simp] theorem State.setDcbBits_err (s : State) (o : Nat) (m : Dword) : (s.setDcbBits o m).err = s.err := rfl
@[simp] theorem State.setDcbBits_sec (s : State) (o : Nat) (m : Dword) : (s.setDcbBits o m).sec = s.sec := rfl
@[simp] theorem State.setDcbBits_trace (s : State) (o : Nat) (m : Dword) : (s.setDcbBits o m).trace = s.trace := rfl
@[simp] theorem State.setDcbBits_whistle (s : State) (o : Nat) (m : Dword) : (s.setDcbBits o m).whistle = s.whistle := rfl
@[simp] theorem State.setDcbBits_power (s : State) (o : Nat) (m : Dword) : (s.setDcbBits o m).power = s.power := rfl
@[simp] theorem State.setDcbBits_stewardQ (s : State) (o : Nat) (m : Dword) : (s.setDcbBits o m).stewardQ = s.stewardQ := rfl
@[simp] theorem State.setDcbBits_readData (s : State) (o : Nat) (m : Dword) : (s.setDcbBits o m).readData = s.readData := rfl

/-! ## noteSet changes `setNow` alone -/

@[simp] theorem State.noteSet_beat (s : State) (o : Nat) (m : Dword) : (s.noteSet o m).beat = s.beat := rfl
@[simp] theorem State.noteSet_cycle (s : State) (o : Nat) (m : Dword) : (s.noteSet o m).cycle = s.cycle := rfl
@[simp] theorem State.noteSet_free (s : State) (o : Nat) (m : Dword) : (s.noteSet o m).free = s.free := rfl
@[simp] theorem State.noteSet_pending (s : State) (o : Nat) (m : Dword) : (s.noteSet o m).pending = s.pending := rfl
@[simp] theorem State.noteSet_runCycles (s : State) (o : Nat) (m : Dword) : (s.noteSet o m).runCycles = s.runCycles := rfl
@[simp] theorem State.noteSet_devTally (s : State) (o : Nat) (m : Dword) : (s.noteSet o m).devTally = s.devTally := rfl
@[simp] theorem State.noteSet_dcb (s : State) (o : Nat) (m : Dword) : (s.noteSet o m).dcb = s.dcb := rfl
@[simp] theorem State.noteSet_dcbRws (s : State) (o : Nat) (m : Dword) : (s.noteSet o m).dcbRws = s.dcbRws := rfl
@[simp] theorem State.noteSet_cores (s : State) (o : Nat) (m : Dword) : (s.noteSet o m).cores = s.cores := rfl
@[simp] theorem State.noteSet_mem (s : State) (o : Nat) (m : Dword) : (s.noteSet o m).mem = s.mem := rfl
@[simp] theorem State.noteSet_badWords (s : State) (o : Nat) (m : Dword) : (s.noteSet o m).badWords = s.badWords := rfl
@[simp] theorem State.noteSet_transfers (s : State) (o : Nat) (m : Dword) : (s.noteSet o m).transfers = s.transfers := rfl
@[simp] theorem State.noteSet_nodes (s : State) (o : Nat) (m : Dword) : (s.noteSet o m).nodes = s.nodes := rfl
@[simp] theorem State.noteSet_jobs (s : State) (o : Nat) (m : Dword) : (s.noteSet o m).jobs = s.jobs := rfl
@[simp] theorem State.noteSet_mbs (s : State) (o : Nat) (m : Dword) : (s.noteSet o m).mbs = s.mbs := rfl
@[simp] theorem State.noteSet_cp (s : State) (o : Nat) (m : Dword) : (s.noteSet o m).cp = s.cp := rfl
@[simp] theorem State.noteSet_ent (s : State) (o : Nat) (m : Dword) : (s.noteSet o m).ent = s.ent := rfl
@[simp] theorem State.noteSet_links (s : State) (o : Nat) (m : Dword) : (s.noteSet o m).links = s.links := rfl
@[simp] theorem State.noteSet_linkSys (s : State) (o : Nat) (m : Dword) : (s.noteSet o m).linkSys = s.linkSys := rfl
@[simp] theorem State.noteSet_ic (s : State) (o : Nat) (m : Dword) : (s.noteSet o m).ic = s.ic := rfl
@[simp] theorem State.noteSet_macs (s : State) (o : Nat) (m : Dword) : (s.noteSet o m).macs = s.macs := rfl
@[simp] theorem State.noteSet_flash (s : State) (o : Nat) (m : Dword) : (s.noteSet o m).flash = s.flash := rfl
@[simp] theorem State.noteSet_sram (s : State) (o : Nat) (m : Dword) : (s.noteSet o m).sram = s.sram := rfl
@[simp] theorem State.noteSet_err (s : State) (o : Nat) (m : Dword) : (s.noteSet o m).err = s.err := rfl
@[simp] theorem State.noteSet_sec (s : State) (o : Nat) (m : Dword) : (s.noteSet o m).sec = s.sec := rfl
@[simp] theorem State.noteSet_trace (s : State) (o : Nat) (m : Dword) : (s.noteSet o m).trace = s.trace := rfl
@[simp] theorem State.noteSet_whistle (s : State) (o : Nat) (m : Dword) : (s.noteSet o m).whistle = s.whistle := rfl
@[simp] theorem State.noteSet_power (s : State) (o : Nat) (m : Dword) : (s.noteSet o m).power = s.power := rfl
@[simp] theorem State.noteSet_stewardQ (s : State) (o : Nat) (m : Dword) : (s.noteSet o m).stewardQ = s.stewardQ := rfl
@[simp] theorem State.noteSet_readData (s : State) (o : Nat) (m : Dword) : (s.noteSet o m).readData = s.readData := rfl

/-! ## countDcb changes `dcb` alone -/

@[simp] theorem State.countDcb_beat (s : State) (o n : Nat) : (s.countDcb o n).beat = s.beat := rfl
@[simp] theorem State.countDcb_cycle (s : State) (o n : Nat) : (s.countDcb o n).cycle = s.cycle := rfl
@[simp] theorem State.countDcb_free (s : State) (o n : Nat) : (s.countDcb o n).free = s.free := rfl
@[simp] theorem State.countDcb_pending (s : State) (o n : Nat) : (s.countDcb o n).pending = s.pending := rfl
@[simp] theorem State.countDcb_runCycles (s : State) (o n : Nat) : (s.countDcb o n).runCycles = s.runCycles := rfl
@[simp] theorem State.countDcb_devTally (s : State) (o n : Nat) : (s.countDcb o n).devTally = s.devTally := rfl
@[simp] theorem State.countDcb_dcbRws (s : State) (o n : Nat) : (s.countDcb o n).dcbRws = s.dcbRws := rfl
@[simp] theorem State.countDcb_cores (s : State) (o n : Nat) : (s.countDcb o n).cores = s.cores := rfl
@[simp] theorem State.countDcb_mem (s : State) (o n : Nat) : (s.countDcb o n).mem = s.mem := rfl
@[simp] theorem State.countDcb_badWords (s : State) (o n : Nat) : (s.countDcb o n).badWords = s.badWords := rfl
@[simp] theorem State.countDcb_transfers (s : State) (o n : Nat) : (s.countDcb o n).transfers = s.transfers := rfl
@[simp] theorem State.countDcb_nodes (s : State) (o n : Nat) : (s.countDcb o n).nodes = s.nodes := rfl
@[simp] theorem State.countDcb_jobs (s : State) (o n : Nat) : (s.countDcb o n).jobs = s.jobs := rfl
@[simp] theorem State.countDcb_mbs (s : State) (o n : Nat) : (s.countDcb o n).mbs = s.mbs := rfl
@[simp] theorem State.countDcb_cp (s : State) (o n : Nat) : (s.countDcb o n).cp = s.cp := rfl
@[simp] theorem State.countDcb_ent (s : State) (o n : Nat) : (s.countDcb o n).ent = s.ent := rfl
@[simp] theorem State.countDcb_links (s : State) (o n : Nat) : (s.countDcb o n).links = s.links := rfl
@[simp] theorem State.countDcb_linkSys (s : State) (o n : Nat) : (s.countDcb o n).linkSys = s.linkSys := rfl
@[simp] theorem State.countDcb_ic (s : State) (o n : Nat) : (s.countDcb o n).ic = s.ic := rfl
@[simp] theorem State.countDcb_macs (s : State) (o n : Nat) : (s.countDcb o n).macs = s.macs := rfl
@[simp] theorem State.countDcb_flash (s : State) (o n : Nat) : (s.countDcb o n).flash = s.flash := rfl
@[simp] theorem State.countDcb_sram (s : State) (o n : Nat) : (s.countDcb o n).sram = s.sram := rfl
@[simp] theorem State.countDcb_err (s : State) (o n : Nat) : (s.countDcb o n).err = s.err := rfl
@[simp] theorem State.countDcb_sec (s : State) (o n : Nat) : (s.countDcb o n).sec = s.sec := rfl
@[simp] theorem State.countDcb_trace (s : State) (o n : Nat) : (s.countDcb o n).trace = s.trace := rfl
@[simp] theorem State.countDcb_whistle (s : State) (o n : Nat) : (s.countDcb o n).whistle = s.whistle := rfl
@[simp] theorem State.countDcb_power (s : State) (o n : Nat) : (s.countDcb o n).power = s.power := rfl
@[simp] theorem State.countDcb_setNow (s : State) (o n : Nat) : (s.countDcb o n).setNow = s.setNow := rfl
@[simp] theorem State.countDcb_stewardQ (s : State) (o n : Nat) : (s.countDcb o n).stewardQ = s.stewardQ := rfl
@[simp] theorem State.countDcb_readData (s : State) (o n : Nat) : (s.countDcb o n).readData = s.readData := rfl

/-! ## countDcb32 changes `dcb` alone -/

@[simp] theorem State.countDcb32_beat (s : State) (o n : Nat) : (s.countDcb32 o n).beat = s.beat := rfl
@[simp] theorem State.countDcb32_cycle (s : State) (o n : Nat) : (s.countDcb32 o n).cycle = s.cycle := rfl
@[simp] theorem State.countDcb32_free (s : State) (o n : Nat) : (s.countDcb32 o n).free = s.free := rfl
@[simp] theorem State.countDcb32_pending (s : State) (o n : Nat) : (s.countDcb32 o n).pending = s.pending := rfl
@[simp] theorem State.countDcb32_runCycles (s : State) (o n : Nat) : (s.countDcb32 o n).runCycles = s.runCycles := rfl
@[simp] theorem State.countDcb32_devTally (s : State) (o n : Nat) : (s.countDcb32 o n).devTally = s.devTally := rfl
@[simp] theorem State.countDcb32_dcbRws (s : State) (o n : Nat) : (s.countDcb32 o n).dcbRws = s.dcbRws := rfl
@[simp] theorem State.countDcb32_cores (s : State) (o n : Nat) : (s.countDcb32 o n).cores = s.cores := rfl
@[simp] theorem State.countDcb32_mem (s : State) (o n : Nat) : (s.countDcb32 o n).mem = s.mem := rfl
@[simp] theorem State.countDcb32_badWords (s : State) (o n : Nat) : (s.countDcb32 o n).badWords = s.badWords := rfl
@[simp] theorem State.countDcb32_transfers (s : State) (o n : Nat) : (s.countDcb32 o n).transfers = s.transfers := rfl
@[simp] theorem State.countDcb32_nodes (s : State) (o n : Nat) : (s.countDcb32 o n).nodes = s.nodes := rfl
@[simp] theorem State.countDcb32_jobs (s : State) (o n : Nat) : (s.countDcb32 o n).jobs = s.jobs := rfl
@[simp] theorem State.countDcb32_mbs (s : State) (o n : Nat) : (s.countDcb32 o n).mbs = s.mbs := rfl
@[simp] theorem State.countDcb32_cp (s : State) (o n : Nat) : (s.countDcb32 o n).cp = s.cp := rfl
@[simp] theorem State.countDcb32_ent (s : State) (o n : Nat) : (s.countDcb32 o n).ent = s.ent := rfl
@[simp] theorem State.countDcb32_links (s : State) (o n : Nat) : (s.countDcb32 o n).links = s.links := rfl
@[simp] theorem State.countDcb32_linkSys (s : State) (o n : Nat) : (s.countDcb32 o n).linkSys = s.linkSys := rfl
@[simp] theorem State.countDcb32_ic (s : State) (o n : Nat) : (s.countDcb32 o n).ic = s.ic := rfl
@[simp] theorem State.countDcb32_macs (s : State) (o n : Nat) : (s.countDcb32 o n).macs = s.macs := rfl
@[simp] theorem State.countDcb32_flash (s : State) (o n : Nat) : (s.countDcb32 o n).flash = s.flash := rfl
@[simp] theorem State.countDcb32_sram (s : State) (o n : Nat) : (s.countDcb32 o n).sram = s.sram := rfl
@[simp] theorem State.countDcb32_err (s : State) (o n : Nat) : (s.countDcb32 o n).err = s.err := rfl
@[simp] theorem State.countDcb32_sec (s : State) (o n : Nat) : (s.countDcb32 o n).sec = s.sec := rfl
@[simp] theorem State.countDcb32_trace (s : State) (o n : Nat) : (s.countDcb32 o n).trace = s.trace := rfl
@[simp] theorem State.countDcb32_whistle (s : State) (o n : Nat) : (s.countDcb32 o n).whistle = s.whistle := rfl
@[simp] theorem State.countDcb32_power (s : State) (o n : Nat) : (s.countDcb32 o n).power = s.power := rfl
@[simp] theorem State.countDcb32_setNow (s : State) (o n : Nat) : (s.countDcb32 o n).setNow = s.setNow := rfl
@[simp] theorem State.countDcb32_stewardQ (s : State) (o n : Nat) : (s.countDcb32 o n).stewardQ = s.stewardQ := rfl
@[simp] theorem State.countDcb32_readData (s : State) (o n : Nat) : (s.countDcb32 o n).readData = s.readData := rfl

/-! ## setJob changes `jobs` alone -/

@[simp] theorem State.setJob_beat (s : State) (h : Handle) (j : Job) : (s.setJob h j).beat = s.beat := rfl
@[simp] theorem State.setJob_cycle (s : State) (h : Handle) (j : Job) : (s.setJob h j).cycle = s.cycle := rfl
@[simp] theorem State.setJob_free (s : State) (h : Handle) (j : Job) : (s.setJob h j).free = s.free := rfl
@[simp] theorem State.setJob_pending (s : State) (h : Handle) (j : Job) : (s.setJob h j).pending = s.pending := rfl
@[simp] theorem State.setJob_runCycles (s : State) (h : Handle) (j : Job) : (s.setJob h j).runCycles = s.runCycles := rfl
@[simp] theorem State.setJob_devTally (s : State) (h : Handle) (j : Job) : (s.setJob h j).devTally = s.devTally := rfl
@[simp] theorem State.setJob_dcb (s : State) (h : Handle) (j : Job) : (s.setJob h j).dcb = s.dcb := rfl
@[simp] theorem State.setJob_dcbRws (s : State) (h : Handle) (j : Job) : (s.setJob h j).dcbRws = s.dcbRws := rfl
@[simp] theorem State.setJob_cores (s : State) (h : Handle) (j : Job) : (s.setJob h j).cores = s.cores := rfl
@[simp] theorem State.setJob_mem (s : State) (h : Handle) (j : Job) : (s.setJob h j).mem = s.mem := rfl
@[simp] theorem State.setJob_badWords (s : State) (h : Handle) (j : Job) : (s.setJob h j).badWords = s.badWords := rfl
@[simp] theorem State.setJob_transfers (s : State) (h : Handle) (j : Job) : (s.setJob h j).transfers = s.transfers := rfl
@[simp] theorem State.setJob_nodes (s : State) (h : Handle) (j : Job) : (s.setJob h j).nodes = s.nodes := rfl
@[simp] theorem State.setJob_mbs (s : State) (h : Handle) (j : Job) : (s.setJob h j).mbs = s.mbs := rfl
@[simp] theorem State.setJob_cp (s : State) (h : Handle) (j : Job) : (s.setJob h j).cp = s.cp := rfl
@[simp] theorem State.setJob_ent (s : State) (h : Handle) (j : Job) : (s.setJob h j).ent = s.ent := rfl
@[simp] theorem State.setJob_links (s : State) (h : Handle) (j : Job) : (s.setJob h j).links = s.links := rfl
@[simp] theorem State.setJob_linkSys (s : State) (h : Handle) (j : Job) : (s.setJob h j).linkSys = s.linkSys := rfl
@[simp] theorem State.setJob_ic (s : State) (h : Handle) (j : Job) : (s.setJob h j).ic = s.ic := rfl
@[simp] theorem State.setJob_macs (s : State) (h : Handle) (j : Job) : (s.setJob h j).macs = s.macs := rfl
@[simp] theorem State.setJob_flash (s : State) (h : Handle) (j : Job) : (s.setJob h j).flash = s.flash := rfl
@[simp] theorem State.setJob_sram (s : State) (h : Handle) (j : Job) : (s.setJob h j).sram = s.sram := rfl
@[simp] theorem State.setJob_err (s : State) (h : Handle) (j : Job) : (s.setJob h j).err = s.err := rfl
@[simp] theorem State.setJob_sec (s : State) (h : Handle) (j : Job) : (s.setJob h j).sec = s.sec := rfl
@[simp] theorem State.setJob_trace (s : State) (h : Handle) (j : Job) : (s.setJob h j).trace = s.trace := rfl
@[simp] theorem State.setJob_whistle (s : State) (h : Handle) (j : Job) : (s.setJob h j).whistle = s.whistle := rfl
@[simp] theorem State.setJob_power (s : State) (h : Handle) (j : Job) : (s.setJob h j).power = s.power := rfl
@[simp] theorem State.setJob_setNow (s : State) (h : Handle) (j : Job) : (s.setJob h j).setNow = s.setNow := rfl
@[simp] theorem State.setJob_stewardQ (s : State) (h : Handle) (j : Job) : (s.setJob h j).stewardQ = s.stewardQ := rfl
@[simp] theorem State.setJob_readData (s : State) (h : Handle) (j : Job) : (s.setJob h j).readData = s.readData := rfl

/-! ## setMb changes `mbs` alone -/

@[simp] theorem State.setMb_beat (s : State) (m : Nat) (x : Mailbox) : (s.setMb m x).beat = s.beat := rfl
@[simp] theorem State.setMb_cycle (s : State) (m : Nat) (x : Mailbox) : (s.setMb m x).cycle = s.cycle := rfl
@[simp] theorem State.setMb_free (s : State) (m : Nat) (x : Mailbox) : (s.setMb m x).free = s.free := rfl
@[simp] theorem State.setMb_pending (s : State) (m : Nat) (x : Mailbox) : (s.setMb m x).pending = s.pending := rfl
@[simp] theorem State.setMb_runCycles (s : State) (m : Nat) (x : Mailbox) : (s.setMb m x).runCycles = s.runCycles := rfl
@[simp] theorem State.setMb_devTally (s : State) (m : Nat) (x : Mailbox) : (s.setMb m x).devTally = s.devTally := rfl
@[simp] theorem State.setMb_dcb (s : State) (m : Nat) (x : Mailbox) : (s.setMb m x).dcb = s.dcb := rfl
@[simp] theorem State.setMb_dcbRws (s : State) (m : Nat) (x : Mailbox) : (s.setMb m x).dcbRws = s.dcbRws := rfl
@[simp] theorem State.setMb_cores (s : State) (m : Nat) (x : Mailbox) : (s.setMb m x).cores = s.cores := rfl
@[simp] theorem State.setMb_mem (s : State) (m : Nat) (x : Mailbox) : (s.setMb m x).mem = s.mem := rfl
@[simp] theorem State.setMb_badWords (s : State) (m : Nat) (x : Mailbox) : (s.setMb m x).badWords = s.badWords := rfl
@[simp] theorem State.setMb_transfers (s : State) (m : Nat) (x : Mailbox) : (s.setMb m x).transfers = s.transfers := rfl
@[simp] theorem State.setMb_nodes (s : State) (m : Nat) (x : Mailbox) : (s.setMb m x).nodes = s.nodes := rfl
@[simp] theorem State.setMb_jobs (s : State) (m : Nat) (x : Mailbox) : (s.setMb m x).jobs = s.jobs := rfl
@[simp] theorem State.setMb_cp (s : State) (m : Nat) (x : Mailbox) : (s.setMb m x).cp = s.cp := rfl
@[simp] theorem State.setMb_ent (s : State) (m : Nat) (x : Mailbox) : (s.setMb m x).ent = s.ent := rfl
@[simp] theorem State.setMb_links (s : State) (m : Nat) (x : Mailbox) : (s.setMb m x).links = s.links := rfl
@[simp] theorem State.setMb_linkSys (s : State) (m : Nat) (x : Mailbox) : (s.setMb m x).linkSys = s.linkSys := rfl
@[simp] theorem State.setMb_ic (s : State) (m : Nat) (x : Mailbox) : (s.setMb m x).ic = s.ic := rfl
@[simp] theorem State.setMb_macs (s : State) (m : Nat) (x : Mailbox) : (s.setMb m x).macs = s.macs := rfl
@[simp] theorem State.setMb_flash (s : State) (m : Nat) (x : Mailbox) : (s.setMb m x).flash = s.flash := rfl
@[simp] theorem State.setMb_sram (s : State) (m : Nat) (x : Mailbox) : (s.setMb m x).sram = s.sram := rfl
@[simp] theorem State.setMb_err (s : State) (m : Nat) (x : Mailbox) : (s.setMb m x).err = s.err := rfl
@[simp] theorem State.setMb_sec (s : State) (m : Nat) (x : Mailbox) : (s.setMb m x).sec = s.sec := rfl
@[simp] theorem State.setMb_trace (s : State) (m : Nat) (x : Mailbox) : (s.setMb m x).trace = s.trace := rfl
@[simp] theorem State.setMb_whistle (s : State) (m : Nat) (x : Mailbox) : (s.setMb m x).whistle = s.whistle := rfl
@[simp] theorem State.setMb_power (s : State) (m : Nat) (x : Mailbox) : (s.setMb m x).power = s.power := rfl
@[simp] theorem State.setMb_setNow (s : State) (m : Nat) (x : Mailbox) : (s.setMb m x).setNow = s.setNow := rfl
@[simp] theorem State.setMb_stewardQ (s : State) (m : Nat) (x : Mailbox) : (s.setMb m x).stewardQ = s.stewardQ := rfl
@[simp] theorem State.setMb_readData (s : State) (m : Nat) (x : Mailbox) : (s.setMb m x).readData = s.readData := rfl

/-! ## modMb changes `mbs` alone -/

@[simp] theorem State.modMb_beat (s : State) (m : Nat) (f : Mailbox → Mailbox) : (s.modMb m f).beat = s.beat := rfl
@[simp] theorem State.modMb_cycle (s : State) (m : Nat) (f : Mailbox → Mailbox) : (s.modMb m f).cycle = s.cycle := rfl
@[simp] theorem State.modMb_free (s : State) (m : Nat) (f : Mailbox → Mailbox) : (s.modMb m f).free = s.free := rfl
@[simp] theorem State.modMb_pending (s : State) (m : Nat) (f : Mailbox → Mailbox) : (s.modMb m f).pending = s.pending := rfl
@[simp] theorem State.modMb_runCycles (s : State) (m : Nat) (f : Mailbox → Mailbox) : (s.modMb m f).runCycles = s.runCycles := rfl
@[simp] theorem State.modMb_devTally (s : State) (m : Nat) (f : Mailbox → Mailbox) : (s.modMb m f).devTally = s.devTally := rfl
@[simp] theorem State.modMb_dcb (s : State) (m : Nat) (f : Mailbox → Mailbox) : (s.modMb m f).dcb = s.dcb := rfl
@[simp] theorem State.modMb_dcbRws (s : State) (m : Nat) (f : Mailbox → Mailbox) : (s.modMb m f).dcbRws = s.dcbRws := rfl
@[simp] theorem State.modMb_cores (s : State) (m : Nat) (f : Mailbox → Mailbox) : (s.modMb m f).cores = s.cores := rfl
@[simp] theorem State.modMb_mem (s : State) (m : Nat) (f : Mailbox → Mailbox) : (s.modMb m f).mem = s.mem := rfl
@[simp] theorem State.modMb_badWords (s : State) (m : Nat) (f : Mailbox → Mailbox) : (s.modMb m f).badWords = s.badWords := rfl
@[simp] theorem State.modMb_transfers (s : State) (m : Nat) (f : Mailbox → Mailbox) : (s.modMb m f).transfers = s.transfers := rfl
@[simp] theorem State.modMb_nodes (s : State) (m : Nat) (f : Mailbox → Mailbox) : (s.modMb m f).nodes = s.nodes := rfl
@[simp] theorem State.modMb_jobs (s : State) (m : Nat) (f : Mailbox → Mailbox) : (s.modMb m f).jobs = s.jobs := rfl
@[simp] theorem State.modMb_cp (s : State) (m : Nat) (f : Mailbox → Mailbox) : (s.modMb m f).cp = s.cp := rfl
@[simp] theorem State.modMb_ent (s : State) (m : Nat) (f : Mailbox → Mailbox) : (s.modMb m f).ent = s.ent := rfl
@[simp] theorem State.modMb_links (s : State) (m : Nat) (f : Mailbox → Mailbox) : (s.modMb m f).links = s.links := rfl
@[simp] theorem State.modMb_linkSys (s : State) (m : Nat) (f : Mailbox → Mailbox) : (s.modMb m f).linkSys = s.linkSys := rfl
@[simp] theorem State.modMb_ic (s : State) (m : Nat) (f : Mailbox → Mailbox) : (s.modMb m f).ic = s.ic := rfl
@[simp] theorem State.modMb_macs (s : State) (m : Nat) (f : Mailbox → Mailbox) : (s.modMb m f).macs = s.macs := rfl
@[simp] theorem State.modMb_flash (s : State) (m : Nat) (f : Mailbox → Mailbox) : (s.modMb m f).flash = s.flash := rfl
@[simp] theorem State.modMb_sram (s : State) (m : Nat) (f : Mailbox → Mailbox) : (s.modMb m f).sram = s.sram := rfl
@[simp] theorem State.modMb_err (s : State) (m : Nat) (f : Mailbox → Mailbox) : (s.modMb m f).err = s.err := rfl
@[simp] theorem State.modMb_sec (s : State) (m : Nat) (f : Mailbox → Mailbox) : (s.modMb m f).sec = s.sec := rfl
@[simp] theorem State.modMb_trace (s : State) (m : Nat) (f : Mailbox → Mailbox) : (s.modMb m f).trace = s.trace := rfl
@[simp] theorem State.modMb_whistle (s : State) (m : Nat) (f : Mailbox → Mailbox) : (s.modMb m f).whistle = s.whistle := rfl
@[simp] theorem State.modMb_power (s : State) (m : Nat) (f : Mailbox → Mailbox) : (s.modMb m f).power = s.power := rfl
@[simp] theorem State.modMb_setNow (s : State) (m : Nat) (f : Mailbox → Mailbox) : (s.modMb m f).setNow = s.setNow := rfl
@[simp] theorem State.modMb_stewardQ (s : State) (m : Nat) (f : Mailbox → Mailbox) : (s.modMb m f).stewardQ = s.stewardQ := rfl
@[simp] theorem State.modMb_readData (s : State) (m : Nat) (f : Mailbox → Mailbox) : (s.modMb m f).readData = s.readData := rfl

/-! ## stepFree changes `free` alone -/

@[simp] theorem State.stepFree_beat (s : State) : (s.stepFree).beat = s.beat := rfl
@[simp] theorem State.stepFree_cycle (s : State) : (s.stepFree).cycle = s.cycle := rfl
@[simp] theorem State.stepFree_pending (s : State) : (s.stepFree).pending = s.pending := rfl
@[simp] theorem State.stepFree_runCycles (s : State) : (s.stepFree).runCycles = s.runCycles := rfl
@[simp] theorem State.stepFree_devTally (s : State) : (s.stepFree).devTally = s.devTally := rfl
@[simp] theorem State.stepFree_dcb (s : State) : (s.stepFree).dcb = s.dcb := rfl
@[simp] theorem State.stepFree_dcbRws (s : State) : (s.stepFree).dcbRws = s.dcbRws := rfl
@[simp] theorem State.stepFree_cores (s : State) : (s.stepFree).cores = s.cores := rfl
@[simp] theorem State.stepFree_mem (s : State) : (s.stepFree).mem = s.mem := rfl
@[simp] theorem State.stepFree_badWords (s : State) : (s.stepFree).badWords = s.badWords := rfl
@[simp] theorem State.stepFree_transfers (s : State) : (s.stepFree).transfers = s.transfers := rfl
@[simp] theorem State.stepFree_nodes (s : State) : (s.stepFree).nodes = s.nodes := rfl
@[simp] theorem State.stepFree_jobs (s : State) : (s.stepFree).jobs = s.jobs := rfl
@[simp] theorem State.stepFree_mbs (s : State) : (s.stepFree).mbs = s.mbs := rfl
@[simp] theorem State.stepFree_cp (s : State) : (s.stepFree).cp = s.cp := rfl
@[simp] theorem State.stepFree_ent (s : State) : (s.stepFree).ent = s.ent := rfl
@[simp] theorem State.stepFree_links (s : State) : (s.stepFree).links = s.links := rfl
@[simp] theorem State.stepFree_linkSys (s : State) : (s.stepFree).linkSys = s.linkSys := rfl
@[simp] theorem State.stepFree_ic (s : State) : (s.stepFree).ic = s.ic := rfl
@[simp] theorem State.stepFree_macs (s : State) : (s.stepFree).macs = s.macs := rfl
@[simp] theorem State.stepFree_flash (s : State) : (s.stepFree).flash = s.flash := rfl
@[simp] theorem State.stepFree_sram (s : State) : (s.stepFree).sram = s.sram := rfl
@[simp] theorem State.stepFree_err (s : State) : (s.stepFree).err = s.err := rfl
@[simp] theorem State.stepFree_sec (s : State) : (s.stepFree).sec = s.sec := rfl
@[simp] theorem State.stepFree_trace (s : State) : (s.stepFree).trace = s.trace := rfl
@[simp] theorem State.stepFree_whistle (s : State) : (s.stepFree).whistle = s.whistle := rfl
@[simp] theorem State.stepFree_power (s : State) : (s.stepFree).power = s.power := rfl
@[simp] theorem State.stepFree_setNow (s : State) : (s.stepFree).setNow = s.setNow := rfl
@[simp] theorem State.stepFree_stewardQ (s : State) : (s.stepFree).stewardQ = s.stewardQ := rfl
@[simp] theorem State.stepFree_readData (s : State) : (s.stepFree).readData = s.readData := rfl

/-! ## addTrace changes `trace` alone -/

@[simp] theorem State.addTrace_beat (s : State) (k : Nat) (r : BitVec 128) : (s.addTrace k r).beat = s.beat := rfl
@[simp] theorem State.addTrace_cycle (s : State) (k : Nat) (r : BitVec 128) : (s.addTrace k r).cycle = s.cycle := rfl
@[simp] theorem State.addTrace_free (s : State) (k : Nat) (r : BitVec 128) : (s.addTrace k r).free = s.free := rfl
@[simp] theorem State.addTrace_pending (s : State) (k : Nat) (r : BitVec 128) : (s.addTrace k r).pending = s.pending := rfl
@[simp] theorem State.addTrace_runCycles (s : State) (k : Nat) (r : BitVec 128) : (s.addTrace k r).runCycles = s.runCycles := rfl
@[simp] theorem State.addTrace_devTally (s : State) (k : Nat) (r : BitVec 128) : (s.addTrace k r).devTally = s.devTally := rfl
@[simp] theorem State.addTrace_dcb (s : State) (k : Nat) (r : BitVec 128) : (s.addTrace k r).dcb = s.dcb := rfl
@[simp] theorem State.addTrace_dcbRws (s : State) (k : Nat) (r : BitVec 128) : (s.addTrace k r).dcbRws = s.dcbRws := rfl
@[simp] theorem State.addTrace_cores (s : State) (k : Nat) (r : BitVec 128) : (s.addTrace k r).cores = s.cores := rfl
@[simp] theorem State.addTrace_mem (s : State) (k : Nat) (r : BitVec 128) : (s.addTrace k r).mem = s.mem := rfl
@[simp] theorem State.addTrace_badWords (s : State) (k : Nat) (r : BitVec 128) : (s.addTrace k r).badWords = s.badWords := rfl
@[simp] theorem State.addTrace_transfers (s : State) (k : Nat) (r : BitVec 128) : (s.addTrace k r).transfers = s.transfers := rfl
@[simp] theorem State.addTrace_nodes (s : State) (k : Nat) (r : BitVec 128) : (s.addTrace k r).nodes = s.nodes := rfl
@[simp] theorem State.addTrace_jobs (s : State) (k : Nat) (r : BitVec 128) : (s.addTrace k r).jobs = s.jobs := rfl
@[simp] theorem State.addTrace_mbs (s : State) (k : Nat) (r : BitVec 128) : (s.addTrace k r).mbs = s.mbs := rfl
@[simp] theorem State.addTrace_cp (s : State) (k : Nat) (r : BitVec 128) : (s.addTrace k r).cp = s.cp := rfl
@[simp] theorem State.addTrace_ent (s : State) (k : Nat) (r : BitVec 128) : (s.addTrace k r).ent = s.ent := rfl
@[simp] theorem State.addTrace_links (s : State) (k : Nat) (r : BitVec 128) : (s.addTrace k r).links = s.links := rfl
@[simp] theorem State.addTrace_linkSys (s : State) (k : Nat) (r : BitVec 128) : (s.addTrace k r).linkSys = s.linkSys := rfl
@[simp] theorem State.addTrace_ic (s : State) (k : Nat) (r : BitVec 128) : (s.addTrace k r).ic = s.ic := rfl
@[simp] theorem State.addTrace_macs (s : State) (k : Nat) (r : BitVec 128) : (s.addTrace k r).macs = s.macs := rfl
@[simp] theorem State.addTrace_flash (s : State) (k : Nat) (r : BitVec 128) : (s.addTrace k r).flash = s.flash := rfl
@[simp] theorem State.addTrace_sram (s : State) (k : Nat) (r : BitVec 128) : (s.addTrace k r).sram = s.sram := rfl
@[simp] theorem State.addTrace_err (s : State) (k : Nat) (r : BitVec 128) : (s.addTrace k r).err = s.err := rfl
@[simp] theorem State.addTrace_sec (s : State) (k : Nat) (r : BitVec 128) : (s.addTrace k r).sec = s.sec := rfl
@[simp] theorem State.addTrace_whistle (s : State) (k : Nat) (r : BitVec 128) : (s.addTrace k r).whistle = s.whistle := rfl
@[simp] theorem State.addTrace_power (s : State) (k : Nat) (r : BitVec 128) : (s.addTrace k r).power = s.power := rfl
@[simp] theorem State.addTrace_setNow (s : State) (k : Nat) (r : BitVec 128) : (s.addTrace k r).setNow = s.setNow := rfl
@[simp] theorem State.addTrace_stewardQ (s : State) (k : Nat) (r : BitVec 128) : (s.addTrace k r).stewardQ = s.stewardQ := rfl
@[simp] theorem State.addTrace_readData (s : State) (k : Nat) (r : BitVec 128) : (s.addTrace k r).readData = s.readData := rfl

/-! ## setErrUnit changes `err` alone -/

@[simp] theorem State.setErrUnit_beat (s : State) (u : Nat) (x : ErrUnit) : (s.setErrUnit u x).beat = s.beat := rfl
@[simp] theorem State.setErrUnit_cycle (s : State) (u : Nat) (x : ErrUnit) : (s.setErrUnit u x).cycle = s.cycle := rfl
@[simp] theorem State.setErrUnit_free (s : State) (u : Nat) (x : ErrUnit) : (s.setErrUnit u x).free = s.free := rfl
@[simp] theorem State.setErrUnit_pending (s : State) (u : Nat) (x : ErrUnit) : (s.setErrUnit u x).pending = s.pending := rfl
@[simp] theorem State.setErrUnit_runCycles (s : State) (u : Nat) (x : ErrUnit) : (s.setErrUnit u x).runCycles = s.runCycles := rfl
@[simp] theorem State.setErrUnit_devTally (s : State) (u : Nat) (x : ErrUnit) : (s.setErrUnit u x).devTally = s.devTally := rfl
@[simp] theorem State.setErrUnit_dcb (s : State) (u : Nat) (x : ErrUnit) : (s.setErrUnit u x).dcb = s.dcb := rfl
@[simp] theorem State.setErrUnit_dcbRws (s : State) (u : Nat) (x : ErrUnit) : (s.setErrUnit u x).dcbRws = s.dcbRws := rfl
@[simp] theorem State.setErrUnit_cores (s : State) (u : Nat) (x : ErrUnit) : (s.setErrUnit u x).cores = s.cores := rfl
@[simp] theorem State.setErrUnit_mem (s : State) (u : Nat) (x : ErrUnit) : (s.setErrUnit u x).mem = s.mem := rfl
@[simp] theorem State.setErrUnit_badWords (s : State) (u : Nat) (x : ErrUnit) : (s.setErrUnit u x).badWords = s.badWords := rfl
@[simp] theorem State.setErrUnit_transfers (s : State) (u : Nat) (x : ErrUnit) : (s.setErrUnit u x).transfers = s.transfers := rfl
@[simp] theorem State.setErrUnit_nodes (s : State) (u : Nat) (x : ErrUnit) : (s.setErrUnit u x).nodes = s.nodes := rfl
@[simp] theorem State.setErrUnit_jobs (s : State) (u : Nat) (x : ErrUnit) : (s.setErrUnit u x).jobs = s.jobs := rfl
@[simp] theorem State.setErrUnit_mbs (s : State) (u : Nat) (x : ErrUnit) : (s.setErrUnit u x).mbs = s.mbs := rfl
@[simp] theorem State.setErrUnit_cp (s : State) (u : Nat) (x : ErrUnit) : (s.setErrUnit u x).cp = s.cp := rfl
@[simp] theorem State.setErrUnit_ent (s : State) (u : Nat) (x : ErrUnit) : (s.setErrUnit u x).ent = s.ent := rfl
@[simp] theorem State.setErrUnit_links (s : State) (u : Nat) (x : ErrUnit) : (s.setErrUnit u x).links = s.links := rfl
@[simp] theorem State.setErrUnit_linkSys (s : State) (u : Nat) (x : ErrUnit) : (s.setErrUnit u x).linkSys = s.linkSys := rfl
@[simp] theorem State.setErrUnit_ic (s : State) (u : Nat) (x : ErrUnit) : (s.setErrUnit u x).ic = s.ic := rfl
@[simp] theorem State.setErrUnit_macs (s : State) (u : Nat) (x : ErrUnit) : (s.setErrUnit u x).macs = s.macs := rfl
@[simp] theorem State.setErrUnit_flash (s : State) (u : Nat) (x : ErrUnit) : (s.setErrUnit u x).flash = s.flash := rfl
@[simp] theorem State.setErrUnit_sram (s : State) (u : Nat) (x : ErrUnit) : (s.setErrUnit u x).sram = s.sram := rfl
@[simp] theorem State.setErrUnit_sec (s : State) (u : Nat) (x : ErrUnit) : (s.setErrUnit u x).sec = s.sec := rfl
@[simp] theorem State.setErrUnit_trace (s : State) (u : Nat) (x : ErrUnit) : (s.setErrUnit u x).trace = s.trace := rfl
@[simp] theorem State.setErrUnit_whistle (s : State) (u : Nat) (x : ErrUnit) : (s.setErrUnit u x).whistle = s.whistle := rfl
@[simp] theorem State.setErrUnit_power (s : State) (u : Nat) (x : ErrUnit) : (s.setErrUnit u x).power = s.power := rfl
@[simp] theorem State.setErrUnit_setNow (s : State) (u : Nat) (x : ErrUnit) : (s.setErrUnit u x).setNow = s.setNow := rfl
@[simp] theorem State.setErrUnit_stewardQ (s : State) (u : Nat) (x : ErrUnit) : (s.setErrUnit u x).stewardQ = s.stewardQ := rfl
@[simp] theorem State.setErrUnit_readData (s : State) (u : Nat) (x : ErrUnit) : (s.setErrUnit u x).readData = s.readData := rfl

/-! ## dieEvent changes `ic` alone -/

@[simp] theorem State.dieEvent_beat (s : State) (n : Nat) : (s.dieEvent n).beat = s.beat := rfl
@[simp] theorem State.dieEvent_cycle (s : State) (n : Nat) : (s.dieEvent n).cycle = s.cycle := rfl
@[simp] theorem State.dieEvent_free (s : State) (n : Nat) : (s.dieEvent n).free = s.free := rfl
@[simp] theorem State.dieEvent_pending (s : State) (n : Nat) : (s.dieEvent n).pending = s.pending := rfl
@[simp] theorem State.dieEvent_runCycles (s : State) (n : Nat) : (s.dieEvent n).runCycles = s.runCycles := rfl
@[simp] theorem State.dieEvent_devTally (s : State) (n : Nat) : (s.dieEvent n).devTally = s.devTally := rfl
@[simp] theorem State.dieEvent_dcb (s : State) (n : Nat) : (s.dieEvent n).dcb = s.dcb := rfl
@[simp] theorem State.dieEvent_dcbRws (s : State) (n : Nat) : (s.dieEvent n).dcbRws = s.dcbRws := rfl
@[simp] theorem State.dieEvent_cores (s : State) (n : Nat) : (s.dieEvent n).cores = s.cores := rfl
@[simp] theorem State.dieEvent_mem (s : State) (n : Nat) : (s.dieEvent n).mem = s.mem := rfl
@[simp] theorem State.dieEvent_badWords (s : State) (n : Nat) : (s.dieEvent n).badWords = s.badWords := rfl
@[simp] theorem State.dieEvent_transfers (s : State) (n : Nat) : (s.dieEvent n).transfers = s.transfers := rfl
@[simp] theorem State.dieEvent_nodes (s : State) (n : Nat) : (s.dieEvent n).nodes = s.nodes := rfl
@[simp] theorem State.dieEvent_jobs (s : State) (n : Nat) : (s.dieEvent n).jobs = s.jobs := rfl
@[simp] theorem State.dieEvent_mbs (s : State) (n : Nat) : (s.dieEvent n).mbs = s.mbs := rfl
@[simp] theorem State.dieEvent_cp (s : State) (n : Nat) : (s.dieEvent n).cp = s.cp := rfl
@[simp] theorem State.dieEvent_ent (s : State) (n : Nat) : (s.dieEvent n).ent = s.ent := rfl
@[simp] theorem State.dieEvent_links (s : State) (n : Nat) : (s.dieEvent n).links = s.links := rfl
@[simp] theorem State.dieEvent_linkSys (s : State) (n : Nat) : (s.dieEvent n).linkSys = s.linkSys := rfl
@[simp] theorem State.dieEvent_macs (s : State) (n : Nat) : (s.dieEvent n).macs = s.macs := rfl
@[simp] theorem State.dieEvent_flash (s : State) (n : Nat) : (s.dieEvent n).flash = s.flash := rfl
@[simp] theorem State.dieEvent_sram (s : State) (n : Nat) : (s.dieEvent n).sram = s.sram := rfl
@[simp] theorem State.dieEvent_err (s : State) (n : Nat) : (s.dieEvent n).err = s.err := rfl
@[simp] theorem State.dieEvent_sec (s : State) (n : Nat) : (s.dieEvent n).sec = s.sec := rfl
@[simp] theorem State.dieEvent_trace (s : State) (n : Nat) : (s.dieEvent n).trace = s.trace := rfl
@[simp] theorem State.dieEvent_whistle (s : State) (n : Nat) : (s.dieEvent n).whistle = s.whistle := rfl
@[simp] theorem State.dieEvent_power (s : State) (n : Nat) : (s.dieEvent n).power = s.power := rfl
@[simp] theorem State.dieEvent_setNow (s : State) (n : Nat) : (s.dieEvent n).setNow = s.setNow := rfl
@[simp] theorem State.dieEvent_stewardQ (s : State) (n : Nat) : (s.dieEvent n).stewardQ = s.stewardQ := rfl
@[simp] theorem State.dieEvent_readData (s : State) (n : Nat) : (s.dieEvent n).readData = s.readData := rfl

/-! ## setIcSrc changes `ic` alone -/

@[simp] theorem State.setIcSrc_beat (s : State) (n : Nat) (x : IcSource) : (s.setIcSrc n x).beat = s.beat := rfl
@[simp] theorem State.setIcSrc_cycle (s : State) (n : Nat) (x : IcSource) : (s.setIcSrc n x).cycle = s.cycle := rfl
@[simp] theorem State.setIcSrc_free (s : State) (n : Nat) (x : IcSource) : (s.setIcSrc n x).free = s.free := rfl
@[simp] theorem State.setIcSrc_pending (s : State) (n : Nat) (x : IcSource) : (s.setIcSrc n x).pending = s.pending := rfl
@[simp] theorem State.setIcSrc_runCycles (s : State) (n : Nat) (x : IcSource) : (s.setIcSrc n x).runCycles = s.runCycles := rfl
@[simp] theorem State.setIcSrc_devTally (s : State) (n : Nat) (x : IcSource) : (s.setIcSrc n x).devTally = s.devTally := rfl
@[simp] theorem State.setIcSrc_dcb (s : State) (n : Nat) (x : IcSource) : (s.setIcSrc n x).dcb = s.dcb := rfl
@[simp] theorem State.setIcSrc_dcbRws (s : State) (n : Nat) (x : IcSource) : (s.setIcSrc n x).dcbRws = s.dcbRws := rfl
@[simp] theorem State.setIcSrc_cores (s : State) (n : Nat) (x : IcSource) : (s.setIcSrc n x).cores = s.cores := rfl
@[simp] theorem State.setIcSrc_mem (s : State) (n : Nat) (x : IcSource) : (s.setIcSrc n x).mem = s.mem := rfl
@[simp] theorem State.setIcSrc_badWords (s : State) (n : Nat) (x : IcSource) : (s.setIcSrc n x).badWords = s.badWords := rfl
@[simp] theorem State.setIcSrc_transfers (s : State) (n : Nat) (x : IcSource) : (s.setIcSrc n x).transfers = s.transfers := rfl
@[simp] theorem State.setIcSrc_nodes (s : State) (n : Nat) (x : IcSource) : (s.setIcSrc n x).nodes = s.nodes := rfl
@[simp] theorem State.setIcSrc_jobs (s : State) (n : Nat) (x : IcSource) : (s.setIcSrc n x).jobs = s.jobs := rfl
@[simp] theorem State.setIcSrc_mbs (s : State) (n : Nat) (x : IcSource) : (s.setIcSrc n x).mbs = s.mbs := rfl
@[simp] theorem State.setIcSrc_cp (s : State) (n : Nat) (x : IcSource) : (s.setIcSrc n x).cp = s.cp := rfl
@[simp] theorem State.setIcSrc_ent (s : State) (n : Nat) (x : IcSource) : (s.setIcSrc n x).ent = s.ent := rfl
@[simp] theorem State.setIcSrc_links (s : State) (n : Nat) (x : IcSource) : (s.setIcSrc n x).links = s.links := rfl
@[simp] theorem State.setIcSrc_linkSys (s : State) (n : Nat) (x : IcSource) : (s.setIcSrc n x).linkSys = s.linkSys := rfl
@[simp] theorem State.setIcSrc_macs (s : State) (n : Nat) (x : IcSource) : (s.setIcSrc n x).macs = s.macs := rfl
@[simp] theorem State.setIcSrc_flash (s : State) (n : Nat) (x : IcSource) : (s.setIcSrc n x).flash = s.flash := rfl
@[simp] theorem State.setIcSrc_sram (s : State) (n : Nat) (x : IcSource) : (s.setIcSrc n x).sram = s.sram := rfl
@[simp] theorem State.setIcSrc_err (s : State) (n : Nat) (x : IcSource) : (s.setIcSrc n x).err = s.err := rfl
@[simp] theorem State.setIcSrc_sec (s : State) (n : Nat) (x : IcSource) : (s.setIcSrc n x).sec = s.sec := rfl
@[simp] theorem State.setIcSrc_trace (s : State) (n : Nat) (x : IcSource) : (s.setIcSrc n x).trace = s.trace := rfl
@[simp] theorem State.setIcSrc_whistle (s : State) (n : Nat) (x : IcSource) : (s.setIcSrc n x).whistle = s.whistle := rfl
@[simp] theorem State.setIcSrc_power (s : State) (n : Nat) (x : IcSource) : (s.setIcSrc n x).power = s.power := rfl
@[simp] theorem State.setIcSrc_setNow (s : State) (n : Nat) (x : IcSource) : (s.setIcSrc n x).setNow = s.setNow := rfl
@[simp] theorem State.setIcSrc_stewardQ (s : State) (n : Nat) (x : IcSource) : (s.setIcSrc n x).stewardQ = s.stewardQ := rfl
@[simp] theorem State.setIcSrc_readData (s : State) (n : Nat) (x : IcSource) : (s.setIcSrc n x).readData = s.readData := rfl

/-! ## setIcCtx changes `ic` alone -/

@[simp] theorem State.setIcCtx_beat (s : State) (n : Nat) (x : IcContext) : (s.setIcCtx n x).beat = s.beat := rfl
@[simp] theorem State.setIcCtx_cycle (s : State) (n : Nat) (x : IcContext) : (s.setIcCtx n x).cycle = s.cycle := rfl
@[simp] theorem State.setIcCtx_free (s : State) (n : Nat) (x : IcContext) : (s.setIcCtx n x).free = s.free := rfl
@[simp] theorem State.setIcCtx_pending (s : State) (n : Nat) (x : IcContext) : (s.setIcCtx n x).pending = s.pending := rfl
@[simp] theorem State.setIcCtx_runCycles (s : State) (n : Nat) (x : IcContext) : (s.setIcCtx n x).runCycles = s.runCycles := rfl
@[simp] theorem State.setIcCtx_devTally (s : State) (n : Nat) (x : IcContext) : (s.setIcCtx n x).devTally = s.devTally := rfl
@[simp] theorem State.setIcCtx_dcb (s : State) (n : Nat) (x : IcContext) : (s.setIcCtx n x).dcb = s.dcb := rfl
@[simp] theorem State.setIcCtx_dcbRws (s : State) (n : Nat) (x : IcContext) : (s.setIcCtx n x).dcbRws = s.dcbRws := rfl
@[simp] theorem State.setIcCtx_cores (s : State) (n : Nat) (x : IcContext) : (s.setIcCtx n x).cores = s.cores := rfl
@[simp] theorem State.setIcCtx_mem (s : State) (n : Nat) (x : IcContext) : (s.setIcCtx n x).mem = s.mem := rfl
@[simp] theorem State.setIcCtx_badWords (s : State) (n : Nat) (x : IcContext) : (s.setIcCtx n x).badWords = s.badWords := rfl
@[simp] theorem State.setIcCtx_transfers (s : State) (n : Nat) (x : IcContext) : (s.setIcCtx n x).transfers = s.transfers := rfl
@[simp] theorem State.setIcCtx_nodes (s : State) (n : Nat) (x : IcContext) : (s.setIcCtx n x).nodes = s.nodes := rfl
@[simp] theorem State.setIcCtx_jobs (s : State) (n : Nat) (x : IcContext) : (s.setIcCtx n x).jobs = s.jobs := rfl
@[simp] theorem State.setIcCtx_mbs (s : State) (n : Nat) (x : IcContext) : (s.setIcCtx n x).mbs = s.mbs := rfl
@[simp] theorem State.setIcCtx_cp (s : State) (n : Nat) (x : IcContext) : (s.setIcCtx n x).cp = s.cp := rfl
@[simp] theorem State.setIcCtx_ent (s : State) (n : Nat) (x : IcContext) : (s.setIcCtx n x).ent = s.ent := rfl
@[simp] theorem State.setIcCtx_links (s : State) (n : Nat) (x : IcContext) : (s.setIcCtx n x).links = s.links := rfl
@[simp] theorem State.setIcCtx_linkSys (s : State) (n : Nat) (x : IcContext) : (s.setIcCtx n x).linkSys = s.linkSys := rfl
@[simp] theorem State.setIcCtx_macs (s : State) (n : Nat) (x : IcContext) : (s.setIcCtx n x).macs = s.macs := rfl
@[simp] theorem State.setIcCtx_flash (s : State) (n : Nat) (x : IcContext) : (s.setIcCtx n x).flash = s.flash := rfl
@[simp] theorem State.setIcCtx_sram (s : State) (n : Nat) (x : IcContext) : (s.setIcCtx n x).sram = s.sram := rfl
@[simp] theorem State.setIcCtx_err (s : State) (n : Nat) (x : IcContext) : (s.setIcCtx n x).err = s.err := rfl
@[simp] theorem State.setIcCtx_sec (s : State) (n : Nat) (x : IcContext) : (s.setIcCtx n x).sec = s.sec := rfl
@[simp] theorem State.setIcCtx_trace (s : State) (n : Nat) (x : IcContext) : (s.setIcCtx n x).trace = s.trace := rfl
@[simp] theorem State.setIcCtx_whistle (s : State) (n : Nat) (x : IcContext) : (s.setIcCtx n x).whistle = s.whistle := rfl
@[simp] theorem State.setIcCtx_power (s : State) (n : Nat) (x : IcContext) : (s.setIcCtx n x).power = s.power := rfl
@[simp] theorem State.setIcCtx_setNow (s : State) (n : Nat) (x : IcContext) : (s.setIcCtx n x).setNow = s.setNow := rfl
@[simp] theorem State.setIcCtx_stewardQ (s : State) (n : Nat) (x : IcContext) : (s.setIcCtx n x).stewardQ = s.stewardQ := rfl
@[simp] theorem State.setIcCtx_readData (s : State) (n : Nat) (x : IcContext) : (s.setIcCtx n x).readData = s.readData := rfl

/-! ## setMac changes `macs` alone -/

@[simp] theorem State.setMac_beat (s : State) (p : Nat) (x : Mac) : (s.setMac p x).beat = s.beat := rfl
@[simp] theorem State.setMac_cycle (s : State) (p : Nat) (x : Mac) : (s.setMac p x).cycle = s.cycle := rfl
@[simp] theorem State.setMac_free (s : State) (p : Nat) (x : Mac) : (s.setMac p x).free = s.free := rfl
@[simp] theorem State.setMac_pending (s : State) (p : Nat) (x : Mac) : (s.setMac p x).pending = s.pending := rfl
@[simp] theorem State.setMac_runCycles (s : State) (p : Nat) (x : Mac) : (s.setMac p x).runCycles = s.runCycles := rfl
@[simp] theorem State.setMac_devTally (s : State) (p : Nat) (x : Mac) : (s.setMac p x).devTally = s.devTally := rfl
@[simp] theorem State.setMac_dcb (s : State) (p : Nat) (x : Mac) : (s.setMac p x).dcb = s.dcb := rfl
@[simp] theorem State.setMac_dcbRws (s : State) (p : Nat) (x : Mac) : (s.setMac p x).dcbRws = s.dcbRws := rfl
@[simp] theorem State.setMac_cores (s : State) (p : Nat) (x : Mac) : (s.setMac p x).cores = s.cores := rfl
@[simp] theorem State.setMac_mem (s : State) (p : Nat) (x : Mac) : (s.setMac p x).mem = s.mem := rfl
@[simp] theorem State.setMac_badWords (s : State) (p : Nat) (x : Mac) : (s.setMac p x).badWords = s.badWords := rfl
@[simp] theorem State.setMac_transfers (s : State) (p : Nat) (x : Mac) : (s.setMac p x).transfers = s.transfers := rfl
@[simp] theorem State.setMac_nodes (s : State) (p : Nat) (x : Mac) : (s.setMac p x).nodes = s.nodes := rfl
@[simp] theorem State.setMac_jobs (s : State) (p : Nat) (x : Mac) : (s.setMac p x).jobs = s.jobs := rfl
@[simp] theorem State.setMac_mbs (s : State) (p : Nat) (x : Mac) : (s.setMac p x).mbs = s.mbs := rfl
@[simp] theorem State.setMac_cp (s : State) (p : Nat) (x : Mac) : (s.setMac p x).cp = s.cp := rfl
@[simp] theorem State.setMac_ent (s : State) (p : Nat) (x : Mac) : (s.setMac p x).ent = s.ent := rfl
@[simp] theorem State.setMac_links (s : State) (p : Nat) (x : Mac) : (s.setMac p x).links = s.links := rfl
@[simp] theorem State.setMac_linkSys (s : State) (p : Nat) (x : Mac) : (s.setMac p x).linkSys = s.linkSys := rfl
@[simp] theorem State.setMac_ic (s : State) (p : Nat) (x : Mac) : (s.setMac p x).ic = s.ic := rfl
@[simp] theorem State.setMac_flash (s : State) (p : Nat) (x : Mac) : (s.setMac p x).flash = s.flash := rfl
@[simp] theorem State.setMac_sram (s : State) (p : Nat) (x : Mac) : (s.setMac p x).sram = s.sram := rfl
@[simp] theorem State.setMac_err (s : State) (p : Nat) (x : Mac) : (s.setMac p x).err = s.err := rfl
@[simp] theorem State.setMac_sec (s : State) (p : Nat) (x : Mac) : (s.setMac p x).sec = s.sec := rfl
@[simp] theorem State.setMac_trace (s : State) (p : Nat) (x : Mac) : (s.setMac p x).trace = s.trace := rfl
@[simp] theorem State.setMac_whistle (s : State) (p : Nat) (x : Mac) : (s.setMac p x).whistle = s.whistle := rfl
@[simp] theorem State.setMac_power (s : State) (p : Nat) (x : Mac) : (s.setMac p x).power = s.power := rfl
@[simp] theorem State.setMac_setNow (s : State) (p : Nat) (x : Mac) : (s.setMac p x).setNow = s.setNow := rfl
@[simp] theorem State.setMac_stewardQ (s : State) (p : Nat) (x : Mac) : (s.setMac p x).stewardQ = s.stewardQ := rfl
@[simp] theorem State.setMac_readData (s : State) (p : Nat) (x : Mac) : (s.setMac p x).readData = s.readData := rfl

/-! ## setLink changes `links` alone -/

@[simp] theorem State.setLink_beat (s : State) (l : Nat) (p : LinkPort) : (s.setLink l p).beat = s.beat := rfl
@[simp] theorem State.setLink_cycle (s : State) (l : Nat) (p : LinkPort) : (s.setLink l p).cycle = s.cycle := rfl
@[simp] theorem State.setLink_free (s : State) (l : Nat) (p : LinkPort) : (s.setLink l p).free = s.free := rfl
@[simp] theorem State.setLink_pending (s : State) (l : Nat) (p : LinkPort) : (s.setLink l p).pending = s.pending := rfl
@[simp] theorem State.setLink_runCycles (s : State) (l : Nat) (p : LinkPort) : (s.setLink l p).runCycles = s.runCycles := rfl
@[simp] theorem State.setLink_devTally (s : State) (l : Nat) (p : LinkPort) : (s.setLink l p).devTally = s.devTally := rfl
@[simp] theorem State.setLink_dcb (s : State) (l : Nat) (p : LinkPort) : (s.setLink l p).dcb = s.dcb := rfl
@[simp] theorem State.setLink_dcbRws (s : State) (l : Nat) (p : LinkPort) : (s.setLink l p).dcbRws = s.dcbRws := rfl
@[simp] theorem State.setLink_cores (s : State) (l : Nat) (p : LinkPort) : (s.setLink l p).cores = s.cores := rfl
@[simp] theorem State.setLink_mem (s : State) (l : Nat) (p : LinkPort) : (s.setLink l p).mem = s.mem := rfl
@[simp] theorem State.setLink_badWords (s : State) (l : Nat) (p : LinkPort) : (s.setLink l p).badWords = s.badWords := rfl
@[simp] theorem State.setLink_transfers (s : State) (l : Nat) (p : LinkPort) : (s.setLink l p).transfers = s.transfers := rfl
@[simp] theorem State.setLink_nodes (s : State) (l : Nat) (p : LinkPort) : (s.setLink l p).nodes = s.nodes := rfl
@[simp] theorem State.setLink_jobs (s : State) (l : Nat) (p : LinkPort) : (s.setLink l p).jobs = s.jobs := rfl
@[simp] theorem State.setLink_mbs (s : State) (l : Nat) (p : LinkPort) : (s.setLink l p).mbs = s.mbs := rfl
@[simp] theorem State.setLink_cp (s : State) (l : Nat) (p : LinkPort) : (s.setLink l p).cp = s.cp := rfl
@[simp] theorem State.setLink_ent (s : State) (l : Nat) (p : LinkPort) : (s.setLink l p).ent = s.ent := rfl
@[simp] theorem State.setLink_linkSys (s : State) (l : Nat) (p : LinkPort) : (s.setLink l p).linkSys = s.linkSys := rfl
@[simp] theorem State.setLink_ic (s : State) (l : Nat) (p : LinkPort) : (s.setLink l p).ic = s.ic := rfl
@[simp] theorem State.setLink_macs (s : State) (l : Nat) (p : LinkPort) : (s.setLink l p).macs = s.macs := rfl
@[simp] theorem State.setLink_flash (s : State) (l : Nat) (p : LinkPort) : (s.setLink l p).flash = s.flash := rfl
@[simp] theorem State.setLink_sram (s : State) (l : Nat) (p : LinkPort) : (s.setLink l p).sram = s.sram := rfl
@[simp] theorem State.setLink_err (s : State) (l : Nat) (p : LinkPort) : (s.setLink l p).err = s.err := rfl
@[simp] theorem State.setLink_sec (s : State) (l : Nat) (p : LinkPort) : (s.setLink l p).sec = s.sec := rfl
@[simp] theorem State.setLink_trace (s : State) (l : Nat) (p : LinkPort) : (s.setLink l p).trace = s.trace := rfl
@[simp] theorem State.setLink_whistle (s : State) (l : Nat) (p : LinkPort) : (s.setLink l p).whistle = s.whistle := rfl
@[simp] theorem State.setLink_power (s : State) (l : Nat) (p : LinkPort) : (s.setLink l p).power = s.power := rfl
@[simp] theorem State.setLink_setNow (s : State) (l : Nat) (p : LinkPort) : (s.setLink l p).setNow = s.setNow := rfl
@[simp] theorem State.setLink_stewardQ (s : State) (l : Nat) (p : LinkPort) : (s.setLink l p).stewardQ = s.stewardQ := rfl
@[simp] theorem State.setLink_readData (s : State) (l : Nat) (p : LinkPort) : (s.setLink l p).readData = s.readData := rfl

/-! ## setPower changes `power` alone -/

@[simp] theorem State.setPower_beat (s : State) (f : Power → Power) : (s.setPower f).beat = s.beat := rfl
@[simp] theorem State.setPower_cycle (s : State) (f : Power → Power) : (s.setPower f).cycle = s.cycle := rfl
@[simp] theorem State.setPower_free (s : State) (f : Power → Power) : (s.setPower f).free = s.free := rfl
@[simp] theorem State.setPower_pending (s : State) (f : Power → Power) : (s.setPower f).pending = s.pending := rfl
@[simp] theorem State.setPower_runCycles (s : State) (f : Power → Power) : (s.setPower f).runCycles = s.runCycles := rfl
@[simp] theorem State.setPower_devTally (s : State) (f : Power → Power) : (s.setPower f).devTally = s.devTally := rfl
@[simp] theorem State.setPower_dcb (s : State) (f : Power → Power) : (s.setPower f).dcb = s.dcb := rfl
@[simp] theorem State.setPower_dcbRws (s : State) (f : Power → Power) : (s.setPower f).dcbRws = s.dcbRws := rfl
@[simp] theorem State.setPower_cores (s : State) (f : Power → Power) : (s.setPower f).cores = s.cores := rfl
@[simp] theorem State.setPower_mem (s : State) (f : Power → Power) : (s.setPower f).mem = s.mem := rfl
@[simp] theorem State.setPower_badWords (s : State) (f : Power → Power) : (s.setPower f).badWords = s.badWords := rfl
@[simp] theorem State.setPower_transfers (s : State) (f : Power → Power) : (s.setPower f).transfers = s.transfers := rfl
@[simp] theorem State.setPower_nodes (s : State) (f : Power → Power) : (s.setPower f).nodes = s.nodes := rfl
@[simp] theorem State.setPower_jobs (s : State) (f : Power → Power) : (s.setPower f).jobs = s.jobs := rfl
@[simp] theorem State.setPower_mbs (s : State) (f : Power → Power) : (s.setPower f).mbs = s.mbs := rfl
@[simp] theorem State.setPower_cp (s : State) (f : Power → Power) : (s.setPower f).cp = s.cp := rfl
@[simp] theorem State.setPower_ent (s : State) (f : Power → Power) : (s.setPower f).ent = s.ent := rfl
@[simp] theorem State.setPower_links (s : State) (f : Power → Power) : (s.setPower f).links = s.links := rfl
@[simp] theorem State.setPower_linkSys (s : State) (f : Power → Power) : (s.setPower f).linkSys = s.linkSys := rfl
@[simp] theorem State.setPower_ic (s : State) (f : Power → Power) : (s.setPower f).ic = s.ic := rfl
@[simp] theorem State.setPower_macs (s : State) (f : Power → Power) : (s.setPower f).macs = s.macs := rfl
@[simp] theorem State.setPower_flash (s : State) (f : Power → Power) : (s.setPower f).flash = s.flash := rfl
@[simp] theorem State.setPower_sram (s : State) (f : Power → Power) : (s.setPower f).sram = s.sram := rfl
@[simp] theorem State.setPower_err (s : State) (f : Power → Power) : (s.setPower f).err = s.err := rfl
@[simp] theorem State.setPower_sec (s : State) (f : Power → Power) : (s.setPower f).sec = s.sec := rfl
@[simp] theorem State.setPower_trace (s : State) (f : Power → Power) : (s.setPower f).trace = s.trace := rfl
@[simp] theorem State.setPower_whistle (s : State) (f : Power → Power) : (s.setPower f).whistle = s.whistle := rfl
@[simp] theorem State.setPower_setNow (s : State) (f : Power → Power) : (s.setPower f).setNow = s.setNow := rfl
@[simp] theorem State.setPower_stewardQ (s : State) (f : Power → Power) : (s.setPower f).stewardQ = s.stewardQ := rfl
@[simp] theorem State.setPower_readData (s : State) (f : Power → Power) : (s.setPower f).readData = s.readData := rfl

/-! ## setXfer changes `sec` alone -/

@[simp] theorem State.setXfer_beat (s : State) (m : Nat) (x : Option CryptXfer) : (s.setXfer m x).beat = s.beat := rfl
@[simp] theorem State.setXfer_cycle (s : State) (m : Nat) (x : Option CryptXfer) : (s.setXfer m x).cycle = s.cycle := rfl
@[simp] theorem State.setXfer_free (s : State) (m : Nat) (x : Option CryptXfer) : (s.setXfer m x).free = s.free := rfl
@[simp] theorem State.setXfer_pending (s : State) (m : Nat) (x : Option CryptXfer) : (s.setXfer m x).pending = s.pending := rfl
@[simp] theorem State.setXfer_runCycles (s : State) (m : Nat) (x : Option CryptXfer) : (s.setXfer m x).runCycles = s.runCycles := rfl
@[simp] theorem State.setXfer_devTally (s : State) (m : Nat) (x : Option CryptXfer) : (s.setXfer m x).devTally = s.devTally := rfl
@[simp] theorem State.setXfer_dcb (s : State) (m : Nat) (x : Option CryptXfer) : (s.setXfer m x).dcb = s.dcb := rfl
@[simp] theorem State.setXfer_dcbRws (s : State) (m : Nat) (x : Option CryptXfer) : (s.setXfer m x).dcbRws = s.dcbRws := rfl
@[simp] theorem State.setXfer_cores (s : State) (m : Nat) (x : Option CryptXfer) : (s.setXfer m x).cores = s.cores := rfl
@[simp] theorem State.setXfer_mem (s : State) (m : Nat) (x : Option CryptXfer) : (s.setXfer m x).mem = s.mem := rfl
@[simp] theorem State.setXfer_badWords (s : State) (m : Nat) (x : Option CryptXfer) : (s.setXfer m x).badWords = s.badWords := rfl
@[simp] theorem State.setXfer_transfers (s : State) (m : Nat) (x : Option CryptXfer) : (s.setXfer m x).transfers = s.transfers := rfl
@[simp] theorem State.setXfer_nodes (s : State) (m : Nat) (x : Option CryptXfer) : (s.setXfer m x).nodes = s.nodes := rfl
@[simp] theorem State.setXfer_jobs (s : State) (m : Nat) (x : Option CryptXfer) : (s.setXfer m x).jobs = s.jobs := rfl
@[simp] theorem State.setXfer_mbs (s : State) (m : Nat) (x : Option CryptXfer) : (s.setXfer m x).mbs = s.mbs := rfl
@[simp] theorem State.setXfer_cp (s : State) (m : Nat) (x : Option CryptXfer) : (s.setXfer m x).cp = s.cp := rfl
@[simp] theorem State.setXfer_ent (s : State) (m : Nat) (x : Option CryptXfer) : (s.setXfer m x).ent = s.ent := rfl
@[simp] theorem State.setXfer_links (s : State) (m : Nat) (x : Option CryptXfer) : (s.setXfer m x).links = s.links := rfl
@[simp] theorem State.setXfer_linkSys (s : State) (m : Nat) (x : Option CryptXfer) : (s.setXfer m x).linkSys = s.linkSys := rfl
@[simp] theorem State.setXfer_ic (s : State) (m : Nat) (x : Option CryptXfer) : (s.setXfer m x).ic = s.ic := rfl
@[simp] theorem State.setXfer_macs (s : State) (m : Nat) (x : Option CryptXfer) : (s.setXfer m x).macs = s.macs := rfl
@[simp] theorem State.setXfer_flash (s : State) (m : Nat) (x : Option CryptXfer) : (s.setXfer m x).flash = s.flash := rfl
@[simp] theorem State.setXfer_sram (s : State) (m : Nat) (x : Option CryptXfer) : (s.setXfer m x).sram = s.sram := rfl
@[simp] theorem State.setXfer_err (s : State) (m : Nat) (x : Option CryptXfer) : (s.setXfer m x).err = s.err := rfl
@[simp] theorem State.setXfer_trace (s : State) (m : Nat) (x : Option CryptXfer) : (s.setXfer m x).trace = s.trace := rfl
@[simp] theorem State.setXfer_whistle (s : State) (m : Nat) (x : Option CryptXfer) : (s.setXfer m x).whistle = s.whistle := rfl
@[simp] theorem State.setXfer_power (s : State) (m : Nat) (x : Option CryptXfer) : (s.setXfer m x).power = s.power := rfl
@[simp] theorem State.setXfer_setNow (s : State) (m : Nat) (x : Option CryptXfer) : (s.setXfer m x).setNow = s.setNow := rfl
@[simp] theorem State.setXfer_stewardQ (s : State) (m : Nat) (x : Option CryptXfer) : (s.setXfer m x).stewardQ = s.stewardQ := rfl
@[simp] theorem State.setXfer_readData (s : State) (m : Nat) (x : Option CryptXfer) : (s.setXfer m x).readData = s.readData := rfl

/-! ## What each update writes -/

theorem State.core_setCore (s : State) (c x : Nat) (k : CoreState) : (s.setCore c k).core x = if x = c then k else s.core x :=
  tabGet_tabSet _ _ _ _ _

@[simp] theorem State.core_setCore_self (s : State) (c : Nat) (k : CoreState) : (s.setCore c k).core c = k := by
  simp [State.core_setCore]

theorem State.core_modCore (s : State) (c x : Nat) (f : CoreState → CoreState) :
    (s.modCore c f).core x = if x = c then f (s.core c) else s.core x := State.core_setCore _ _ _ _

@[simp] theorem State.core_modCore_self (s : State) (c : Nat) (f : CoreState → CoreState) :
    (s.modCore c f).core c = f (s.core c) := by simp [State.core_modCore]

/-- A register of a core after a write: the written one holds the value, the others are unchanged. -/
theorem CoreState.reg_setReg (k : CoreState) (o x : Nat) (v : Dword) :
    (k.setReg o v).reg x = if x = o then v else k.reg x := by
  unfold CoreState.reg CoreState.setReg
  by_cases h : x = o
  · subst h; simp
  · simp only [h, if_false]
    unfold tabGet tabSet
    split
    · rw [tabFind_tabDel]; simp [h]
    · rw [tabFind_tabIns _ _ _ _ (by simp [tabFind_tabDel]), tabFind_tabDel]; simp [h]

@[simp] theorem CoreState.reg_setReg_self (k : CoreState) (o : Nat) (v : Dword) : (k.setReg o v).reg o = v := by
  simp [CoreState.reg_setReg]

/-- A register of the device control block after a write. -/
theorem State.dcbReg_setDcb (s : State) (o x : Nat) (v : Dword) :
    (s.setDcb o v).dcbReg x = if x = o then v else s.dcbReg x := by
  unfold State.dcbReg State.setDcb
  by_cases h : x = o
  · subst h; simp
  · simp only [h, if_false]
    unfold tabGet tabSet
    split
    · rw [tabFind_tabDel]; simp [h]
    · rw [tabFind_tabIns _ _ _ _ (by simp [tabFind_tabDel]), tabFind_tabDel]; simp [h]

@[simp] theorem State.dcbReg_setDcb_self (s : State) (o : Nat) (v : Dword) : (s.setDcb o v).dcbReg o = v := by
  simp [State.dcbReg_setDcb]

theorem State.dcbReg_setDcbF (s : State) (o x lo n v : Nat) :
    (s.setDcbF o lo n v).dcbReg x = if x = o then putF (s.dcbReg o) lo n v else s.dcbReg x := State.dcbReg_setDcb _ _ _ _

theorem State.job_setJob (s : State) (h x : Handle) (j : Job) : (s.setJob h j).job x = if x = h then some j else s.job x := by
  unfold State.job State.setJob
  simp only [tabFind_tabPut]
  by_cases e : x = h
  · simp [e]
  · simp [e, BitVec.toNat_inj]

@[simp] theorem State.job_setJob_self (s : State) (h : Handle) (j : Job) : (s.setJob h j).job h = some j := by
  simp [State.job_setJob]

theorem State.mb_setMb (s : State) (m n : Nat) (x : Mailbox) : (s.setMb m x).mb n = if n = m then x else s.mb n :=
  tabGet_tabSet _ _ _ _ _

@[simp] theorem State.mb_modMb_self (s : State) (m : Nat) (f : Mailbox → Mailbox) : (s.modMb m f).mb m = f (s.mb m) := by
  simp [State.modMb, State.mb_setMb]

theorem State.mb_modMb_ne (s : State) {m n : Nat} (f : Mailbox → Mailbox) (h : n ≠ m) : (s.modMb m f).mb n = s.mb n := by
  simp [State.modMb, State.mb_setMb, h]

@[simp] theorem State.setPower_power (s : State) (f : Power → Power) : (s.setPower f).power = f s.power := rfl

@[simp] theorem State.stepFree_free (s : State) : s.stepFree.free = s.free + 1 := rfl

end Sys2Proof.Machine
end

