-- ==== Sys2Proof/Laws/Frame.lean ====
section
/-! SUPPORT. What no shared operation touches: the queue of waiting commands and the clock (the beat counter and the cycle).
The operations that move the clock (the tick, the boundary, the loading of the beat counter, cold reset) are the only
ones without a lemma here. -/

namespace Sys2Proof.Machine

/-- The queue and the clock. -/
def State.queueClock (s : State) : List Instr × Nat × Nat := (s.pending, s.beat, s.cycle)

@[simp] theorem State.queueClock_fold (s : State) : (s.pending, s.beat, s.cycle) = s.queueClock := rfl

@[simp] theorem State.queueClock_mk x0 x1 x2 x3 x4 x5 x6 x7 x8 x9 x10 x11 x12 x13 x14 x15 x16 x17 x18 x19 x20 x21 x22 x23 x24 x25 x26 x27 x28 x29 x30 :
    (State.mk x0 x1 x2 x3 x4 x5 x6 x7 x8 x9 x10 x11 x12 x13 x14 x15 x16 x17 x18 x19 x20 x21 x22 x23 x24 x25 x26 x27 x28 x29 x30).queueClock =
      (x3, x0, x1) := rfl

theorem State.pending_of_queueClock {s t : State} (h : t.queueClock = s.queueClock) : t.pending = s.pending :=
  congrArg Prod.fst h

theorem State.beat_of_queueClock {s t : State} (h : t.queueClock = s.queueClock) : t.beat = s.beat :=
  congrArg (fun x => x.2.1) h

theorem State.cycle_of_queueClock {s t : State} (h : t.queueClock = s.queueClock) : t.cycle = s.cycle :=
  congrArg (fun x => x.2.2) h

theorem foldl_queueClock {α : Type} (f : State → α → State) (h : ∀ s a, (f s a).queueClock = s.queueClock) (l : List α) (s : State) :
    (l.foldl f s).queueClock = s.queueClock := by
  induction l generalizing s with
  | nil => rfl
  | cons a l ih => rw [List.foldl_cons, ih, h]

theorem foldl_snd_queueClock {α β : Type} (f : β × State → α → β × State) (h : ∀ x a, (f x a).2.queueClock = x.2.queueClock) (l : List α)
    (x : β × State) : (l.foldl f x).2.queueClock = x.2.queueClock := by
  induction l generalizing x with
  | nil => rfl
  | cons a l ih => rw [List.foldl_cons, ih, h]

@[simp] theorem ite_queueClock (p : Prop) [Decidable p] (a b : State) :
    (if p then a else b).queueClock = if p then a.queueClock else b.queueClock := by split <;> rfl

@[simp] theorem ite_snd_queueClock {β : Type} (p : Prop) [Decidable p] (a b : β × State) :
    (if p then a else b).2.queueClock = if p then a.2.queueClock else b.2.queueClock := by split <;> rfl

/-! ## Operations of Machine/Ops.lean -/

@[simp] theorem State.setCore_queueClock (s : State) (c : Nat) (k : CoreState) :
    (s.setCore c k).queueClock = s.queueClock := by
  simp [State.setCore]

@[simp] theorem State.modCore_queueClock (s : State) (c : Nat) (f : CoreState → CoreState) :
    (s.modCore c f).queueClock = s.queueClock := by
  simp [State.modCore]

@[simp] theorem State.setDcb_queueClock (s : State) (o : Nat) (v : Dword) : (s.setDcb o v).queueClock = s.queueClock := by
  simp [State.setDcb]

@[simp] theorem State.setDcbF_queueClock (s : State) (o lo n v : Nat) : (s.setDcbF o lo n v).queueClock = s.queueClock := by
  simp [State.setDcbF]

@[simp] theorem State.countDcb_queueClock (s : State) (o n : Nat) : (s.countDcb o n).queueClock = s.queueClock := by
  simp [State.countDcb]

@[simp] theorem State.countDcb32_queueClock (s : State) (o n : Nat) : (s.countDcb32 o n).queueClock = s.queueClock := by
  simp [State.countDcb32]

@[simp] theorem State.stepFree_queueClock (s : State) : s.stepFree.queueClock = s.queueClock := by
  simp [State.stepFree]

@[simp] theorem State.outOfReset_queueClock (s : State) (f : State → State) (h : ∀ s, (f s).queueClock = s.queueClock) :
    (s.outOfReset f).queueClock = s.queueClock := by
  unfold State.outOfReset
  try dsimp only
  repeat' first
    | (simp; done)
    | refine (foldl_queueClock _ (fun s a => ?_) _ _).trans ?_
    | refine (foldl_snd_queueClock _ (fun x a => ?_) _ _).trans ?_
    | split
    | (simp [h]; done)

@[simp] theorem State.setAnyConf_queueClock (s : State) : s.setAnyConf.queueClock = s.queueClock := by
  simp [State.setAnyConf]

@[simp] theorem State.setPartState_queueClock (s : State) (p v : Nat) : (s.setPartState p v).queueClock = s.queueClock := by
  simp [State.setPartState]

@[simp] theorem State.dieEvent_queueClock (s : State) (src : Nat) : (s.dieEvent src).queueClock = s.queueClock := by
  simp [State.dieEvent]

@[simp] theorem State.setJob_queueClock (s : State) (h : Handle) (j : Job) : (s.setJob h j).queueClock = s.queueClock := by
  simp [State.setJob]

@[simp] theorem State.modJob_queueClock (s : State) (h : Handle) (f : Job → Job) :
    (s.modJob h f).queueClock = s.queueClock := by
  unfold State.modJob
  try dsimp only
  repeat' first
    | (simp; done)
    | refine (foldl_queueClock _ (fun s a => ?_) _ _).trans ?_
    | refine (foldl_snd_queueClock _ (fun x a => ?_) _ _).trans ?_
    | split

@[simp] theorem State.markEnd_queueClock (s : State) (h : Handle) (st : JobSt) (record : Word) :
    (s.markEnd h st record).queueClock = s.queueClock := by
  simp [State.markEnd]

@[simp] theorem State.markRunning_queueClock (s : State) (st : JobSt) (record : Word) :
    (s.markRunning st record).queueClock = s.queueClock := by
  unfold State.markRunning
  try dsimp only
  repeat' first
    | (simp; done)
    | refine (foldl_queueClock _ (fun s a => ?_) _ _).trans ?_
    | refine (foldl_snd_queueClock _ (fun x a => ?_) _ _).trans ?_
    | split

@[simp] theorem State.soundWhistle_queueClock (s : State) (src : Nat) : (s.soundWhistle src).queueClock = s.queueClock := by
  simp [State.soundWhistle]

@[simp] theorem State.setErrUnit_queueClock (s : State) (u : Nat) (x : ErrUnit) :
    (s.setErrUnit u x).queueClock = s.queueClock := by
  simp [State.setErrUnit]

@[simp] theorem State.enterError_queueClock (s : State) (unit code : Nat) (i : ErrInfo) :
    (s.enterError unit code i).queueClock = s.queueClock := by
  simp [State.enterError]

@[simp] theorem State.enterJobFault_queueClock (s : State) (c code detail addr engine : Nat) :
    (s.enterJobFault c code detail addr engine).queueClock = s.queueClock := by
  simp [State.enterJobFault]

@[simp] theorem State.setMb_queueClock (s : State) (m : Nat) (x : Mailbox) : (s.setMb m x).queueClock = s.queueClock := by
  simp [State.setMb]

@[simp] theorem State.modMb_queueClock (s : State) (m : Nat) (f : Mailbox → Mailbox) :
    (s.modMb m f).queueClock = s.queueClock := by
  simp [State.modMb]

@[simp] theorem State.respond_queueClock (s : State) (m : Nat) (t : TakenCmd) (active : Bool) (status : Nat) (words : List Word) (record : Word) :
    (s.respond m t active status words record).queueClock = s.queueClock := by
  simp [State.respond]

@[simp] theorem State.answer_queueClock (s : State) (m : Nat) (t : TakenCmd) (status : Nat) (words : List Word) :
    (s.answer m t status words).queueClock = s.queueClock := by
  simp [State.answer]

@[simp] theorem State.accept_queueClock (s : State) (m : Nat) (t : TakenCmd) : (s.accept m t).queueClock = s.queueClock := by
  simp [State.accept]

@[simp] theorem State.complete_queueClock (s : State) (m status : Nat) (words : List Word) (record : Word) :
    (s.complete m status words record).queueClock = s.queueClock := by
  unfold State.complete
  try dsimp only
  repeat' first
    | (simp; done)
    | refine (foldl_queueClock _ (fun s a => ?_) _ _).trans ?_
    | refine (foldl_snd_queueClock _ (fun x a => ?_) _ _).trans ?_
    | split

@[simp] theorem State.onTaken_queueClock (s : State) (m opcode : Nat) (f : TakenCmd → State) (h : ∀ x, (f x).queueClock = s.queueClock) :
    (s.onTaken m opcode f).queueClock = s.queueClock := by
  unfold State.onTaken
  try dsimp only
  repeat' first
    | (simp; done)
    | refine (foldl_queueClock _ (fun s a => ?_) _ _).trans ?_
    | refine (foldl_snd_queueClock _ (fun x a => ?_) _ _).trans ?_
    | split
    | (simp [h]; done)

@[simp] theorem State.addTrace_queueClock (s : State) (key : Nat) (r : BitVec 128) :
    (s.addTrace key r).queueClock = s.queueClock := by
  simp [State.addTrace]

@[simp] theorem State.traceJob_queueClock (s : State) (h : Handle) (j : Job) (beat : Nat) :
    (s.traceJob h j beat).queueClock = s.queueClock := by
  simp [State.traceJob]

@[simp] theorem State.traceCmd_queueClock (s : State) (c engine : Nat) (i : Issued) (endCycle : Nat) (cut : Bool) :
    (s.traceCmd c engine i endCycle cut).queueClock = s.queueClock := by
  simp [State.traceCmd]

/-! ## Operations of Machine/Flags.lean -/

@[simp] theorem State.noteSet_queueClock (s : State) (o : Nat) (m : Dword) : (s.noteSet o m).queueClock = s.queueClock := by
  simp [State.noteSet]

@[simp] theorem State.setDcbBits_queueClock (s : State) (o : Nat) (m : Dword) :
    (s.setDcbBits o m).queueClock = s.queueClock := by
  simp [State.setDcbBits]

@[simp] theorem State.undefCount_queueClock (s : State) : s.undefCount.queueClock = s.queueClock := by
  simp [State.undefCount]

@[simp] theorem State.applyIncs_queueClock (s : State) (c : Nat) : (s.applyIncs c).queueClock = s.queueClock := by
  unfold State.applyIncs
  try dsimp only
  repeat' first
    | (simp; done)
    | refine (foldl_queueClock _ (fun s a => ?_) _ _).trans ?_
    | refine (foldl_snd_queueClock _ (fun x a => ?_) _ _).trans ?_
    | split

/-! ## Operations of Machine/Threads.lean -/

@[simp] theorem State.putSnapshot_queueClock (s : State) (c cause : Nat) (b : List Byte) :
    (s.putSnapshot c cause b).queueClock = s.queueClock := by
  simp [State.putSnapshot]

@[simp] theorem State.takeSnapshot_queueClock (s : State) (c cause : Nat) :
    (s.takeSnapshot c cause).queueClock = s.queueClock := by
  simp [State.takeSnapshot]

@[simp] theorem State.finishCmd_queueClock (s : State) (c : Nat) (j : Job) (i : Issued) :
    (s.finishCmd c j i).queueClock = s.queueClock := by
  simp [State.finishCmd]

/-! ## Operations of Machine/FeltStore.lean -/

@[simp] theorem State.feltWrite_queueClock (s : State) (c : Nat) (ws : List FeltWrite) :
    (s.feltWrite c ws).queueClock = s.queueClock := by
  simp [State.feltWrite]

@[simp] theorem State.takeInject_queueClock (s : State) (unit : Nat) : (s.takeInject unit).2.queueClock = s.queueClock := by
  unfold State.takeInject
  try dsimp only
  repeat' first
    | (simp; done)
    | refine (foldl_queueClock _ (fun s a => ?_) _ _).trans ?_
    | refine (foldl_snd_queueClock _ (fun x a => ?_) _ _).trans ?_
    | split

@[simp] theorem State.storageError_queueClock (s : State) (c e off code : Nat) :
    (s.storageError c e off code).queueClock = s.queueClock := by
  simp [State.storageError]

@[simp] theorem State.storageAccess_queueClock (s : State) (c e : Nat) (i : Issued) :
    (s.storageAccess c e i).queueClock = s.queueClock := by
  unfold State.storageAccess
  try dsimp only
  repeat' first
    | (simp; done)
    | refine (foldl_queueClock _ (fun s a => ?_) _ _).trans ?_
    | refine (foldl_snd_queueClock _ (fun x a => ?_) _ _).trans ?_
    | split

/-! ## Operations of Machine/Bus.lean -/

@[simp] theorem State.markWords_queueClock (s : State) (a : Nat) (mask : BitVec 64) (bad : Byte) :
    (s.markWords a mask bad).queueClock = s.queueClock := by
  simp [State.markWords]

@[simp] theorem State.memWrite_queueClock (s : State) (a : Nat) (mask : BitVec 64) (data : List Byte) (bad : Byte) :
    (s.memWrite a mask data bad).queueClock = s.queueClock := by
  simp [State.memWrite]

@[simp] theorem State.putGranule_queueClock (s : State) (a : Nat) (mask : BitVec 64) (data : Granule) (bad : Byte) :
    (s.putGranule a mask data bad).queueClock = s.queueClock := by
  unfold State.putGranule
  try dsimp only
  repeat' first
    | (simp; done)
    | refine (foldl_queueClock _ (fun s a => ?_) _ _).trans ?_
    | refine (foldl_snd_queueClock _ (fun x a => ?_) _ _).trans ?_
    | split

@[simp] theorem State.spoil_queueClock (s : State) (g : Granule) (m : Byte) : (s.spoil g m).2.queueClock = s.queueClock := by
  unfold State.spoil
  try dsimp only
  repeat' first
    | (simp; done)
    | refine (foldl_queueClock _ (fun s a => ?_) _ _).trans ?_
    | refine (foldl_snd_queueClock _ (fun x a => ?_) _ _).trans ?_

@[simp] theorem State.recordWords_queueClock (s : State) (hbm : Bool) (p c e addr : Nat) (h : Handle) (ce ue : Byte) (capar : Bool) :
    (s.recordWords hbm p c e addr h ce ue capar).queueClock = s.queueClock := by
  simp [State.recordWords]

@[simp] theorem State.meetWords_queueClock (s : State) (write hbm : Bool) (p c e addr : Nat) (h : Handle) (ce fresh words : Byte) (capar : Bool) (data : Granule) :
    (s.meetWords write hbm p c e addr h ce fresh words capar data).2.2.queueClock = s.queueClock := by
  simp [State.meetWords]

@[simp] theorem State.meetErrors_queueClock (s : State) (write hbm : Bool) (p c e addr : Nat) (h : Handle) (x : XferErr) (data : Granule) :
    (s.meetErrors write hbm p c e addr h x data).2.2.queueClock = s.queueClock := by
  simp [State.meetErrors]

@[simp] theorem State.accessError_queueClock (s : State) (c e a : Nat) :
    (s.accessError c e a).queueClock = s.queueClock := by
  simp [State.accessError]

@[simp] theorem State.slotError_queueClock (s : State) (c e a : Nat) : (s.slotError c e a).queueClock = s.queueClock := by
  simp [State.slotError]

@[simp] theorem State.logPayload_queueClock (s : State) (c : Nat) (j : Job) (slot : Nat) (data : Granule) :
    (s.logPayload c j slot data).queueClock = s.queueClock := by
  simp [State.logPayload]

@[simp] theorem State.logTransfer_queueClock (s : State) (x : Transfer) (data : Granule) :
    (s.logTransfer x data).queueClock = s.queueClock := by
  unfold State.logTransfer
  try dsimp only
  repeat' first
    | (simp; done)
    | refine (foldl_queueClock _ (fun s a => ?_) _ _).trans ?_
    | refine (foldl_snd_queueClock _ (fun x a => ?_) _ _).trans ?_
    | split

@[simp] theorem State.tapSend_queueClock (s : State) (x : Transfer) (f : Nat) (data : Granule) :
    (s.tapSend x f data).queueClock = s.queueClock := by
  simp [State.tapSend]

@[simp] theorem State.readSource_queueClock (s : State) (x : Transfer) (a : Nat) :
    (s.readSource x a).2.queueClock = s.queueClock := by
  unfold State.readSource
  try dsimp only
  repeat' first
    | (simp; done)
    | refine (foldl_queueClock _ (fun s a => ?_) _ _).trans ?_
    | refine (foldl_snd_queueClock _ (fun x a => ?_) _ _).trans ?_
    | split

@[simp] theorem State.fillData_queueClock (s : State) (x : Transfer) : (s.fillData x).2.queueClock = s.queueClock := by
  unfold State.fillData
  try dsimp only
  repeat' first
    | (simp; done)
    | refine (foldl_queueClock _ (fun s a => ?_) _ _).trans ?_
    | refine (foldl_snd_queueClock _ (fun x a => ?_) _ _).trans ?_
    | split

@[simp] theorem State.advance_queueClock (r : List Transfer × State) (x : Transfer) :
    (State.advance r x).2.queueClock = r.2.queueClock := by
  unfold State.advance
  try dsimp only
  repeat' first
    | (simp; done)
    | refine (foldl_queueClock _ (fun s a => ?_) _ _).trans ?_
    | refine (foldl_snd_queueClock _ (fun x a => ?_) _ _).trans ?_
    | split

@[simp] theorem State.advanceAll_queueClock (s : State) : s.advanceAll.queueClock = s.queueClock := by
  unfold State.advanceAll
  simp only [State.queueClock_mk, State.queueClock_fold]
  exact foldl_snd_queueClock _ (fun x a => State.advance_queueClock _ _) _ _

@[simp] theorem State.launch_queueClock (s : State) (x : Transfer) : (s.launch x).queueClock = s.queueClock := by
  unfold State.launch
  split
  · exact State.advance_queueClock ([], s) x
  · simp

@[simp] theorem State.launchWrite_queueClock (s : State) (c : Nat) (h : Handle) (j : Job) (e : Nat) (slot : Nat × Word) (a n : Nat) (fill : WriteData) (target : WriteTarget) (data : Granule) :
    (s.launchWrite c h j e slot a n fill target data).queueClock = s.queueClock := by
  simp [State.launchWrite]

@[simp] theorem State.launchRead_queueClock (s : State) (c : Nat) (h : Handle) (j : Job) (e : Nat) (slot : Nat × Word) (a n : Nat) (dest : ReadDest) :
    (s.launchRead c h j e slot a n dest).queueClock = s.queueClock := by
  simp [State.launchRead]

@[simp] theorem State.launchReads_queueClock (s : State) (c : Nat) (h : Handle) (j : Job) (i : Issued) :
    (s.launchReads c h j i).queueClock = s.queueClock := by
  unfold State.launchReads
  try dsimp only
  repeat' first
    | (simp; done)
    | refine (foldl_queueClock _ (fun s a => ?_) _ _).trans ?_
    | refine (foldl_snd_queueClock _ (fun x a => ?_) _ _).trans ?_
    | split

/-! ## Operations of Machine/Program.lean -/

@[simp] theorem State.declareFor_queueClock (s : State) (h : Handle) (c : Nat) :
    (s.declareFor h c).queueClock = s.queueClock := by
  unfold State.declareFor
  try dsimp only
  repeat' first
    | (simp; done)
    | refine (foldl_queueClock _ (fun s a => ?_) _ _).trans ?_
    | refine (foldl_snd_queueClock _ (fun x a => ?_) _ _).trans ?_
    | split

/-! ## Operations of Machine/Window.lean -/

@[simp] theorem State.unmapped_queueClock (s : State) : s.unmapped.queueClock = s.queueClock := by
  simp [State.unmapped]

@[simp] theorem State.blockedCount_queueClock (s : State) : s.blockedCount.queueClock = s.queueClock := by
  simp [State.blockedCount]

@[simp] theorem State.memRead_queueClock (s : State) (hbm : Bool) (p a n : Nat) (err : XferErr) :
    (s.memRead hbm p a n err).2.queueClock = s.queueClock := by
  simp [State.memRead]

@[simp] theorem State.memPut_queueClock (s : State) (hbm : Bool) (p a : Nat) (bs : List Byte) (err : XferErr) :
    (s.memPut hbm p a bs err).queueClock = s.queueClock := by
  simp [State.memPut]

@[simp] theorem State.readWords_queueClock (s : State) (f : Nat → Option (List Byte)) (o n : Nat) :
    (s.readWords f o n).2.queueClock = s.queueClock := by
  simp [State.readWords]

@[simp] theorem State.coreRegWrite_queueClock (s : State) (c o : Nat) (v m : Dword) :
    (s.coreRegWrite c o v m).queueClock = s.queueClock := by
  simp [State.coreRegWrite]

@[simp] theorem State.coreStoreWrite_queueClock (s : State) (c o : Nat) (bs : List Byte) :
    (s.coreStoreWrite c o bs).queueClock = s.queueClock := by
  simp [State.coreStoreWrite]

@[simp] theorem State.windowRead_queueClock (s : State) (c o a n : Nat) (err : XferErr) :
    (s.windowRead c o a n err).2.queueClock = s.queueClock := by
  simp [State.windowRead]

@[simp] theorem State.windowWrite_queueClock (s : State) (c o a : Nat) (bs : List Byte) (err : XferErr) :
    (s.windowWrite c o a bs err).queueClock = s.queueClock := by
  unfold State.windowWrite
  try dsimp only
  repeat' first
    | (simp; done)
    | refine (foldl_queueClock _ (fun s a => ?_) _ _).trans ?_
    | refine (foldl_snd_queueClock _ (fun x a => ?_) _ _).trans ?_
    | split

@[simp] theorem State.crossRead_queueClock (s : State) (d n : Nat) (err : XferErr) :
    (s.crossRead d n err).2.queueClock = s.queueClock := by
  unfold State.crossRead
  try dsimp only
  repeat' first
    | (simp; done)
    | refine (foldl_queueClock _ (fun s a => ?_) _ _).trans ?_
    | refine (foldl_snd_queueClock _ (fun x a => ?_) _ _).trans ?_
    | split

@[simp] theorem State.crossWrite_queueClock (s : State) (d : Nat) (bs : List Byte) (err : XferErr) :
    (s.crossWrite d bs err).queueClock = s.queueClock := by
  unfold State.crossWrite
  try dsimp only
  repeat' first
    | (simp; done)
    | refine (foldl_queueClock _ (fun s a => ?_) _ _).trans ?_
    | refine (foldl_snd_queueClock _ (fun x a => ?_) _ _).trans ?_
    | split

@[simp] theorem State.serveAt_queueClock (s : State) (r : StewardReq) (d : Nat) :
    (s.serveAt r d).queueClock = s.queueClock := by
  unfold State.serveAt
  split
  · exact State.crossWrite_queueClock ..
  · exact State.crossRead_queueClock ..

@[simp] theorem State.serveSteward_queueClock (s : State) (r : StewardReq) :
    (s.serveSteward r).queueClock = s.queueClock := by
  unfold State.serveSteward
  try dsimp only
  repeat' first
    | (simp; done)
    | refine (foldl_queueClock _ (fun s a => ?_) _ _).trans ?_
    | refine (foldl_snd_queueClock _ (fun x a => ?_) _ _).trans ?_
    | split

@[simp] theorem State.stewardSlots_queueClock (s : State) : s.stewardSlots.queueClock = s.queueClock := by
  unfold State.stewardSlots
  try dsimp only
  repeat' first
    | (simp; done)
    | refine (foldl_queueClock _ (fun s a => ?_) _ _).trans ?_
    | refine (foldl_snd_queueClock _ (fun x a => ?_) _ _).trans ?_
    | split

/-! ## Operations of Machine/Sequencer.lean -/

@[simp] theorem State.engineAccept_queueClock (s : State) (c e : Nat) (j : Job) (i : Issued) :
    (s.engineAccept c e j i).queueClock = s.queueClock := by
  simp [State.engineAccept]

@[simp] theorem State.tallyCmd_queueClock (s : State) (e : Nat) : (s.tallyCmd e).queueClock = s.queueClock := by
  simp [State.tallyCmd]

@[simp] theorem State.arrive_queueClock (s : State) (c t r : Nat) : (s.arrive c t r).1.queueClock = s.queueClock := by
  unfold State.arrive
  try dsimp only
  repeat' first
    | (simp; done)
    | refine (foldl_queueClock _ (fun s a => ?_) _ _).trans ?_
    | refine (foldl_snd_queueClock _ (fun x a => ?_) _ _).trans ?_
    | split

/-! ## Operations of Machine/Ends.lean -/

@[simp] theorem State.leaveCore_queueClock (s : State) (c : Nat) : (s.leaveCore c).queueClock = s.queueClock := by
  unfold State.leaveCore
  try dsimp only
  repeat' first
    | (simp; done)
    | refine (foldl_queueClock _ (fun s a => ?_) _ _).trans ?_
    | refine (foldl_snd_queueClock _ (fun x a => ?_) _ _).trans ?_
    | split

@[simp] theorem State.leaveCompleted_queueClock (s : State) : s.leaveCompleted.queueClock = s.queueClock := by
  unfold State.leaveCompleted
  try dsimp only
  repeat' first
    | (simp; done)
    | refine (foldl_queueClock _ (fun s a => ?_) _ _).trans ?_
    | refine (foldl_snd_queueClock _ (fun x a => ?_) _ _).trans ?_
    | split

@[simp] theorem State.leaveCores_queueClock (s : State) (h : Handle) (j : Job) :
    (s.leaveCores h j).queueClock = s.queueClock := by
  unfold State.leaveCores
  exact foldl_queueClock _ (fun s a => by split <;> simp) _ _

@[simp] theorem State.failSave_queueClock (s : State) (j : Job) (record : Word) :
    (s.failSave j record).queueClock = s.queueClock := by
  unfold State.failSave
  try dsimp only
  repeat' first
    | (simp; done)
    | refine (foldl_queueClock _ (fun s a => ?_) _ _).trans ?_
    | refine (foldl_snd_queueClock _ (fun x a => ?_) _ _).trans ?_
    | split

@[simp] theorem State.endSession_queueClock (s : State) (p : Nat) : (s.endSession p).queueClock = s.queueClock := by
  unfold State.endSession
  try dsimp only
  repeat' first
    | (simp; done)
    | refine (foldl_queueClock _ (fun s a => ?_) _ _).trans ?_
    | refine (foldl_snd_queueClock _ (fun x a => ?_) _ _).trans ?_
    | split

@[simp] theorem State.answerAdmit_queueClock (s : State) (j : Job) (status : Nat) (record : Word) :
    (s.answerAdmit j status record).queueClock = s.queueClock := by
  unfold State.answerAdmit
  try dsimp only
  repeat' first
    | (simp; done)
    | refine (foldl_queueClock _ (fun s a => ?_) _ _).trans ?_
    | refine (foldl_snd_queueClock _ (fun x a => ?_) _ _).trans ?_
    | split

@[simp] theorem State.releaseKeySlot_queueClock (s : State) (a : Option Nat) :
    (s.releaseKeySlot a).queueClock = s.queueClock := by
  unfold State.releaseKeySlot
  try dsimp only
  repeat' first
    | (simp; done)
    | refine (foldl_queueClock _ (fun s a => ?_) _ _).trans ?_
    | refine (foldl_snd_queueClock _ (fun x a => ?_) _ _).trans ?_
    | split

@[simp] theorem State.finishAt_queueClock (s : State) (h : Handle) (st : JobSt) (record : Word) (beat : Nat) :
    (s.finishAt h st record beat).queueClock = s.queueClock := by
  unfold State.finishAt
  split
  · rfl
  · simp only [State.traceJob_queueClock, State.dieEvent_queueClock, State.setJob_queueClock]
    split <;> simp only [State.setDcbF_queueClock, State.leaveCores_queueClock, State.releaseKeySlot_queueClock]

@[simp] theorem State.finishJob_queueClock (s : State) (h : Handle) (st : JobSt) (record : Word) :
    (s.finishJob h st record).queueClock = s.queueClock := by
  simp [State.finishJob]

@[simp] theorem State.unbindKeySet_queueClock (s : State) (h : Handle) : (s.unbindKeySet h).queueClock = s.queueClock := by
  simp [State.unbindKeySet]

@[simp] theorem State.withdraw_queueClock (s : State) (h : Handle) (status : Nat) :
    (s.withdraw h status).queueClock = s.queueClock := by
  unfold State.withdraw
  try dsimp only
  repeat' first
    | (simp; done)
    | refine (foldl_queueClock _ (fun s a => ?_) _ _).trans ?_
    | refine (foldl_snd_queueClock _ (fun x a => ?_) _ _).trans ?_
    | split

@[simp] theorem State.applyEnd_queueClock (s : State) (h : Handle) : (s.applyEnd h).queueClock = s.queueClock := by
  unfold State.applyEnd
  try dsimp only
  repeat' first
    | (simp; done)
    | refine (foldl_queueClock _ (fun s a => ?_) _ _).trans ?_
    | refine (foldl_snd_queueClock _ (fun x a => ?_) _ _).trans ?_
    | split

@[simp] theorem State.endCancelled_queueClock (s : State) : s.endCancelled.queueClock = s.queueClock := by
  unfold State.endCancelled
  try dsimp only
  repeat' first
    | (simp; done)
    | refine (foldl_queueClock _ (fun s a => ?_) _ _).trans ?_
    | refine (foldl_snd_queueClock _ (fun x a => ?_) _ _).trans ?_
    | split

@[simp] theorem State.loadRestores_queueClock (s : State) : s.loadRestores.queueClock = s.queueClock := by
  simp [State.loadRestores]

@[simp] theorem State.releaseHalt_queueClock (s : State) : s.releaseHalt.queueClock = s.queueClock := by
  unfold State.releaseHalt
  try dsimp only
  repeat' first
    | (simp; done)
    | refine (foldl_queueClock _ (fun s a => ?_) _ _).trans ?_

@[simp] theorem State.releaseDue_queueClock (s : State) : s.releaseDue.queueClock = s.queueClock := by
  unfold State.releaseDue
  try dsimp only
  repeat' first
    | (simp; done)
    | refine (foldl_queueClock _ (fun s a => ?_) _ _).trans ?_
    | refine (foldl_snd_queueClock _ (fun x a => ?_) _ _).trans ?_
    | split

/-! ## Operations of Machine/Beat.lean -/

@[simp] theorem State.countEngine_queueClock (s : State) (c e : Nat) : (s.countEngine c e).queueClock = s.queueClock := by
  unfold State.countEngine
  try dsimp only
  repeat' first
    | (simp; done)
    | refine (foldl_queueClock _ (fun s a => ?_) _ _).trans ?_
    | refine (foldl_snd_queueClock _ (fun x a => ?_) _ _).trans ?_
    | split

@[simp] theorem State.coreCycle_queueClock (s : State) (c : Nat) : (s.coreCycle c).queueClock = s.queueClock := by
  unfold State.coreCycle
  split
  · simp only [State.modCore_queueClock]
    rw [foldl_queueClock _ (fun s a => by simp), State.applyIncs_queueClock]
  · rfl

@[simp] theorem State.forgetCycle_queueClock (s : State) : s.forgetCycle.queueClock = s.queueClock := by
  unfold State.forgetCycle
  try dsimp only
  repeat' first
    | (simp; done)
    | refine (foldl_queueClock _ (fun s a => ?_) _ _).trans ?_

@[simp] theorem State.cycleEnd_queueClock (s : State) : s.cycleEnd.queueClock = s.queueClock := by
  unfold State.cycleEnd
  try dsimp only
  repeat' first
    | (simp; done)
    | refine (foldl_queueClock _ (fun s a => ?_) _ _).trans ?_
    | refine (foldl_snd_queueClock _ (fun x a => ?_) _ _).trans ?_
    | split

@[simp] theorem State.cycleStart_queueClock (s : State) : s.cycleStart.queueClock = s.queueClock := by
  simp [State.cycleStart]

@[simp] theorem State.endUnfinished_queueClock (s : State) : s.endUnfinished.queueClock = s.queueClock := by
  unfold State.endUnfinished
  try dsimp only
  repeat' first
    | (simp; done)
    | refine (foldl_queueClock _ (fun s a => ?_) _ _).trans ?_
    | refine (foldl_snd_queueClock _ (fun x a => ?_) _ _).trans ?_
    | split

@[simp] theorem State.sequencerBoundary_queueClock (s : State) (c : Nat) :
    (s.sequencerBoundary c).queueClock = s.queueClock := by
  unfold State.sequencerBoundary
  try dsimp only
  repeat' first
    | (simp; done)
    | refine (foldl_queueClock _ (fun s a => ?_) _ _).trans ?_
    | refine (foldl_snd_queueClock _ (fun x a => ?_) _ _).trans ?_
    | split

@[simp] theorem State.dcbInForce_queueClock (s : State) : s.dcbInForce.queueClock = s.queueClock := by
  unfold State.dcbInForce
  try dsimp only
  repeat' first
    | (simp; done)
    | refine (foldl_queueClock _ (fun s a => ?_) _ _).trans ?_

@[simp] theorem State.devCounters_queueClock (s : State) : s.devCounters.queueClock = s.queueClock := by
  unfold State.devCounters
  try dsimp only
  repeat' first
    | (simp; done)
    | refine (foldl_queueClock _ (fun s a => ?_) _ _).trans ?_

@[simp] theorem State.enterTrace_queueClock (s : State) (r : BitVec 128) : (s.enterTrace r).queueClock = s.queueClock := by
  simp [State.enterTrace]

@[simp] theorem State.enterRecords_queueClock (s : State) : s.enterRecords.queueClock = s.queueClock := by
  unfold State.enterRecords
  try dsimp only
  repeat' first
    | (simp; done)
    | refine (foldl_queueClock _ (fun s a => ?_) _ _).trans ?_

@[simp] theorem State.beatDigest_queueClock (s : State) : s.beatDigest.queueClock = s.queueClock := by
  unfold State.beatDigest
  try dsimp only
  repeat' first
    | (simp; done)
    | refine (foldl_queueClock _ (fun s a => ?_) _ _).trans ?_
    | refine (foldl_snd_queueClock _ (fun x a => ?_) _ _).trans ?_
    | split

@[simp] theorem State.closeLockstep_queueClock (s : State) : s.closeLockstep.queueClock = s.queueClock := by
  unfold State.closeLockstep
  try dsimp only
  repeat' first
    | (simp; done)
    | refine (foldl_queueClock _ (fun s a => ?_) _ _).trans ?_
    | refine (foldl_snd_queueClock _ (fun x a => ?_) _ _).trans ?_
    | split

@[simp] theorem State.holdSnapshots_queueClock (s : State) : s.holdSnapshots.queueClock = s.queueClock := by
  unfold State.holdSnapshots
  try dsimp only
  repeat' first
    | (simp; done)
    | refine (foldl_queueClock _ (fun s a => ?_) _ _).trans ?_

@[simp] theorem State.openPorts_queueClock (s : State) : s.openPorts.queueClock = s.queueClock := by
  simp [State.openPorts]

/-! ## Operations of Machine/Felt.lean -/

@[simp] theorem State.stageAll_queueClock (s : State) (as : List FeltAct) (stage : Nat) :
    (s.stageAll as stage).queueClock = s.queueClock := by
  unfold State.stageAll
  try dsimp only
  repeat' first
    | (simp; done)
    | refine (foldl_queueClock _ (fun s a => ?_) _ _).trans ?_

@[simp] theorem State.stepCounts_queueClock (s s0 s1 : State) (a : FeltAct) :
    (s.stepCounts s0 s1 a).queueClock = s.queueClock := by
  simp [State.stepCounts]

@[simp] theorem State.feltCycle_queueClock (s : State) (runs : List (Nat × Issued)) (cyc : Nat) :
    (s.feltCycle runs cyc).queueClock = s.queueClock := by
  unfold State.feltCycle
  simp only
  rw [foldl_queueClock _ (fun s a => by simp), foldl_queueClock _ (fun s a => by simp), State.stageAll_queueClock, State.stageAll_queueClock, foldl_queueClock _ (fun s a => by simp)]

@[simp] theorem State.feltUpTo_queueClock (s : State) (j : Job) (beat stop : Nat) :
    (s.feltUpTo j beat stop).queueClock = s.queueClock := by
  unfold State.feltUpTo
  try dsimp only
  repeat' first
    | (simp; done)
    | refine (foldl_queueClock _ (fun s a => ?_) _ _).trans ?_

@[simp] theorem State.qRead_queueClock (s : State) (c : Nat) (i : Issued) : (s.qRead c i).2.queueClock = s.queueClock := by
  simp [State.qRead]

/-! ## Operations of Machine/FeltLarge.lean -/

@[simp] theorem State.writeAll_queueClock (s : State) (c : Nat) (h : Handle) (j : Job) (e : Nat) (slots : List (Nat × Word)) (as : List Nat) (data : List Byte) :
    (s.writeAll c h j e slots as data).queueClock = s.queueClock := by
  unfold State.writeAll
  try dsimp only
  repeat' first
    | (simp; done)
    | refine (foldl_queueClock _ (fun s a => ?_) _ _).trans ?_
    | refine (foldl_snd_queueClock _ (fun x a => ?_) _ _).trans ?_
    | split

@[simp] theorem State.queueFree_queueClock (s : State) (l : Nat) (m : FreeMsg) :
    (s.queueFree l m).queueClock = s.queueClock := by
  simp [State.queueFree]

@[simp] theorem State.sendStaging_queueClock (s : State) (c : Nat) (h : Handle) (m d half : Nat) (slot : Nat × Word) (g : Granule) :
    (s.sendStaging c h m d half slot g).queueClock = s.queueClock := by
  simp [State.sendStaging]

/-! ## Operations of Machine/FieldEngine.lean -/

@[simp] theorem State.watchCmd_queueClock (s : State) (c : Nat) (h : Handle) (acc : Option Nat) (i : Issued) (vs : List Watched) :
    (s.watchCmd c h acc i vs).queueClock = s.queueClock := by
  unfold State.watchCmd
  try dsimp only
  repeat' first
    | (simp; done)
    | refine (foldl_queueClock _ (fun s a => ?_) _ _).trans ?_

@[simp] theorem State.feMma_queueClock (s : State) (c : Nat) (h : Handle) (j : Job) (i : Issued) :
    (s.feMma c h j i).queueClock = s.queueClock := by
  simp [State.feMma]

@[simp] theorem State.feOut_queueClock (s : State) (c : Nat) (h : Handle) (i : Issued) :
    (s.feOut c h i).queueClock = s.queueClock := by
  simp [State.feOut]

@[simp] theorem State.feBern_queueClock (s : State) (c : Nat) (h : Handle) (i : Issued) :
    (s.feBern c h i).queueClock = s.queueClock := by
  simp [State.feBern]

@[simp] theorem State.napFill_queueClock (s : State) (c : Nat) (i : Issued) : (s.napFill c i).queueClock = s.queueClock := by
  simp [State.napFill]

/-! ## Operations of Machine/Memory.lean -/

@[simp] theorem State.moveOne_queueClock (s : State) (c : Nat) (h : Handle) (j : Job) (m : Move) (slot : Option (Nat × Word)) (n : Nat) :
    (s.moveOne c h j m slot n).queueClock = s.queueClock := by
  unfold State.moveOne
  try dsimp only
  repeat' first
    | (simp; done)
    | refine (foldl_queueClock _ (fun s a => ?_) _ _).trans ?_
    | refine (foldl_snd_queueClock _ (fun x a => ?_) _ _).trans ?_
    | split

@[simp] theorem State.passPort_queueClock (s : State) (x : Transfer) (err : XferErr) (data : Granule) :
    (s.passPort x err data).2.2.queueClock = s.queueClock := by
  simp [State.passPort]

@[simp] theorem State.land_queueClock (s : State) (x : Transfer) (data : Granule) (bad : Byte) :
    (s.land x data bad).queueClock = s.queueClock := by
  unfold State.land
  try dsimp only
  repeat' first
    | (simp; done)
    | refine (foldl_queueClock _ (fun s a => ?_) _ _).trans ?_
    | refine (foldl_snd_queueClock _ (fun x a => ?_) _ _).trans ?_
    | split

@[simp] theorem State.landWrite_queueClock (s : State) (x : Transfer) (err : XferErr) :
    (s.landWrite x err).queueClock = s.queueClock := by
  unfold State.landWrite
  try dsimp only
  repeat' first
    | (simp; done)
    | refine (foldl_queueClock _ (fun s a => ?_) _ _).trans ?_
    | refine (foldl_snd_queueClock _ (fun x a => ?_) _ _).trans ?_
    | split

@[simp] theorem State.serveMember_queueClock (s : State) (err : XferErr) (t : State) (x : Transfer) :
    (s.serveMember err t x).queueClock = t.queueClock := by
  unfold State.serveMember
  simp only
  split
  · rfl
  · exact State.meetWords_queueClock ..

@[simp] theorem State.arriveRead_queueClock (s : State) (x : Transfer) (err : XferErr) :
    (s.arriveRead x err).2.queueClock = s.queueClock := by
  unfold State.arriveRead
  try dsimp only
  repeat' first
    | (simp; done)
    | refine (foldl_queueClock _ (fun s a => ?_) _ _).trans ?_
    | refine (foldl_snd_queueClock _ (fun x a => ?_) _ _).trans ?_
    | split

/-! ## Operations of Machine/Accum.lean -/

@[simp] theorem State.sendOperand_queueClock (s : State) (c : Nat) (h : Handle) (j : Job) (r : AccRed) (slot : Nat × Word) (n : Nat) :
    (s.sendOperand c h j r slot n).queueClock = s.queueClock := by
  simp [State.sendOperand]

@[simp] theorem State.formNode_queueClock (s : State) (x y : NodeOperand) : (s.formNode x y).queueClock = s.queueClock := by
  simp [State.formNode]

@[simp] theorem State.formNodes_queueClock (s : State) (a : Nat) (a1 a2 : List NodeOperand) :
    (s.formNodes a a1 a2).2.queueClock = s.queueClock := by
  induction a generalizing s a1 a2 with
  | zero => cases a1 <;> simp [State.formNodes]
  | succ n ih => cases a1 <;> simp only [State.formNodes] <;> (try split) <;> simp [ih]

/-! ## Operations of Machine/Sampler.lean -/

@[simp] theorem State.openRow_queueClock (s : State) (c : Nat) : (s.openRow c).queueClock = s.queueClock := by
  simp [State.openRow]

@[simp] theorem State.catLong_queueClock (s : State) (c : Nat) (x : Cat) : (s.catLong c x).queueClock = s.queueClock := by
  simp [State.catLong]

@[simp] theorem State.catDraw_queueClock (s : State) (c : Nat) (i : Issued) : (s.catDraw c i).queueClock = s.queueClock := by
  simp [State.catDraw]

/-! ## Operations of Machine/Intc.lean -/

@[simp] theorem State.setIcSrc_queueClock (s : State) (n : Nat) (x : IcSource) :
    (s.setIcSrc n x).queueClock = s.queueClock := by
  simp [State.setIcSrc]

@[simp] theorem State.setIcCtx_queueClock (s : State) (x : Nat) (c : IcContext) :
    (s.setIcCtx x c).queueClock = s.queueClock := by
  simp [State.setIcCtx]

@[simp] theorem State.icUnbind_queueClock (s : State) (n : Nat) : (s.icUnbind n).queueClock = s.queueClock := by
  simp [State.icUnbind]

@[simp] theorem State.icBind_queueClock (s : State) (n : Nat) : (s.icBind n).queueClock = s.queueClock := by
  unfold State.icBind
  try dsimp only
  repeat' first
    | (simp; done)
    | refine (foldl_queueClock _ (fun s a => ?_) _ _).trans ?_
    | refine (foldl_snd_queueClock _ (fun x a => ?_) _ _).trans ?_
    | split

@[simp] theorem State.icSettle_queueClock (s : State) : s.icSettle.queueClock = s.queueClock := by
  unfold State.icSettle
  try dsimp only
  repeat' first
    | (simp; done)
    | refine (foldl_queueClock _ (fun s a => ?_) _ _).trans ?_
    | refine (foldl_snd_queueClock _ (fun x a => ?_) _ _).trans ?_
    | split

@[simp] theorem State.icEvents_queueClock (s : State) (n k : Nat) : (s.icEvents n k).queueClock = s.queueClock := by
  simp [State.icEvents]

@[simp] theorem State.icEdge_queueClock (s : State) (n : Nat) : (s.icEdge n).queueClock = s.queueClock := by
  simp [State.icEdge]

@[simp] theorem State.icAssert_queueClock (s : State) (n : Nat) (a : Bool) : (s.icAssert n a).queueClock = s.queueClock := by
  simp [State.icAssert]

@[simp] theorem State.icMessage_queueClock (s : State) (w : Word) : (s.icMessage w).queueClock = s.queueClock := by
  simp [State.icMessage]

@[simp] theorem State.icClaimRead_queueClock (s : State) (x : Nat) : (s.icClaimRead x).queueClock = s.queueClock := by
  simp [State.icClaimRead]

@[simp] theorem State.icCompleteWrite_queueClock (s : State) (x n : Nat) :
    (s.icCompleteWrite x n).queueClock = s.queueClock := by
  simp [State.icCompleteWrite]

@[simp] theorem State.icSwsetWrite_queueClock (s : State) (n : Nat) : (s.icSwsetWrite n).queueClock = s.queueClock := by
  simp [State.icSwsetWrite]

@[simp] theorem State.icSrcSet_queueClock (s : State) (n v : Nat) : (s.icSrcSet n v).queueClock = s.queueClock := by
  simp [State.icSrcSet]

@[simp] theorem State.icThreshSet_queueClock (s : State) (x v : Nat) : (s.icThreshSet x v).queueClock = s.queueClock := by
  simp [State.icThreshSet]

@[simp] theorem State.icTakeLatches_queueClock (s : State) : s.icTakeLatches.queueClock = s.queueClock := by
  unfold State.icTakeLatches
  try dsimp only
  repeat' first
    | (simp; done)
    | refine (foldl_queueClock _ (fun s a => ?_) _ _).trans ?_

@[simp] theorem State.icWrite_queueClock (s : State) (o v : Nat) : (s.icWrite o v).queueClock = s.queueClock := by
  simp [State.icWrite]

@[simp] theorem State.icPart_queueClock (s : State) (o : Nat) (v m : Dword) :
    (s.icPart o v m).queueClock = s.queueClock := by
  simp [State.icPart]

/-! ## Operations of Machine/Mailbox.lean -/

@[simp] theorem State.mbDrop_queueClock (s : State) (m : Nat) : (s.mbDrop m).queueClock = s.queueClock := by
  simp [State.mbDrop]

@[simp] theorem State.mbClearDrop_queueClock (s : State) (m : Nat) : (s.mbClearDrop m).queueClock = s.queueClock := by
  simp [State.mbClearDrop]

@[simp] theorem State.ringDoorbell_queueClock (s : State) (m : Nat) : (s.ringDoorbell m).queueClock = s.queueClock := by
  simp [State.ringDoorbell]

@[simp] theorem State.ackMailbox_queueClock (s : State) (m : Nat) : (s.ackMailbox m).queueClock = s.queueClock := by
  simp [State.ackMailbox]

@[simp] theorem State.mbCtrlWrite_queueClock (s : State) (m v : Nat) : (s.mbCtrlWrite m v).queueClock = s.queueClock := by
  simp [State.mbCtrlWrite]

@[simp] theorem State.mbCmdWrite_queueClock (s : State) (m i v : Nat) : (s.mbCmdWrite m i v).queueClock = s.queueClock := by
  simp [State.mbCmdWrite]

@[simp] theorem State.mbWrite_queueClock (s : State) (m o v : Nat) : (s.mbWrite m o v).queueClock = s.queueClock := by
  simp [State.mbWrite]

@[simp] theorem State.takeCmd_queueClock (s : State) (m : Nat) (t : TakenCmd) :
    (s.takeCmd m t).queueClock = s.queueClock := by
  simp [State.takeCmd]

/-! ## Operations of Machine/Entropy.lean -/

@[simp] theorem State.reseed_queueClock (s : State) : ∀ t, s.reseed = some t → t.queueClock = s.queueClock := by
  unfold State.reseed
  try dsimp only
  repeat' first
    | (simp; done)
    | refine (foldl_queueClock _ (fun s a => ?_) _ _).trans ?_
    | refine (foldl_snd_queueClock _ (fun x a => ?_) _ _).trans ?_
    | split

@[simp] theorem State.generate_queueClock (s : State) (n : Nat) : (s.generate n).2.queueClock = s.queueClock := by
  simp [State.generate]

@[simp] theorem State.drbgRequest_queueClock (s : State) (pr : Bool) (n : Nat) :
    ∀ t, s.drbgRequest pr n = some t → t.2.queueClock = s.queueClock := by
  intro t
  unfold State.drbgRequest
  split
  · simp
  · split
    · intro h
      simp only [Option.map_eq_some_iff] at h
      obtain ⟨u, hu, rfl⟩ := h
      simp [State.reseed_queueClock s u hu]
    · intro h
      cases h
      simp

@[simp] theorem State.endReads_queueClock (s : State) (status : Nat) (record : Word) :
    (s.endReads status record).queueClock = s.queueClock := by
  unfold State.endReads
  try dsimp only
  repeat' first
    | (simp; done)
    | refine (foldl_queueClock _ (fun s a => ?_) _ _).trans ?_

@[simp] theorem State.entClear_queueClock (s : State) : s.entClear.queueClock = s.queueClock := by
  simp [State.entClear]

@[simp] theorem State.wireErrors_queueClock (s : State) : s.wireErrors.queueClock = s.queueClock := by
  unfold State.wireErrors
  try dsimp only
  repeat' first
    | (simp; done)
    | refine (foldl_queueClock _ (fun s a => ?_) _ _).trans ?_

@[simp] theorem State.entRecord_queueClock (s : State) (cause osc : Nat) :
    (s.entRecord cause osc).queueClock = s.queueClock := by
  simp [State.entRecord]

@[simp] theorem State.entWithdraw_queueClock (s : State) (startup : Bool) :
    (s.entWithdraw startup).queueClock = s.queueClock := by
  unfold State.entWithdraw
  try dsimp only
  repeat' first
    | (simp; done)
    | refine (foldl_queueClock _ (fun s a => ?_) _ _).trans ?_

@[simp] theorem State.entFail_queueClock (s : State) (cause osc : Nat) :
    (s.entFail cause osc).queueClock = s.queueClock := by
  simp [State.entFail]

@[simp] theorem State.entTakeRestart_queueClock (s : State) : s.entTakeRestart.queueClock = s.queueClock := by
  simp [State.entTakeRestart]

@[simp] theorem State.closeWindow_queueClock (s : State) : s.closeWindow.queueClock = s.queueClock := by
  simp [State.closeWindow]

@[simp] theorem State.cardSample_queueClock (s : State) (x : Dword) : (s.cardSample x).queueClock = s.queueClock := by
  simp [State.cardSample]

@[simp] theorem State.entResult_queueClock (s : State) (cause osc : Nat) :
    (s.entResult cause osc).queueClock = s.queueClock := by
  simp [State.entResult]

@[simp] theorem State.entSetRestart_queueClock (s : State) : s.entSetRestart.queueClock = s.queueClock := by
  simp [State.entSetRestart]

@[simp] theorem State.entTrim_queueClock (s : State) (fromCp : Bool) (n : Nat) (value : Dword) :
    (s.entTrim fromCp n value).queueClock = s.queueClock := by
  simp [State.entTrim]

@[simp] theorem State.entSetMode_queueClock (s : State) (m : Nat) : (s.entSetMode m).queueClock = s.queueClock := by
  simp [State.entSetMode]

@[simp] theorem State.entTestSet_queueClock (s : State) (v : Nat) : (s.entTestSet v).queueClock = s.queueClock := by
  simp [State.entTestSet]

/-! ## Operations of Machine/Jobs.lean -/

@[simp] theorem State.fatalJob_queueClock (s : State) (h : Handle) (record : Word) (at_ : Nat) :
    (s.fatalJob h record at_).queueClock = s.queueClock := by
  unfold State.fatalJob
  try dsimp only
  repeat' first
    | (simp; done)
    | refine (foldl_queueClock _ (fun s a => ?_) _ _).trans ?_
    | refine (foldl_snd_queueClock _ (fun x a => ?_) _ _).trans ?_
    | split

@[simp] theorem State.markOn_queueClock (s : State) (on : Nat → Bool) (record : Word) :
    (s.markOn on record).queueClock = s.queueClock := by
  unfold State.markOn
  try dsimp only
  repeat' first
    | (simp; done)
    | refine (foldl_queueClock _ (fun s a => ?_) _ _).trans ?_

@[simp] theorem State.fenceNext_queueClock (s : State) (c : Nat) : (s.fenceNext c).queueClock = s.queueClock := by
  simp [State.fenceNext]

@[simp] theorem State.fenceCore_queueClock (s : State) (c : Nat) : (s.fenceCore c).queueClock = s.queueClock := by
  simp [State.fenceCore]

@[simp] theorem State.censusLost_queueClock (s : State) : s.censusLost.queueClock = s.queueClock := by
  unfold State.censusLost
  try dsimp only
  repeat' first
    | (simp; done)
    | refine (foldl_queueClock _ (fun s a => ?_) _ _).trans ?_

@[simp] theorem State.unfence_queueClock (s : State) (c : Nat) : (s.unfence c).queueClock = s.queueClock := by
  simp [State.unfence]

@[simp] theorem State.endOn_queueClock (s : State) (on : Nat → Bool) : (s.endOn on).queueClock = s.queueClock := by
  unfold State.endOn
  try dsimp only
  repeat' first
    | (simp; done)
    | refine (foldl_queueClock _ (fun s a => ?_) _ _).trans ?_

@[simp] theorem State.fenceCluster_queueClock (s : State) (q : Nat) : (s.fenceCluster q).queueClock = s.queueClock := by
  unfold State.fenceCluster
  rw [State.setDcbF_queueClock]
  exact foldl_queueClock _ (fun s a => State.fenceCore_queueClock _ _) _ _

/-! ## Operations of Machine/Context.lean -/

@[simp] theorem State.putBytes_queueClock (s : State) (a : Nat) (bs : List Byte) :
    (s.putBytes a bs).queueClock = s.queueClock := by
  simp [State.putBytes]

/-! ## Operations of Machine/Admit.lean -/

@[simp] theorem State.sendUp_queueClock (s : State) (c : CtlMsg) : (s.sendUp c).queueClock = s.queueClock := by
  simp [State.sendUp]

@[simp] theorem State.sendDown_queueClock (s : State) (ports : List Nat) (c : CtlMsg) :
    (s.sendDown ports c).queueClock = s.queueClock := by
  unfold State.sendDown
  try dsimp only
  repeat' first
    | (simp; done)
    | refine (foldl_queueClock _ (fun s a => ?_) _ _).trans ?_

@[simp] theorem State.assignHandle_queueClock (s : State) (j : Job) : (s.assignHandle j).2.queueClock = s.queueClock := by
  simp [State.assignHandle]

@[simp] theorem State.holdJob_queueClock (s : State) (m : Nat) (t : TakenCmd) (j : Job) :
    (s.holdJob m t j).queueClock = s.queueClock := by
  unfold State.holdJob
  try dsimp only
  repeat' first
    | (simp; done)
    | refine (foldl_queueClock _ (fun s a => ?_) _ _).trans ?_
    | refine (foldl_snd_queueClock _ (fun x a => ?_) _ _).trans ?_
    | split

@[simp] theorem State.admitCmd_queueClock (s : State) (m : Nat) (t : TakenCmd) (restore : Option RestoreReq) :
    (s.admitCmd m t restore).queueClock = s.queueClock := by
  unfold State.admitCmd
  try dsimp only
  repeat' first
    | (simp; done)
    | refine (foldl_queueClock _ (fun s a => ?_) _ _).trans ?_
    | refine (foldl_snd_queueClock _ (fun x a => ?_) _ _).trans ?_
    | split

@[simp] theorem State.queueDraw_queueClock (s : State) (h : Handle) (mb : Nat) :
    (s.queueDraw h mb).queueClock = s.queueClock := by
  simp [State.queueDraw]

@[simp] theorem State.dropDraw_queueClock (s : State) (h : Handle) : (s.dropDraw h).queueClock = s.queueClock := by
  simp [State.dropDraw]

@[simp] theorem State.drawSeed_queueClock (s : State) (h : Handle) (j : Job) :
    ∀ t, s.drawSeed h j = some t → t.2.queueClock = s.queueClock := by
  intro t
  unfold State.drawSeed
  split
  · split
    · split
      · intro h
        simp only [Option.map_eq_some_iff] at h
        obtain ⟨u, hu, rfl⟩ := h
        simp [State.drbgRequest_queueClock s _ _ u hu]
      · intro h; cases h
    · intro h
      simp only [Option.map_eq_some_iff] at h
      obtain ⟨u, hu, rfl⟩ := h
      simp [State.drbgRequest_queueClock s _ _ u hu]
  · split
    · intro h
      exact (Option.some.inj h) ▸ rfl
    · intro h
      exact (Option.some.inj h) ▸ rfl

@[simp] theorem State.drawLinkKey_queueClock (s : State) (j : Job) :
    ∀ t, s.drawLinkKey j = some t → t.2.queueClock = s.queueClock := by
  unfold State.drawLinkKey
  try dsimp only
  repeat' first
    | (simp; done)
    | refine (foldl_queueClock _ (fun s a => ?_) _ _).trans ?_
    | refine (foldl_snd_queueClock _ (fun x a => ?_) _ _).trans ?_
    | split

@[simp] theorem State.sendKeyRecords_queueClock (s : State) (j : Job) : (s.sendKeyRecords j).queueClock = s.queueClock := by
  unfold State.sendKeyRecords
  try dsimp only
  repeat' first
    | (simp; done)
    | refine (foldl_queueClock _ (fun s a => ?_) _ _).trans ?_
    | refine (foldl_snd_queueClock _ (fun x a => ?_) _ _).trans ?_
    | split

@[simp] theorem State.declareIdle_queueClock (s : State) (h : Handle) (j : Job) :
    (s.declareIdle h j).queueClock = s.queueClock := by
  unfold State.declareIdle
  try dsimp only
  repeat' first
    | (simp; done)
    | refine (foldl_queueClock _ (fun s a => ?_) _ _).trans ?_

@[simp] theorem State.takeIn_queueClock (s : State) (h : Handle) (j : Job) : (s.takeIn h j).queueClock = s.queueClock := by
  have h1 : ∀ t : State, (j.engines.foldl (fun s x =>
    match j.image.engines[x.1]? with
    | some r => s.modCore x.2 fun k => k.loadShadow r
    | none => s) t).queueClock = t.queueClock := fun t => foldl_queueClock _ (fun s a => by split <;> simp) _ _
  simp only [State.takeIn]
  split
  · rw [State.sendUp_queueClock, State.modMb_queueClock, State.declareIdle_queueClock, State.setJob_queueClock, State.sendKeyRecords_queueClock]
    exact h1 s
  · rw [State.complete_queueClock, State.declareIdle_queueClock, State.setJob_queueClock, State.sendKeyRecords_queueClock]
    exact h1 s

@[simp] theorem State.admitPlaced_queueClock (s : State) (h : Handle) (p : Job) :
    (s.admitPlaced h p).queueClock = s.queueClock := by
  unfold State.admitPlaced
  simp only
  split
  · exact State.withdraw_queueClock ..
  · split
    · rfl
    · split
      · rfl
      · rename_i e
        rw [State.withdraw_queueClock]
        exact State.drawLinkKey_queueClock s p _ e
      · rename_i e
        have e1 := State.drawLinkKey_queueClock s p _ e
        split
        · exact State.queueDraw_queueClock ..
        · rename_i e'
          have e2 := State.drawSeed_queueClock _ _ _ _ e'
          rw [State.takeIn_queueClock]
          split <;> first | exact e2.trans e1 | (simp; exact e2.trans e1)

@[simp] theorem State.takeGo_queueClock (s : State) (token : Dword) : (s.takeGo token).queueClock = s.queueClock := by
  unfold State.takeGo
  try dsimp only
  repeat' first
    | (simp; done)
    | refine (foldl_queueClock _ (fun s a => ?_) _ _).trans ?_
    | refine (foldl_snd_queueClock _ (fun x a => ?_) _ _).trans ?_
    | split

@[simp] theorem State.takeBase_queueClock (s : State) (token : Dword) (target b : Nat) :
    (s.takeBase token target b).queueClock = s.queueClock := by
  unfold State.takeBase
  try dsimp only
  repeat' first
    | (simp; done)
    | refine (foldl_queueClock _ (fun s a => ?_) _ _).trans ?_
    | refine (foldl_snd_queueClock _ (fun x a => ?_) _ _).trans ?_
    | split

/-! ## Operations of Machine/Boot.lean -/

@[simp] theorem State.bootGo_queueClock (s : State) : s.bootGo.queueClock = s.queueClock := by
  simp [State.bootGo]

@[simp] theorem State.setBase_queueClock (s : State) (master : Bool) (id masterId up linkEn base size priv : Nat) (parts : Nat → Nat) :
    (s.setBase master id masterId up linkEn base size priv parts).queueClock = s.queueClock := by
  simp only [State.setBase]
  rw [State.setDcbF_queueClock, State.setDcbF_queueClock, State.setDcbF_queueClock]
  refine (foldl_queueClock _ (fun s a => ?_) _ _).trans ?_
  · simp only [State.setDcbF_queueClock]
  · simp only [State.setDcbF_queueClock, State.queueClock_mk, State.queueClock_fold]

@[simp] theorem State.setPartition_queueClock (s : State) (i stat clusters res : Nat) :
    (s.setPartition i stat clusters res).queueClock = s.queueClock := by
  simp [State.setPartition]

@[simp] theorem State.loadOverlays_queueClock (s : State) : s.loadOverlays.queueClock = s.queueClock := by
  unfold State.loadOverlays
  try dsimp only
  repeat' first
    | (simp; done)
    | refine (foldl_queueClock _ (fun s a => ?_) _ _).trans ?_

@[simp] theorem State.applyConfig_queueClock (s : State) : s.applyConfig.queueClock = s.queueClock := by
  simp only [State.applyConfig]
  split
  · rw [State.loadOverlays_queueClock]
    refine (foldl_queueClock _ (fun s a => ?_) _ _).trans ?_
    · split <;> exact State.setPartition_queueClock ..
    · rw [State.setBase_queueClock]
      try simp only [State.queueClock_mk, State.queueClock_fold]
  · rw [State.setDcbF_queueClock, State.setPartition_queueClock, State.setBase_queueClock]
    try simp only [State.queueClock_mk, State.queueClock_fold]

@[simp] theorem State.applyCalibration_queueClock (s : State) : s.applyCalibration.queueClock = s.queueClock := by
  unfold State.applyCalibration
  simp only [State.setDcbF_queueClock]
  exact foldl_queueClock _ (fun s a => by simp) _ _

@[simp] theorem State.zeroMemory_queueClock (s : State) : s.zeroMemory.queueClock = s.queueClock := by
  simp [State.zeroMemory]

@[simp] theorem State.applyEntry_queueClock (s : State) (e : Nat × Word × Word) :
    (s.applyEntry e).queueClock = s.queueClock := by
  exact State.setDcb_queueClock _ _ _

@[simp] theorem State.applyOverlays_queueClock (s : State) (mask : Nat) :
    (s.applyOverlays mask).queueClock = s.queueClock := by
  unfold State.applyOverlays
  try dsimp only
  repeat' first
    | (simp; done)
    | refine (foldl_queueClock _ (fun s a => ?_) _ _).trans ?_
    | refine (foldl_snd_queueClock _ (fun x a => ?_) _ _).trans ?_
    | split

/-! ## Operations of Machine/Links.lean -/

@[simp] theorem State.setLink_queueClock (s : State) (l : Nat) (p : LinkPort) :
    (s.setLink l p).queueClock = s.queueClock := by
  simp [State.setLink]

@[simp] theorem State.enterFor_queueClock (s : State) (unit code detail : Nat) (hs : List Handle) :
    (s.enterFor unit code detail hs).queueClock = s.queueClock := by
  unfold State.enterFor
  try dsimp only
  repeat' first
    | (simp; done)
    | refine (foldl_queueClock _ (fun s a => ?_) _ _).trans ?_

@[simp] theorem State.lockLoss_queueClock (s : State) : s.lockLoss.queueClock = s.queueClock := by
  unfold State.lockLoss
  try dsimp only
  repeat' first
    | (simp; done)
    | refine (foldl_queueClock _ (fun s a => ?_) _ _).trans ?_
    | refine (foldl_snd_queueClock _ (fun x a => ?_) _ _).trans ?_
    | split

@[simp] theorem State.linkFall_queueClock (s : State) (l : Nat) : (s.linkFall l).queueClock = s.queueClock := by
  simp [State.linkFall]

@[simp] theorem State.takeControl_queueClock (s : State) (l : Nat) (c : List Byte) :
    (s.takeControl l c).queueClock = s.queueClock := by
  simp [State.takeControl]

@[simp] theorem State.tagFail_queueClock (s : State) : s.tagFail.queueClock = s.queueClock := by
  simp [State.tagFail]

@[simp] theorem State.takeKeyRecord_queueClock (s : State) (l : Nat) (m : FreeMsg) :
    (s.takeKeyRecord l m).queueClock = s.queueClock := by
  unfold State.takeKeyRecord
  try dsimp only
  repeat' first
    | (simp; done)
    | refine (foldl_queueClock _ (fun s a => ?_) _ _).trans ?_
    | refine (foldl_snd_queueClock _ (fun x a => ?_) _ _).trans ?_
    | split

@[simp] theorem State.takeAddressed_queueClock (s : State) (m : FreeMsg) :
    (s.takeAddressed m).queueClock = s.queueClock := by
  unfold State.takeAddressed
  try dsimp only
  repeat' first
    | (simp; done)
    | refine (foldl_queueClock _ (fun s a => ?_) _ _).trans ?_
    | refine (foldl_snd_queueClock _ (fun x a => ?_) _ _).trans ?_
    | split

@[simp] theorem State.stageGranule_queueClock (s : State) (c : Nat) (j : Job) (x : Landing) (g : Granule) :
    (s.stageGranule c j x g).queueClock = s.queueClock := by
  exact State.modCore_queueClock _ _ _

@[simp] theorem State.landFlit_queueClock (s : State) (h : Handle) (j : Job) (x : Landing) (g : Granule) :
    (s.landFlit h j x g).queueClock = s.queueClock := by
  unfold State.landFlit
  try dsimp only
  repeat' first
    | (simp; done)
    | refine (foldl_queueClock _ (fun s a => ?_) _ _).trans ?_
    | refine (foldl_snd_queueClock _ (fun x a => ?_) _ _).trans ?_
    | split

@[simp] theorem State.landJob_queueClock (s : State) (l : Nat) (f : RxFrame) (x : Handle × Job × List Landing) :
    (s.landJob l f x).queueClock = s.queueClock := by
  unfold State.landJob
  try dsimp only
  repeat' first
    | (simp; done)
    | refine (foldl_queueClock _ (fun s a => ?_) _ _).trans ?_
    | refine (foldl_snd_queueClock _ (fun x a => ?_) _ _).trans ?_
    | split

@[simp] theorem State.countWords_queueClock (s : State) (l : Nat) (f : RxFrame) (jobs : List (Handle × Job × List Landing)) (kept : Bool) :
    (s.countWords l f jobs kept).queueClock = s.queueClock := by
  unfold State.countWords
  try dsimp only
  repeat' first
    | (simp; done)
    | refine (foldl_queueClock _ (fun s a => ?_) _ _).trans ?_

@[simp] theorem State.laneState_queueClock (s : State) (l : Nat) (f : RxFrame) :
    (s.laneState l f).queueClock = s.queueClock := by
  unfold State.laneState
  try dsimp only
  repeat' first
    | (simp; done)
    | refine (foldl_queueClock _ (fun s a => ?_) _ _).trans ?_
    | refine (foldl_snd_queueClock _ (fun x a => ?_) _ _).trans ?_
    | split

@[simp] theorem State.takeFrame_queueClock (s : State) (l : Nat) (f : RxFrame) :
    (s.takeFrame l f).queueClock = s.queueClock := by
  unfold State.takeFrame
  try dsimp only
  repeat' first
    | (simp; done)
    | refine (foldl_queueClock _ (fun s a => ?_) _ _).trans ?_
    | refine (foldl_snd_queueClock _ (fun x a => ?_) _ _).trans ?_
    | split

@[simp] theorem State.loseFrame_queueClock (s : State) (l : Nat) : (s.loseFrame l).queueClock = s.queueClock := by
  simp [State.loseFrame]

/-! ## Operations of Machine/Debug.lean -/

@[simp] theorem State.cutCmd_queueClock (s : State) (c : Nat) (h : Handle) (j : Job) (i : Issued) (last : Nat) :
    (s.cutCmd c h j i last).queueClock = s.queueClock := by
  simp [State.cutCmd]

@[simp] theorem State.cutCore_queueClock (s : State) (c last : Nat) : (s.cutCore c last).queueClock = s.queueClock := by
  unfold State.cutCore
  try dsimp only
  repeat' first
    | (simp; done)
    | refine (foldl_queueClock _ (fun s a => ?_) _ _).trans ?_
    | refine (foldl_snd_queueClock _ (fun x a => ?_) _ _).trans ?_
    | split

@[simp] theorem State.haltNow_queueClock (s : State) : s.haltNow.queueClock = s.queueClock := by
  unfold State.haltNow
  simp only
  rw [foldl_queueClock _ (fun s c => State.takeSnapshot_queueClock _ _ _), State.setDcbF_queueClock, State.dieEvent_queueClock, State.addTrace_queueClock]
  refine (foldl_queueClock _ (fun s c => ?_) _ _).trans ?_
  · rw [State.queueClock_mk, State.pending_of_queueClock (State.cutCore_queueClock _ c _)]
    rfl
  · simp

/-! ## Operations of Machine/Security.lean -/

@[simp] theorem State.setKeySet_queueClock (s : State) (p k : Nat) (x : KeySet) :
    (s.setKeySet p k x).queueClock = s.queueClock := by
  simp [State.setKeySet]

@[simp] theorem State.setXfer_queueClock (s : State) (m : Nat) (x : Option CryptXfer) :
    (s.setXfer m x).queueClock = s.queueClock := by
  simp [State.setXfer]

@[simp] theorem State.secTagFail_queueClock (s : State) : s.secTagFail.queueClock = s.queueClock := by
  simp [State.secTagFail]

@[simp] theorem State.spdmAnswer_queueClock (s : State) (m p : Nat) (t : TakenCmd) :
    (s.spdmAnswer m p t).queueClock = s.queueClock := by
  simp [State.spdmAnswer]

@[simp] theorem State.keyExchange_queueClock (s : State) (m p : Nat) (t : TakenCmd) :
    (s.keyExchange m p t).queueClock = s.queueClock := by
  unfold State.keyExchange
  try dsimp only
  repeat' first
    | (simp; done)
    | refine (foldl_queueClock _ (fun s a => ?_) _ _).trans ?_
    | refine (foldl_snd_queueClock _ (fun x a => ?_) _ _).trans ?_
    | split

@[simp] theorem State.openSession_queueClock (s : State) (p : Nat) : (s.openSession p).queueClock = s.queueClock := by
  simp [State.openSession]

@[simp] theorem State.securedData_queueClock (s : State) (m p : Nat) (t : TakenCmd) :
    (s.securedData m p t).queueClock = s.queueClock := by
  simp [State.securedData]

@[simp] theorem State.newChallenge_queueClock (s : State) : s.newChallenge.queueClock = s.queueClock := by
  simp [State.newChallenge]

@[simp] theorem State.scrubMemory_queueClock (s : State) (p : Nat) : (s.scrubMemory p).queueClock = s.queueClock := by
  simp [State.scrubMemory]

/-! ## Operations of Machine/ErrCmd.lean -/

@[simp] theorem State.ackRecords_queueClock (s : State) (unit : Nat) (id : Word) :
    (s.ackRecords unit id).queueClock = s.queueClock := by
  unfold State.ackRecords
  try dsimp only
  repeat' first
    | (simp; done)
    | refine (foldl_queueClock _ (fun s a => ?_) _ _).trans ?_
    | refine (foldl_snd_queueClock _ (fun x a => ?_) _ _).trans ?_
    | split

@[simp] theorem State.coreLogicFault_queueClock (s : State) (c : Nat) : (s.coreLogicFault c).queueClock = s.queueClock := by
  simp [State.coreLogicFault]

@[simp] theorem State.routerFault_queueClock (s : State) (c : Nat) : (s.routerFault c).queueClock = s.queueClock := by
  simp [State.routerFault]

@[simp] theorem State.storageFault_queueClock (s : State) (c e off : Nat) (double : Bool) :
    (s.storageFault c e off double).queueClock = s.queueClock := by
  simp [State.storageFault]

@[simp] theorem State.resetSteward_queueClock (s : State) : s.resetSteward.queueClock = s.queueClock := by
  simp [State.resetSteward]

/-! ## Operations of Machine/Power.lean -/

@[simp] theorem State.setPower_queueClock (s : State) (f : Power → Power) : (s.setPower f).queueClock = s.queueClock := by
  simp [State.setPower]

@[simp] theorem State.tryPowerOn_queueClock (s : State) : s.tryPowerOn.queueClock = s.queueClock := by
  simp [State.tryPowerOn]

@[simp] theorem State.tripJobs_queueClock (s : State) (id : Word) : (s.tripJobs id).queueClock = s.queueClock := by
  unfold State.tripJobs
  try dsimp only
  repeat' first
    | (simp; done)
    | refine (foldl_queueClock _ (fun s a => ?_) _ _).trans ?_

@[simp] theorem State.trip_queueClock (s : State) (code detail : Nat) : (s.trip code detail).queueClock = s.queueClock := by
  simp [State.trip]

@[simp] theorem State.powerWarning_queueClock (s : State) (input : Nat) :
    (s.powerWarning input).queueClock = s.queueClock := by
  simp [State.powerWarning]

@[simp] theorem State.thermStore_queueClock (s : State) (i : Nat) (t : BitVec 12) :
    (s.thermStore i t).queueClock = s.queueClock := by
  simp [State.thermStore]

@[simp] theorem State.thermWarning_queueClock (s : State) (i : Nat) (t : BitVec 12) :
    (s.thermWarning i t).queueClock = s.queueClock := by
  simp [State.thermWarning]

@[simp] theorem State.thermEnd_queueClock (s : State) : s.thermEnd.queueClock = s.queueClock := by
  simp [State.thermEnd]

/-! ## Operations of Machine/Pmbus.lean -/

@[simp] theorem State.pmbus_queueClock (s : State) (f : State → State) (h : ∀ s, (f s).queueClock = s.queueClock) :
    (s.pmbus f).queueClock = s.queueClock := by
  unfold State.pmbus
  try dsimp only
  repeat' first
    | (simp; done)
    | refine (foldl_queueClock _ (fun s a => ?_) _ _).trans ?_
    | refine (foldl_snd_queueClock _ (fun x a => ?_) _ _).trans ?_
    | split
    | (simp [h]; done)

@[simp] theorem State.reply_queueClock (s : State) (bs : State → List Byte) :
    (s.reply bs).queueClock = s.queueClock := by
  unfold State.reply
  exact State.pmbus_queueClock _ _ fun t => State.setPower_queueClock _ _

/-! ## Operations of Machine/StewardIo.lean -/

@[simp] theorem State.dmaPiece_queueClock (s : State) (a n : Nat) : (s.dmaPiece a n).2.queueClock = s.queueClock := by
  unfold State.dmaPiece
  try dsimp only
  repeat' first
    | (simp; done)
    | refine (foldl_queueClock _ (fun s a => ?_) _ _).trans ?_
    | refine (foldl_snd_queueClock _ (fun x a => ?_) _ _).trans ?_
    | split

@[simp] theorem State.dmaPutPiece_queueClock (s : State) (a : Nat) (bs : List Byte) :
    (s.dmaPutPiece a bs).queueClock = s.queueClock := by
  unfold State.dmaPutPiece
  try dsimp only
  repeat' first
    | (simp; done)
    | refine (foldl_queueClock _ (fun s a => ?_) _ _).trans ?_
    | refine (foldl_snd_queueClock _ (fun x a => ?_) _ _).trans ?_
    | split

@[simp] theorem State.dmaRead_queueClock (s : State) (a n : Nat) : (s.dmaRead a n).2.queueClock = s.queueClock := by
  unfold State.dmaRead
  try dsimp only
  repeat' first
    | (simp; done)
    | refine (foldl_queueClock _ (fun s a => ?_) _ _).trans ?_
    | refine (foldl_snd_queueClock _ (fun x a => ?_) _ _).trans ?_

@[simp] theorem State.dmaWrite_queueClock (s : State) (a : Nat) (bs : List Byte) :
    (s.dmaWrite a bs).queueClock = s.queueClock := by
  unfold State.dmaWrite
  try dsimp only
  repeat' first
    | (simp; done)
    | refine (foldl_queueClock _ (fun s a => ?_) _ _).trans ?_

@[simp] theorem State.flCommand_queueClock (s : State) (v : Word) : (s.flCommand v).queueClock = s.queueClock := by
  simp [State.flCommand]

@[simp] theorem State.flashReads_queueClock (s : State) : s.flashReads.queueClock = s.queueClock := by
  unfold State.flashReads
  try dsimp only
  repeat' first
    | (simp; done)
    | refine (foldl_queueClock _ (fun s a => ?_) _ _).trans ?_

@[simp] theorem State.flashWrite_queueClock (s : State) (o : Nat) (v m : Dword) :
    (s.flashWrite o v m).queueClock = s.queueClock := by
  simp [State.flashWrite]

@[simp] theorem State.setMac_queueClock (s : State) (p : Nat) (x : Mac) : (s.setMac p x).queueClock = s.queueClock := by
  simp [State.setMac]

@[simp] theorem State.macSet_queueClock (s : State) (p o : Nat) (v : Dword) :
    (s.macSet p o v).queueClock = s.queueClock := by
  simp [State.macSet]

@[simp] theorem State.macCount_queueClock (s : State) (p o n : Nat) : (s.macCount p o n).queueClock = s.queueClock := by
  simp [State.macCount]

@[simp] theorem State.macFlags_queueClock (s : State) (p : Nat) (v : Dword) :
    (s.macFlags p v).queueClock = s.queueClock := by
  unfold State.macFlags
  try dsimp only
  repeat' first
    | (simp; done)
    | refine (foldl_queueClock _ (fun s a => ?_) _ _).trans ?_

@[simp] theorem State.macFlag_queueClock (s : State) (p f : Nat) : (s.macFlag p f).queueClock = s.queueClock := by
  simp [State.macFlag]

@[simp] theorem State.macAdvance_queueClock (s : State) (p : Nat) (r : Nat × Nat × Nat) :
    (s.macAdvance p r).queueClock = s.queueClock := by
  simp [State.macAdvance]

@[simp] theorem State.macDrop_queueClock (s : State) (p : Nat) : (s.macDrop p).queueClock = s.queueClock := by
  simp [State.macDrop]

@[simp] theorem State.macReceive_queueClock (s : State) (p : Nat) (frame : List Byte) (fcsOk : Bool) :
    (s.macReceive p frame fcsOk).queueClock = s.queueClock := by
  simp [State.macReceive]

@[simp] theorem State.macRegWrite_queueClock (s : State) (p o : Nat) (v m : Dword) :
    (s.macRegWrite p o v m).queueClock = s.queueClock := by
  simp [State.macRegWrite]

/-! ## Operations of Machine/Access.lean -/

@[simp] theorem State.dcbRegWrite_queueClock (s : State) (o : Nat) (v m : Dword) :
    (s.dcbRegWrite o v m).queueClock = s.queueClock := by
  simp [State.dcbRegWrite]

@[simp] theorem State.stagingWrite_queueClock (s : State) (o : Nat) (bs : List Byte) :
    (s.stagingWrite o bs).queueClock = s.queueClock := by
  simp [State.stagingWrite]

@[simp] theorem State.dcbWrite_queueClock (s : State) (o : Nat) (bs : List Byte) :
    (s.dcbWrite o bs).queueClock = s.queueClock := by
  unfold State.dcbWrite
  try dsimp only
  repeat' first
    | (simp; done)
    | refine (foldl_queueClock _ (fun s a => ?_) _ _).trans ?_
    | refine (foldl_snd_queueClock _ (fun x a => ?_) _ _).trans ?_
    | split

@[simp] theorem State.deviceRead_queueClock (s : State) (d n : Nat) : (s.deviceRead d n).2.queueClock = s.queueClock := by
  unfold State.deviceRead
  try dsimp only
  repeat' first
    | (simp; done)
    | refine (foldl_queueClock _ (fun s a => ?_) _ _).trans ?_
    | refine (foldl_snd_queueClock _ (fun x a => ?_) _ _).trans ?_
    | split

@[simp] theorem State.deviceWrite_queueClock (s : State) (d : Nat) (bs : List Byte) :
    (s.deviceWrite d bs).queueClock = s.queueClock := by
  unfold State.deviceWrite
  try dsimp only
  repeat' first
    | (simp; done)
    | refine (foldl_queueClock _ (fun s a => ?_) _ _).trans ?_
    | refine (foldl_snd_queueClock _ (fun x a => ?_) _ _).trans ?_
    | split

@[simp] theorem State.localWord_queueClock (s : State) (a : Nat) : (s.localWord a).2.queueClock = s.queueClock := by
  simp [State.localWord]

@[simp] theorem State.localRead_queueClock (s : State) (a n : Nat) : (s.localRead a n).2.queueClock = s.queueClock := by
  unfold State.localRead
  try dsimp only
  repeat' first
    | (simp; done)
    | refine (foldl_queueClock _ (fun s a => ?_) _ _).trans ?_
    | refine (foldl_snd_queueClock _ (fun x a => ?_) _ _).trans ?_

@[simp] theorem State.localWrite_queueClock (s : State) (a : Nat) (bs : List Byte) :
    (s.localWrite a bs).queueClock = s.queueClock := by
  unfold State.localWrite
  try dsimp only
  repeat' first
    | (simp; done)
    | refine (foldl_queueClock _ (fun s a => ?_) _ _).trans ?_
    | refine (foldl_snd_queueClock _ (fun x a => ?_) _ _).trans ?_
    | split

@[simp] theorem State.answerRead_queueClock (r : List Byte × State) : (State.answerRead r).queueClock = r.2.queueClock := by
  simp [State.answerRead]

@[simp] theorem State.deviceAccess_queueClock (s : State) (r : StewardReq) (d : Nat) :
    (s.deviceAccess r d).queueClock = s.queueClock := by
  unfold State.deviceAccess
  split
  · exact State.deviceWrite_queueClock ..
  · exact (State.answerRead_queueClock _).trans (State.deviceRead_queueClock ..)

@[simp] theorem State.localAccess_queueClock (s : State) (r : StewardReq) : (s.localAccess r).queueClock = s.queueClock := by
  unfold State.localAccess
  try dsimp only
  repeat' first
    | (simp; done)

end Sys2Proof.Machine
end

