-- ==== Sys2Proof/Laws/MemFrame.lean ====
section
/-! SUPPORT. The shared operations that leave memory as it is. -/

namespace Sys2Proof.Machine

theorem foldl_mem {α : Type} (f : State → α → State) (h : ∀ s a, (f s a).mem = s.mem) (l : List α) (s : State) :
    (l.foldl f s).mem = s.mem := by
  induction l generalizing s with
  | nil => rfl
  | cons a l ih => rw [List.foldl_cons, ih, h]

theorem foldl_snd_mem {α β : Type} (f : β × State → α → β × State) (h : ∀ x a, (f x a).2.mem = x.2.mem) (l : List α)
    (x : β × State) : (l.foldl f x).2.mem = x.2.mem := by
  induction l generalizing x with
  | nil => rfl
  | cons a l ih => rw [List.foldl_cons, ih, h]

@[simp] theorem ite_mem (p : Prop) [Decidable p] (a b : State) :
    (if p then a else b).mem = if p then a.mem else b.mem := by split <;> rfl

@[simp] theorem ite_snd_mem {β : Type} (p : Prop) [Decidable p] (a b : β × State) :
    (if p then a else b).2.mem = if p then a.2.mem else b.2.mem := by split <;> rfl

/-! ## Operations of Machine/Ops.lean -/

@[simp] theorem State.outOfReset_mem (s : State) (f : State → State) (h : ∀ s, (f s).mem = s.mem) :
    (s.outOfReset f).mem = s.mem := by
  unfold State.outOfReset
  try dsimp only
  repeat' first
    | (simp; done)
    | refine (foldl_mem _ (fun s a => ?_) _ _).trans ?_
    | refine (foldl_snd_mem _ (fun x a => ?_) _ _).trans ?_
    | split
    | (simp [h]; done)

@[simp] theorem State.setAnyConf_mem (s : State) : s.setAnyConf.mem = s.mem := by
  simp [State.setAnyConf]

@[simp] theorem State.setPartState_mem (s : State) (p v : Nat) : (s.setPartState p v).mem = s.mem := by
  simp [State.setPartState]

@[simp] theorem State.modJob_mem (s : State) (h : Handle) (f : Job → Job) : (s.modJob h f).mem = s.mem := by
  unfold State.modJob
  try dsimp only
  repeat' first
    | (simp; done)
    | refine (foldl_mem _ (fun s a => ?_) _ _).trans ?_
    | refine (foldl_snd_mem _ (fun x a => ?_) _ _).trans ?_
    | split

@[simp] theorem State.markEnd_mem (s : State) (h : Handle) (st : JobSt) (record : Word) :
    (s.markEnd h st record).mem = s.mem := by
  simp [State.markEnd]

@[simp] theorem State.markRunning_mem (s : State) (st : JobSt) (record : Word) : (s.markRunning st record).mem = s.mem := by
  unfold State.markRunning
  try dsimp only
  repeat' first
    | (simp; done)
    | refine (foldl_mem _ (fun s a => ?_) _ _).trans ?_
    | refine (foldl_snd_mem _ (fun x a => ?_) _ _).trans ?_
    | split

@[simp] theorem State.soundWhistle_mem (s : State) (src : Nat) : (s.soundWhistle src).mem = s.mem := by
  simp [State.soundWhistle]

@[simp] theorem State.enterError_mem (s : State) (unit code : Nat) (i : ErrInfo) :
    (s.enterError unit code i).mem = s.mem := by
  simp [State.enterError]

@[simp] theorem State.enterJobFault_mem (s : State) (c code detail addr engine : Nat) :
    (s.enterJobFault c code detail addr engine).mem = s.mem := by
  simp [State.enterJobFault]

@[simp] theorem State.respond_mem (s : State) (m : Nat) (t : TakenCmd) (active : Bool) (status : Nat) (words : List Word) (record : Word) :
    (s.respond m t active status words record).mem = s.mem := by
  simp [State.respond]

@[simp] theorem State.answer_mem (s : State) (m : Nat) (t : TakenCmd) (status : Nat) (words : List Word) :
    (s.answer m t status words).mem = s.mem := by
  simp [State.answer]

@[simp] theorem State.accept_mem (s : State) (m : Nat) (t : TakenCmd) : (s.accept m t).mem = s.mem := by
  simp [State.accept]

@[simp] theorem State.complete_mem (s : State) (m status : Nat) (words : List Word) (record : Word) :
    (s.complete m status words record).mem = s.mem := by
  unfold State.complete
  try dsimp only
  repeat' first
    | (simp; done)
    | refine (foldl_mem _ (fun s a => ?_) _ _).trans ?_
    | refine (foldl_snd_mem _ (fun x a => ?_) _ _).trans ?_
    | split

@[simp] theorem State.onTaken_mem (s : State) (m opcode : Nat) (f : TakenCmd → State) (h : ∀ x, (f x).mem = s.mem) :
    (s.onTaken m opcode f).mem = s.mem := by
  unfold State.onTaken
  try dsimp only
  repeat' first
    | (simp; done)
    | refine (foldl_mem _ (fun s a => ?_) _ _).trans ?_
    | refine (foldl_snd_mem _ (fun x a => ?_) _ _).trans ?_
    | split
    | (simp [h]; done)

@[simp] theorem State.traceJob_mem (s : State) (h : Handle) (j : Job) (beat : Nat) : (s.traceJob h j beat).mem = s.mem := by
  simp [State.traceJob]

@[simp] theorem State.traceCmd_mem (s : State) (c engine : Nat) (i : Issued) (endCycle : Nat) (cut : Bool) :
    (s.traceCmd c engine i endCycle cut).mem = s.mem := by
  simp [State.traceCmd]

/-! ## Operations of Machine/Flags.lean -/

@[simp] theorem State.undefCount_mem (s : State) : s.undefCount.mem = s.mem := by
  simp [State.undefCount]

@[simp] theorem State.applyIncs_mem (s : State) (c : Nat) : (s.applyIncs c).mem = s.mem := by
  unfold State.applyIncs
  try dsimp only
  repeat' first
    | (simp; done)
    | refine (foldl_mem _ (fun s a => ?_) _ _).trans ?_
    | refine (foldl_snd_mem _ (fun x a => ?_) _ _).trans ?_
    | split

/-! ## Operations of Machine/Threads.lean -/

@[simp] theorem State.atStop_mem (s : State) : s.atStop.mem = s.mem := by
  simp [State.atStop]

@[simp] theorem State.putSnapshot_mem (s : State) (c cause : Nat) (b : List Byte) :
    (s.putSnapshot c cause b).mem = s.mem := by
  simp [State.putSnapshot]

@[simp] theorem State.takeSnapshot_mem (s : State) (c cause : Nat) : (s.takeSnapshot c cause).mem = s.mem := by
  unfold State.takeSnapshot
  try dsimp only
  repeat' first
    | (simp; done)

@[simp] theorem State.finishCmd_mem (s : State) (c : Nat) (j : Job) (i : Issued) : (s.finishCmd c j i).mem = s.mem := by
  simp [State.finishCmd]

/-! ## Operations of Machine/FeltStore.lean -/

@[simp] theorem State.feltWrite_mem (s : State) (c : Nat) (ws : List FeltWrite) : (s.feltWrite c ws).mem = s.mem := by
  simp [State.feltWrite]

@[simp] theorem State.takeInject_mem (s : State) (unit : Nat) : (s.takeInject unit).2.mem = s.mem := by
  unfold State.takeInject
  try dsimp only
  repeat' first
    | (simp; done)
    | refine (foldl_mem _ (fun s a => ?_) _ _).trans ?_
    | refine (foldl_snd_mem _ (fun x a => ?_) _ _).trans ?_
    | split

@[simp] theorem State.storageError_mem (s : State) (c e off code : Nat) : (s.storageError c e off code).mem = s.mem := by
  simp [State.storageError]

@[simp] theorem State.storageAccess_mem (s : State) (c e : Nat) (i : Issued) : (s.storageAccess c e i).mem = s.mem := by
  unfold State.storageAccess
  try dsimp only
  repeat' first
    | (simp; done)
    | refine (foldl_mem _ (fun s a => ?_) _ _).trans ?_
    | refine (foldl_snd_mem _ (fun x a => ?_) _ _).trans ?_
    | split

/-! ## Operations of Machine/Bus.lean -/

@[simp] theorem State.markWords_mem (s : State) (a : Nat) (mask : BitVec 64) (bad : Byte) :
    (s.markWords a mask bad).mem = s.mem := by
  simp [State.markWords]

@[simp] theorem State.spoil_mem (s : State) (g : Granule) (m : Byte) : (s.spoil g m).2.mem = s.mem := by
  unfold State.spoil
  try dsimp only
  repeat' first
    | (simp; done)
    | refine (foldl_mem _ (fun s a => ?_) _ _).trans ?_
    | refine (foldl_snd_mem _ (fun x a => ?_) _ _).trans ?_

@[simp] theorem State.recordWords_mem (s : State) (hbm : Bool) (p c e addr : Nat) (h : Handle) (ce ue : Byte) (capar : Bool) :
    (s.recordWords hbm p c e addr h ce ue capar).mem = s.mem := by
  simp [State.recordWords]

@[simp] theorem State.meetWords_mem (s : State) (write hbm : Bool) (p c e addr : Nat) (h : Handle) (ce fresh words : Byte) (capar : Bool) (data : Granule) :
    (s.meetWords write hbm p c e addr h ce fresh words capar data).2.2.mem = s.mem := by
  simp [State.meetWords]

@[simp] theorem State.meetErrors_mem (s : State) (write hbm : Bool) (p c e addr : Nat) (h : Handle) (x : XferErr) (data : Granule) :
    (s.meetErrors write hbm p c e addr h x data).2.2.mem = s.mem := by
  simp [State.meetErrors]

@[simp] theorem State.accessError_mem (s : State) (c e a : Nat) : (s.accessError c e a).mem = s.mem := by
  simp [State.accessError]

@[simp] theorem State.slotError_mem (s : State) (c e a : Nat) : (s.slotError c e a).mem = s.mem := by
  simp [State.slotError]

@[simp] theorem State.logPayload_mem (s : State) (c : Nat) (j : Job) (slot : Nat) (data : Granule) :
    (s.logPayload c j slot data).mem = s.mem := by
  simp [State.logPayload]

@[simp] theorem State.logTransfer_mem (s : State) (x : Transfer) (data : Granule) : (s.logTransfer x data).mem = s.mem := by
  unfold State.logTransfer
  try dsimp only
  repeat' first
    | (simp; done)
    | refine (foldl_mem _ (fun s a => ?_) _ _).trans ?_
    | refine (foldl_snd_mem _ (fun x a => ?_) _ _).trans ?_
    | split

@[simp] theorem State.tapSend_mem (s : State) (x : Transfer) (f : Nat) (data : Granule) :
    (s.tapSend x f data).mem = s.mem := by
  simp [State.tapSend]

@[simp] theorem State.readSource_mem (s : State) (x : Transfer) (a : Nat) : (s.readSource x a).2.mem = s.mem := by
  unfold State.readSource
  try dsimp only
  repeat' first
    | (simp; done)
    | refine (foldl_mem _ (fun s a => ?_) _ _).trans ?_
    | refine (foldl_snd_mem _ (fun x a => ?_) _ _).trans ?_
    | split

@[simp] theorem State.fillData_mem (s : State) (x : Transfer) : (s.fillData x).2.mem = s.mem := by
  unfold State.fillData
  try dsimp only
  repeat' first
    | (simp; done)
    | refine (foldl_mem _ (fun s a => ?_) _ _).trans ?_
    | refine (foldl_snd_mem _ (fun x a => ?_) _ _).trans ?_
    | split

@[simp] theorem State.advance_mem (r : List Transfer × State) (x : Transfer) : (State.advance r x).2.mem = r.2.mem := by
  unfold State.advance
  try dsimp only
  repeat' first
    | (simp; done)
    | refine (foldl_mem _ (fun s a => ?_) _ _).trans ?_
    | refine (foldl_snd_mem _ (fun x a => ?_) _ _).trans ?_
    | split

@[simp] theorem State.advanceAll_mem (s : State) : s.advanceAll.mem = s.mem := by
  unfold State.advanceAll
  simp only [State.queueClock_mk, State.queueClock_fold]
  exact foldl_snd_mem _ (fun x a => State.advance_mem _ _) _ _

@[simp] theorem State.launch_mem (s : State) (x : Transfer) : (s.launch x).mem = s.mem := by
  unfold State.launch
  split
  · exact State.advance_mem ([], s) x
  · simp

@[simp] theorem State.launchWrite_mem (s : State) (c : Nat) (h : Handle) (j : Job) (e : Nat) (slot : Nat × Word) (a n : Nat) (fill : WriteData) (target : WriteTarget) (data : Granule) :
    (s.launchWrite c h j e slot a n fill target data).mem = s.mem := by
  simp [State.launchWrite]

@[simp] theorem State.launchRead_mem (s : State) (c : Nat) (h : Handle) (j : Job) (e : Nat) (slot : Nat × Word) (a n : Nat) (dest : ReadDest) :
    (s.launchRead c h j e slot a n dest).mem = s.mem := by
  simp [State.launchRead]

@[simp] theorem State.launchReads_mem (s : State) (c : Nat) (h : Handle) (j : Job) (i : Issued) :
    (s.launchReads c h j i).mem = s.mem := by
  unfold State.launchReads
  try dsimp only
  repeat' first
    | (simp; done)
    | refine (foldl_mem _ (fun s a => ?_) _ _).trans ?_
    | refine (foldl_snd_mem _ (fun x a => ?_) _ _).trans ?_
    | split

/-! ## Operations of Machine/Program.lean -/

@[simp] theorem State.declareFor_mem (s : State) (h : Handle) (c : Nat) : (s.declareFor h c).mem = s.mem := by
  unfold State.declareFor
  try dsimp only
  repeat' first
    | (simp; done)
    | refine (foldl_mem _ (fun s a => ?_) _ _).trans ?_
    | refine (foldl_snd_mem _ (fun x a => ?_) _ _).trans ?_
    | split

/-! ## Operations of Machine/Window.lean -/

@[simp] theorem State.unmapped_mem (s : State) : s.unmapped.mem = s.mem := by
  simp [State.unmapped]

@[simp] theorem State.blockedCount_mem (s : State) : s.blockedCount.mem = s.mem := by
  simp [State.blockedCount]

@[simp] theorem State.memRead_mem (s : State) (hbm : Bool) (p a n : Nat) (err : XferErr) :
    (s.memRead hbm p a n err).2.mem = s.mem := by
  simp [State.memRead]

@[simp] theorem State.readWords_mem (s : State) (f : Nat → Option (List Byte)) (o n : Nat) :
    (s.readWords f o n).2.mem = s.mem := by
  simp [State.readWords]

@[simp] theorem State.coreRegWrite_mem (s : State) (c o : Nat) (v m : Dword) : (s.coreRegWrite c o v m).mem = s.mem := by
  simp [State.coreRegWrite]

@[simp] theorem State.coreStoreWrite_mem (s : State) (c o : Nat) (bs : List Byte) :
    (s.coreStoreWrite c o bs).mem = s.mem := by
  simp [State.coreStoreWrite]

@[simp] theorem State.windowRead_mem (s : State) (c o a n : Nat) (err : XferErr) :
    (s.windowRead c o a n err).2.mem = s.mem := by
  simp [State.windowRead]

@[simp] theorem State.windowWrite_mem (s : State) (c o a : Nat) (bs : List Byte) (err : XferErr) :
    (s.windowWrite c o a bs err).mem = s.mem := by
  unfold State.windowWrite
  try dsimp only
  repeat' first
    | (simp; done)
    | refine (foldl_mem _ (fun s a => ?_) _ _).trans ?_
    | refine (foldl_snd_mem _ (fun x a => ?_) _ _).trans ?_
    | split

@[simp] theorem State.crossRead_mem (s : State) (d n : Nat) (err : XferErr) : (s.crossRead d n err).2.mem = s.mem := by
  unfold State.crossRead
  try dsimp only
  repeat' first
    | (simp; done)
    | refine (foldl_mem _ (fun s a => ?_) _ _).trans ?_
    | refine (foldl_snd_mem _ (fun x a => ?_) _ _).trans ?_
    | split

/-! ## Operations of Machine/Sequencer.lean -/

@[simp] theorem State.engineAccept_mem (s : State) (c e : Nat) (j : Job) (i : Issued) :
    (s.engineAccept c e j i).mem = s.mem := by
  simp [State.engineAccept]

@[simp] theorem State.tallyCmd_mem (s : State) (e : Nat) : (s.tallyCmd e).mem = s.mem := by
  simp [State.tallyCmd]

@[simp] theorem State.arrive_mem (s : State) (c t r : Nat) : (s.arrive c t r).1.mem = s.mem := by
  unfold State.arrive
  try dsimp only
  repeat' first
    | (simp; done)
    | refine (foldl_mem _ (fun s a => ?_) _ _).trans ?_
    | refine (foldl_snd_mem _ (fun x a => ?_) _ _).trans ?_
    | split

/-! ## Operations of Machine/Ends.lean -/

@[simp] theorem State.leaveCore_mem (s : State) (c : Nat) : (s.leaveCore c).mem = s.mem := by
  unfold State.leaveCore
  try dsimp only
  repeat' first
    | (simp; done)
    | refine (foldl_mem _ (fun s a => ?_) _ _).trans ?_
    | refine (foldl_snd_mem _ (fun x a => ?_) _ _).trans ?_
    | split

@[simp] theorem State.leaveCompleted_mem (s : State) : s.leaveCompleted.mem = s.mem := by
  unfold State.leaveCompleted
  try dsimp only
  repeat' first
    | (simp; done)
    | refine (foldl_mem _ (fun s a => ?_) _ _).trans ?_
    | refine (foldl_snd_mem _ (fun x a => ?_) _ _).trans ?_
    | split

@[simp] theorem State.leaveCores_mem (s : State) (h : Handle) (j : Job) : (s.leaveCores h j).mem = s.mem := by
  unfold State.leaveCores
  exact foldl_mem _ (fun s a => by split <;> simp) _ _

@[simp] theorem State.failSave_mem (s : State) (j : Job) (record : Word) : (s.failSave j record).mem = s.mem := by
  unfold State.failSave
  try dsimp only
  repeat' first
    | (simp; done)
    | refine (foldl_mem _ (fun s a => ?_) _ _).trans ?_
    | refine (foldl_snd_mem _ (fun x a => ?_) _ _).trans ?_
    | split

@[simp] theorem State.endSession_mem (s : State) (p : Nat) : (s.endSession p).mem = s.mem := by
  unfold State.endSession
  try dsimp only
  repeat' first
    | (simp; done)
    | refine (foldl_mem _ (fun s a => ?_) _ _).trans ?_
    | refine (foldl_snd_mem _ (fun x a => ?_) _ _).trans ?_
    | split

@[simp] theorem State.answerAdmit_mem (s : State) (j : Job) (status : Nat) (record : Word) :
    (s.answerAdmit j status record).mem = s.mem := by
  unfold State.answerAdmit
  try dsimp only
  repeat' first
    | (simp; done)
    | refine (foldl_mem _ (fun s a => ?_) _ _).trans ?_
    | refine (foldl_snd_mem _ (fun x a => ?_) _ _).trans ?_
    | split

@[simp] theorem State.releaseKeySlot_mem (s : State) (a : Option Nat) : (s.releaseKeySlot a).mem = s.mem := by
  unfold State.releaseKeySlot
  try dsimp only
  repeat' first
    | (simp; done)
    | refine (foldl_mem _ (fun s a => ?_) _ _).trans ?_
    | refine (foldl_snd_mem _ (fun x a => ?_) _ _).trans ?_
    | split

@[simp] theorem State.finishAt_mem (s : State) (h : Handle) (st : JobSt) (record : Word) (beat : Nat) :
    (s.finishAt h st record beat).mem = s.mem := by
  unfold State.finishAt
  split
  · rfl
  · simp only [State.traceJob_mem, State.dieEvent_mem, State.setJob_mem]
    split <;> simp only [State.setDcbF_mem, State.leaveCores_mem, State.releaseKeySlot_mem]

@[simp] theorem State.finishJob_mem (s : State) (h : Handle) (st : JobSt) (record : Word) :
    (s.finishJob h st record).mem = s.mem := by
  simp [State.finishJob]

@[simp] theorem State.unbindKeySet_mem (s : State) (h : Handle) : (s.unbindKeySet h).mem = s.mem := by
  simp [State.unbindKeySet]

@[simp] theorem State.withdraw_mem (s : State) (h : Handle) (status : Nat) : (s.withdraw h status).mem = s.mem := by
  unfold State.withdraw
  try dsimp only
  repeat' first
    | (simp; done)
    | refine (foldl_mem _ (fun s a => ?_) _ _).trans ?_
    | refine (foldl_snd_mem _ (fun x a => ?_) _ _).trans ?_
    | split

@[simp] theorem State.applyEnd_mem (s : State) (h : Handle) : (s.applyEnd h).mem = s.mem := by
  unfold State.applyEnd
  try dsimp only
  repeat' first
    | (simp; done)
    | refine (foldl_mem _ (fun s a => ?_) _ _).trans ?_
    | refine (foldl_snd_mem _ (fun x a => ?_) _ _).trans ?_
    | split

@[simp] theorem State.endCancelled_mem (s : State) : s.endCancelled.mem = s.mem := by
  unfold State.endCancelled
  try dsimp only
  repeat' first
    | (simp; done)
    | refine (foldl_mem _ (fun s a => ?_) _ _).trans ?_
    | refine (foldl_snd_mem _ (fun x a => ?_) _ _).trans ?_
    | split

@[simp] theorem State.loadRestores_mem (s : State) : s.loadRestores.mem = s.mem := by
  simp [State.loadRestores]

@[simp] theorem State.releaseHalt_mem (s : State) : s.releaseHalt.mem = s.mem := by
  unfold State.releaseHalt
  try dsimp only
  repeat' first
    | (simp; done)
    | refine (foldl_mem _ (fun s a => ?_) _ _).trans ?_

@[simp] theorem State.releaseDue_mem (s : State) : s.releaseDue.mem = s.mem := by
  unfold State.releaseDue
  try dsimp only
  repeat' first
    | (simp; done)
    | refine (foldl_mem _ (fun s a => ?_) _ _).trans ?_
    | refine (foldl_snd_mem _ (fun x a => ?_) _ _).trans ?_
    | split

/-! ## Operations of Machine/Beat.lean -/

@[simp] theorem State.countEngine_mem (s : State) (c e : Nat) : (s.countEngine c e).mem = s.mem := by
  unfold State.countEngine
  try dsimp only
  repeat' first
    | (simp; done)
    | refine (foldl_mem _ (fun s a => ?_) _ _).trans ?_
    | refine (foldl_snd_mem _ (fun x a => ?_) _ _).trans ?_
    | split

@[simp] theorem State.coreCycle_mem (s : State) (c : Nat) : (s.coreCycle c).mem = s.mem := by
  unfold State.coreCycle
  split
  · simp only [State.modCore_mem]
    rw [foldl_mem _ (fun s a => by simp), State.applyIncs_mem]
  · rfl

@[simp] theorem State.forgetCycle_mem (s : State) : s.forgetCycle.mem = s.mem := by
  unfold State.forgetCycle
  try dsimp only
  repeat' first
    | (simp; done)
    | refine (foldl_mem _ (fun s a => ?_) _ _).trans ?_

@[simp] theorem State.cycleStart_mem (s : State) : s.cycleStart.mem = s.mem := by
  simp [State.cycleStart]

@[simp] theorem State.endUnfinished_mem (s : State) : s.endUnfinished.mem = s.mem := by
  unfold State.endUnfinished
  try dsimp only
  repeat' first
    | (simp; done)
    | refine (foldl_mem _ (fun s a => ?_) _ _).trans ?_
    | refine (foldl_snd_mem _ (fun x a => ?_) _ _).trans ?_
    | split

@[simp] theorem State.sequencerBoundary_mem (s : State) (c : Nat) : (s.sequencerBoundary c).mem = s.mem := by
  unfold State.sequencerBoundary
  try dsimp only
  repeat' first
    | (simp; done)
    | refine (foldl_mem _ (fun s a => ?_) _ _).trans ?_
    | refine (foldl_snd_mem _ (fun x a => ?_) _ _).trans ?_
    | split

@[simp] theorem State.dcbInForce_mem (s : State) : s.dcbInForce.mem = s.mem := by
  unfold State.dcbInForce
  try dsimp only
  repeat' first
    | (simp; done)
    | refine (foldl_mem _ (fun s a => ?_) _ _).trans ?_

@[simp] theorem State.devCounters_mem (s : State) : s.devCounters.mem = s.mem := by
  unfold State.devCounters
  try dsimp only
  repeat' first
    | (simp; done)
    | refine (foldl_mem _ (fun s a => ?_) _ _).trans ?_

@[simp] theorem State.enterTrace_mem (s : State) (r : BitVec 128) : (s.enterTrace r).mem = s.mem := by
  simp [State.enterTrace]

@[simp] theorem State.enterRecords_mem (s : State) : s.enterRecords.mem = s.mem := by
  unfold State.enterRecords
  try dsimp only
  repeat' first
    | (simp; done)
    | refine (foldl_mem _ (fun s a => ?_) _ _).trans ?_

@[simp] theorem State.beatDigest_mem (s : State) : s.beatDigest.mem = s.mem := by
  unfold State.beatDigest
  try dsimp only
  repeat' first
    | (simp; done)
    | refine (foldl_mem _ (fun s a => ?_) _ _).trans ?_
    | refine (foldl_snd_mem _ (fun x a => ?_) _ _).trans ?_
    | split

@[simp] theorem State.closeLockstep_mem (s : State) : s.closeLockstep.mem = s.mem := by
  unfold State.closeLockstep
  try dsimp only
  repeat' first
    | (simp; done)
    | refine (foldl_mem _ (fun s a => ?_) _ _).trans ?_
    | refine (foldl_snd_mem _ (fun x a => ?_) _ _).trans ?_
    | split

@[simp] theorem State.holdSnapshots_mem (s : State) : s.holdSnapshots.mem = s.mem := by
  unfold State.holdSnapshots
  try dsimp only
  repeat' first
    | (simp; done)
    | refine (foldl_mem _ (fun s a => ?_) _ _).trans ?_

@[simp] theorem State.openPorts_mem (s : State) : s.openPorts.mem = s.mem := by
  simp [State.openPorts]

/-! ## Operations of Machine/Felt.lean -/

@[simp] theorem State.stageAll_mem (s : State) (as : List FeltAct) (stage : Nat) : (s.stageAll as stage).mem = s.mem := by
  unfold State.stageAll
  try dsimp only
  repeat' first
    | (simp; done)
    | refine (foldl_mem _ (fun s a => ?_) _ _).trans ?_

@[simp] theorem State.stepCounts_mem (s s0 s1 : State) (a : FeltAct) : (s.stepCounts s0 s1 a).mem = s.mem := by
  simp [State.stepCounts]

@[simp] theorem State.feltCycle_mem (s : State) (runs : List (Nat × Issued)) (cyc : Nat) :
    (s.feltCycle runs cyc).mem = s.mem := by
  unfold State.feltCycle
  simp only
  rw [foldl_mem _ (fun s a => by simp), foldl_mem _ (fun s a => by simp), State.stageAll_mem, State.stageAll_mem, foldl_mem _ (fun s a => by simp)]

@[simp] theorem State.feltUpTo_mem (s : State) (j : Job) (beat stop : Nat) : (s.feltUpTo j beat stop).mem = s.mem := by
  unfold State.feltUpTo
  try dsimp only
  repeat' first
    | (simp; done)
    | refine (foldl_mem _ (fun s a => ?_) _ _).trans ?_

@[simp] theorem State.qRead_mem (s : State) (c : Nat) (i : Issued) : (s.qRead c i).2.mem = s.mem := by
  simp [State.qRead]

/-! ## Operations of Machine/FeltLarge.lean -/

@[simp] theorem State.writeAll_mem (s : State) (c : Nat) (h : Handle) (j : Job) (e : Nat) (slots : List (Nat × Word)) (as : List Nat) (data : List Byte) :
    (s.writeAll c h j e slots as data).mem = s.mem := by
  unfold State.writeAll
  try dsimp only
  repeat' first
    | (simp; done)
    | refine (foldl_mem _ (fun s a => ?_) _ _).trans ?_
    | refine (foldl_snd_mem _ (fun x a => ?_) _ _).trans ?_
    | split

@[simp] theorem State.queueFree_mem (s : State) (l : Nat) (m : FreeMsg) : (s.queueFree l m).mem = s.mem := by
  simp [State.queueFree]

@[simp] theorem State.sendStaging_mem (s : State) (c : Nat) (h : Handle) (m d half : Nat) (slot : Nat × Word) (g : Granule) :
    (s.sendStaging c h m d half slot g).mem = s.mem := by
  simp [State.sendStaging]

/-! ## Operations of Machine/FieldEngine.lean -/

@[simp] theorem State.watchCmd_mem (s : State) (c : Nat) (h : Handle) (acc : Option Nat) (i : Issued) (vs : List Watched) :
    (s.watchCmd c h acc i vs).mem = s.mem := by
  unfold State.watchCmd
  try dsimp only
  repeat' first
    | (simp; done)
    | refine (foldl_mem _ (fun s a => ?_) _ _).trans ?_

@[simp] theorem State.feMma_mem (s : State) (c : Nat) (h : Handle) (j : Job) (i : Issued) :
    (s.feMma c h j i).mem = s.mem := by
  simp [State.feMma]

@[simp] theorem State.feOut_mem (s : State) (c : Nat) (h : Handle) (i : Issued) : (s.feOut c h i).mem = s.mem := by
  simp [State.feOut]

@[simp] theorem State.feBern_mem (s : State) (c : Nat) (h : Handle) (i : Issued) : (s.feBern c h i).mem = s.mem := by
  simp [State.feBern]

@[simp] theorem State.napFill_mem (s : State) (c : Nat) (i : Issued) : (s.napFill c i).mem = s.mem := by
  simp [State.napFill]

/-! ## Operations of Machine/Memory.lean -/

@[simp] theorem State.moveOne_mem (s : State) (c : Nat) (h : Handle) (j : Job) (m : Move) (slot : Option (Nat × Word)) (n : Nat) :
    (s.moveOne c h j m slot n).mem = s.mem := by
  unfold State.moveOne
  try dsimp only
  repeat' first
    | (simp; done)
    | refine (foldl_mem _ (fun s a => ?_) _ _).trans ?_
    | refine (foldl_snd_mem _ (fun x a => ?_) _ _).trans ?_
    | split

@[simp] theorem State.passPort_mem (s : State) (x : Transfer) (err : XferErr) (data : Granule) :
    (s.passPort x err data).2.2.mem = s.mem := by
  simp [State.passPort]

@[simp] theorem State.serveMember_mem (s : State) (err : XferErr) (t : State) (x : Transfer) :
    (s.serveMember err t x).mem = t.mem := by
  unfold State.serveMember
  simp only
  split
  · rfl
  · exact State.meetWords_mem ..

@[simp] theorem State.arriveRead_mem (s : State) (x : Transfer) (err : XferErr) : (s.arriveRead x err).2.mem = s.mem := by
  unfold State.arriveRead
  try dsimp only
  repeat' first
    | (simp; done)
    | refine (foldl_mem _ (fun s a => ?_) _ _).trans ?_
    | refine (foldl_snd_mem _ (fun x a => ?_) _ _).trans ?_
    | split

/-! ## Operations of Machine/Accum.lean -/

@[simp] theorem State.sendOperand_mem (s : State) (c : Nat) (h : Handle) (j : Job) (r : AccRed) (slot : Nat × Word) (n : Nat) :
    (s.sendOperand c h j r slot n).mem = s.mem := by
  simp [State.sendOperand]

/-! ## Operations of Machine/Sampler.lean -/

@[simp] theorem State.openRow_mem (s : State) (c : Nat) : (s.openRow c).mem = s.mem := by
  simp [State.openRow]

@[simp] theorem State.catLong_mem (s : State) (c : Nat) (x : Cat) : (s.catLong c x).mem = s.mem := by
  simp [State.catLong]

@[simp] theorem State.catDraw_mem (s : State) (c : Nat) (i : Issued) : (s.catDraw c i).mem = s.mem := by
  simp [State.catDraw]

/-! ## Operations of Machine/Intc.lean -/

@[simp] theorem State.icUnbind_mem (s : State) (n : Nat) : (s.icUnbind n).mem = s.mem := by
  simp [State.icUnbind]

@[simp] theorem State.icBind_mem (s : State) (n : Nat) : (s.icBind n).mem = s.mem := by
  unfold State.icBind
  try dsimp only
  repeat' first
    | (simp; done)
    | refine (foldl_mem _ (fun s a => ?_) _ _).trans ?_
    | refine (foldl_snd_mem _ (fun x a => ?_) _ _).trans ?_
    | split

@[simp] theorem State.icSettle_mem (s : State) : s.icSettle.mem = s.mem := by
  unfold State.icSettle
  try dsimp only
  repeat' first
    | (simp; done)
    | refine (foldl_mem _ (fun s a => ?_) _ _).trans ?_
    | refine (foldl_snd_mem _ (fun x a => ?_) _ _).trans ?_
    | split

@[simp] theorem State.icEvents_mem (s : State) (n k : Nat) : (s.icEvents n k).mem = s.mem := by
  simp [State.icEvents]

@[simp] theorem State.icEdge_mem (s : State) (n : Nat) : (s.icEdge n).mem = s.mem := by
  simp [State.icEdge]

@[simp] theorem State.icAssert_mem (s : State) (n : Nat) (a : Bool) : (s.icAssert n a).mem = s.mem := by
  simp [State.icAssert]

@[simp] theorem State.icMessage_mem (s : State) (w : Word) : (s.icMessage w).mem = s.mem := by
  simp [State.icMessage]

@[simp] theorem State.icClaimRead_mem (s : State) (x : Nat) : (s.icClaimRead x).mem = s.mem := by
  simp [State.icClaimRead]

@[simp] theorem State.icCompleteWrite_mem (s : State) (x n : Nat) : (s.icCompleteWrite x n).mem = s.mem := by
  simp [State.icCompleteWrite]

@[simp] theorem State.icSwsetWrite_mem (s : State) (n : Nat) : (s.icSwsetWrite n).mem = s.mem := by
  simp [State.icSwsetWrite]

@[simp] theorem State.icSrcSet_mem (s : State) (n v : Nat) : (s.icSrcSet n v).mem = s.mem := by
  simp [State.icSrcSet]

@[simp] theorem State.icThreshSet_mem (s : State) (x v : Nat) : (s.icThreshSet x v).mem = s.mem := by
  simp [State.icThreshSet]

@[simp] theorem State.icTakeLatches_mem (s : State) : s.icTakeLatches.mem = s.mem := by
  unfold State.icTakeLatches
  try dsimp only
  repeat' first
    | (simp; done)
    | refine (foldl_mem _ (fun s a => ?_) _ _).trans ?_

@[simp] theorem State.icWrite_mem (s : State) (o v : Nat) : (s.icWrite o v).mem = s.mem := by
  simp [State.icWrite]

@[simp] theorem State.icPart_mem (s : State) (o : Nat) (v m : Dword) : (s.icPart o v m).mem = s.mem := by
  simp [State.icPart]

/-! ## Operations of Machine/Mailbox.lean -/

@[simp] theorem State.mbDrop_mem (s : State) (m : Nat) : (s.mbDrop m).mem = s.mem := by
  simp [State.mbDrop]

@[simp] theorem State.mbClearDrop_mem (s : State) (m : Nat) : (s.mbClearDrop m).mem = s.mem := by
  simp [State.mbClearDrop]

@[simp] theorem State.ringDoorbell_mem (s : State) (m : Nat) : (s.ringDoorbell m).mem = s.mem := by
  simp [State.ringDoorbell]

@[simp] theorem State.ackMailbox_mem (s : State) (m : Nat) : (s.ackMailbox m).mem = s.mem := by
  simp [State.ackMailbox]

@[simp] theorem State.mbCtrlWrite_mem (s : State) (m v : Nat) : (s.mbCtrlWrite m v).mem = s.mem := by
  simp [State.mbCtrlWrite]

@[simp] theorem State.mbCmdWrite_mem (s : State) (m i v : Nat) : (s.mbCmdWrite m i v).mem = s.mem := by
  simp [State.mbCmdWrite]

@[simp] theorem State.mbWrite_mem (s : State) (m o v : Nat) : (s.mbWrite m o v).mem = s.mem := by
  simp [State.mbWrite]

@[simp] theorem State.takeCmd_mem (s : State) (m : Nat) (t : TakenCmd) : (s.takeCmd m t).mem = s.mem := by
  simp [State.takeCmd]

/-! ## Operations of Machine/Entropy.lean -/

@[simp] theorem State.reseed_mem (s : State) : ∀ t, s.reseed = some t → t.mem = s.mem := by
  unfold State.reseed
  try dsimp only
  repeat' first
    | (simp; done)
    | refine (foldl_mem _ (fun s a => ?_) _ _).trans ?_
    | refine (foldl_snd_mem _ (fun x a => ?_) _ _).trans ?_
    | split

@[simp] theorem State.generate_mem (s : State) (n : Nat) : (s.generate n).2.mem = s.mem := by
  simp [State.generate]

@[simp] theorem State.drbgRequest_mem (s : State) (pr : Bool) (n : Nat) :
    ∀ t, s.drbgRequest pr n = some t → t.2.mem = s.mem := by
  intro t
  unfold State.drbgRequest
  split
  · simp
  · split
    · intro h
      simp only [Option.map_eq_some_iff] at h
      obtain ⟨u, hu, rfl⟩ := h
      simp [State.reseed_mem s u hu]
    · intro h
      cases h
      simp

@[simp] theorem State.endReads_mem (s : State) (status : Nat) (record : Word) : (s.endReads status record).mem = s.mem := by
  unfold State.endReads
  try dsimp only
  repeat' first
    | (simp; done)
    | refine (foldl_mem _ (fun s a => ?_) _ _).trans ?_

@[simp] theorem State.entClear_mem (s : State) : s.entClear.mem = s.mem := by
  simp [State.entClear]

@[simp] theorem State.wireErrors_mem (s : State) : s.wireErrors.mem = s.mem := by
  unfold State.wireErrors
  try dsimp only
  repeat' first
    | (simp; done)
    | refine (foldl_mem _ (fun s a => ?_) _ _).trans ?_

@[simp] theorem State.entRecord_mem (s : State) (cause osc : Nat) : (s.entRecord cause osc).mem = s.mem := by
  simp [State.entRecord]

@[simp] theorem State.entWithdraw_mem (s : State) (startup : Bool) : (s.entWithdraw startup).mem = s.mem := by
  unfold State.entWithdraw
  try dsimp only
  repeat' first
    | (simp; done)
    | refine (foldl_mem _ (fun s a => ?_) _ _).trans ?_

@[simp] theorem State.entFail_mem (s : State) (cause osc : Nat) : (s.entFail cause osc).mem = s.mem := by
  simp [State.entFail]

@[simp] theorem State.entTakeRestart_mem (s : State) : s.entTakeRestart.mem = s.mem := by
  simp [State.entTakeRestart]

@[simp] theorem State.closeWindow_mem (s : State) : s.closeWindow.mem = s.mem := by
  simp [State.closeWindow]

@[simp] theorem State.cardSample_mem (s : State) (x : Dword) : (s.cardSample x).mem = s.mem := by
  simp [State.cardSample]

@[simp] theorem State.entResult_mem (s : State) (cause osc : Nat) : (s.entResult cause osc).mem = s.mem := by
  simp [State.entResult]

@[simp] theorem State.entSetRestart_mem (s : State) : s.entSetRestart.mem = s.mem := by
  simp [State.entSetRestart]

@[simp] theorem State.entTrim_mem (s : State) (fromCp : Bool) (n : Nat) (value : Dword) :
    (s.entTrim fromCp n value).mem = s.mem := by
  simp [State.entTrim]

@[simp] theorem State.entSetMode_mem (s : State) (m : Nat) : (s.entSetMode m).mem = s.mem := by
  simp [State.entSetMode]

@[simp] theorem State.entTestSet_mem (s : State) (v : Nat) : (s.entTestSet v).mem = s.mem := by
  simp [State.entTestSet]

/-! ## Operations of Machine/Jobs.lean -/

@[simp] theorem State.fatalJob_mem (s : State) (h : Handle) (record : Word) (at_ : Nat) :
    (s.fatalJob h record at_).mem = s.mem := by
  unfold State.fatalJob
  try dsimp only
  repeat' first
    | (simp; done)
    | refine (foldl_mem _ (fun s a => ?_) _ _).trans ?_
    | refine (foldl_snd_mem _ (fun x a => ?_) _ _).trans ?_
    | split

@[simp] theorem State.markOn_mem (s : State) (on : Nat → Bool) (record : Word) : (s.markOn on record).mem = s.mem := by
  unfold State.markOn
  try dsimp only
  repeat' first
    | (simp; done)
    | refine (foldl_mem _ (fun s a => ?_) _ _).trans ?_

@[simp] theorem State.fenceNext_mem (s : State) (c : Nat) : (s.fenceNext c).mem = s.mem := by
  simp [State.fenceNext]

@[simp] theorem State.fenceCore_mem (s : State) (c : Nat) : (s.fenceCore c).mem = s.mem := by
  simp [State.fenceCore]

@[simp] theorem State.censusLost_mem (s : State) : s.censusLost.mem = s.mem := by
  unfold State.censusLost
  try dsimp only
  repeat' first
    | (simp; done)
    | refine (foldl_mem _ (fun s a => ?_) _ _).trans ?_

@[simp] theorem State.unfence_mem (s : State) (c : Nat) : (s.unfence c).mem = s.mem := by
  simp [State.unfence]

@[simp] theorem State.endOn_mem (s : State) (on : Nat → Bool) : (s.endOn on).mem = s.mem := by
  unfold State.endOn
  try dsimp only
  repeat' first
    | (simp; done)
    | refine (foldl_mem _ (fun s a => ?_) _ _).trans ?_

@[simp] theorem State.fenceCluster_mem (s : State) (q : Nat) : (s.fenceCluster q).mem = s.mem := by
  unfold State.fenceCluster
  rw [State.setDcbF_mem]
  exact foldl_mem _ (fun s a => State.fenceCore_mem _ _) _ _

/-! ## Operations of Machine/Admit.lean -/

@[simp] theorem State.sendUp_mem (s : State) (c : CtlMsg) : (s.sendUp c).mem = s.mem := by
  simp [State.sendUp]

@[simp] theorem State.sendDown_mem (s : State) (ports : List Nat) (c : CtlMsg) : (s.sendDown ports c).mem = s.mem := by
  unfold State.sendDown
  try dsimp only
  repeat' first
    | (simp; done)
    | refine (foldl_mem _ (fun s a => ?_) _ _).trans ?_

@[simp] theorem State.assignHandle_mem (s : State) (j : Job) : (s.assignHandle j).2.mem = s.mem := by
  simp [State.assignHandle]

@[simp] theorem State.holdJob_mem (s : State) (m : Nat) (t : TakenCmd) (j : Job) : (s.holdJob m t j).mem = s.mem := by
  unfold State.holdJob
  try dsimp only
  repeat' first
    | (simp; done)
    | refine (foldl_mem _ (fun s a => ?_) _ _).trans ?_
    | refine (foldl_snd_mem _ (fun x a => ?_) _ _).trans ?_
    | split

@[simp] theorem State.admitCmd_mem (s : State) (m : Nat) (t : TakenCmd) (restore : Option RestoreReq) :
    (s.admitCmd m t restore).mem = s.mem := by
  unfold State.admitCmd
  try dsimp only
  repeat' first
    | (simp; done)
    | refine (foldl_mem _ (fun s a => ?_) _ _).trans ?_
    | refine (foldl_snd_mem _ (fun x a => ?_) _ _).trans ?_
    | split

@[simp] theorem State.queueDraw_mem (s : State) (h : Handle) (mb : Nat) : (s.queueDraw h mb).mem = s.mem := by
  simp [State.queueDraw]

@[simp] theorem State.dropDraw_mem (s : State) (h : Handle) : (s.dropDraw h).mem = s.mem := by
  simp [State.dropDraw]

@[simp] theorem State.drawSeed_mem (s : State) (h : Handle) (j : Job) : ∀ t, s.drawSeed h j = some t → t.2.mem = s.mem := by
  intro t
  unfold State.drawSeed
  split
  · split
    · split
      · intro h
        simp only [Option.map_eq_some_iff] at h
        obtain ⟨u, hu, rfl⟩ := h
        simp [State.drbgRequest_mem s _ _ u hu]
      · intro h; cases h
    · intro h
      simp only [Option.map_eq_some_iff] at h
      obtain ⟨u, hu, rfl⟩ := h
      simp [State.drbgRequest_mem s _ _ u hu]
  · split
    · intro h
      exact (Option.some.inj h) ▸ rfl
    · intro h
      exact (Option.some.inj h) ▸ rfl

@[simp] theorem State.drawLinkKey_mem (s : State) (j : Job) : ∀ t, s.drawLinkKey j = some t → t.2.mem = s.mem := by
  unfold State.drawLinkKey
  try dsimp only
  repeat' first
    | (simp; done)
    | refine (foldl_mem _ (fun s a => ?_) _ _).trans ?_
    | refine (foldl_snd_mem _ (fun x a => ?_) _ _).trans ?_
    | split

@[simp] theorem State.sendKeyRecords_mem (s : State) (j : Job) : (s.sendKeyRecords j).mem = s.mem := by
  unfold State.sendKeyRecords
  try dsimp only
  repeat' first
    | (simp; done)
    | refine (foldl_mem _ (fun s a => ?_) _ _).trans ?_
    | refine (foldl_snd_mem _ (fun x a => ?_) _ _).trans ?_
    | split

@[simp] theorem State.declareIdle_mem (s : State) (h : Handle) (j : Job) : (s.declareIdle h j).mem = s.mem := by
  unfold State.declareIdle
  try dsimp only
  repeat' first
    | (simp; done)
    | refine (foldl_mem _ (fun s a => ?_) _ _).trans ?_

@[simp] theorem State.takeIn_mem (s : State) (h : Handle) (j : Job) : (s.takeIn h j).mem = s.mem := by
  have h1 : ∀ t : State, (j.engines.foldl (fun s x =>
    match j.image.engines[x.1]? with
    | some r => s.modCore x.2 fun k => k.loadShadow r
    | none => s) t).mem = t.mem := fun t => foldl_mem _ (fun s a => by split <;> simp) _ _
  simp only [State.takeIn]
  split
  · rw [State.sendUp_mem, State.modMb_mem, State.declareIdle_mem, State.setJob_mem, State.sendKeyRecords_mem]
    exact h1 s
  · rw [State.complete_mem, State.declareIdle_mem, State.setJob_mem, State.sendKeyRecords_mem]
    exact h1 s

@[simp] theorem State.admitPlaced_mem (s : State) (h : Handle) (p : Job) : (s.admitPlaced h p).mem = s.mem := by
  unfold State.admitPlaced
  simp only
  split
  · exact State.withdraw_mem ..
  · split
    · rfl
    · split
      · rfl
      · rename_i e
        rw [State.withdraw_mem]
        exact State.drawLinkKey_mem s p _ e
      · rename_i e
        have e1 := State.drawLinkKey_mem s p _ e
        split
        · exact State.queueDraw_mem ..
        · rename_i e'
          have e2 := State.drawSeed_mem _ _ _ _ e'
          rw [State.takeIn_mem]
          split <;> first | exact e2.trans e1 | (simp; exact e2.trans e1)

@[simp] theorem State.takeGo_mem (s : State) (token : Dword) : (s.takeGo token).mem = s.mem := by
  unfold State.takeGo
  try dsimp only
  repeat' first
    | (simp; done)
    | refine (foldl_mem _ (fun s a => ?_) _ _).trans ?_
    | refine (foldl_snd_mem _ (fun x a => ?_) _ _).trans ?_
    | split

@[simp] theorem State.takeBase_mem (s : State) (token : Dword) (target b : Nat) :
    (s.takeBase token target b).mem = s.mem := by
  unfold State.takeBase
  try dsimp only
  repeat' first
    | (simp; done)
    | refine (foldl_mem _ (fun s a => ?_) _ _).trans ?_
    | refine (foldl_snd_mem _ (fun x a => ?_) _ _).trans ?_
    | split

/-! ## Operations of Machine/Boot.lean -/

@[simp] theorem State.bootGo_mem (s : State) : s.bootGo.mem = s.mem := by
  simp [State.bootGo]

@[simp] theorem State.setBase_mem (s : State) (master : Bool) (id masterId up linkEn base size priv : Nat) (parts : Nat → Nat) :
    (s.setBase master id masterId up linkEn base size priv parts).mem = s.mem := by
  simp only [State.setBase]
  rw [State.setDcbF_mem, State.setDcbF_mem, State.setDcbF_mem]
  refine (foldl_mem _ (fun s a => ?_) _ _).trans ?_
  · simp only [State.setDcbF_mem]
  · simp only [State.setDcbF_mem, State.queueClock_mk, State.queueClock_fold]

@[simp] theorem State.setPartition_mem (s : State) (i stat clusters res : Nat) :
    (s.setPartition i stat clusters res).mem = s.mem := by
  simp [State.setPartition]

@[simp] theorem State.loadOverlays_mem (s : State) : s.loadOverlays.mem = s.mem := by
  unfold State.loadOverlays
  try dsimp only
  repeat' first
    | (simp; done)
    | refine (foldl_mem _ (fun s a => ?_) _ _).trans ?_

@[simp] theorem State.applyConfig_mem (s : State) : s.applyConfig.mem = s.mem := by
  simp only [State.applyConfig]
  split
  · rw [State.loadOverlays_mem]
    refine (foldl_mem _ (fun s a => ?_) _ _).trans ?_
    · split <;> exact State.setPartition_mem ..
    · rw [State.setBase_mem]
      try simp only [State.queueClock_mk, State.queueClock_fold]
  · rw [State.setDcbF_mem, State.setPartition_mem, State.setBase_mem]
    try simp only [State.queueClock_mk, State.queueClock_fold]

@[simp] theorem State.applyCalibration_mem (s : State) : s.applyCalibration.mem = s.mem := by
  unfold State.applyCalibration
  simp only [State.setDcbF_mem]
  exact foldl_mem _ (fun s a => by simp) _ _

@[simp] theorem State.applyEntry_mem (s : State) (e : Nat × Word × Word) : (s.applyEntry e).mem = s.mem := by
  exact State.setDcb_mem _ _ _

@[simp] theorem State.applyOverlays_mem (s : State) (mask : Nat) : (s.applyOverlays mask).mem = s.mem := by
  unfold State.applyOverlays
  try dsimp only
  repeat' first
    | (simp; done)
    | refine (foldl_mem _ (fun s a => ?_) _ _).trans ?_
    | refine (foldl_snd_mem _ (fun x a => ?_) _ _).trans ?_
    | split

/-! ## Operations of Machine/Links.lean -/

@[simp] theorem State.enterFor_mem (s : State) (unit code detail : Nat) (hs : List Handle) :
    (s.enterFor unit code detail hs).mem = s.mem := by
  unfold State.enterFor
  try dsimp only
  repeat' first
    | (simp; done)
    | refine (foldl_mem _ (fun s a => ?_) _ _).trans ?_

@[simp] theorem State.lockLoss_mem (s : State) : s.lockLoss.mem = s.mem := by
  unfold State.lockLoss
  try dsimp only
  repeat' first
    | (simp; done)
    | refine (foldl_mem _ (fun s a => ?_) _ _).trans ?_
    | refine (foldl_snd_mem _ (fun x a => ?_) _ _).trans ?_
    | split

@[simp] theorem State.linkFall_mem (s : State) (l : Nat) : (s.linkFall l).mem = s.mem := by
  simp [State.linkFall]

@[simp] theorem State.loadCount_mem (s : State) (now : Nat) : (s.loadCount now).mem = s.mem := by
  simp [State.loadCount]

@[simp] theorem State.takeLock_mem (s : State) (l : Nat) : (s.takeLock l).mem = s.mem := by
  simp [State.takeLock]

@[simp] theorem State.takeControl_mem (s : State) (l : Nat) (c : List Byte) : (s.takeControl l c).mem = s.mem := by
  simp [State.takeControl]

@[simp] theorem State.tagFail_mem (s : State) : s.tagFail.mem = s.mem := by
  simp [State.tagFail]

@[simp] theorem State.takeKeyRecord_mem (s : State) (l : Nat) (m : FreeMsg) : (s.takeKeyRecord l m).mem = s.mem := by
  unfold State.takeKeyRecord
  try dsimp only
  repeat' first
    | (simp; done)
    | refine (foldl_mem _ (fun s a => ?_) _ _).trans ?_
    | refine (foldl_snd_mem _ (fun x a => ?_) _ _).trans ?_
    | split

@[simp] theorem State.takeAddressed_mem (s : State) (m : FreeMsg) : (s.takeAddressed m).mem = s.mem := by
  unfold State.takeAddressed
  try dsimp only
  repeat' first
    | (simp; done)
    | refine (foldl_mem _ (fun s a => ?_) _ _).trans ?_
    | refine (foldl_snd_mem _ (fun x a => ?_) _ _).trans ?_
    | split

@[simp] theorem State.stageGranule_mem (s : State) (c : Nat) (j : Job) (x : Landing) (g : Granule) :
    (s.stageGranule c j x g).mem = s.mem := by
  exact State.modCore_mem _ _ _

@[simp] theorem State.countWords_mem (s : State) (l : Nat) (f : RxFrame) (jobs : List (Handle × Job × List Landing)) (kept : Bool) :
    (s.countWords l f jobs kept).mem = s.mem := by
  unfold State.countWords
  try dsimp only
  repeat' first
    | (simp; done)
    | refine (foldl_mem _ (fun s a => ?_) _ _).trans ?_

@[simp] theorem State.laneState_mem (s : State) (l : Nat) (f : RxFrame) : (s.laneState l f).mem = s.mem := by
  unfold State.laneState
  try dsimp only
  repeat' first
    | (simp; done)
    | refine (foldl_mem _ (fun s a => ?_) _ _).trans ?_
    | refine (foldl_snd_mem _ (fun x a => ?_) _ _).trans ?_
    | split

/-! ## Operations of Machine/Debug.lean -/

@[simp] theorem State.cutCmd_mem (s : State) (c : Nat) (h : Handle) (j : Job) (i : Issued) (last : Nat) :
    (s.cutCmd c h j i last).mem = s.mem := by
  simp [State.cutCmd]

@[simp] theorem State.cutCore_mem (s : State) (c last : Nat) : (s.cutCore c last).mem = s.mem := by
  unfold State.cutCore
  try dsimp only
  repeat' first
    | (simp; done)
    | refine (foldl_mem _ (fun s a => ?_) _ _).trans ?_
    | refine (foldl_snd_mem _ (fun x a => ?_) _ _).trans ?_
    | split

@[simp] theorem State.haltNow_mem (s : State) : s.haltNow.mem = s.mem := by
  unfold State.haltNow
  simp only
  rw [foldl_mem _ (fun s c => State.takeSnapshot_mem _ _ _), State.setDcbF_mem, State.dieEvent_mem, State.addTrace_mem]
  refine (foldl_mem _ (fun s c => ?_) _ _).trans ?_
  · simp
  · simp

/-! ## Operations of Machine/Security.lean -/

@[simp] theorem State.setKeySet_mem (s : State) (p k : Nat) (x : KeySet) : (s.setKeySet p k x).mem = s.mem := by
  simp [State.setKeySet]

@[simp] theorem State.secTagFail_mem (s : State) : s.secTagFail.mem = s.mem := by
  simp [State.secTagFail]

@[simp] theorem State.spdmAnswer_mem (s : State) (m p : Nat) (t : TakenCmd) : (s.spdmAnswer m p t).mem = s.mem := by
  simp [State.spdmAnswer]

@[simp] theorem State.keyExchange_mem (s : State) (m p : Nat) (t : TakenCmd) : (s.keyExchange m p t).mem = s.mem := by
  unfold State.keyExchange
  try dsimp only
  repeat' first
    | (simp; done)
    | refine (foldl_mem _ (fun s a => ?_) _ _).trans ?_
    | refine (foldl_snd_mem _ (fun x a => ?_) _ _).trans ?_
    | split

@[simp] theorem State.openSession_mem (s : State) (p : Nat) : (s.openSession p).mem = s.mem := by
  simp [State.openSession]

@[simp] theorem State.securedData_mem (s : State) (m p : Nat) (t : TakenCmd) : (s.securedData m p t).mem = s.mem := by
  simp [State.securedData]

@[simp] theorem State.newChallenge_mem (s : State) : s.newChallenge.mem = s.mem := by
  simp [State.newChallenge]

/-! ## Operations of Machine/ErrCmd.lean -/

@[simp] theorem State.ackRecords_mem (s : State) (unit : Nat) (id : Word) : (s.ackRecords unit id).mem = s.mem := by
  unfold State.ackRecords
  try dsimp only
  repeat' first
    | (simp; done)
    | refine (foldl_mem _ (fun s a => ?_) _ _).trans ?_
    | refine (foldl_snd_mem _ (fun x a => ?_) _ _).trans ?_
    | split

@[simp] theorem State.coreLogicFault_mem (s : State) (c : Nat) : (s.coreLogicFault c).mem = s.mem := by
  simp [State.coreLogicFault]

@[simp] theorem State.routerFault_mem (s : State) (c : Nat) : (s.routerFault c).mem = s.mem := by
  simp [State.routerFault]

@[simp] theorem State.storageFault_mem (s : State) (c e off : Nat) (double : Bool) :
    (s.storageFault c e off double).mem = s.mem := by
  simp [State.storageFault]

@[simp] theorem State.resetSteward_mem (s : State) : s.resetSteward.mem = s.mem := by
  simp [State.resetSteward]

/-! ## Operations of Machine/Power.lean -/

@[simp] theorem State.tryPowerOn_mem (s : State) : s.tryPowerOn.mem = s.mem := by
  simp [State.tryPowerOn]

@[simp] theorem State.tripJobs_mem (s : State) (id : Word) : (s.tripJobs id).mem = s.mem := by
  unfold State.tripJobs
  try dsimp only
  repeat' first
    | (simp; done)
    | refine (foldl_mem _ (fun s a => ?_) _ _).trans ?_

@[simp] theorem State.trip_mem (s : State) (code detail : Nat) : (s.trip code detail).mem = s.mem := by
  simp [State.trip]

@[simp] theorem State.powerWarning_mem (s : State) (input : Nat) : (s.powerWarning input).mem = s.mem := by
  simp [State.powerWarning]

@[simp] theorem State.thermStore_mem (s : State) (i : Nat) (t : BitVec 12) : (s.thermStore i t).mem = s.mem := by
  simp [State.thermStore]

@[simp] theorem State.thermWarning_mem (s : State) (i : Nat) (t : BitVec 12) : (s.thermWarning i t).mem = s.mem := by
  simp [State.thermWarning]

@[simp] theorem State.thermEnd_mem (s : State) : s.thermEnd.mem = s.mem := by
  simp [State.thermEnd]

/-! ## Operations of Machine/Pmbus.lean -/

@[simp] theorem State.pmbus_mem (s : State) (f : State → State) (h : ∀ s, (f s).mem = s.mem) :
    (s.pmbus f).mem = s.mem := by
  unfold State.pmbus
  try dsimp only
  repeat' first
    | (simp; done)
    | refine (foldl_mem _ (fun s a => ?_) _ _).trans ?_
    | refine (foldl_snd_mem _ (fun x a => ?_) _ _).trans ?_
    | split
    | (simp [h]; done)

@[simp] theorem State.reply_mem (s : State) (bs : State → List Byte) : (s.reply bs).mem = s.mem := by
  unfold State.reply
  exact State.pmbus_mem _ _ fun t => State.setPower_mem _ _

/-! ## Operations of Machine/StewardIo.lean -/

@[simp] theorem State.dmaPiece_mem (s : State) (a n : Nat) : (s.dmaPiece a n).2.mem = s.mem := by
  unfold State.dmaPiece
  try dsimp only
  repeat' first
    | (simp; done)
    | refine (foldl_mem _ (fun s a => ?_) _ _).trans ?_
    | refine (foldl_snd_mem _ (fun x a => ?_) _ _).trans ?_
    | split

@[simp] theorem State.dmaRead_mem (s : State) (a n : Nat) : (s.dmaRead a n).2.mem = s.mem := by
  unfold State.dmaRead
  try dsimp only
  repeat' first
    | (simp; done)
    | refine (foldl_mem _ (fun s a => ?_) _ _).trans ?_
    | refine (foldl_snd_mem _ (fun x a => ?_) _ _).trans ?_

@[simp] theorem State.flCommand_mem (s : State) (v : Word) : (s.flCommand v).mem = s.mem := by
  simp [State.flCommand]

@[simp] theorem State.flashReads_mem (s : State) : s.flashReads.mem = s.mem := by
  unfold State.flashReads
  try dsimp only
  repeat' first
    | (simp; done)
    | refine (foldl_mem _ (fun s a => ?_) _ _).trans ?_

@[simp] theorem State.flashWrite_mem (s : State) (o : Nat) (v m : Dword) : (s.flashWrite o v m).mem = s.mem := by
  simp [State.flashWrite]

@[simp] theorem State.macSet_mem (s : State) (p o : Nat) (v : Dword) : (s.macSet p o v).mem = s.mem := by
  simp [State.macSet]

@[simp] theorem State.macCount_mem (s : State) (p o n : Nat) : (s.macCount p o n).mem = s.mem := by
  simp [State.macCount]

@[simp] theorem State.macFlags_mem (s : State) (p : Nat) (v : Dword) : (s.macFlags p v).mem = s.mem := by
  unfold State.macFlags
  try dsimp only
  repeat' first
    | (simp; done)
    | refine (foldl_mem _ (fun s a => ?_) _ _).trans ?_

@[simp] theorem State.macFlag_mem (s : State) (p f : Nat) : (s.macFlag p f).mem = s.mem := by
  simp [State.macFlag]

@[simp] theorem State.macAdvance_mem (s : State) (p : Nat) (r : Nat × Nat × Nat) : (s.macAdvance p r).mem = s.mem := by
  simp [State.macAdvance]

@[simp] theorem State.macDrop_mem (s : State) (p : Nat) : (s.macDrop p).mem = s.mem := by
  simp [State.macDrop]

@[simp] theorem State.macRegWrite_mem (s : State) (p o : Nat) (v m : Dword) : (s.macRegWrite p o v m).mem = s.mem := by
  simp [State.macRegWrite]

/-! ## Operations of Machine/Access.lean -/

@[simp] theorem State.dcbRegWrite_mem (s : State) (o : Nat) (v m : Dword) : (s.dcbRegWrite o v m).mem = s.mem := by
  unfold State.dcbRegWrite
  try dsimp only
  repeat' first
    | (simp; done)

@[simp] theorem State.deviceRead_mem (s : State) (d n : Nat) : (s.deviceRead d n).2.mem = s.mem := by
  unfold State.deviceRead
  try dsimp only
  repeat' first
    | (simp; done)
    | refine (foldl_mem _ (fun s a => ?_) _ _).trans ?_
    | refine (foldl_snd_mem _ (fun x a => ?_) _ _).trans ?_
    | split

@[simp] theorem State.localWord_mem (s : State) (a : Nat) : (s.localWord a).2.mem = s.mem := by
  simp [State.localWord]

@[simp] theorem State.localRead_mem (s : State) (a n : Nat) : (s.localRead a n).2.mem = s.mem := by
  unfold State.localRead
  try dsimp only
  repeat' first
    | (simp; done)
    | refine (foldl_mem _ (fun s a => ?_) _ _).trans ?_
    | refine (foldl_snd_mem _ (fun x a => ?_) _ _).trans ?_

@[simp] theorem State.localWrite_mem (s : State) (a : Nat) (bs : List Byte) : (s.localWrite a bs).mem = s.mem := by
  unfold State.localWrite
  try dsimp only
  repeat' first
    | (simp; done)
    | refine (foldl_mem _ (fun s a => ?_) _ _).trans ?_
    | refine (foldl_snd_mem _ (fun x a => ?_) _ _).trans ?_
    | split

@[simp] theorem State.answerRead_mem (r : List Byte × State) : (State.answerRead r).mem = r.2.mem := by
  simp [State.answerRead]

@[simp] theorem State.localAccess_mem (s : State) (r : StewardReq) : (s.localAccess r).mem = s.mem := by
  simp [State.localAccess]

end Sys2Proof.Machine
end

