-- ==== Sys2Proof/Laws/Clock.lean ====
section
/-! SUPPORT. What the operations that move the clock do to the queue, the clock and memory. -/

namespace Sys2Proof.Machine

theorem State.queueClock_eq {t : State} {p : List Instr} {b : Nat} {c : Nat} (h : t.queueClock = (p, b, c)) :
    t.pending = p ∧ t.beat = b ∧ t.cycle = c := by
  unfold State.queueClock at h
  simpa only [Prod.mk.injEq] using h

/-! ## The boundary -/

/-- At the boundary the queue stays, the beat counter advances by one, and the cycle is 0 (R494). -/
theorem State.boundary_queueClock (s : State) : s.boundary.queueClock = (s.pending, s.beat + 1, 0) := by
  have h1 : (if s.domainRuns then s.endUnfinished else s).queueClock = s.queueClock := by split <;> simp
  have h0 (u : State) : ((State.openPorts { u with beat := u.beat + 1, cycle := 0 }).enterRecords.releaseDue).queueClock =
      (u.pending, u.beat + 1, 0) := by
    rw [State.releaseDue_queueClock, State.enterRecords_queueClock, State.openPorts_queueClock, State.queueClock_mk]
  have hf : ∀ (f g : State → Nat → State), (∀ s c, (f s c).queueClock = s.queueClock) →
      (∀ s c, (g s c).queueClock = s.queueClock) → ∀ (l : List Nat) (t : State),
      (l.foldl g (l.foldl f t)).queueClock = t.queueClock := fun f g h1 h2 l t => by
    rw [foldl_queueClock _ h2, foldl_queueClock _ h1]
  unfold State.boundary
  simp only [State.loadRestores_queueClock, State.closeLockstep_queueClock, State.endCancelled_queueClock, ite_queueClock,
    State.leaveCompleted_queueClock, State.beatDigest_queueClock, ite_self, State.holdSnapshots_queueClock,
    State.devCounters_queueClock, State.dcbInForce_queueClock]
  rw [hf _ _ (fun s c => State.modCore_queueClock _ _ _) (fun s c => State.sequencerBoundary_queueClock _ _)]
  simp only [ite_self]
  rw [h0, State.pending_of_queueClock h1, State.beat_of_queueClock h1]

@[simp] theorem State.boundary_pending (s : State) : s.boundary.pending = s.pending := (State.queueClock_eq s.boundary_queueClock).1

@[simp] theorem State.boundary_beat (s : State) : s.boundary.beat = s.beat + 1 := (State.queueClock_eq s.boundary_queueClock).2.1

@[simp] theorem State.boundary_cycle (s : State) : s.boundary.cycle = 0 := (State.queueClock_eq s.boundary_queueClock).2.2

@[simp] theorem State.boundary_mem (s : State) : s.boundary.mem = s.mem := by
  have hf : ∀ (f g : State → Nat → State), (∀ s c, (f s c).mem = s.mem) → (∀ s c, (g s c).mem = s.mem) →
      ∀ (l : List Nat) (t : State), (l.foldl g (l.foldl f t)).mem = t.mem := fun f g h1 h2 l t => by
    rw [foldl_mem _ h2, foldl_mem _ h1]
  unfold State.boundary
  simp only [State.loadRestores_mem, State.closeLockstep_mem, State.endCancelled_mem, ite_mem, State.leaveCompleted_mem,
    State.beatDigest_mem, ite_self, State.holdSnapshots_mem, State.devCounters_mem, State.dcbInForce_mem]
  rw [hf _ _ (fun s c => State.modCore_mem _ _ _) (fun s c => State.sequencerBoundary_mem _ _)]
  simp only [ite_self]
  rw [State.releaseDue_mem, State.enterRecords_mem, State.openPorts_mem]
  simp

/-! ## Cycles -/

@[simp] theorem State.cycleEnd_pending (s : State) : s.cycleEnd.pending = s.pending :=
  State.pending_of_queueClock s.cycleEnd_queueClock

@[simp] theorem State.cycleEnd_beat (s : State) : s.cycleEnd.beat = s.beat := State.beat_of_queueClock s.cycleEnd_queueClock

@[simp] theorem State.cycleEnd_cycle (s : State) : s.cycleEnd.cycle = s.cycle :=
  State.cycle_of_queueClock s.cycleEnd_queueClock

/-- The step to the next cycle moves the cycle alone. -/
theorem State.nextCycle_queueClock (s : State) : s.nextCycle.queueClock = (s.pending, s.beat, s.cycle + 1) := by
  unfold State.nextCycle
  rw [State.cycleStart_queueClock, State.queueClock_mk, State.cycleEnd_pending, State.cycleEnd_beat]

@[simp] theorem State.nextCycle_pending (s : State) : s.nextCycle.pending = s.pending := (State.queueClock_eq s.nextCycle_queueClock).1
@[simp] theorem State.nextCycle_beat (s : State) : s.nextCycle.beat = s.beat := (State.queueClock_eq s.nextCycle_queueClock).2.1
@[simp] theorem State.nextCycle_cycle (s : State) : s.nextCycle.cycle = s.cycle + 1 := (State.queueClock_eq s.nextCycle_queueClock).2.2

/-- The tick: nothing under cold reset, the next cycle within a beat, the boundary at its end. -/
theorem State.tick_queueClock (s : State) : s.tick.queueClock =
    if s.power.coldReset then s.queueClock
    else if s.cycle + 1 < beatCycles then (s.pending, s.beat, s.cycle + 1) else (s.pending, s.beat + 1, 0) := by
  unfold State.tick
  split
  · rfl
  · split
    · exact s.nextCycle_queueClock
    · rw [State.boundary_queueClock]
      simp

@[simp] theorem State.tick_pending (s : State) : s.tick.pending = s.pending := by
  have h := s.tick_queueClock
  split at h
  · exact State.pending_of_queueClock h
  · split at h <;> exact (State.queueClock_eq h).1

/-- The tick keeps the cycle within the beat. -/
theorem State.tick_cycle_lt (s : State) (hc : s.cycle < beatCycles) : s.tick.cycle < beatCycles := by
  have h := s.tick_queueClock
  split at h
  · rw [State.cycle_of_queueClock h]; exact hc
  · split at h
    · rw [(State.queueClock_eq h).2.2]; assumption
    · rw [(State.queueClock_eq h).2.2]; simp [beatCycles]

theorem State.elapse_queueClock (n : Nat) (s : State) : (State.elapse n s).queueClock = (s.pending, s.beat, s.cycle + n) := by
  induction n generalizing s with
  | zero => rfl
  | succ n ih =>
    rw [State.elapse, ih]
    simp [Nat.add_assoc, Nat.add_comm 1 n]

@[simp] theorem State.runToStop_pending (n : Nat) (s : State) : (State.runToStop n s).pending = s.pending := by
  induction n generalizing s with
  | zero => rfl
  | succ n ih =>
    rw [State.runToStop]
    split
    · rfl
    · rw [ih, State.tick_pending]

theorem State.runToStop_cycle_lt (n : Nat) (s : State) (h : s.cycle < beatCycles) : (State.runToStop n s).cycle < beatCycles := by
  induction n generalizing s with
  | zero => exact h
  | succ n ih =>
    rw [State.runToStop]
    split
    · exact h
    · exact ih _ (State.tick_cycle_lt s h)

/-! ## The loading of the beat counter (R81) -/

@[simp] theorem State.loadCount_pending (s : State) (n : Nat) : (s.loadCount n).pending = s.pending := rfl
@[simp] theorem State.loadCount_beat (s : State) (n : Nat) : (s.loadCount n).beat = n / beatCycles % 2 ^ 64 + 2 ^ 64 := rfl
@[simp] theorem State.loadCount_cycle (s : State) (n : Nat) : (s.loadCount n).cycle = n % beatCycles := rfl

@[simp] theorem State.takeLock_pending (s : State) (l : Nat) : (s.takeLock l).pending = s.pending := rfl

theorem State.takeLock_cycle_lt (s : State) (l : Nat) : (s.takeLock l).cycle < beatCycles :=
  Nat.mod_lt _ (by simp [beatCycles])

/-! ## Cold reset (R53) -/

@[simp] theorem State.coldState_pending (s : State) (k : Bool) : (s.coldState k).pending = s.pending := rfl
@[simp] theorem State.coldState_beat (s : State) (k : Bool) : (s.coldState k).beat = 0 := rfl
@[simp] theorem State.coldState_cycle (s : State) (k : Bool) : (s.coldState k).cycle = 0 := rfl
@[simp] theorem State.coldReset_pending (s : State) (c : Nat) (k : Bool) : (s.coldReset c k).pending = s.pending := rfl
@[simp] theorem State.coldReset_beat (s : State) (c : Nat) (k : Bool) : (s.coldReset c k).beat = 0 := rfl
@[simp] theorem State.coldReset_cycle (s : State) (c : Nat) (k : Bool) : (s.coldReset c k).cycle = 0 := rfl
@[simp] theorem State.powerDown_pending (s : State) : s.powerDown.pending = s.pending := rfl
@[simp] theorem State.powerDown_beat (s : State) : s.powerDown.beat = 0 := rfl
@[simp] theorem State.powerDown_cycle (s : State) : s.powerDown.cycle = 0 := rfl

@[simp] theorem State.shutDown_pending (s : State) (i : Nat) : (s.shutDown i).pending = s.pending := by
  unfold State.shutDown
  split
  · simp [State.pending_of_queueClock (State.enterError_queueClock s _ _ _)]
  · rfl

theorem State.shutDown_cycle_lt (s : State) (i : Nat) (h : s.cycle < beatCycles) : (s.shutDown i).cycle < beatCycles := by
  unfold State.shutDown
  split
  · simp [beatCycles]
  · exact h

end Sys2Proof.Machine
end

