-- ==== Sys2Proof/Laws/Memory.lean ====
section
/-! SUPPORT. The shared operations that write memory keep its canonical form. With Laws/MemFrame.lean, which names those that
leave memory as it is, every operation is covered. -/

namespace Sys2Proof.Machine

/-- A fold whose every step keeps memory's form keeps it. -/
theorem foldl_wf {α : Type} (f : State → α → State) (h : ∀ s a, Memory.wf s.mem = true → Memory.wf (f s a).mem = true)
    (l : List α) (s : State) (hs : Memory.wf s.mem = true) : Memory.wf (l.foldl f s).mem = true := by
  induction l generalizing s with
  | nil => exact hs
  | cons a l ih => exact ih _ (h s a hs)

theorem State.memWrite_wf (s : State) (a : Nat) (mask : BitVec 64) (data : List Byte) (bad : Byte)
    (h : Memory.wf s.mem = true) : Memory.wf (s.memWrite a mask data bad).mem = true := wf_bytesWrite _ _ _ h

theorem State.putGranule_wf (s : State) (a : Nat) (mask : BitVec 64) (data : Granule) (bad : Byte)
    (h : Memory.wf s.mem = true) : Memory.wf (s.putGranule a mask data bad).mem = true := by
  unfold State.putGranule
  split
  · exact State.memWrite_wf _ _ _ _ _ h
  · exact State.memWrite_wf _ _ _ _ _ h
  · dsimp only
    split
    · rwa [State.modCore_mem]
    · rwa [State.feltWrite_mem]
  · exact h

theorem State.land_wf (s : State) (x : Transfer) (data : Granule) (bad : Byte) (h : Memory.wf s.mem = true) :
    Memory.wf (s.land x data bad).mem = true := by
  unfold State.land
  split
  · exact State.putGranule_wf _ _ _ _ _ h
  · exact State.putGranule_wf _ _ _ _ _ h
  · exact h
  · split
    · rwa [State.modCore_mem]
    · exact h

theorem State.landWrite_wf (s : State) (x : Transfer) (err : XferErr) (h : Memory.wf s.mem = true) :
    Memory.wf (s.landWrite x err).mem = true := by
  unfold State.landWrite
  split
  · rwa [State.slotError_mem]
  · dsimp only
    rw [State.logTransfer_mem]
    refine State.land_wf _ _ _ _ ?_
    rw [State.meetErrors_mem]
    split
    · rwa [State.passPort_mem]
    · exact h

theorem State.formNode_wf (s : State) (x y : NodeOperand) (h : Memory.wf s.mem = true) :
    Memory.wf (s.formNode x y).mem = true := by
  unfold State.formNode
  refine State.memWrite_wf _ _ _ _ _ ?_
  rw [State.modCore_mem]
  split <;> (simp only [ite_mem, State.modCore_mem, ite_self]; exact h)

theorem State.formNodes_wf (s : State) (n : Nat) (l held : List NodeOperand) (h : Memory.wf s.mem = true) :
    Memory.wf (s.formNodes n l held).2.mem = true := by
  induction n generalizing s l held with
  | zero => cases l <;> exact h
  | succ n ih =>
    cases l with
    | nil => exact h
    | cons x r =>
      simp only [State.formNodes]
      split
      · exact ih _ _ _ (State.formNode_wf _ _ _ h)
      · exact ih _ _ _ h

theorem State.landFlit_wf (s : State) (h : Handle) (j : Job) (x : Landing) (g : Granule) (hm : Memory.wf s.mem = true) :
    Memory.wf (s.landFlit h j x g).mem = true := by
  unfold State.landFlit
  split
  · split
    · exact State.putGranule_wf _ _ _ _ _ (by rwa [State.meetErrors_mem])
    · exact hm
  · split
    · exact hm
    · split
      · exact hm
      · dsimp only
        split
        · rwa [State.stageGranule_mem, State.meetErrors_mem]
        · split
          · exact State.putGranule_wf _ _ _ _ _ (by rwa [State.meetErrors_mem])
          · rwa [State.accessError_mem, State.meetErrors_mem]

theorem State.landJob_wf (s : State) (l : Nat) (f : RxFrame) (x : Handle × Job × List Landing) (h : Memory.wf s.mem = true) :
    Memory.wf (s.landJob l f x).mem = true := by
  obtain ⟨hd, j, ls⟩ := x
  unfold State.landJob
  dsimp only
  split
  · simpa using h
  · refine foldl_wf _ (fun s y hs => State.landFlit_wf _ _ _ _ _ ?_) _ _ h
    split
    · exact hs
    · rwa [State.enterError_mem]

theorem State.takeFrame_wf (s : State) (l : Nat) (f : RxFrame) (h : Memory.wf s.mem = true) :
    Memory.wf (s.takeFrame l f).mem = true := by
  unfold State.takeFrame
  dsimp only
  split
  · rwa [State.setLink_mem]
  · refine foldl_wf _ (fun s a hs => ?_) _ _ (foldl_wf _ (fun s a hs => State.landJob_wf _ _ _ _ hs) _ _ ?_)
    · split <;> simpa using hs
    · simpa using h

theorem State.memPut_wf (s : State) (hbm : Bool) (p a : Nat) (bs : List Byte) (err : XferErr) (h : Memory.wf s.mem = true) :
    Memory.wf (s.memPut hbm p a bs err).mem = true := by
  unfold State.memPut
  split
  · rwa [State.blockedCount_mem]
  · split
    · rwa [State.unmapped_mem]
    · exact State.memWrite_wf _ _ _ _ _ (by rwa [State.meetWords_mem])

theorem State.stagingWrite_wf (s : State) (o : Nat) (bs : List Byte) (h : Memory.wf s.mem = true) :
    Memory.wf (s.stagingWrite o bs).mem = true := by
  unfold State.stagingWrite
  split
  · exact wf_bytesWrite _ _ _ h
  · rwa [State.setDcbBits_mem]

theorem State.dcbWrite_wf (s : State) (o : Nat) (bs : List Byte) (h : Memory.wf s.mem = true) :
    Memory.wf (s.dcbWrite o bs).mem = true := by
  unfold State.dcbWrite
  dsimp only
  have h0 : Memory.wf (if (List.range (bs.length / 4)).any (fun i => (s.dcbWord (o + 4 * i)).isNone) then s.unmapped
      else s).mem = true := by split <;> simpa using h
  split
  · rw [foldl_mem _ (fun s r => State.mbWrite_mem ..)]
    exact h0
  · split
    · exact State.stagingWrite_wf _ _ _ h0
    · rw [foldl_mem _ (fun s r => State.dcbRegWrite_mem ..)]
      exact h0

theorem State.crossWrite_wf (s : State) (d : Nat) (bs : List Byte) (err : XferErr) (h : Memory.wf s.mem = true) :
    Memory.wf (s.crossWrite d bs err).mem = true := by
  unfold State.crossWrite
  split
  · exact State.memPut_wf _ _ _ _ _ _ h
  · exact State.memPut_wf _ _ _ _ _ _ h
  · rwa [State.windowWrite_mem]
  · rwa [State.unmapped_mem]

theorem State.serveAt_wf (s : State) (r : StewardReq) (d : Nat) (h : Memory.wf s.mem = true) :
    Memory.wf (s.serveAt r d).mem = true := by
  unfold State.serveAt
  split
  · exact State.crossWrite_wf _ _ _ _ h
  · exact (congrArg (fun m => Memory.wf m) (State.crossRead_mem ..)).trans h

theorem State.serveSteward_wf (s : State) (r : StewardReq) (h : Memory.wf s.mem = true) :
    Memory.wf (s.serveSteward r).mem = true := by
  unfold State.serveSteward
  split
  · exact State.serveAt_wf _ _ _ h
  · exact h

theorem State.stewardSlots_wf (s : State) (h : Memory.wf s.mem = true) : Memory.wf s.stewardSlots.mem = true := by
  unfold State.stewardSlots
  split
  · exact h
  · exact foldl_wf _ (fun s r hs => State.serveSteward_wf s r hs) _ _ h

/-- The steward's accesses are the only stores of a cycle's end. -/
theorem State.cycleEnd_mem (s : State) : s.cycleEnd.mem = s.stewardSlots.mem := by
  unfold State.cycleEnd
  simp only
  split
  · rw [State.forgetCycle_mem]
    exact foldl_mem _ (fun s c => State.coreCycle_mem ..) _ _
  · exact State.forgetCycle_mem _

theorem State.cycleEnd_wf (s : State) (h : Memory.wf s.mem = true) : Memory.wf s.cycleEnd.mem = true := by
  rw [State.cycleEnd_mem]
  exact s.stewardSlots_wf h

theorem State.nextCycle_wf (s : State) (h : Memory.wf s.mem = true) : Memory.wf s.nextCycle.mem = true := by
  unfold State.nextCycle
  rw [State.cycleStart_mem]
  exact s.cycleEnd_wf h

theorem State.elapse_wf (n : Nat) (s : State) (h : Memory.wf s.mem = true) : Memory.wf (State.elapse n s).mem = true := by
  induction n generalizing s with
  | zero => exact h
  | succ n ih => exact ih _ (s.nextCycle_wf h)

theorem State.boundary_wf (s : State) (h : Memory.wf s.mem = true) : Memory.wf s.boundary.mem = true := by
  rwa [State.boundary_mem]

theorem State.tick_wf (s : State) (h : Memory.wf s.mem = true) : Memory.wf s.tick.mem = true := by
  unfold State.tick
  split
  · exact h
  · split
    · exact s.nextCycle_wf h
    · exact State.boundary_wf _ (s.cycleEnd_wf h)

theorem State.runToStop_wf (n : Nat) (s : State) (h : Memory.wf s.mem = true) : Memory.wf (State.runToStop n s).mem = true := by
  induction n generalizing s with
  | zero => exact h
  | succ n ih =>
    rw [State.runToStop]
    split
    · exact h
    · exact ih _ (s.tick_wf h)

theorem State.deviceWrite_wf (s : State) (d : Nat) (bs : List Byte) (h : Memory.wf s.mem = true) :
    Memory.wf (s.deviceWrite d bs).mem = true := by
  unfold State.deviceWrite
  split
  · exact State.dcbWrite_wf _ _ _ h
  · rwa [State.unmapped_mem]

/-- A steward access to a device address at once: only a write of the device control block's staging window stores. -/
theorem State.deviceAccess_wf (s : State) (r : StewardReq) (d : Nat) (h : Memory.wf s.mem = true) :
    Memory.wf (s.deviceAccess r d).mem = true := by
  unfold State.deviceAccess
  split
  · exact State.deviceWrite_wf _ _ _ h
  · exact (congrArg (fun m => Memory.wf m) ((State.answerRead_mem _).trans (State.deviceRead_mem ..))).trans h

theorem State.dmaPutPiece_wf (s : State) (a : Nat) (bs : List Byte) (h : Memory.wf s.mem = true) :
    Memory.wf (s.dmaPutPiece a bs).mem = true := by
  unfold State.dmaPutPiece
  split
  · split <;> exact h
  · split
    · exact h
    · split
      · exact State.memPut_wf _ _ _ _ _ _ h
      · exact State.memPut_wf _ _ _ _ _ _ h
      · exact h

theorem State.dmaWrite_wf (s : State) (a : Nat) (bs : List Byte) (h : Memory.wf s.mem = true) :
    Memory.wf (s.dmaWrite a bs).mem = true := foldl_wf _ (fun _ _ hs => State.dmaPutPiece_wf _ _ _ hs) _ _ h

theorem State.macReceive_wf (s : State) (p : Nat) (frame : List Byte) (ok : Bool) (h : Memory.wf s.mem = true) :
    Memory.wf (s.macReceive p frame ok).mem = true := by
  have h1 : Memory.wf (if ok then s else s.macCount p 0x50 1).mem = true := by split <;> simpa using h
  unfold State.macReceive
  dsimp only
  split
  · exact h
  · generalize (if ok then s else s.macCount p 0x50 1) = u at *
    split
    · rwa [State.macDrop_mem]
    · split
      · rwa [State.macDrop_mem, State.dmaRead_mem]
      · simp only [State.macFlag_mem, State.macAdvance_mem, State.macCount_mem]
        exact State.dmaWrite_wf _ _ _ (State.dmaWrite_wf _ _ _ (by rwa [State.dmaRead_mem]))

theorem State.putBytes_wf (s : State) (a : Nat) (bs : List Byte) (h : Memory.wf s.mem = true) :
    Memory.wf (s.putBytes a bs).mem = true := wf_bytesWrite _ _ _ h

theorem State.zeroMemory_wf (s : State) (h : Memory.wf s.mem = true) : Memory.wf s.zeroMemory.mem = true := wf_filter _ _ h

theorem State.scrubMemory_wf (s : State) (p : Nat) (h : Memory.wf s.mem = true) : Memory.wf (s.scrubMemory p).mem = true :=
  wf_filter _ _ h

theorem State.coldState_wf (s : State) (k : Bool) (h : Memory.wf s.mem = true) : Memory.wf (s.coldState k).mem = true := by
  cases k
  · rfl
  · exact wf_filter _ _ h

theorem State.coldReset_wf (s : State) (c : Nat) (k : Bool) (h : Memory.wf s.mem = true) :
    Memory.wf (s.coldReset c k).mem = true := State.coldState_wf s k h

theorem State.powerDown_wf (s : State) : Memory.wf s.powerDown.mem = true := rfl

theorem State.shutDown_wf (s : State) (i : Nat) (h : Memory.wf s.mem = true) : Memory.wf (s.shutDown i).mem = true := by
  unfold State.shutDown
  split
  · exact State.powerDown_wf (s.enterError UnitNo.power 0x1F { detail := i })
  · exact h

end Sys2Proof.Machine
end

