-- ==== Sys2Proof/Laws/PerInstr.lean ====
section
/-! SUPPORT. The per-command law OperandRanges: the ranges that a well-formed command's operands lie in, for every command. -/

namespace Sys2Proof.Laws

/-- The operands of a command that the spec holds to a range: least value, value, greatest value. -/
def operandRanges : Instr → List (Nat × Nat × Nat)
  | .stewardAccess _ size _ _ _ => [(1, size, 64)]
  | .registerWrite size _ _ => [(1, size, 8)]
  | .linkUp _ rounds _ _ => [(1024, rounds.length, 1024)]
  | .linkFrameRx _ frame _ => [(64000, frame.length, 64000)]
  | .dieEventSend source => [(1, source.toNat, 255)]
  | .stewardEdge source => [(264, source.toNat, 266)]
  | .levelSourceChange source _ => [(256, source.toNat, 263)]
  | .whistleSound source => [(1, source.toNat, 5)]
  | .coldResetAssert cause => [(0, cause.toNat, 4)]
  | .railPowerGood rail => [(0, rail.toNat, 10)]
  | .powerWindow _ rails => [(11, rails.length, 11)]
  | .powerReadingWindow _ parts rails => [(4, parts.length, 4), (11, rails.length, 11)]
  | .thermalThreshold sensor _ => [(0, sensor.toNat, 159)]
  | .flashOpDone _ data => [(0, data.length, 256)]
  | _ => []

/-- Every operand of a well-formed command lies in the range that the spec gives it. -/
def OperandRanges.Statement (i : Instr) : Prop := i.wf = true → ∀ x ∈ operandRanges i, x.1 ≤ x.2.1 ∧ x.2.1 ≤ x.2.2

/-- A command without such an operand. -/
theorem no_ranges {i : Instr} (h : operandRanges i = []) : OperandRanges.Statement i := fun _ x hx => by simp [h] at hx

theorem OperandRanges.beatBoundary : OperandRanges.Statement .beatBoundary := no_ranges rfl

theorem OperandRanges.deadlockDetect : ∀ core, OperandRanges.Statement (.deadlockDetect core) := fun _ => no_ranges rfl

theorem OperandRanges.issue : ∀ core thread, OperandRanges.Statement (.issue core thread) := fun _ _ => no_ranges rfl

theorem OperandRanges.wait : ∀ core thread, OperandRanges.Statement (.wait core thread) := fun _ _ => no_ranges rfl

theorem OperandRanges.waitRelease : ∀ core thread, OperandRanges.Statement (.waitRelease core thread) := fun _ _ => no_ranges rfl

theorem OperandRanges.sig : ∀ core thread, OperandRanges.Statement (.sig core thread) := fun _ _ => no_ranges rfl

theorem OperandRanges.scoreboardIncrement : ∀ core, OperandRanges.Statement (.scoreboardIncrement core) := fun _ => no_ranges rfl

theorem OperandRanges.arrive : ∀ core thread, OperandRanges.Statement (.arrive core thread) := fun _ _ => no_ranges rfl

theorem OperandRanges.rwait : ∀ core thread, OperandRanges.Statement (.rwait core thread) := fun _ _ => no_ranges rfl

theorem OperandRanges.rwaitRelease : ∀ core thread, OperandRanges.Statement (.rwaitRelease core thread) := fun _ _ => no_ranges rfl

theorem OperandRanges.rally : ∀ core thread, OperandRanges.Statement (.rally core thread) := fun _ _ => no_ranges rfl

theorem OperandRanges.mark : ∀ core thread, OperandRanges.Statement (.mark core thread) := fun _ _ => no_ranges rfl

theorem OperandRanges.feltRun : ∀ core, OperandRanges.Statement (.feltRun core) := fun _ => no_ranges rfl

theorem OperandRanges.feltQscan : ∀ core, OperandRanges.Statement (.feltQscan core) := fun _ => no_ranges rfl

theorem OperandRanges.feltQconv : ∀ core, OperandRanges.Statement (.feltQconv core) := fun _ => no_ranges rfl

theorem OperandRanges.rotStore : ∀ core, OperandRanges.Statement (.rotStore core) := fun _ => no_ranges rfl

theorem OperandRanges.rotLoad : ∀ core, OperandRanges.Statement (.rotLoad core) := fun _ => no_ranges rfl

theorem OperandRanges.exchSend : ∀ core, OperandRanges.Statement (.exchSend core) := fun _ => no_ranges rfl

theorem OperandRanges.feltBetaSet : ∀ core, OperandRanges.Statement (.feltBetaSet core) := fun _ => no_ranges rfl

theorem OperandRanges.exchangeBeat : ∀ handle, OperandRanges.Statement (.exchangeBeat handle) := fun _ => no_ranges rfl

theorem OperandRanges.replicaExchangeDecide : ∀ handle, OperandRanges.Statement (.replicaExchangeDecide handle) := fun _ => no_ranges rfl

theorem OperandRanges.stagingMove : ∀ core, OperandRanges.Statement (.stagingMove core) := fun _ => no_ranges rfl

theorem OperandRanges.feMma : ∀ core, OperandRanges.Statement (.feMma core) := fun _ => no_ranges rfl

theorem OperandRanges.feOut : ∀ core, OperandRanges.Statement (.feOut core) := fun _ => no_ranges rfl

theorem OperandRanges.feBern : ∀ core, OperandRanges.Statement (.feBern core) := fun _ => no_ranges rfl

theorem OperandRanges.napFill : ∀ core, OperandRanges.Statement (.napFill core) := fun _ => no_ranges rfl

theorem OperandRanges.catDraw : ∀ core, OperandRanges.Statement (.catDraw core) := fun _ => no_ranges rfl

theorem OperandRanges.accStore : ∀ core, OperandRanges.Statement (.accStore core) := fun _ => no_ranges rfl

theorem OperandRanges.accLoad : ∀ core, OperandRanges.Statement (.accLoad core) := fun _ => no_ranges rfl

theorem OperandRanges.accRed : ∀ core, OperandRanges.Statement (.accRed core) := fun _ => no_ranges rfl

theorem OperandRanges.nodeAdd : ∀ port, OperandRanges.Statement (.nodeAdd port) := fun _ => no_ranges rfl

theorem OperandRanges.lsMove : ∀ core, OperandRanges.Statement (.lsMove core) := fun _ => no_ranges rfl

theorem OperandRanges.sliceWriteLand : ∀ port err, OperandRanges.Statement (.sliceWriteLand port err) := fun _ _ => no_ranges rfl

theorem OperandRanges.readDataDeliver : ∀ core err, OperandRanges.Statement (.readDataDeliver core err) := fun _ _ => no_ranges rfl

theorem OperandRanges.hbmAccess : ∀ pc err, OperandRanges.Statement (.hbmAccess pc err) := fun _ _ => no_ranges rfl

theorem OperandRanges.hbmRefresh : ∀ pc, OperandRanges.Statement (.hbmRefresh pc) := fun _ => no_ranges rfl

theorem OperandRanges.phyMaintenance : ∀ pc, OperandRanges.Statement (.phyMaintenance pc) := fun _ => no_ranges rfl

theorem OperandRanges.stewardAccess : ∀ write size addr data err, OperandRanges.Statement (.stewardAccess write size addr data err) := by
  intro write size addr data err h x hx
  simp [operandRanges, Instr.wf] at h hx
  subst hx; simp; omega

theorem OperandRanges.registerWrite : ∀ size addr value, OperandRanges.Statement (.registerWrite size addr value) := by
  intro size addr value h x hx
  simp [operandRanges, Instr.wf] at h hx
  subst hx; simp; omega

theorem OperandRanges.jobContainedEnd : ∀ handle, OperandRanges.Statement (.jobContainedEnd handle) := fun _ => no_ranges rfl

theorem OperandRanges.fatalEnd : OperandRanges.Statement .fatalEnd := no_ranges rfl

theorem OperandRanges.fenceApply : ∀ core, OperandRanges.Statement (.fenceApply core) := fun _ => no_ranges rfl

theorem OperandRanges.clusterFence : ∀ cluster, OperandRanges.Statement (.clusterFence cluster) := fun _ => no_ranges rfl

theorem OperandRanges.doorbell : ∀ mb, OperandRanges.Statement (.doorbell mb) := fun _ => no_ranges rfl

theorem OperandRanges.ack : ∀ mb, OperandRanges.Statement (.ack mb) := fun _ => no_ranges rfl

theorem OperandRanges.mbCommandTake : OperandRanges.Statement .mbCommandTake := no_ranges rfl

theorem OperandRanges.mbResponseWrite : ∀ mb, OperandRanges.Statement (.mbResponseWrite mb) := fun _ => no_ranges rfl

theorem OperandRanges.jobAdmit : ∀ mb, OperandRanges.Statement (.jobAdmit mb) := fun _ => no_ranges rfl

theorem OperandRanges.jobCancel : ∀ mb, OperandRanges.Statement (.jobCancel mb) := fun _ => no_ranges rfl

theorem OperandRanges.jobStatus : ∀ mb, OperandRanges.Statement (.jobStatus mb) := fun _ => no_ranges rfl

theorem OperandRanges.schedInfo : ∀ mb, OperandRanges.Statement (.schedInfo mb) := fun _ => no_ranges rfl

theorem OperandRanges.ctxSave : ∀ mb, OperandRanges.Statement (.ctxSave mb) := fun _ => no_ranges rfl

theorem OperandRanges.ctxSuspend : ∀ handle, OperandRanges.Statement (.ctxSuspend handle) := fun _ => no_ranges rfl

theorem OperandRanges.ctxSaveDone : ∀ handle, OperandRanges.Statement (.ctxSaveDone handle) := fun _ => no_ranges rfl

theorem OperandRanges.ctxRestore : ∀ mb, OperandRanges.Statement (.ctxRestore mb) := fun _ => no_ranges rfl

theorem OperandRanges.admission : ∀ handle, OperandRanges.Statement (.admission handle) := fun _ => no_ranges rfl

theorem OperandRanges.launchDeadlineWithdraw : ∀ handle, OperandRanges.Statement (.launchDeadlineWithdraw handle) := fun _ => no_ranges rfl

theorem OperandRanges.jobStart : ∀ handle, OperandRanges.Statement (.jobStart handle) := fun _ => no_ranges rfl

theorem OperandRanges.jobDone : ∀ handle, OperandRanges.Statement (.jobDone handle) := fun _ => no_ranges rfl

theorem OperandRanges.goSend : ∀ token, OperandRanges.Statement (.goSend token) := fun _ => no_ranges rfl

theorem OperandRanges.goTimeoutWithdraw : ∀ handle, OperandRanges.Statement (.goTimeoutWithdraw handle) := fun _ => no_ranges rfl

theorem OperandRanges.baseSend : ∀ token, OperandRanges.Statement (.baseSend token) := fun _ => no_ranges rfl

theorem OperandRanges.cfgOverlay : ∀ mb, OperandRanges.Statement (.cfgOverlay mb) := fun _ => no_ranges rfl

theorem OperandRanges.overlayApply : OperandRanges.Statement .overlayApply := no_ranges rfl

theorem OperandRanges.entRead : ∀ mb, OperandRanges.Statement (.entRead mb) := fun _ => no_ranges rfl

theorem OperandRanges.entReadComplete : ∀ mb, OperandRanges.Statement (.entReadComplete mb) := fun _ => no_ranges rfl

theorem OperandRanges.entRestart : ∀ mb, OperandRanges.Statement (.entRestart mb) := fun _ => no_ranges rfl

theorem OperandRanges.napEval : ∀ mb, OperandRanges.Statement (.napEval mb) := fun _ => no_ranges rfl

theorem OperandRanges.coreFence : ∀ mb, OperandRanges.Statement (.coreFence mb) := fun _ => no_ranges rfl

theorem OperandRanges.distRead : ∀ mb, OperandRanges.Statement (.distRead mb) := fun _ => no_ranges rfl

theorem OperandRanges.entSample : ∀ sample, OperandRanges.Statement (.entSample sample) := fun _ => no_ranges rfl

theorem OperandRanges.startupTestEnd : ∀ katOk, OperandRanges.Statement (.startupTestEnd katOk) := fun _ => no_ranges rfl

theorem OperandRanges.drbgInstantiate : OperandRanges.Statement .drbgInstantiate := no_ranges rfl

theorem OperandRanges.estWindow : OperandRanges.Statement .estWindow := no_ranges rfl

theorem OperandRanges.privateWireRequest : ∀ link, OperandRanges.Statement (.privateWireRequest link) := fun _ => no_ranges rfl

theorem OperandRanges.privateWireServe : OperandRanges.Statement .privateWireServe := no_ranges rfl

theorem OperandRanges.entTrimWrite : ∀ fromCp n value, OperandRanges.Statement (.entTrimWrite fromCp n value) := fun _ _ _ => no_ranges rfl

theorem OperandRanges.entTestWrite : ∀ value, OperandRanges.Statement (.entTestWrite value) := fun _ => no_ranges rfl

theorem OperandRanges.linkFrameTx : ∀ port, OperandRanges.Statement (.linkFrameTx port) := fun _ => no_ranges rfl

theorem OperandRanges.linkFrameRx : ∀ port frame late, OperandRanges.Statement (.linkFrameRx port frame late) := by
  intro port frame late h x hx
  simp [operandRanges, Instr.wf] at h hx
  subst hx; simp; omega

theorem OperandRanges.linkUp : ∀ port rounds peerModule peerPort, OperandRanges.Statement (.linkUp port rounds peerModule peerPort) := by
  intro port rounds peerModule peerPort h x hx
  simp [operandRanges, Instr.wf] at h hx
  subst hx; simp; omega

theorem OperandRanges.linkDown : ∀ port, OperandRanges.Statement (.linkDown port) := fun _ => no_ranges rfl

theorem OperandRanges.beatLock : ∀ align, OperandRanges.Statement (.beatLock align) := fun _ => no_ranges rfl

theorem OperandRanges.beatLockLoss : OperandRanges.Statement .beatLockLoss := no_ranges rfl

theorem OperandRanges.counterLoad : OperandRanges.Statement .counterLoad := no_ranges rfl

theorem OperandRanges.lockstepCompare : OperandRanges.Statement .lockstepCompare := no_ranges rfl

theorem OperandRanges.sidelineFrame : OperandRanges.Statement .sidelineFrame := no_ranges rfl

theorem OperandRanges.dieEventSend : ∀ source, OperandRanges.Statement (.dieEventSend source) := by
  intro source h x hx
  simp [operandRanges, Instr.wf] at h hx
  subst hx; simp; omega

theorem OperandRanges.dieInterruptMessage : OperandRanges.Statement .dieInterruptMessage := no_ranges rfl

theorem OperandRanges.stewardEdge : ∀ source, OperandRanges.Statement (.stewardEdge source) := by
  intro source h x hx
  simp [operandRanges, Instr.wf] at h hx
  subst hx; simp; omega

theorem OperandRanges.levelSourceChange : ∀ source asserted, OperandRanges.Statement (.levelSourceChange source asserted) := by
  intro source asserted h x hx
  simp [operandRanges, Instr.wf] at h hx
  subst hx; simp; omega

theorem OperandRanges.icClaim : ∀ ctx, OperandRanges.Statement (.icClaim ctx) := fun _ => no_ranges rfl

theorem OperandRanges.icComplete : ∀ ctx source, OperandRanges.Statement (.icComplete ctx source) := fun _ _ => no_ranges rfl

theorem OperandRanges.icSwset : ∀ source, OperandRanges.Statement (.icSwset source) := fun _ => no_ranges rfl

theorem OperandRanges.icSrcWrite : ∀ source value, OperandRanges.Statement (.icSrcWrite source value) := fun _ _ => no_ranges rfl

theorem OperandRanges.icThreshWrite : ∀ ctx value, OperandRanges.Statement (.icThreshWrite ctx value) := fun _ _ => no_ranges rfl

theorem OperandRanges.fabricClockStop : OperandRanges.Statement .fabricClockStop := no_ranges rfl

theorem OperandRanges.fabricClockRestart : OperandRanges.Statement .fabricClockRestart := no_ranges rfl

theorem OperandRanges.ucieLinkDown : OperandRanges.Statement .ucieLinkDown := no_ranges rfl

theorem OperandRanges.ucieLinkUp : OperandRanges.Statement .ucieLinkUp := no_ranges rfl

theorem OperandRanges.bootGo : OperandRanges.Statement .bootGo := no_ranges rfl

theorem OperandRanges.fwVerifyDone : OperandRanges.Statement .fwVerifyDone := no_ranges rfl

theorem OperandRanges.bootReady : ∀ trained faulty, OperandRanges.Statement (.bootReady trained faulty) := fun _ _ => no_ranges rfl

theorem OperandRanges.whistleSound : ∀ source, OperandRanges.Statement (.whistleSound source) := by
  intro source h x hx
  simp [operandRanges, Instr.wf] at h hx
  subst hx; simp; omega

theorem OperandRanges.whistleStop : OperandRanges.Statement .whistleStop := no_ranges rfl

theorem OperandRanges.hangSnapshot : ∀ core, OperandRanges.Statement (.hangSnapshot core) := fun _ => no_ranges rfl

theorem OperandRanges.dbgWhistle : ∀ mb, OperandRanges.Statement (.dbgWhistle mb) := fun _ => no_ranges rfl

theorem OperandRanges.dbgScanout : ∀ mb, OperandRanges.Statement (.dbgScanout mb) := fun _ => no_ranges rfl

theorem OperandRanges.dbgRelease : ∀ mb, OperandRanges.Statement (.dbgRelease mb) := fun _ => no_ranges rfl

theorem OperandRanges.dbgSnapshot : ∀ mb, OperandRanges.Statement (.dbgSnapshot mb) := fun _ => no_ranges rfl

theorem OperandRanges.dbgWatch : ∀ mb, OperandRanges.Statement (.dbgWatch mb) := fun _ => no_ranges rfl

theorem OperandRanges.dbgWatchread : ∀ mb, OperandRanges.Statement (.dbgWatchread mb) := fun _ => no_ranges rfl

theorem OperandRanges.secSpdm : ∀ mb, OperandRanges.Statement (.secSpdm mb) := fun _ => no_ranges rfl

theorem OperandRanges.secReport : ∀ mb, OperandRanges.Statement (.secReport mb) := fun _ => no_ranges rfl

theorem OperandRanges.secCtrread : ∀ mb, OperandRanges.Statement (.secCtrread mb) := fun _ => no_ranges rfl

theorem OperandRanges.secLifecycle : ∀ mb, OperandRanges.Statement (.secLifecycle mb) := fun _ => no_ranges rfl

theorem OperandRanges.secKeyset : ∀ mb, OperandRanges.Statement (.secKeyset mb) := fun _ => no_ranges rfl

theorem OperandRanges.secKeydel : ∀ mb, OperandRanges.Statement (.secKeydel mb) := fun _ => no_ranges rfl

theorem OperandRanges.secImport : ∀ mb, OperandRanges.Statement (.secImport mb) := fun _ => no_ranges rfl

theorem OperandRanges.secExport : ∀ mb, OperandRanges.Statement (.secExport mb) := fun _ => no_ranges rfl

theorem OperandRanges.scrubStart : ∀ part, OperandRanges.Statement (.scrubStart part) := fun _ => no_ranges rfl

theorem OperandRanges.scrubDone : ∀ part, OperandRanges.Statement (.scrubDone part) := fun _ => no_ranges rfl

theorem OperandRanges.errAck : ∀ mb, OperandRanges.Statement (.errAck mb) := fun _ => no_ranges rfl

theorem OperandRanges.errInject : ∀ mb, OperandRanges.Statement (.errInject mb) := fun _ => no_ranges rfl

theorem OperandRanges.stwReset : ∀ mb, OperandRanges.Statement (.stwReset mb) := fun _ => no_ranges rfl

theorem OperandRanges.stewardReset : OperandRanges.Statement .stewardReset := no_ranges rfl

theorem OperandRanges.coldResetAssert : ∀ cause, OperandRanges.Statement (.coldResetAssert cause) := by
  intro cause h x hx
  simp [operandRanges, Instr.wf] at h hx
  subst hx; simp; omega

theorem OperandRanges.coldResetRelease : OperandRanges.Statement .coldResetRelease := no_ranges rfl

theorem OperandRanges.clockLoss : OperandRanges.Statement .clockLoss := no_ranges rfl

theorem OperandRanges.tapReset : OperandRanges.Statement .tapReset := no_ranges rfl

theorem OperandRanges.railPowerGood : ∀ rail, OperandRanges.Statement (.railPowerGood rail) := by
  intro rail h x hx
  simp [operandRanges, Instr.wf] at h hx
  subst hx; simp; omega

theorem OperandRanges.shutdown : ∀ index, OperandRanges.Statement (.shutdown index) := fun _ => no_ranges rfl

theorem OperandRanges.powerWindow : ∀ input rails, OperandRanges.Statement (.powerWindow input rails) := by
  intro input rails h x hx
  simp [operandRanges, Instr.wf] at h hx
  subst hx; simp; omega

theorem OperandRanges.powerReadingWindow : ∀ input parts rails, OperandRanges.Statement (.powerReadingWindow input parts rails) := by
  intro input parts rails h x hx
  simp [operandRanges, Instr.wf] at h hx
  rcases hx with rfl | rfl <;> simp <;> omega

theorem OperandRanges.thermalThreshold : ∀ sensor temp, OperandRanges.Statement (.thermalThreshold sensor temp) := by
  intro sensor temp h x hx
  simp [operandRanges, Instr.wf] at h hx
  subst hx; simp; omega

theorem OperandRanges.operation : ∀ value, OperandRanges.Statement (.operation value) := fun _ => no_ranges rfl

theorem OperandRanges.clearFaults : OperandRanges.Statement .clearFaults := no_ranges rfl

theorem OperandRanges.capability : OperandRanges.Statement .capability := no_ranges rfl

theorem OperandRanges.pmbusRevision : OperandRanges.Statement .pmbusRevision := no_ranges rfl

theorem OperandRanges.statusWord : OperandRanges.Statement .statusWord := no_ranges rfl

theorem OperandRanges.readVin : OperandRanges.Statement .readVin := no_ranges rfl

theorem OperandRanges.readIin : OperandRanges.Statement .readIin := no_ranges rfl

theorem OperandRanges.readPin : OperandRanges.Statement .readPin := no_ranges rfl

theorem OperandRanges.readTemperature1 : OperandRanges.Statement .readTemperature1 := no_ranges rfl

theorem OperandRanges.readTemperature2 : OperandRanges.Statement .readTemperature2 := no_ranges rfl

theorem OperandRanges.readTemperature3 : OperandRanges.Statement .readTemperature3 := no_ranges rfl

theorem OperandRanges.mfrId : OperandRanges.Statement .mfrId := no_ranges rfl

theorem OperandRanges.mfrModel : OperandRanges.Statement .mfrModel := no_ranges rfl

theorem OperandRanges.mfrSerial : OperandRanges.Statement .mfrSerial := no_ranges rfl

theorem OperandRanges.mfrGradeMap : OperandRanges.Statement .mfrGradeMap := no_ranges rfl

theorem OperandRanges.mfrDclass : OperandRanges.Statement .mfrDclass := no_ranges rfl

theorem OperandRanges.mfrRstCause : OperandRanges.Statement .mfrRstCause := no_ranges rfl

theorem OperandRanges.mfrColdReset : ∀ value, OperandRanges.Statement (.mfrColdReset value) := fun _ => no_ranges rfl

theorem OperandRanges.mfrWhistle : ∀ value, OperandRanges.Statement (.mfrWhistle value) := fun _ => no_ranges rfl

theorem OperandRanges.mfrStwReset : ∀ value, OperandRanges.Statement (.mfrStwReset value) := fun _ => no_ranges rfl

theorem OperandRanges.mfrLastFatal : OperandRanges.Statement .mfrLastFatal := no_ranges rfl

theorem OperandRanges.mfrPartPower : OperandRanges.Statement .mfrPartPower := no_ranges rfl

theorem OperandRanges.pmbusInvalidCommand : ∀ code, OperandRanges.Statement (.pmbusInvalidCommand code) := fun _ => no_ranges rfl

theorem OperandRanges.flCmd : ∀ value, OperandRanges.Statement (.flCmd value) := fun _ => no_ranges rfl

theorem OperandRanges.flashOpDone : ∀ err data, OperandRanges.Statement (.flashOpDone err data) := by
  intro err data h x hx
  simp [operandRanges, Instr.wf] at h hx
  subst hx; simp; omega

theorem OperandRanges.ethTransmit : ∀ port, OperandRanges.Statement (.ethTransmit port) := fun _ => no_ranges rfl

theorem OperandRanges.ethReceive : ∀ port frame fcsOk codewords, OperandRanges.Statement (.ethReceive port frame fcsOk codewords) := fun _ _ _ _ => no_ranges rfl

theorem OperandRanges.scanoutDone : OperandRanges.Statement .scanoutDone := no_ranges rfl

theorem OperandRanges.secImportDone : ∀ mb, OperandRanges.Statement (.secImportDone mb) := fun _ => no_ranges rfl

theorem OperandRanges.secExportDone : ∀ mb, OperandRanges.Statement (.secExportDone mb) := fun _ => no_ranges rfl

theorem OperandRanges.sidelineTrainDone : OperandRanges.Statement .sidelineTrainDone := no_ranges rfl

theorem OperandRanges.ethLinkChange : ∀ port link pcsLock, OperandRanges.Statement (.ethLinkChange port link pcsLock) := fun _ _ _ => no_ranges rfl

theorem OperandRanges.vin48Loss : OperandRanges.Statement .vin48Loss := no_ranges rfl

theorem OperandRanges.cpFault : OperandRanges.Statement .cpFault := no_ranges rfl

theorem OperandRanges.logicFault : ∀ fault, OperandRanges.Statement (.logicFault fault) := fun _ => no_ranges rfl

end Sys2Proof.Laws
end

