-- ==== Sys2Proof/Tests/Slice0.lean ====
section
/-! SUPPORT. The model's own tests. The first part: for each check of `Instr.wf` an ill-formed command, which exec refuses.
The second part: for each statement of Certificates/Slice0/Obligations.lean, and for each of its clauses, a state and
operands that meet its hypotheses together. The third part: results worked out by hand from the spec's rules. -/

namespace Sys2Proof.Tests

open Sys2Proof Sys2Proof.Machine

set_option Elab.async false

/-! ## Small states -/

/-- An engine record whose every field is zero but the ranges that R496 asks for. -/
def tRec : EngineRec := ⟨[], 0, [], [], 0, 0x4040, 0x200, [], List.replicate 256 0xFFFF, []⟩

/-- An image of one engine, four beats long. -/
def tImage : Image where
  abi := 0
  flags := 0
  e := 1
  p := 1
  tc := 0
  l := 4
  anneal := 0
  beta := []
  perm := 0xFEDCBA9876543210
  xchg := 0
  engines := [tRec]
  pages := []
  landings := []

/-- A job of one engine on core 0, of mailbox 2, that runs from beat 0 to beat 3. -/
def tJob : Job where
  mailbox := 2
  st := .running
  image := tImage
  parts := 1
  modset := 1
  launch := 0
  nowait := false
  key := 0
  entropySeed := false
  linkEnc := false
  linkKey := 0
  keySlot := none
  xmap := false
  mapWords := []
  lockstep := none
  compat := false
  compatClock := 0
  compatRows := false
  engines := [(0, 0)]
  base := none
  census := 0
  token := 0
  keyRecord := false
  takenBeat := 0
  startBeat := 0
  compBeat := 3
  endBeat := 0
  record := 0
  pendingEnd := none
  startK := 0
  save := none
  restore := none
  keyset := none

def tCore : CoreState := { CoreState.reset with job := some 1 }

/-- Job 1 runs on core 0, whose state is `k`. -/
def tRun (k : CoreState) : State := { State.reset with jobs := [(1, tJob)], cores := [(0, k)] }

/-- A command without signal, issued in cycle 0. -/
def tIssued (op : Byte) (ws : List Dword) : Issued := ⟨op, ws, 0, 0, 0, 0, 0, false, none⟩

def tHold (k : CoreState) (op : Byte) (ws : List Dword) : CoreState :=
  k.setEngine (cmdEngine op.toNat) { EngineSlot.reset with cmd := some (tIssued op ws) }

/-- Core 0 holds a command. -/
def tEngine (op : Byte) (ws : List Dword) : State := tRun (tHold tCore op ws)

/-- Core 0 whose thread 0 has a program of these doublewords, and is ready. -/
def tProg (ws : List Nat) : CoreState :=
  let k := (tCore.setReg (Reg.thrProg 0) (BitVec.ofNat 64 (ws.length * 2 ^ 16))).setReg (Reg.thrState 0) (BitVec.ofNat 64 (2 ^ 14))
  ws.zipIdx.foldl (fun k x => { k with store := natWrite k.store (Win.schedule + 8 * x.2) 8 x.1 }) k

def tThread (ws : List Nat) : State := tRun (tProg ws)

/-- A command as the CP has taken it. -/
def tTaken (op : Nat) (args : List Word) : TakenCmd := ⟨BitVec.ofNat 32 (op + args.length * 2 ^ 16), args, none⟩

/-- Boot is READY and the CP holds a command of mailbox 0, which is privileged. -/
def tReady : State := State.reset.setDcb Dcb.bootStat 4

def tMb (s : State) (op : Nat) (args : List Word) : State := s.setMb 0 { Mailbox.reset with taken := some (tTaken op args) }

/-! ## Ill-formed commands are refused -/

def badErr : XferErr := ⟨1, 1, false⟩

theorem test_wf_transfers :
    exec (.sliceWriteLand 0 badErr) State.reset = .refused .illFormed ∧
    exec (.readDataDeliver 0 badErr) State.reset = .refused .illFormed ∧
    exec (.hbmAccess 0 badErr) State.reset = .refused .illFormed ∧
    exec (.stewardAccess false 4 0 0 badErr) State.reset = .refused .illFormed := by
  and_intros <;> rfl

theorem test_wf_sizes :
    exec (.stewardAccess false 0 0 0 XferErr.none) State.reset = .refused .illFormed ∧
    exec (.stewardAccess true 65 0 0 XferErr.none) State.reset = .refused .illFormed ∧
    exec (.registerWrite 0 0 0) State.reset = .refused .illFormed ∧
    exec (.registerWrite 9 0 0) State.reset = .refused .illFormed ∧
    exec (.logicFault (.storage 0 5 0 false)) State.reset = .refused .illFormed := by
  and_intros <;> rfl

/-- Too few measurements, a hold longer than the round trip, and a round trip beyond what LINK_DELAY holds. -/
theorem test_wf_rounds : [[(0, 0)], (0, 1) :: List.replicate 1023 (0, 0), (131071, 0) :: List.replicate 1023 (0, 0)].all
    (fun rounds => !Instr.wf (.linkUp 0 rounds 0 0)) = true := by decide +kernel

theorem test_wf_sources :
    exec (.dieEventSend 256) State.reset = .refused .illFormed ∧
    exec (.dieEventSend 0) State.reset = .refused .illFormed ∧
    exec (.stewardEdge 263) State.reset = .refused .illFormed ∧
    exec (.stewardEdge 267) State.reset = .refused .illFormed ∧
    exec (.levelSourceChange 255 true) State.reset = .refused .illFormed ∧
    exec (.levelSourceChange 264 true) State.reset = .refused .illFormed ∧
    exec (.whistleSound 0) State.reset = .refused .illFormed ∧
    exec (.whistleSound 6) State.reset = .refused .illFormed := by
  and_intros <;> rfl

theorem test_wf_power :
    exec (.coldResetAssert 5) State.reset = .refused .illFormed ∧
    exec (.railPowerGood 11) State.reset = .refused .illFormed ∧
    exec (.powerWindow 0 []) State.reset = .refused .illFormed ∧
    exec (.powerReadingWindow ⟨0, 0, 0⟩ [] []) State.reset = .refused .illFormed ∧
    exec (.thermalThreshold 89 0) State.reset = .refused .illFormed ∧
    exec (.thermalThreshold 160 0) State.reset = .refused .illFormed := by
  and_intros <;> rfl

theorem test_wf_lengths :
    exec (.linkFrameRx 0 [] []) State.reset = .refused .illFormed ∧
    exec (.beatLock 5) State.reset = .refused .illFormed ∧
    exec (.beatLock 251) State.reset = .refused .illFormed := by
  and_intros <;> rfl

theorem test_wf_flash : Instr.wf (.flashOpDone false (List.replicate 257 0)) = false := by decide +kernel

/-! ## The statements' hypotheses can be met -/

theorem test_can_StepRunsTheFrontCommand : State.reset.pending = [] := rfl

theorem test_can_EveryStepKeepsTheStateSound : State.reset.Sound ∧ step State.reset = .next State.reset.tick :=
  ⟨⟨by decide, by decide⟩, rfl⟩

theorem test_can_EveryCommandLeavesTheQueue : exec .tapReset State.reset = .next State.reset := rfl

theorem test_can_OnlyTimeCommandsMoveTheClock : movesClock .tapReset = false ∧ exec .tapReset State.reset = .next State.reset :=
  ⟨rfl, rfl⟩

theorem test_can_OtherCommandsLeaveEveryByteOfMemory :
    storesMemory .tapReset = false ∧ exec .tapReset State.reset = .next State.reset := ⟨rfl, rfl⟩

theorem test_can_EveryCommandCompletesOrStopsByName :
    Instr.wf (.beatLock 5) = false ∧ (Instr.wf (.beatLock 4) = true ∧ badAccess (.beatLock 4) State.reset = false) ∧
    (Instr.wf (.registerWrite 8 4 0) = true ∧ badAccess (.registerWrite 8 4 0) State.reset = false) ∧
    (Instr.wf (.registerWrite 3 0x100000000000 0) = true ∧ badAccess (.registerWrite 3 0x100000000000 0) State.reset = true) := by
  decide +kernel

/-- ERR_INJECT into a unit that has a fault injected already is refused. -/
theorem test_can_RefusedCommandsHaveNoEffect :
    let s := tMb (tReady.setErrUnit 0 { ErrUnit.reset with inject := some 1 }) 0x81 [0x1000]
    ∃ t r, checkedMailbox (.errInject 0) = some 0 ∧ exec (.errInject 0) s = .next t ∧
      (t.mb 0).ready = (s.mb 0).ready ++ [r] ∧ 1 ≤ r.status.toNat ∧ r.status.toNat ≤ 5 :=
  ⟨_, _, rfl, rfl, rfl, by decide +kernel, by decide +kernel⟩

theorem test_can_SequencerCommandsTouchOneCore :
    threadCore (.mark 0 0) = some 0 ∧ ∃ t, exec (.mark 0 0) (tThread [7]) = .next t ∧ t.core 0 ≠ (tThread [7]).core 0 :=
  ⟨rfl, _, rfl, by decide +kernel⟩

theorem test_can_EngineCommandsTouchOneCore :
    engineCore (.feltBetaSet 0) = some 0 ∧
      ∃ t, exec (.feltBetaSet 0) (tEngine 0x26 [0x26]) = .next t ∧ t.core 0 ≠ (tEngine 0x26 [0x26]).core 0 :=
  ⟨rfl, _, rfl, by decide +kernel⟩

theorem test_can_BeatCounterCountsBeats :
    (State.reset.power.coldReset = false ∧ ({ State.reset with cycle := 749 } : State).cycle < 750) ∧
    ({ State.reset with cycle := 748 } : State).cycle < 749 ∧ (4 : BitVec 3).toNat ≤ 4 ∧
    (let s : State := { State.reset with power := { Power.reset with coldReset := true } }
     s.power.coldReset = true ∧ s.power.on = true ∧ s.power.railGood = 0x7FF) := by decide +kernel

/-- Core 0 before a boundary: the engines' side has written a spin plane; both sides have written the next; a mantissa, two RWS
values and two values for a boundary wait, one of them for the boundary after the next. -/
def tBefore : CoreState :=
  { tCore with
    feltWrites := [⟨true, Win.spins, 0xFF, 1⟩, ⟨true, Win.spins + 512, 0xFF, 1⟩, ⟨false, Win.spins + 512, 0xFF, 2⟩,
      ⟨true, Win.cond, 0xFF, 3⟩]
    rws := [(Reg.feltExp, 5), (Reg.feltBeta 15, 6)]
    regNext := [⟨1, Reg.feltPerm, 7, -1⟩, ⟨2, Reg.feltXround, 9, -1⟩] }

theorem test_can_BeatCounterCountsBeats_boundary :
    let s : State := { tRun tBefore with cycle := 749 }
    let k := s.core 0
    (s.power.coldReset = false ∧ s.domainRuns = true ∧ s.cp.release = none ∧ s.stewardQ = [] ∧ k.job = some 1 ∧
      s.job 1 = some tJob ∧ tJob.st = .running ∧ s.beat < tJob.compBeat ∧ tJob.pendingEnd = none ∧
      ∀ e ∈ s.jobs, BitVec.ofNat 16 e.1 = (1 : Handle) → e.2 = tJob) ∧
    (k.conflict 1 = true ∧ k.conflict 0 = false ∧ k.conflict 16 = false ∧ (∀ x ∈ k.feltWrites, Win.spins ≤ x.offset) ∧
      feltPlane Win.spins = some 0 ∧ feltPlane Win.cond = some 16 ∧ feltMask Win.cond = 0xFF) ∧
    ((k.rws.map (·.1)).Nodup ∧ tabFind k.rws Reg.feltExp = some 5 ∧ tabFind k.rws (Reg.feltBeta 15) = some 6 ∧
      (∀ x ∈ k.regNext, x.offset ≠ Reg.feltExp ∧ x.offset ≠ Reg.feltBeta 15 ∧ ∀ e ∈ k.rws, e.1 ≠ x.offset)) ∧
    s.cycleEnd.trace.buffer.length ≤ 524288 := by decide +kernel

/-- The mantissa side writes a conditional plane that the other side has written too. -/
theorem test_can_BeatCounterCountsBeats_conflict :
    let k : CoreState := { tCore with feltWrites := [⟨true, Win.cond, 0xFF, 1⟩, ⟨false, Win.cond, 0xFF, 2⟩] }
    feltPlane Win.cond = some 16 ∧ k.conflict 16 = true := by decide +kernel

theorem test_can_IssueHandsTheCommandToItsEngine :
    -- an ISSUE of FELT_BETA_SET to engine 4, on time; the same late, floating and pinned
    (let s := tThread [1 + 4 * 2 ^ 22, 0x26]
     (∃ x, s.threadReady 0 0 1 = some x ∧ x.2.2.2 = false ∧
       s.engineFree 0 (insEngine x.2.2.1) = true ∧ s.cycle < x.2.1.issueCycles)) ∧
    (let s : State := { tThread [1 + 2 * 2 ^ 22, 0x33, 0, 0, 0] with cycle := 10 }
     (∃ x, s.threadReady 0 0 1 = some x ∧ x.2.2.2 = true ∧ s.engineFree 0 (insEngine x.2.2.1) = true ∧
       s.cycle < x.2.1.issueCycles ∧ (s.issuedAt 0 0 x.2.1 x.2.2.1 true).1.pinned = false ∧
       State.remoteOperand x.2.1 0 (s.issuedAt 0 0 x.2.1 x.2.2.1 true).1 = false ∧
       (s.issuedAt 0 0 x.2.1 x.2.2.1 true).1.endCycle 0 (s.pageAt 0 x.2.1 s.beat)
         (s.cmdExtra (s.issuedAt 0 0 x.2.1 x.2.2.1 true).1) x.2.1.half ≤ 749)) ∧
    (let s : State := { tThread [1 + 4 * 2 ^ 22, 0x26] with cycle := 10 }
     (∃ x, s.threadReady 0 0 1 = some x ∧ x.2.2.2 = true ∧ s.engineFree 0 (insEngine x.2.2.1) = true ∧
       s.cycle < x.2.1.issueCycles ∧ (s.issuedAt 0 0 x.2.1 x.2.2.1 true).1.pinned = true)) :=
  ⟨⟨_, rfl, by decide +kernel⟩, ⟨_, rfl, by decide +kernel⟩, ⟨_, rfl, by decide +kernel⟩⟩

/-- A late CAT_DRAW of a row in scratch into which a link lands a flit. -/
theorem test_can_IssueHandsTheCommandToItsEngine_remote :
    let im := { tImage with landings := [⟨0, 0, 0, 2⟩] }
    let s : State := { tThread [1 + 3 * 2 ^ 22, 0x40, 0, 63, 0, 0, 0, 0] with cycle := 10, jobs := [(1, { tJob with image := im })] }
    ∃ x, s.threadReady 0 0 1 = some x ∧ x.2.2.2 = true ∧ s.engineFree 0 (insEngine x.2.2.1) = true ∧
      s.cycle < x.2.1.issueCycles ∧ (s.issuedAt 0 0 x.2.1 x.2.2.1 true).1.pinned = false ∧
      State.remoteOperand x.2.1 0 (s.issuedAt 0 0 x.2.1 x.2.2.1 true).1 = true :=
  ⟨_, rfl, by decide +kernel⟩

theorem test_can_QueuePatchAddsToTheAddressField :
    0 < bitsOf (2 ^ 32) 32 16 ∧ ((3 : Nat) ≠ insQword 0 ∨ insQuse 0 = false) := by decide +kernel

theorem test_can_WaitBlocksUntilItsThreshold :
    -- WAIT on PROD of scoreboard 0, for a threshold of 0, which is met, and of 1, which is not; a release that has come
    (∃ x, (tThread [2, 0]).threadReady 0 0 2 = some x ∧
      min (bitsOf (((tThread [2, 0]).core 0).insWord 1) 0 32) 0xFFFFFFFF ≤ ((tProg [2, 0]).executed 0 false).sbAtStart 0 0 false) ∧
    (∃ x, (tThread [2, 1]).threadReady 0 0 2 = some x ∧
      ((tProg [2, 1]).executed 0 false).sbAtStart 0 0 false < min (bitsOf (((tThread [2, 1]).core 0).insWord 1) 0 32) 0xFFFFFFFF) ∧
    (let s : State := { tRun { (tProg [2, 1]).block 0 2 0 false 1 with releaseAt := [(0, 1)] } with cycle := 1 }
     (s.coreJob 0).isSome = true ∧ (s.core 0).thrSt 0 = 2 ∧ tabGet 0 (s.core 0).releaseAt 0 ≠ 0 ∧
       tabGet 0 (s.core 0).releaseAt 0 ≤ s.now) ∧
    -- a thread that can execute no WAIT, and is not blocked on one
    (tThread [3]).threadReady 0 0 2 = none ∧ ((tThread [3]).core 0).thrSt 0 ≠ 2 :=
  ⟨⟨_, rfl, by decide +kernel⟩, ⟨_, rfl, by decide +kernel⟩, by decide +kernel⟩

theorem test_can_SigAndIncrementsAddToTheCounts :
    ((tThread [3]).threadReady 0 0 3).isSome = true ∧ ((tRun tCore).coreJob 0).isSome = true := by decide +kernel

/-- The least D of Rally unit 0 once thread 0 of core 0 has executed its instruction. -/
def tLeast (s : State) : Nat := (s.setCore 0 ((s.core 0).executed 0 false)).minLeftNow 0 0 0

theorem test_can_RallyCountsArrivalsAndDepartures :
    -- an ARRIVE that is accepted and one that is an overrun
    (((tThread [4]).threadReady 0 0 4).isSome = true ∧ (tProg [4]).arrived 0 0 + 1 - tLeast (tThread [4]) ≤ 2) ∧
    (let s := tRun { tProg [4] with arrivals := [(0, 2)] }
     (s.threadReady 0 0 4).isSome = true ∧ 2 < (s.core 0).arrived 0 0 + 1 - tLeast s) ∧
    -- RWAIT that owes nothing, that leaves a complete phase, that blocks
    (((tThread [5]).threadReady 0 0 5).isSome = true ∧ (tProg [5]).left 0 0 = (tProg [5]).arrived 0 0) ∧
    (let s := tRun { tProg [5] with arrivals := [(0, 1)], phases := [(0, 1)] }
     (s.threadReady 0 0 5).isSome = true ∧ (s.core 0).left 0 0 ≠ (s.core 0).arrived 0 0 ∧
       (s.core 0).left 0 0 + 1 ≤ (s.core 0).phaseAtStart s.now 0) ∧
    (let s := tRun { tProg [5] with arrivals := [(0, 1)] }
     (s.threadReady 0 0 5).isSome = true ∧ (s.core 0).left 0 0 ≠ (s.core 0).arrived 0 0 ∧
       (s.core 0).phaseAtStart s.now 0 < (s.core 0).left 0 0 + 1) ∧
    -- a release that has come
    (let s : State := { tRun { (tProg [5]).block 0 3 0 false 0 with releaseAt := [(0, 1)] } with cycle := 1 }
     (s.coreJob 0).isSome = true ∧ (s.core 0).thrSt 0 = 3 ∧ tabGet 0 (s.core 0).releaseAt 0 ≠ 0 ∧
       tabGet 0 (s.core 0).releaseAt 0 ≤ s.now) ∧
    (((tThread [6]).threadReady 0 0 6).isSome = true ∧ (tProg [6]).arrived 0 0 + 1 - tLeast (tThread [6]) ≤ 2 ∧
      (tProg [6]).left 0 0 ≤ (tProg [6]).arrived 0 0) := by decide +kernel

theorem test_can_MarkEmitsItsRecord : ((tThread [7]).threadReady 0 0 7).isSome = true := by decide +kernel

theorem test_can_DeadlockDetectorEndsTheJob :
    let s := tRun (tCore.setReg Reg.dlkCount 4)
    (s.coreJob 0).isSome = true ∧ (s.core 0).regF Reg.dlkCount 0 3 = 4 ∧ (s.core 0).regF Reg.coreStat 5 1 = 0 ∧
      s.cycle = 0 ∧ tJob.pendingEnd = none ∧ (s.core 0).jobCodes.contains 0x0C = false := by decide +kernel

/-- The engine holds a command of this opcode, with its job. -/
def tHas (op : Byte) (ws : List Dword) : Bool := ((tEngine op ws).engineCmd 0 op.toNat).isSome

/-- It is held, and no granule that it reads is still to come. -/
def tHasAll (op : Byte) (ws : List Dword) : Bool := ((tEngine op ws).readyCmd 0 op.toNat).isSome

/-- It is held, and an operand granule of it is still to come. -/
def tWaits (op : Byte) (ws : List Dword) : Bool :=
  let x : Transfer := ⟨0, cmdEngine op.toNat, 1, false, false, 0, 0x10000000000, 0, 0, 0, 0, 0, false, false, .operand 0, .ready, .memory⟩
  { tEngine op ws with transfers := [x] }.operandsDue 0 (cmdEngine op.toNat)

theorem test_can_FeltRunKeepsHeldSpinsAndTheSnapshot :
    -- a run of no steps is over, one of a step in cycle 1 is not yet
    (let s := tEngine 0x20 [0x20]
     (s.engineCmd 0 0x20).isSome = true ∧ s.runOver (tIssued 0x20 [0x20]) = true) ∧
    (let w : Dword := BitVec.ofNat 64 (0x20 + 2 ^ 10 + 2 ^ 20)
     let s := tEngine 0x20 [w]
     (s.engineCmd 0 0x20).isSome = true ∧ s.runOver (tIssued 0x20 [w]) = false) ∧
    (match exec (.feltRun 0) (tEngine 0x20 [0x20]) with | .next _ => true | _ => false) = true := by decide +kernel

theorem test_can_QuantisingLoadsAndBetaSet :
    tHasAll 0x21 [0x21, 0] = true ∧ (tHasAll 0x22 [0x22, 0] = true ∧ tHasAll 0x22 [0x122, 0] = true) ∧
    tHasAll 0x26 [0x26] = true ∧ tWaits 0x26 [0x26] = true := by decide +kernel

/-- Core 0, of a job that runs on partition 0 with all shared memory, has these slots in beat 0. -/
def tSlots (k : CoreState) (ws : List Word) : State :=
  ((tRun { k with slots := ws.zipIdx.map fun x => (x.2, x.1) }).setDcb (Dcb.secPstat 0) 1).setDcb (Dcb.secPres 0) 0xFFFFFF

/-- The job and the command that core 0 holds, the command's slots, and a predicate on them. -/
def tMeets (s : State) (op : Nat) (p : Job → Issued → List (Nat × Word) → Bool) : Bool :=
  match s.engineCmd 0 op with
  | some (_, j, i) => p j i (s.cmdSlots 0 j i)
  | none => false

/-- A slot of engine 4 for a write to slice port 0, and one for a read. -/
def tWr : Word := 0x0C
def tRd : Word := 0x04

/-- Slices start at this device address. -/
def tSlice : Nat := 0x10000000000

theorem test_can_StoringCommandsLaunchOneWritePerGranule :
    (let s := tSlots (tHold tCore 0x23 [0x23, BitVec.ofNat 64 tSlice]) (List.replicate 640 tWr)
     tMeets s 0x23 (fun j i sl => sl.length == 640 && sl.all (fun x => slotKind x.2 != 2) &&
       (granules (i.f 1 0 44) 640).all fun a => s.jobMay j 0 a 64 true) = true) ∧
    (let s := tSlots (tHold tCore 0x27 [0x27, BitVec.ofNat 64 tSlice]) (List.replicate 256 tWr)
     tMeets s 0x27 (fun j i sl => sl.length == 256 && sl.all (fun x => slotKind x.2 != 2) &&
       (granules (i.f 1 0 44) 256).all fun a => s.jobMay j 0 a 64 true) = true) ∧
    -- two granules, the last with one byte
    (let s := tSlots (tHold tCore 0x2A [0x8052A, 0x100000000, BitVec.ofNat 64 tSlice]) [tWr, tWr]
     tMeets s 0x2A (fun j i sl => i.move.toMem && i.move.count == 2 && i.move.tail == 1 && sl.length == i.move.count &&
       sl.all (fun x => slotKind x.2 != 2) &&
       (List.range i.move.count).all fun n =>
         s.jobMay j 0 (i.move.addrOf n) (if n + 1 = i.move.count then i.move.tail else 64) true) = true) ∧
    (let s := tSlots (tHold tCore 0x2A [0x8042A, 0x100000000, BitVec.ofNat 64 tSlice]) [tRd, tRd]
     tMeets s 0x2A (fun j i sl => !i.move.toMem && i.move.count == 2 && sl.length == i.move.count &&
       (List.range i.move.count).all fun n =>
         s.jobMay j 0 (i.move.addrOf n) (if n + 1 = i.move.count then i.move.tail else 64) false) = true) := by
  decide +kernel

theorem test_can_ExchangeDataIsStagedAndMoved :
    (let s := tSlots ((tHold tCore 0x25 [0x25]).setReg Reg.feltXcfg 0x10200) [tWr, tWr]
     tMeets s 0x25 (fun j i sl => sl == [(0, tWr), (1, tWr)] && j.coreOf (i.f 0 16 16) == some 0 &&
       slotKind tWr == 1 && !slotHbm tWr && slotPort tWr == 0) = true) ∧
    -- its granule for half 1 of direction 0 lands, where half 0 is staged; of direction 1, which is not accepted
    (∀ d < 2,
     let x : Transfer :=
       ⟨0, 4, 1, true, false, 0, 0x20000000000 + Win.staging, 0, 0, 0, firstBytes 64, 7, false, false, .scratch 0 0, .ready, .staging d 1⟩
     let s : State := { tRun { tCore.setReg Reg.feltXcfg 0x10201 with staged := [(0, 1)] } with transfers := [x] }
     s.domainRuns = true ∧
       takeDue s.transfers (fun y => y.write && !y.hbm && y.port == (0 : PortNum).toNat && decide (y.dueAt ≤ s.now)) Transfer.dueAt =
         some (x, []) ∧ x.mismatch = false ∧ regionOf x.addr = .window 0 Win.staging ∧
       (s.errUnit (UnitNo.slice 0)).inject = none ∧ (s.core 0).regF Reg.feltXcfg 0 2 = 1 ∧
       ((s.core 0).regF Reg.feltXcfg 16 8).testBit d = decide (d = 0) ∧ tabGet 0 (s.core 0).staged 0 ||| 2 ^ 1 = 3) ∧
    -- the engine sends to itself in beat 0 of the period, with a lag of two beats
    (let im : Image := { tImage with engines := [{ tRec with prog := [1 + 4 * 2 ^ 22, 0x25], thrProg := [0x20000] }] }
     let k : CoreState := { tCore.setReg Reg.feltXcfg 0x30201 with staged := [(0, 3)] }
     let s : State := { State.reset with jobs := [(1, { tJob with image := im })], cores := [(0, k)], beat := 2 }
     (s.coreJob 0).isSome = true ∧ s.cycle = 0 ∧ (s.core 0).regF Reg.feltXcfg 0 2 = 1 ∧
       s.exchangeDue { tJob with image := im } 0 = true ∧
       tabGet 0 (s.core 0).staged 0 = 3 ∧
       tabGet 0 (s.core 0).staged 1 ≠ 3 ∧ ((s.core 0).regF Reg.feltXcfg 16 8).testBit 1 = true) := by decide +kernel

theorem test_can_ReplicaExchangeLatchesEnergiesAndSwaps :
    (let s := tRun { tCore with regs0 := [(Reg.feltXchg, 4)] }
     s.job 1 = some tJob ∧ s.jobRuns tJob = true ∧ tJob.firstCore.any (fun c => (s.core c).exchangeBeat (s.jobBeat tJob)) = true) ∧
    -- two beats after an exchange beat of round 6
    (let s : State := { tRun { tCore.setReg Reg.feltXchg 4 with rounds := [(0, 6)] } with beat := 2 }
     s.job 1 = some tJob ∧ tJob.firstCore = some 0 ∧ (tJob.engines.map (·.2)).Nodup ∧ s.jobRuns tJob = true ∧
       (s.core 0).roundDue (s.jobBeat tJob) = some 6) := by decide +kernel

theorem test_can_FieldEngineWritesItsResults :
    (tHasAll 0x30 [0x30, 0, 0] = true ∧ tWaits 0x30 [0x30, 0, 0] = true ∧
      (tEngine 0x30 [0x30, 0, 0]).whistle.pending = false ∧
      (tEngine 0x30 [0x30, 0, 0]).mmaMade (tIssued 0x30 [0x30, 0, 0]) tJob ≠ 0 ∧
      -- a Whistle sounded in cycle 0 lets no chunk of an FE_MMA of cycle 100 pass
      ({ tEngine 0x30 [0x30, 0, 0] with whistle := ⟨true, 0, 0, 0, 0⟩ } : State).mmaMade
        { tIssued 0x30 [0x30, 0, 0] with cycle := 100 } tJob = 0) ∧
    (tHas 0x31 [0x31, 0, 0, 0, 0] = true ∧ (tIssued 0x31 [0x31]).out.dest = 0 ∧
      tHas 0x31 [0xE031, 0, 0, 0, 0] = true ∧ (tIssued 0x31 [0xE031]).out.dest = 1) ∧
    (tHas 0x32 [0x32, 0, 0, 0] = true ∧ (tIssued 0x32 [0x32]).bern.dest = 0 ∧
      tHas 0x32 [0x832, 0, 0, 0] = true ∧ (tIssued 0x32 [0x832]).bern.dest = 1) ∧ tHas 0x33 [0x33, 0, 0, 0] = true := by
  decide +kernel

theorem test_can_SamplerWritesItsWordsOrKeepsTheRowOpen :
    -- a short row of 64 entries in scratch, a long row of 65
    (tHasAll 0x40 [0x40, 0, 63, 0, 0, 0, 0] = true ∧ (tIssued 0x40 [0x40, 0, 63]).cat.long = false ∧
      (tIssued 0x40 [0x40, 0, 63]).cat.src = 0) ∧
    (tHasAll 0x40 [0x40, 0, 64, 0, 0, 0, 0] = true ∧ (tIssued 0x40 [0x40, 0, 64]).cat.long = true) ∧
    tWaits 0x40 [0x40, 0, 63, 0, 0, 0, 0] = true := by decide +kernel

/-- A node operand that waits, of the first granule of shared memory. -/
def tOperand (side : Bool) : NodeOperand := ⟨tSlice, side, 0, false, 0, 1, 0, 0⟩

theorem test_can_AccumulatorLoadsAndReductions :
    (tHasAll 0x28 [0x28, 0] = true ∧ tWaits 0x28 [0x28, 0] = true) ∧
    (let s := tSlots (tHold tCore 0x29 [0x10029, 0, BitVec.ofNat 64 tSlice]) (List.replicate 8 tWr)
     tMeets s 0x29 (fun j i sl => i.red.srck == 0 && sl.length == 8 && sl.all (fun x => slotKind x.2 != 2) &&
       (List.range 8).all fun n => s.jobMay j 0 (i.red.dest + 64 * n) 64 true) = true) ∧
    -- from memory, through slots that are still to come
    (let k := tHold tCore 0x29 [0x10829, BitVec.ofNat 64 tSlice, BitVec.ofNat 64 tSlice]
     let s := ((tRun { k with slots := (List.range 8).map fun n => (n + 1, tWr) }).setDcb (Dcb.secPstat 0) 1).setDcb (Dcb.secPres 0) 0xFFFFFF
     tMeets s 0x29 (fun j i sl => i.red.srck == 1 && sl.length == 8 && sl.all (fun x => slotKind x.2 != 2) &&
       sl.all (fun x => decide (s.now < s.beat * 750 + x.1)) &&
       (List.range 8).all fun n => s.jobMay j 0 (i.red.dest + 64 * n) 64 true) = true) ∧
    -- an operand that lands
    (let x : Transfer :=
       ⟨0, 4, 1, true, false, 0, tSlice, 0, 0, 0, firstBytes 64, 7, false, false, .scratch 0 0, .ready, .node true 1 false⟩
     takeDue [x] (fun y => y.write && !y.hbm && y.port == (0 : PortNum).toNat && decide (y.dueAt ≤ 0)) Transfer.dueAt = some (x, []) ∧
       x.mismatch = false ∧ ({ State.reset with transfers := [x] } : State).domainRuns = true) ∧
    (let s : State := { State.reset with nodes := [(0, [tOperand false, tOperand true])] }
     s.domainRuns = true ∧ tabGet [] s.nodes 0 = [tOperand false, tOperand true] ∧
       nodePair (tOperand false) (tOperand true) = true ∧ (tOperand false).side = false ∧
       (tOperand false).fromMem = false ∧ (tOperand true).fromMem = false ∧ regionOf (tOperand true).dest = .slice 0 ∧
       (s.errUnit (UnitNo.slice 0)).inject = none) := by decide +kernel

/-! ### Buses, mailboxes, jobs -/

/-- A write of the first granule of shared memory, on its way to its slot. -/
def tTransfer : Transfer :=
  ⟨0, 4, 1, true, false, 0, tSlice, 0, 0, 0, firstBytes 1, 0x55, false, false, .scratch 0 64, .ready, .memory⟩

def tFlight (x : Transfer) : State := { State.reset with transfers := [x] }

theorem test_can_WritesLandAndReadsArrive :
    (takeDue [tTransfer] (fun y => y.write && !y.hbm && y.port == (0 : PortNum).toNat && decide (y.dueAt ≤ 0)) Transfer.dueAt =
      some (tTransfer, []) ∧ regionOf tTransfer.addr = .slice 0 ∧ tTransfer.mismatch = false ∧ tTransfer.target = .memory ∧
      (tFlight tTransfer).domainRuns = true ∧ ((tFlight tTransfer).errUnit (UnitNo.slice 0)).inject = none) ∧
    -- the same, declared for another port
    (let x := { tTransfer with addr := tSlice + 0x80000 }
     takeDue [x] (fun y => y.write && !y.hbm && y.port == (0 : PortNum).toNat && decide (y.dueAt ≤ 0)) Transfer.dueAt =
      some (x, []) ∧ regionOf x.addr = .slice 1 ∧ x.mismatch = true) ∧
    (let x := { tTransfer with addr := 0, hbm := true }
     takeDue [x] (fun y => y.hbm && y.port == (0 : PortNum).toNat && !y.taken && decide (y.dueAt ≤ 0)) Transfer.dueAt =
      some (x, []) ∧ regionOf x.addr = .hbm 0 ∧ ((tFlight x).errUnit (UnitNo.hbm 0)).inject = none) ∧
    (let x := { tTransfer with addr := 0, hbm := true, write := false }
     takeDue [x] (fun y => y.hbm && y.port == (0 : PortNum).toNat && !y.taken && decide (y.dueAt ≤ 0)) Transfer.dueAt =
      some (x, []) ∧ ((tFlight x).errUnit (UnitNo.hbm 0)).inject = none) ∧
    (let x := { tTransfer with write := false }
     let s : State := { tFlight x with cycle := readDistance 0 0 }
     takeDue [x] (fun y => !y.write && y.core == (0 : CoreNum).toNat && (y.taken || !y.hbm) && decide (y.deliverAt ≤ s.now))
      Transfer.deliverAt = some (x, []) ∧ s.domainRuns = true ∧ (s.errUnit (UnitNo.slice 0)).inject = none ∧
      (s.takeData x).mismatch = false) ∧
    -- data for operand granule 0 of the FELT_BETA_SET that core 0 holds
    (let x := { tTransfer with write := false, dest := .operand 0 }
     let s : State := { tEngine 0x26 [0x26] with transfers := [x], cycle := readDistance 0 0 }
     takeDue [x] (fun y => !y.write && y.core == (0 : CoreNum).toNat && (y.taken || !y.hbm) && decide (y.deliverAt ≤ s.now))
      Transfer.deliverAt = some (x, []) ∧ s.domainRuns = true ∧ (s.takeData x).mismatch = false ∧
      (s.core 0).job = some x.handle ∧ ((s.core 0).engine x.engine).cmd.isSome = true) := by decide +kernel

theorem test_can_StewardMovesBytes :
    -- the last aligned access of each size to slice 0, one to HBM and one to a core window wait
    (∀ n ∈ [4, 8, 64], ucieOk n (0x100000000000 + tSlice + 0x80000 - n) = true ∧
      deviceAddr (0x100000000000 + tSlice + 0x80000 - n) = some (tSlice + 0x80000 - n) ∧
      regionOf (tSlice + 0x80000 - n) = .slice 0 ∧ (stewardPort (tSlice + 0x80000 - n)).isSome = true ∧
      tReady.blocked (tSlice + 0x80000 - n) = false) ∧
    (deviceAddr 0x100000000000 = some 0 ∧ regionOf 0 = .hbm 0 ∧ (stewardPort 0).isSome = true ∧ tReady.bootState = 4 ∧
      tReady.blocked 0 = false ∧ tReady.power.coldReset = false) ∧
    (stewardPort 0x20000000000).isSome = true ∧
    -- both are served in their slots
    (let s : State := { tReady with cycle := 748, stewardQ := [⟨true, 4, 0x100000000000 + tSlice, 7, XferErr.none⟩] }
     s.power.coldReset = false ∧ s.tick.stewardQ = []) ∧
    (let s : State := { tReady with cycle := 742, stewardQ := [⟨true, 4, 0x100000000000, 7, XferErr.none⟩] }
     s.power.coldReset = false ∧ s.tick.stewardQ = []) ∧
    -- the last byte of SRAM, the edges of the holes, and an access that the link does not carry
    (0x1000000 ≤ 0x17FFFFF ∧ 0x17FFFFF + 1 ≤ 0x1800000) ∧ 0x2111000 + 64 ≤ 0x8000000 ∧ 0x18000000 + 64 ≤ 0x100000000000 ∧
    ((deviceAddr 0x1FFFFFFFFFFF).isSome = true ∧ ucieOk 3 0x1FFFFFFFFFFF = false) ∧ deviceAddr 0x200000000000 = none := by
  decide +kernel

/-- The tile of core 0 runs a step in beat 0 of its schedule. -/
def tRunning : State :=
  let im : Image := { tImage with engines := [{ tRec with prog := [1, 0x20 + 2 ^ 20], thrProg := [0x20000] }] }
  { State.reset with jobs := [(1, { tJob with image := im })], cores := [(0, tCore)] }

/-- The steward's address of offset `o` of core 0's window leads there, unblocked and mapped. -/
def tWin (s : State) (o : Nat) : Bool :=
  let a := 0x100000000000 + 0x20000000000 + o
  deviceAddr a == some (0x20000000000 + o) && a % 4 == 0 && regionOf (0x20000000000 + o) == .window 0 o &&
    !s.blocked (0x20000000000 + o) && s.windowMapped 0

theorem test_can_RegisterWritesKeepTheirRanges :
    (State.reset.power.coldReset = false ∧ (∀ v ∈ [1000, 2900], 1000 ≤ bitsOf v 0 12 ∧ bitsOf v 0 12 ≤ 2900) ∧
      (∀ v ∈ [999, 2901], bitsOf v 0 12 < 1000 ∨ 2900 < bitsOf v 0 12) ∧
      (tabGet (State.reset.dcbReg Dcb.traceCtrl) State.reset.dcbRws Dcb.traceCtrl).toNat < 2 ^ 31) ∧
    (∀ o ∈ [Reg.feltExp, Reg.feltFlags, Reg.coreStat, 0, 0x3FFFC, Win.spins, 0x801FFC, Win.acc, Win.schedule, Reg.rlyFlags 0],
      tWin (tRun tCore) o = true ∧ tWin State.reset o = true) ∧
    ((tRun tCore).halted = false ∧ ((tRun tCore).core 0).job.isSome = true ∧ (State.reset.core 0).job = none) ∧
    (regAt seqRanges (Reg.thrProg 0)).isSome = true ∧
    (∀ o ∈ [Win.acc, Win.spins, Win.schedule], storageMapped o = true ∧ 0x40000 ≤ o ∧ o < Reg.hang) ∧
    (tWin tRunning Reg.feltSize = true ∧ tRunning.tileRuns 0 = true ∧
      coreRegAt Reg.feltSize = some (Reg.feltSize, (coreRegAt Reg.feltSize).elim 0 (·.2))) := by decide +kernel

def tEnding : Job := { tJob with pendingEnd := some (.contained, 7, 0) }

theorem test_can_RecordedEndsComeAtTheBoundary :
    (let s : State := { State.reset with jobs := [(1, tEnding)] }
     s.job 1 = some tEnding ∧ 0 ≤ s.beat ∧ (s.halted && s.haltedJob tEnding) = false) ∧
    (let s : State := ({ State.reset with jobs := [(1, tEnding)] } : State).setDcb Dcb.whistleStat 1
     s.job 1 = some tEnding ∧ (s.halted && s.haltedJob tEnding) = true) ∧
    (let s : State := { State.reset with err := ⟨[], none, some (7, 0)⟩ }
     s.err.fatalNext = some (7, 0) ∧ 0 ≤ s.beat) := by decide +kernel

theorem test_can_FencesTakeTheirCores :
    (tRun { tCore with fenceAt := some 0 }).core 0 = { tCore with fenceAt := some 0 } ∧
    (let s : State := { State.reset with cp := { Cp.reset with clusterNext := [(63, 0)] } }
     s.cp.clusterNext.find? (fun e => e.1 == (63 : BitVec 6).toNat) = some (63, 0)) ∧
    (let s := tMb tReady 0x30 [1023]
     (s.mb 0).taken = some (tTaken 0x30 [1023]) ∧ (tTaken 0x30 [1023]).opcode = 0x30 ∧ s.enabled 1023 = true ∧
       s.occupied 0 = false ∧ (tTaken 0x30 [1023]).arg 0 = 1023 ∧ s.fenced 1023 = false) ∧
    (let s := tMb tReady 0x30 [0x103FF]
     (tTaken 0x30 [0x103FF]).arg 0 = 1023 + 2 ^ 16 ∧ s.dcbF Dcb.clusterFence (clusterOf 1023) 1 = 0 ∧ s.enabled 1023 = true ∧
       s.occupied 0 = false ∧ (s.fenceCore 1023).fenced 1023 = true) ∧
    (let s := tMb (tReady.setDcb Dcb.clusterFence 0x8000000000000000) 0x30 [0x103FF]
     s.dcbF Dcb.clusterFence (clusterOf 1023) 1 = 1 ∧ s.enabled 1023 = true) := by decide +kernel

/-- Mailbox 0 holds a posted command with this header. -/
def tPosted (m : MailboxNum) (header : Word) : State :=
  { tReady.setMb m.toNat { Mailbox.reset with cmd := [(0, header)], pend := true } with
    cp := { Cp.reset with doorbells := [m.toNat] } }

theorem test_can_MailboxHandshake :
    ((State.reset.mb 0).pend = false ∧ ((tPosted 0 4).mb 0).pend = true) ∧
    -- SCHED_INFO passes; BOOT-time DBG_WHISTLE from a mailbox without privilege is denied; an undefined opcode is malformed
    ((tPosted 0 4).cpRuns = true ∧ (tPosted 0 4).checking = false ∧
      (tPosted 0 4).classOk 0 ((tPosted 0 4).mb 0).posted = true ∧ (tPosted 0 4).shapeOk ((tPosted 0 4).mb 0).posted = true) ∧
    ((tPosted 1 0x70).classOk 1 ((tPosted 1 0x70).mb 1).posted = false) ∧
    ((tPosted 0 0xFF).classOk 0 ((tPosted 0 0xFF).mb 0).posted = true ∧
      (tPosted 0 0xFF).shapeOk ((tPosted 0 0xFF).mb 0).posted = false) ∧
    (let r : Response := ⟨true, 0, 0, [], 0, none⟩
     let s := State.reset.setMb 0 { Mailbox.reset with ready := [r] }
     (s.mb 0).ready = [r] ∧ (s.mb 0).done = false) := by decide +kernel

/-- A program image of one engine at the start of shared memory, with a period of 256 beats of one empty page and a length of
four beats: header, digest, and an engine record without a program. Its engine map lies at 0x3100: module 1 holds the engine. -/
def tImageMem : Bytes :=
    [(0x10000000000, 0x1), (0x10000000008, 0x1), (0x1000000000D, 0x1), (0x10000000010, 0x4),
    (0x10000000019, 0x2), (0x10000000021, 0x20), (0x10000000028, 0x1), (0x10000000060, 0x10), (0x10000000061, 0x32),
    (0x10000000062, 0x54), (0x10000000063, 0x76), (0x10000000064, 0x98), (0x10000000065, 0xBA), (0x10000000066, 0xDC),
    (0x10000000067, 0xFE), (0x100000001F8, 0xC5), (0x100000001F9, 0xE1), (0x100000001FA, 0x9C), (0x100000001FB, 0xFB),
    (0x100000001FC, 0xFB), (0x100000001FD, 0x8B), (0x100000001FE, 0x36), (0x100000001FF, 0xD7), (0x10000000358, 0x40),
    (0x10000000359, 0x40), (0x1000000035D, 0x2),
    (0x10000003101, 0x4)]

/-- The image, partition 0 with every cluster and all memory, and the counter locked. -/
def tLoaded : State :=
  ((({ tReady with mem := tImageMem }.setDcb (Dcb.secPstat 0) 1).setDcb (Dcb.secPclu 0) 0xFFFFFFFFFFFFFFFF).setDcb
    (Dcb.secPres 0) 0xFFFFFF).setDcb Dcb.beatSync 1

/-- A request in the expert form for modules 0 and 1, with the explicit map. -/
def tAsk (op : Nat) (more : List Word) : TakenCmd :=
  { tTaken op ([0, 0x80100, 0, 0, 0, 0, 0, 0, 1, 3, 0, 0x3100, 0x100] ++ more) with
    header := BitVec.ofNat 32 (op + 0x100 + (13 + more.length) * 2 ^ 16) }

def tAsked (x : TakenCmd) : State := tLoaded.setMb 0 { Mailbox.reset with taken := some x }

theorem test_can_AdmittedJobsAreHeld :
    -- a JOB_ADMIT of the image that passes every check
    let x := tAsk 0x01 []
    let s := tAsked x
    (match readImage s.mem x.admitReq.image (s.dcbF Dcb.abiId 0 16) s.moduleId with
     | some im =>
       let j := s.newJob 0 x x.admitReq im none
       decide ((s.mb 0).taken = some x ∧ x.opcode = 0x01 ∧ s.admitArgsBad 0 x x.admitReq = false ∧
         s.admitImageBad x.admitReq j = false ∧ s.admitNotReady j = false ∧ s.occupied 0 = false ∧ s.admitRefused j = false ∧
         s.cp.nextHandle ≤ 65535)
     | none => false) = true := by decide +kernel

theorem test_can_AdmittedJobsStartAndComplete :
    -- a waiting job that fits, and two that do not, without and with NOWAIT
    (let j := { tJob with st := .waiting, launch := 5, xmap := true, mapWords := [0] }
     let s : State := { tLoaded with jobs := [(1, j)], cp := { Cp.reset with handles := [1], nextHandle := 2 }, beat := 1 }
     let p := s.placed j s.beat
     s.job 1 = some j ∧ j.takenBeat < s.beat ∧ s.halted = false ∧ s.fatal = false ∧ s.cpRuns = true ∧
       j.multi = false ∧ s.mapShort j = false ∧ p.startBeat ≤ j.launch ∧
       s.cycle = 0 ∧ j.entropySeed = false ∧ j.linkEnc = false ∧ s.admissionFault j p = none ∧
       s.fits p = true ∧ s.laterThan 1 p = false) ∧
    (∀ nowait ∈ [false, true],
     let j := { tJob with st := .waiting, nowait := nowait, xmap := true, mapWords := [0] }
     let s : State := { tLoaded with jobs := [(1, j), (2, { tJob with compBeat := 9 })], beat := 1 }
     let p := s.placed j s.beat
     s.job 1 = some j ∧ j.takenBeat < s.beat ∧ s.mapShort j = false ∧
       s.cycle = 0 ∧ j.entropySeed = false ∧ j.linkEnc = false ∧ s.admissionFault j p = none ∧
       s.fits p = false) ∧
    -- a job at its start beat, and one two beats after its completion beat
    (let j := { tJob with st := .admitted }
     let s : State := { State.reset with jobs := [(1, j)] }
     s.job 1 = some j ∧ s.beat = j.startBeat ∧ s.endDue j = false ∧ s.domainRuns = true) ∧
    (let s : State := { tRun tCore with beat := 5 }
     s.job 1 = some tJob ∧ tJob.compBeat + 2 ≤ s.beat ∧ tJob.pendingEnd = none ∧ s.halted = false) := by decide +kernel

theorem test_can_JobsAreCancelledWithdrawnAndShown :
    (∀ st ∈ [JobSt.waiting, .armed, .admitted, .running, .done],
      let j := { tJob with st := st }
      let s := tMb { tReady with jobs := [(1, j)] } 0x02 [1]
      let x := tTaken 0x02 [1]
      (s.mb 0).taken = some x ∧ x.opcode = 0x02 ∧ s.occupied 0 = false ∧ s.job x.jobHandle = some j ∧
        s.canEnd j = decide (st ≠ .done) ∧ j.save = none ∧ j.mailbox ≠ 0 ∧ j.pendingEnd = none) ∧
    (let s := tMb { tReady with jobs := [(1, tJob)] } 0x03 [1]
     s.job (tTaken 0x03 [1]).jobHandle = some tJob ∧ s.anyPartConf tJob.parts = false) ∧
    ((tMb tReady 0x04 []).occupied 0 = false ∧ (tTaken 0x04 []).opcode = 0x04) ∧
    -- at beat 1 a launch beat of 4 is too near; an armed job at its launch beat
    (let w := tTaken 0x01 [0, 0]
     let j := { tJob with st := .waiting, launch := 4 }
     let s : State := { State.reset.setMb 2 { Mailbox.reset with waiting := some w } with jobs := [(1, j)], beat := 1 }
     s.job 1 = some j ∧ (s.mb j.mailbox).waiting = some w ∧ j.launch ≠ 0 ∧ j.launch < s.beat + 4) ∧
    (let w := tTaken 0x01 [0, 0]
     let j := { tJob with st := .armed, launch := 4 }
     let s : State := { State.reset.setMb 2 { Mailbox.reset with waiting := some w } with jobs := [(1, j)], beat := 4 }
     s.job 1 = some j ∧ (s.mb j.mailbox).waiting = some w ∧ j.launch ≤ s.beat) := by decide +kernel

/-- The module is the master, LINK_SYS and BEAT_SYNC say. -/
def tMaster : State := tReady.setDcb Dcb.beatSync 3

theorem test_can_TheMasterSendsGoAndBases :
    (let j := { tJob with st := .armed, modset := 3, launch := 5, token := 9 }
     let s : State := { tMaster with beat := 2, jobs := [(1, j)], linkSys := ⟨[(9, 5, 0), (9, 5, 1)], [], [], [], []⟩ }
     s.jobOfToken 9 .armed = some (1, j) ∧ s.isMaster = true ∧ s.beat + 3 = j.launch ∧
       popcount 64 j.modset.toNat ≤ (s.linkSys.tokens.filter fun x => x.1 == 9 && decide (x.2.2 + 4 ≤ j.launch)).length) ∧
    (let j := { tJob with st := .armed, modset := 3, launch := 5, token := 9 }
     let s : State := { tMaster with beat := 2, jobs := [(1, j)], linkSys := ⟨[(9, 5, 1), (9, 5, 2)], [], [], [], []⟩ }
     -- one of the two came too late
     s.jobOfToken 9 .armed = some (1, j) ∧ s.isMaster = true ∧ s.beat + 3 = j.launch ∧
       (s.linkSys.tokens.filter fun x => x.1 == 9 && decide (x.2.2 + 4 ≤ j.launch)).length < popcount 64 j.modset.toNat) ∧
    (let j := { tJob with st := .waiting, modset := 3, token := 9 }
     let s : State := { tMaster with jobs := [(1, j)], linkSys := ⟨[], [(9, 0, 1024), (9, 1, 1024)], [], [], []⟩ }
     s.jobOfToken 9 .waiting = some (1, j) ∧ s.isMaster = true ∧ j.needsBase = true ∧
       j.modset.toNat.testBit s.moduleId = true ∧
       ∀ n ∈ (List.range 64).filter (fun n => j.modset.toNat.testBit n),
         ∃ x ∈ s.linkSys.census.filter (fun x => x.1 == 9), x.2.1 = n) := by decide +kernel

theorem test_can_ContextsAreSaved :
    -- CTX_SAVE to the start of shared memory, with the smallest stride
    (let j := { tJob with engines := [(0, 0)] }
     let s := tMb { tLoaded with jobs := [(1, j)] } 0x05 [1, 0, 0x100, 0xD1000]
     let x := tTaken 0x05 [1, 0, 0x100, 0xD1000]
     (s.mb 0).taken = some x ∧ x.opcode = 0x05 ∧ s.job x.jobHandle = some j ∧ x.arg64 1 % 2 ^ 44 % 4096 = 0 ∧
       x.arg 3 % 4096 = 0 ∧ recordBytes ≤ x.arg 3 ∧
       s.rangeIn j.parts (x.arg64 1 % 2 ^ 44) (recordsSpan j.image.e (x.arg 3)) = true ∧ s.occupied 0 = false ∧ j.save = none ∧
       s.beat ≤ j.compBeat ∧ j.pendingEnd = none) ∧
    (let r : SaveReq := ⟨0, 0, false, tSlice, 0xD1000, false, 0, []⟩
     let j := { tJob with save := some r }
     let s : State := { tRun tCore with jobs := [(1, j)], beat := 1 }
     s.job 1 = some j ∧ r.since < s.beat ∧ s.endDue j = false ∧ s.halted = false ∧ s.beat ≤ j.compBeat) ∧
    (let r : SaveReq := ⟨0, 0, false, tSlice, 0xD1000, true, 1, [(0, [])]⟩
     let j := { tJob with save := some r, st := .suspended }
     let s : State := { State.reset.setMb 0 { Mailbox.reset with waiting := some (tTaken 0x05 []) } with jobs := [(1, j)] }
     s.job 1 = some j ∧ r.suspended = true ∧ (s.mb r.mb).waiting.isSome = true ∧ j.engines = [(0, 0)] ∧ recordBytes ≤ r.stride ∧
       (r.records.map (·.1)).Nodup) := by decide +kernel

theorem test_can_ContextsAreRestored :
    let x := tAsk 0x06 [0, 0x100, 0xD1000, 0]
    let s := tAsked x
    (match readImage s.mem x.admitReq.image (s.dcbF Dcb.abiId 0 16) s.moduleId with
     | some im =>
       let r : RestoreReq :=
         { x.restoreReq with beats := s.freeVal.toNat % 2 ^ 32 }
       let u := s.stepFree
       let j := u.newJob 0 x x.admitReq im (some r)
       decide ((s.mb 0).taken = some x ∧ x.opcode = 0x06 ∧ u.admitArgsBad 0 x x.admitReq = false ∧
         u.admitImageBad x.admitReq j = false ∧ u.admitNotReady j = false ∧ s.occupied 0 = false ∧
         u.admitRefused j = false ∧ u.restoreStatus j = none ∧ s.cp.nextHandle ≤ 65535)
     | none => false) = true := by decide +kernel

theorem test_can_OverlaysComeIntoForceAtTheBoundary :
    (let s := tMb { tReady with cp := { Cp.reset with overlays := [(0, ⟨2, []⟩)] } } 0x10 [0x0201]
     let x := tTaken 0x10 [0x0201]
     let mask := (s.overlayTarget ||| 1) &&& (255 - 2)
     (s.mb 0).taken = some x ∧ x.opcode = 0x10 ∧ x.arg 0 = 1 + 256 * 2 ∧ (1 &&& 2 : Nat) = 0 ∧ s.kindsClash mask = false ∧
       (∀ n < 8, Nat.testBit 1 n = true → s.overlayKind n ≠ 0) ∧ s.occupied 0 = false ∧ s.lockstepHeld = false) ∧
    (let s : State := { State.reset with cp := { Cp.reset with overlayNext := some (0, 0) } }
     s.cp.overlayNext = some (0, 0) ∧ 0 ≤ s.beat) := by decide +kernel

/-! ### Boot, entropy, links, interrupts, Whistle -/

def tBoot (n : Nat) : State := State.reset.setDcb Dcb.bootStat (BitVec.ofNat 64 n)

theorem test_can_BootGoesThroughItsStates :
    ((tBoot 0).power.coldReset = false ∧ (tBoot 0).bootState = 0) ∧ (tBoot 2).bootState = 2 ∧
    ((tBoot 1).bootState ≠ 0 ∧ (tBoot 1).bootState ≠ 2) ∧ (tBoot 1).bootState = 1 ∧ (tBoot 1).fwReason = 1 ∧
    ((tBoot 3).bootState = 3 ∧ (tBoot 3).dcbF Dcb.secLcs 2 1 = 0) ∧
    ((tBoot 3).setDcb Dcb.secLcs 4).dcbF Dcb.secLcs 2 1 = 1 := by decide +kernel

/-- The entropy source in this state, with the DRBG instantiated where that is READY. -/
def tEnt (s : State) (n : Nat) : State := s.setDcb Dcb.entStat (BitVec.ofNat 64 (if n = 2 then 6 else n))

theorem test_can_EntropyReadsReturnTheirBits :
    -- one unit of each form, and eight, while READY; the same in STARTUP
    ([0x100, 0x101, 0x102, 0x800].all fun a : Word =>
      let s := tEnt (tMb tReady 0x20 [a]) 2
      decide ((s.mb 0).taken = some (tTaken 0x20 [a]) ∧ (tTaken 0x20 [a]).opcode = 0x20 ∧ s.anyConf = false ∧
        s.entState = 2 ∧ s.occupied 0 = false ∧ s.entMode = 0)) = true ∧
    (tEnt (tMb tReady 0x20 [0x100]) 1).entState = 1 ∧
    (let w : EntWait := ⟨0, 0, 1, false, [], none⟩
     let s : State := { tEnt (tReady.setMb 0 { Mailbox.reset with waiting := some (tTaken 0x20 [0x100]) }) 2 with
       ent := { Entropy.reset with reads := [w] } }
     s.ent.reads.find? (fun w => w.mb == (0 : MailboxNum).toNat && w.job.isNone) = some w ∧ (s.mb 0).waiting.isSome = true ∧
       s.nextDraw = some w ∧ s.drbgUp = true ∧ s.mustReseed w.pr = false) ∧
    (let w : EntWait := ⟨0, 2, 1, false, [1, 2], none⟩
     let s : State := { State.reset.setMb 0 { Mailbox.reset with waiting := some (tTaken 0x20 [0x102]) } with
       ent := { Entropy.reset with reads := [w] } }
     s.ent.reads.find? (fun w => w.mb == (0 : MailboxNum).toNat && w.job.isNone) = some w ∧ (s.mb 0).waiting.isSome = true ∧
       w.form ≠ 0 ∧ w.full = true) ∧
    -- ENT_RESTART from a mailbox with an accepted command, and from one that has none
    ((tMb tReady 0x21 []).setMb 0 { Mailbox.reset with taken := some (tTaken 0x21 []), active := true }).occupied 0 = true ∧
    ((tTaken 0x21 []).opcode = 0x21 ∧ (tMb tReady 0x21 []).occupied 0 = false ∧ ∀ w ∈ (tMb tReady 0x21 []).ent.reads, w.mb ≠ 0) := by decide +kernel

theorem test_can_ReadingCommandsAnswerAtOnce :
    ((tMb tReady 0x22 (List.replicate 8 1)).occupied 0 = false ∧ (tTaken 0x22 (List.replicate 8 1)).opcode = 0x22) ∧
    -- one distance to the last port, and the first 64
    (let x := tTaken 0x31 [1023 + 65536 * 1023, 1]
     x.opcode = 0x31 ∧ x.arg 0 = 1023 + 65536 * 1023 ∧ x.arg 1 = 1 ∧ 1023 + 1 ≤ 1024) ∧
    (let x := tTaken 0x31 [0, 64]
     x.arg 0 = 0 + 65536 * 0 ∧ x.arg 1 = 64) ∧
    (let x := tTaken 0x62 [BitVec.ofNat 32 Dcb.memUndef, 0x300]
     x.opcode = 0x62 ∧ x.arg64 0 = dcbBase + Dcb.memUndef ∧ globalCounter Dcb.memUndef = true) ∧
    (∀ o : Nat, (tTaken 0x62 [0, 0]).arg64 0 = dcbBase + o → globalCounter o = false) := by
  refine ⟨by decide +kernel, by decide +kernel, by decide +kernel, by decide +kernel, fun o h => ?_⟩
  have h0 : (tTaken 0x62 [0, 0]).arg64 0 = 0 := by decide +kernel
  rw [h0, show dcbBase = 0x30000000000 from rfl] at h
  omega

theorem test_can_TheSourceRunsItsTests :
    (State.reset.power.coldReset = false ∧ State.reset.entMode = 0) ∧
    (let s : State := { State.reset with ent := { Entropy.reset with windowEnded := true } }
     s.ent.windowEnded = true ∧ s.entState = 1 ∧ s.ent.katPassed = false) ∧
    (let s : State := { State.reset with ent := { Entropy.reset with katPassed := true, buffer := [1, 2] } }
     s.ent.katPassed = true ∧ s.entState = 1 ∧ s.entMode = 0 ∧ s.ent.restart = false ∧ s.ent.buffer = [1, 2]) ∧
    (let s : State := { State.reset with ent := { Entropy.reset with estCount := 2 ^ 20 } }
     s.ent.estCount = 2 ^ 20) := by decide +kernel

theorem test_can_PrivateWiresAndEntropyControls :
    (State.reset.power.coldReset = false ∧ State.reset.entState ≠ 3 ∧ State.reset.entMode = 0) ∧ (tEnt State.reset 3).entState = 3 ∧
    (let s : State := { tEnt State.reset 2 with ent := { Entropy.reset with buffer := [5], wires := [true, false] } }
     s.ent.buffer = [5] ∧ s.ent.wires = [true, false] ∧ s.entState = 2 ∧ s.entMode = 0 ∧ s.reseedWaits = false ∧
       false ∈ [true, false]) ∧
    false ∉ [true] ∧
    (State.reset.setDcb Dcb.secLcs 1).dcbF Dcb.secLcs 0 2 ≠ 0 ∧ (State.reset.setDcb Dcb.secLcs 0).dcbF Dcb.secLcs 0 2 = 0 ∧
    (3 : Word).toNat % 4 = 3 := by decide +kernel

/-- Port 15 in this state. -/
def tLink (s : State) (n : Nat) : State := s.setDcb (Dcb.linkStat 15) (BitVec.ofNat 64 n)

theorem test_can_LinkFramesAreSentAndTaken :
    ((tLink State.reset 1).power.coldReset = false ∧ (tLink State.reset 1).linkState 15 ≠ 0 ∧
      ((tLink State.reset 1).link 15).sent ≠ some (tLink State.reset 1).beat) ∧
    (let s : State := { tLink State.reset 2 with links := [(15, { LinkPort.reset with sent := some 0 })] }
     (s.link 15).sent = some s.beat) ∧
    ((List.replicate 64000 (0 : Byte)).length = 64000 ∧ (tLink State.reset 2).linkState 15 = 2 ∧
      ((tLink State.reset 2).errUnit (UnitNo.link 15)).inject = none) :=
  ⟨by decide +kernel, by decide +kernel, List.length_replicate, by decide +kernel⟩

/-- Port 15 is UP and leads to the master, whose last header said that it is locked. -/
def tUp : State :=
  { (tLink State.reset 2).setDcb Dcb.linkSys (BitVec.ofNat 64 (3 + 15 * 4 + 64)) with
    links := [(15, { LinkPort.reset with peerLocked := true, peerAt := some 0 })] }

theorem test_can_PortsAndTheBeatLock :
    ((tLink State.reset 1).linkState 15 = 1 ∧ (tLink State.reset 2).linkState 15 = 2 ∧
      (tLink State.reset 1).power.coldReset = false ∧
      Instr.wf (.linkUp 15 (List.replicate 1023 (0, 0) ++ [(131071, 1)]) 0 0) = true ∧
      measuredD (List.replicate 1023 (0, 0) ++ [(131071, 1)]) = 65535) ∧
    (((4 : BitVec 8).toNat ≤ 4 ∨ 252 ≤ (4 : BitVec 8).toNat) ∧ tUp.upstream = some 15 ∧ tUp.linkState 15 = 2 ∧
      ((tUp.link 15).peerLocked || (tUp.link 15).peerMaster) = true ∧ (tUp.link 15).peerAt ≠ none ∧
      (tUp.setDcb Dcb.beatSync 0).locked = false ∧ tUp.jobHeld = false) ∧
    (({ tUp with jobs := [(1, tJob)] } : State).jobHeld = true) ∧
    (let s := tUp.setDcb Dcb.beatSync 4
     s.upstream = some 15 ∧ s.dcbF Dcb.beatSync 2 1 = 1 ∧ s.jobHeld = false ∧ s.cycle = 0) ∧
    (let j := { tJob with modset := 3 }
     let s : State := { State.reset.setDcb Dcb.beatSync 1 with jobs := [(1, j)] }
     s.locked = true ∧ s.job 1 = some j ∧ s.canEnd j = true ∧ j.st ≠ .waiting ∧ j.multi = true) := by decide +kernel

theorem test_can_LockstepAndSideline :
    (let s : State := { State.reset with beat := 3, linkSys := ⟨[], [], [(0, 5)], [(0, 5)], []⟩ }
     s.cycle = 0 ∧ s.halted = false ∧ s.whistle.pending = false ∧
       s.linkSys.ownDigests.find? (fun x => x.1 == s.beatCtr - 3) = some (0, 5) ∧
       (s.linkSys.peerDigests.find? fun x => x.1 == s.beatCtr - 3).map (·.2) = some 5) ∧
    (let s : State := { State.reset with beat := 3, linkSys := ⟨[], [], [(0, 5)], [(0, 6)], []⟩ }
     (s.linkSys.peerDigests.find? fun x => x.1 == s.beatCtr - 3).map (·.2) ≠ some (5 : Dword)) ∧
    (State.reset.power.coldReset = false ∧ (State.reset.setDcb Dcb.sideStat 2).dcbF Dcb.sideStat 0 2 = 2) := by decide +kernel

def tIc (s : State) (ic : Ic) : State := { s with ic := ic }

theorem test_can_DieEventsTravelAsMessages :
    (∀ n ∈ [1, 255], let s := tIc State.reset { Ic.reset with latches := [(n, 3)] }
      s.ic.ucieUp = true ∧ tabGet 0 s.ic.latches n ≠ 0 ∧ s.power.coldReset = false) ∧
    (tIc State.reset { Ic.reset with ucieUp := false }).ic.ucieUp = false ∧
    -- good: sources 1 and 175; bad: source 0, source 176, a count of 0
    (∀ w ∈ [0x10001, 0x1000AF], 1 ≤ w % 512 ∧ w % 512 < 176 ∧ w / 65536 % 256 ≠ 0) ∧
    (∀ w ∈ [0x10000, 0x100B0, 1], w % 512 = 0 ∨ 176 ≤ w % 512 ∨ w / 65536 % 256 = 0) ∧
    (let s := tIc State.reset { Ic.reset with messages := [0x10001] }
     s.ic.messages = [0x10001] ∧ s.ic.clock = true) ∧
    (let s := tIc State.reset { Ic.reset with stopen := true }
     s.ic.stopen = true ∧ s.ic.clock = true ∧ s.ic.messages = [] ∧ s.flash.op = none ∧ s.stewardQ = [] ∧
       ∀ e ∈ s.ic.sources, e.2.bound = false ∧ (e.2.pend = false ∨ e.2.prio = 0)) ∧
    (let s := tIc State.reset { Ic.reset with clock := false, sources := [(7, { IcSource.reset with latch := true })] }
     s.ic.clock = false ∧ (s.icSrc 7).latch = true ∧ s.ic.ucieUp = true) := by decide +kernel

theorem test_can_SoftwareSourcesAreEdges :
    State.reset.power.coldReset = false ∧ 384 ≤ (384 : BitVec 9).toNat ∧ State.reset.ic.clock = true ∧
    (tIc State.reset { Ic.reset with clock := false }).ic.clock = false ∧ (383 : BitVec 9).toNat < 384 := by decide +kernel

theorem test_can_ClaimsAndCompletions :
    let q : IcSource := { IcSource.reset with prio := 3, pend := true, bound := true, ctx := 31 }
    let s := tIc State.reset { Ic.reset with sources := [(511, q)] }
    let u := tIc State.reset { Ic.reset with
      sources := [(511, { q with active := true, pend := false, bound := false })]
      contexts := [(31, { IcContext.reset with claimed := [511] })] }
    (s.icTop 31 ≠ 0 ∧ s.icTop 0 = 0) ∧
    ((u.icSrc 511).active = true ∧ (u.icCtx 31).claimed.contains 511 = true) ∧
    ¬ ((s.icSrc 511).active = true ∧ (s.icCtx 31).claimed.contains 511 = true) ∧
    (264 ≤ (266 : BitVec 9).toNat ∧ (266 : BitVec 9).toNat ≤ 266) ∧ (256 ≤ (263 : BitVec 9).toNat ∧ (263 : BitVec 9).toNat ≤ 263) := by
  decide +kernel

theorem test_can_TheWhistleStopsAndReleases :
    (State.reset.power.coldReset = false ∧ State.reset.halted = false ∧ State.reset.whistle.pending = false) ∧
    ((State.reset.setDcb Dcb.whistleStat 1).halted = true ∧ (5 : BitVec 3).toNat ≠ 4) ∧
    (let s : State := { State.reset with whistle := ⟨true, 0, 0, 0, 0⟩, cycle := 24 }
     s.whistle.pending = true ∧ s.halted = false ∧ s.stopPassed = true) ∧
    ((tTaken 0x70 []).opcode = 0x70 ∧ (tMb tReady 0x70 []).occupied 0 = false) ∧
    (let s := (tMb tReady 0x72 []).setDcb Dcb.whistleStat 1
     (tTaken 0x72 []).opcode = 0x72 ∧ s.scanning = false ∧ s.halted = true ∧ s.cp.release = none) ∧
    ((tMb tReady 0x72 []).scanning = false ∧ (tMb tReady 0x72 []).halted = false) := by decide +kernel

/-! ### Debug, security, errors, power, steward units -/

/-- The die is halted. -/
def tHalted (s : State) : State := s.setDcb Dcb.whistleStat 1

/-- A running job and a command of mailbox 0 that names it. -/
def tJobCmd (op : Nat) (args : List Word) : State := tMb { tReady with jobs := [(1, tJob)] } op args

theorem test_can_DebugCommandsSaveAndWatch :
    (let a : List Word := [0, 0, 0xD1000, 1023, 1]
     let s := tHalted (tMb tReady 0x71 a)
     let x := tTaken 0x71 a
     x.opcode = 0x71 ∧ s.occupied 0 = false ∧ s.scanning = false ∧ s.halted = true ∧ x.arg64 0 % 4096 = 0 ∧
       x.arg 2 % 4096 = 0 ∧ recordBytes ≤ x.arg 2 ∧ 1 ≤ x.arg 4 ∧ x.arg 3 + x.arg 4 ≤ 1024 ∧
       s.scanRangeOk (x.arg64 0) (recordsSpan (x.arg 4) (x.arg 2)) = true ∧ x.arg 4 = 1) ∧
    (State.reset.setDcb Dcb.whistleStat 0x4001).scanning = true ∧
    (let s := tJobCmd 0x73 [1]
     let x := tTaken 0x73 [1]
     s.job x.jobHandle = some tJob ∧ x.opcode = 0x73 ∧ x.arg 0 < 2 ^ 16 ∧ s.occupied 0 = false ∧ s.debugRefused tJob = false ∧
       tJob.engines ≠ []) ∧
    (let s : State := { State.reset.setMb 0 { Mailbox.reset with waiting := some (tTaken 0x73 [1]) } with
       beat := 1, cp := { Cp.reset with snapshots := [(0, 1, 0, [0])] } }
     s.cycle = 0 ∧ s.cp.snapshots = [(0, 1, 0, [(0 : CoreNum).toNat])] ∧ 0 < s.beat ∧
       (s.mb 0).waiting.isSome = true ∧ s.deadlockSnapshot 0 = false) ∧
    (let s : State := { tRun ((tCore.setReg Reg.dbgSnapstat 3).setReg Reg.dlkCount 4) with
       beat := 0, cp := { Cp.reset with snapshots := [(0, 1, 0, [0])] } }
     s.deadlockSnapshot 0 = true) ∧
    -- DBG_WATCH arms unit 3 on the output unit, or stops it; DBG_WATCHREAD reads it
    ([0x30001, 0xB0001].all fun a : Word =>
      let s := tJobCmd 0x74 [a, 0, 0]
      let x := tTaken 0x74 [a, 0, 0]
      decide (s.job x.jobHandle = some tJob ∧ x.opcode = 0x74 ∧ s.occupied 0 = false ∧ tJob.coreOf x.watchEngine = some 0 ∧
        x.watchEngine < tJob.image.e ∧ x.arg 1 < 2 ^ 17 ∧ x.arg 0 < 2 ^ 25 ∧ x.arg 2 < 2 ^ 18 ∧ s.debugRefused tJob = false ∧
        s.anyPartConf tJob.parts = false ∧ bitsOf (x.arg 0) 18 2 ≠ 3 ∧
        (bitsOf (x.arg 0) 18 2 = if a = 0x30001 then 0 else 2))) = true ∧
    -- the engine's core is another module's
    (let j := { tJob with engines := [] }
     let s := tMb { tReady with jobs := [(1, j)] } 0x74 [1, 0, 0]
     let x := tTaken 0x74 [1, 0, 0]
     s.job x.jobHandle = some j ∧ s.occupied 0 = false ∧ j.coreOf x.watchEngine = none ∧ x.watchEngine < j.image.e ∧
       s.debugRefused j = false ∧ s.anyPartConf j.parts = false) ∧
    (let s : State := { tJobCmd 0x75 [0x70001, 0] with
       cores := [(0, { tCore with watches := [(3, { Watch.reset with handle := 1 })] })] }
     let x := tTaken 0x75 [0x70001, 0]
     s.job x.jobHandle = some tJob ∧ x.opcode = 0x75 ∧ x.arg 0 < 2 ^ 19 ∧ tJob.coreOf x.watchEngine = some 0 ∧
       (tabGet Watch.reset (s.core 0).watches x.unit).handle = x.jobHandle) := by decide +kernel

/-- Partition 1 is confidential, in this state; mailbox 0 is its secure mailbox. -/
def tConf (s : State) (n : Nat) : State := s.setDcb (Dcb.secPstat 1) (BitVec.ofNat 64 (3 + 4 * n))

/-- A command that came in a session of partition 1, under its key set 3. -/
def tSession (op : Nat) (args : List Word) : TakenCmd := { tTaken op args with session := some (1, 3, 0) }

theorem test_can_SecurityCommandsAnswer :
    (let a : List Word := [1012]
     let s := tConf (tMb tReady 0x60 a) 0
     let x := tTaken 0x60 a
     let u : State := { s with ent := { s.ent with wireKey := [some 7] } }
     let v : State := { s with sec := { s.sec with kex := [(1, true)] } }
     x.opcode = 0x60 ∧ s.secureOf 0 = some 1 ∧ s.occupied 0 = false ∧ 1 ≤ bitsOf (x.arg 0) 0 10 ∧ bitsOf (x.arg 0) 0 10 ≤ 1012 ∧
       s.partState 1 = 0 ∧ tabGet false u.sec.kex 1 = false ∧ u.ent.wireKey = [some 7] ∧ tabGet false v.sec.kex 1 = true ∧
       (tConf s 1).partState 1 = 1 ∧ (tConf s 1).secureOf 0 = some 1) ∧
    ((tTaken 0x61 [0xFF]).opcode = 0x61 ∧ tReady.dcbF Dcb.secLcs 0 2 ≠ 2 ∧ bitsOf ((tTaken 0x61 [0xFF]).arg 0) 0 8 = 0xFF ∧
      bitsOf ((tTaken 0x61 [1]).arg 0) 0 8 ≤ 7 ∧ (tConf tReady 0).partValid 1 = true) ∧
    (let s := (tMb tReady 0x63 [0]).setDcb Dcb.secLcs 1
     (tTaken 0x63 [0]).opcode = 0x63 ∧ s.anyConf = false ∧ s.dcbF Dcb.secLcs 0 2 = 1 ∧ bitsOf ((tTaken 0x63 [0]).arg 0) 0 2 = 0 ∧
       bitsOf ((tTaken 0x63 [1]).arg 0) 0 2 = 1) ∧
    ((tSession 0x64 []).session = some (1, 3, 0) ∧ (tSession 0x64 []).opcode = 0x64 ∧ (tSession 0x65 []).opcode = 0x65 ∧
      (tConf tReady 1).keySetHeld 1 3 = false) := by decide +kernel

/-- Partition 1 in SESSION, with stack group 1 and an installed key set 3. -/
def tKeyed : State :=
  { (tConf tReady 1).setDcb (Dcb.secPres 1) 0x20000 with
    sec := { Security.reset with keysets := [(7, { KeySet.reset with installed := true })] } }

/-- A transfer of 64 bytes between granule 0 of HBM and the first granule of stack group 1. -/
def tXfer (import_ : Bool) : CryptXfer := ⟨import_, 1, 3, 0, stackGroupBytes, 64, 0, 0⟩

theorem test_can_ProtectedTransfersAndScrub :
    (let a : List Word := [0, 0, 0, 0x18, 64, 1]
     let x := tSession 0x66 a
     let s := tKeyed
     s.occupied 0 = false ∧ x.opcode = 0x66 ∧ xferShapeOk (x.arg64 0) (x.arg64 2) (x.arg 4) = true ∧
       (s.keySet 1 3).installed = true ∧ inMemory (x.arg64 0) (x.arg 4) = true ∧ s.touchesConf (x.arg64 0) (x.arg 4) = false ∧
       s.rangeIn (BitVec.ofNat 8 (2 ^ 1)) (x.arg64 2) (x.arg 4) = true ∧ s.lastIvOf 1 3 < x.arg 5) ∧
    (let a : List Word := [0, 0x18, 0, 0, 64]
     let x := tSession 0x67 a
     let s := tKeyed
     x.opcode = 0x67 ∧ xferShapeOk (x.arg64 0) (x.arg64 2) (x.arg 4) = true ∧ inMemory (x.arg64 2) (x.arg 4) = true ∧
       s.touchesConf (x.arg64 2) (x.arg 4) = false ∧ s.rangeIn (BitVec.ofNat 8 (2 ^ 1)) (x.arg64 0) (x.arg 4) = true ∧
       (s.keySet 1 3).exports + 1 < 2 ^ 32) ∧
    (∀ b : Bool, let s : State := { (tKeyed.setMb 0 { Mailbox.reset with waiting := some (tSession 0x66 []) }) with
        sec := { Security.reset with xfers := [(0, some (tXfer b))] } }
      s.xfer 0 = some (tXfer b) ∧ (s.mb 0).waiting.isSome = true ∧ (tXfer b).import_ = b) ∧
    (let s := tConf State.reset 2
     s.partState 1 = 2 ∧ s.partBusy 1 = false ∧ tabGet none s.sec.scrub 1 = none) ∧
    (let s : State := { tConf State.reset 2 with sec := { Security.reset with scrub := [(1, some 0)] } }
     s.partState 1 = 2 ∧ (tabGet none s.sec.scrub 1).isSome = true) := by decide +kernel

def tRec1 : ErrRec := ⟨0x40000001, 1, 0, 0, 0, 0, 0, 0, 0, 0⟩

theorem test_can_ErrorRecordsAreEnteredAndAcknowledged :
    (State.reset.power.coldReset = false ∧ State.reset.fenced 1023 = false ∧
      (∀ e ∈ State.reset.cp.clusterNext, e.1 ≠ clusterOf 1023) ∧ (4 : BitVec 3).toNat ≤ 4 ∧
      (State.reset.errUnit (UnitNo.core 1023)).recs.length < 8 ∧ (State.reset.errUnit UnitNo.ucie).recs.length < 8) ∧
    (let a : List Word := [0x400, 0x40000001]
     let s := (tMb tReady 0x80 a).setErrUnit 0x400 { ErrUnit.reset with recs := [tRec1] }
     (tTaken 0x80 a).opcode = 0x80 ∧ s.occupied 0 = false ∧
       ∃ r ∈ (s.errUnit ((tTaken 0x80 a).arg 0 % 2 ^ 12)).recs, r.id = BitVec.ofNat 32 ((tTaken 0x80 a).arg 1)) ∧
    (let a : List Word := [0x11C0F]
     let s := tMb tReady 0x81 a
     let unit := (tTaken 0x81 a).arg 0 % 2 ^ 12
     (tTaken 0x81 a).opcode = 0x81 ∧ s.occupied 0 = false ∧ (s.unitPart unit).any s.partActive = false ∧
       injectFits unit ((tTaken 0x81 a).arg 0 / 2 ^ 12 % 2 ^ 8) = true ∧ (s.errUnit unit).inject = none) ∧
    (let s := (tConf State.reset 1).setDcb (Dcb.secPclu 1) 1
     s.errPart 0 {} = some 1 ∧ s.partActive 1 = true) ∧
    (let s := (tConf State.reset 0).setDcb (Dcb.secPclu 1) 1
     s.errPart 0 {} = some 1 ∧ s.partActive 1 = false) := by decide +kernel

def tPower (p : Power) : State := { State.reset with power := p }

theorem test_can_ResetsAndPowerTakeTheirState :
    ((tTaken 0x82 []).opcode = 0x82 ∧ (tMb tReady 0x82 []).occupied 0 = false) ∧
    (({ State.reset with cp := { Cp.reset with stwReset := true } } : State).cp.stwReset = true ∧
      State.reset.cp.stwReset = false ∧ State.reset.power.coldReset = false) ∧
    State.reset.power.on = true ∧
    (let s := tPower { Power.reset with railGood := 0x3FF }
     (10 : BitVec 4).toNat ≤ 10 ∧ s.power.on = true ∧
       ∀ i < (10 : BitVec 4).toNat, s.power.railGood.toNat.testBit i = true) ∧
    (tPower { Power.reset with railGood := 0 }).power.railGood.toNat.testBit 0 = false := by decide +kernel

theorem test_can_SupervisionWarnsTripsAndShutsDown :
    (State.reset.power.coldReset = false ∧ (List.replicate 11 (0 : BitVec 20)).length = 11 ∧
      State.reset.beat % 4000 = 0 ∧ State.reset.beat % 40 = 0) ∧
    ({ State.reset with beat := 3999 } : State).beat % 4000 ≠ 0 ∧
    (State.reset.power.warnArmed = true ∧ 100 * State.reset.dcbF Dcb.pwrCtrl 0 12 < (275501 : BitVec 20).toNat) ∧
    ((tripIndex 304501 (List.replicate 11 0)).isSome = true ∧ (tripIndex 0 (List.replicate 10 0 ++ [19801])).isSome = true) ∧
    -- sensor 0 from 0 degrees to one step below the shutdown threshold, and to it; the last stack to its threshold
    (crosses (State.reset.thermBefore 0) 459 (thermShutAt 0) = false ∧ crosses (State.reset.thermBefore 0) 459 (thermTripAt 0) = true ∧
      crosses (State.reset.thermBefore 0) 460 (thermShutAt 0) = true ∧ State.reset.power.on = true ∧
      crosses (State.reset.thermBefore 159) 420 (thermShutAt 159) = true) := by decide +kernel

theorem test_can_ManagementBusReads :
    (State.reset.power.vin48 = true ∧ State.reset.power.busAddr = 0x40 + State.reset.power.maddr.setWidth 7) ∧
    (let s := tPower { Power.reset with maddr := 7, busAddr := 0x47 }
     s.power.vin48 = true ∧ s.power.busAddr = 0x40 + s.power.maddr.setWidth 7) ∧
    (tPower { Power.reset with vin48 := false }).power.vin48 = false ∧
    (let s := tPower { Power.reset with busAddr := 0x41 }
     s.power.busAddr ≠ 0x40 + s.power.maddr.setWidth 7) := by decide +kernel

theorem test_can_ManagementBusWrites :
    (let s := tPower { Power.reset with on := false, railGood := 1 }
     s.power.vin48 = true ∧ s.power.busAddr = s.pmbusAddress ∧ s.power.on = false ∧
       s.power.railGood.toNat.testBit 0 = true ∧ s.power.shutdown = false) ∧
    (State.reset.power.vin48 = true ∧ State.reset.power.busAddr = State.reset.pmbusAddress ∧ State.reset.power.on = true ∧
      State.reset.power.coldReset = false ∧
      State.reset.halted = false ∧ State.reset.whistle.pending = false) ∧
    ((0x81 : Byte) ≠ 0x80 ∧ (0x81 : Byte) ≠ 0x00 ∧ (0xA4 : Byte) ≠ 0xA5 ∧ (0x5B : Byte) ≠ 0x5A ∧ (0xC2 : Byte) ≠ 0xC3) := by
  decide +kernel

/-- MAC 1 is enabled, its link is there, and its ring indices are `i`; its descriptors lie at the start of boot ROM. -/
def tMac (i : Nat) : State :=
  { State.reset.setMac 1 ((((Mac.reset.set 0 1).set 4 1).set 0x2C (BitVec.ofNat 64 i)).set 0x34 (BitVec.ofNat 64 i)) with
    sram := [(6, 6), (8, 1)] }

theorem test_can_FlashAndEthernetMoveTheirData :
    (State.reset.power.coldReset = false ∧ (0x80000000 : Word).toNat.testBit 31 = true ∧ State.reset.flash.op = none ∧
      (0x7FFFFFFF : Word).toNat.testBit 31 = false) ∧
    (({ State.reset with flash := { Flash.reset with op := some ⟨0x300, 0, []⟩ } } : State).flash.op = some ⟨0x300, 0, []⟩ ∧
      (List.replicate 256 (0 : Byte)).length ≤ 256) ∧
    (let s := tMac 1
     let x := s.mac 1
     x.f 0 0 1 = 1 ∧ x.f 4 0 1 = 1 ∧ x.f 0 2 1 = 0 ∧ x.offered txRing = true ∧
       (natOf ((s.dmaRead (x.descriptor txRing) 16).1.drop 8)).testBit 0 = true) ∧
    (let s := tMac 1
     let x := s.mac 1
     let frame : List Byte := List.replicate 6 0xFF
     let r := (s.macCount 1 0x60 1).dmaRead (x.descriptor rxRing) 16
     x.accepts frame = true ∧ frame.length ≤ x.f 0xC 0 14 ∧ x.offered rxRing = true ∧
       (natOf (r.1.drop 8)).testBit 0 = true ∧ frame.length ≤ bitsOf (natOf (r.1.take 8)) 48 14) ∧
    ((tMac 0).mac 1).offered rxRing = false ∧
    ((tMac 0).mac 1).f 4 0 1 ≠ bit false := by decide +kernel

/-! ## Results from the spec's worked examples -/

/-- The first round of Nap-6 (chapter 8, worked example after R241). -/
theorem test_nap_round : napRound (0x0500000000000000, 3, 0, 0) =
    (0x21AACE5DE4778941, 0x0500000000000002, 0x7D4E2A91C36B05F3, 0x7D4E2A91C36B05F3) := by decide +kernel

/-- The counter blocks of cell (2, 3) (chapters 3 and 8) and of the sampler's group (chapter 7). -/
theorem test_nap_blocks : napBlock 1 (2 * 2 ^ 28 + 3) 81 = 0x01000000200000030000000000000051 ∧
    napBlock 4 0x30000005 (2 * 8192) = 0x04000000300000050000000000004000 := by decide +kernel

/-- Table 3-8. -/
theorem test_logit : [32768, 49151, 16384, 57343, 8192, 32767, 0].map logitQ12 =
    [0, 4500, -4500, 7970, -7970, 0, -48265] := by decide +kernel

/-- Table 7-5. -/
theorem test_gumbel : [8192, 65535, 32768, 0, 57343, 31744].map gumbelQ12 =
    [-2999, 48265, 1501, -10104, 8247, 1318] := by decide +kernel

/-- Decisions of Table 3-8: beta 1.0, EXP 25, H = 64 t. -/
theorem test_decide : feltDecide 0 0x1000 25 32768 = false ∧ feltDecide 64 0x1000 25 49151 = false ∧
    feltDecide (-64) 0x1000 25 16384 = true ∧ feltDecide (-128) 0x1000 25 57343 = false ∧
    feltDecide (-64) 0x1000 25 32767 = false ∧ feltDecide (-320) 0x1000 25 0 = true := by decide +kernel

/-- The exponents that 0.5 and 1.0 need, and the mantissas under EXP 25 (chapter 3). -/
theorem test_quantise :
    (⟨0, false, 0x3F000000⟩ : QValue).need = 25 ∧ (⟨0, true, 0x3F000000⟩ : QValue).need = 21 ∧
    (⟨0, true, 0xBF800000⟩ : QValue).need = 22 ∧ (⟨0, false, 0x3F000000⟩ : QValue).mantissa 25 = 64 ∧
    (⟨0, true, 0xBF800000⟩ : QValue).mantissa 25 = -128 := by decide +kernel

/-- The scaled scores of Table 7-5: 2,048 is T = 2. -/
theorem test_cat_scores : [0x4040, 0xBF80, 0x3E80, 0x4020, 0x4080].map (fun b => (catEntry 3 b).w 3 0x800) =
    [6144, -2048, 512, 5120, 8192] := by decide +kernel

/-- Saturation of an accumulator element (chapter 6, worked example after R185). -/
theorem test_acc_saturates :
    (accAdd ⟨0x7FE8000000000000, 0⟩ ⟨0x7FE0000000000000, 0⟩).acc = ⟨0x7FEFFFFFFFFFFFFF, 0⟩ ∧
    (accAdd ⟨0x7FE8000000000000, 0⟩ ⟨0x7FE0000000000000, 0⟩).sat = true := by decide +kernel

/-- Distances, the HBM decode and the access slot (chapter 11, worked example). -/
theorem test_distances : hops 0x259 0x04A = 7 ∧ readDistance 0x259 0x04A = 17 ∧ hops 0x259 0x0DA = 8 ∧ readDistance 0 0x04A = 9 ∧
    hbmPort 0x1800005A40 = 0x0DA ∧ accessCycle 15 = 112 := by decide +kernel

/-- SIG of one adds its increment, due in the next cycle (R285), and the thread waits for its next period (R276). -/
theorem test_sig_step :
    let s : State := { tThread [3 + 2 ^ 29] with pending := [.sig 0 0] }
    ∃ t, step s = .next t ∧ (t.core 0).incs = [⟨0, false, 1, 0, 1⟩] ∧ (t.core 0).thrSt 0 = 0 ∧ t.pending = [] :=
  ⟨_, rfl, by decide +kernel⟩

/-- DOORBELL rings once; the second is dropped (R367). -/
theorem test_doorbell_step :
    let s : State := { tPosted 0 4 with pending := [.doorbell 0] }
    ∃ t, step s = .next t ∧ (t.mb 0).wrdrop = true ∧ t.cp.doorbells = [0] := ⟨_, rfl, by decide +kernel⟩

/-- One write of 8 bytes over MB_CTRL and MB_STAT, a doorbell while PEND is 1 and a 1 to WRDROP: the set prevails (R26). -/
theorem test_set_prevails_over_w1c :
    (match exec (.registerWrite 8 (BitVec.ofNat 48 (0x100000000000 + dcbBase + 0x10800)) 0x1000000001) (tPosted 0 4) with
     | .next t => (t.mb 0).wrdrop && (t.mb 0).pend
     | _ => false) = true := by decide +kernel

/-- BEAT_CTR wraps to 0, and the next beat is beat 2^64 of the job's count (R53). -/
theorem test_beat_wraps :
    let s : State := { State.reset with beat := 2 ^ 64 - 1, cycle := 749 }
    s.tick.beatCtr = 0 ∧ s.tick.beat = 2 ^ 64 := by decide +kernel

/-- THRESH of context 1 lies at 0x1_0100 of the interrupt controller (Table 14-5). -/
theorem test_ic_context_stride : ((State.reset.icWrite 0x10100 0x103).icCtx 1).thr = 3 ∧
    ((State.reset.icWrite 0x10100 0x103).icCtx 1).en = true := by decide +kernel

end Sys2Proof.Tests
end

section
/-! What a mailbox command that the CP carries out at its check can do to its own mailbox: the outcomes of R33. -/

namespace Sys2Proof.Machine

/-! ## Responses of a mailbox -/

theorem State.modJob_mbs (s : State) (h : Handle) (f : Job → Job) : (s.modJob h f).mbs = s.mbs := by
  unfold State.modJob
  split <;> rfl

theorem State.mb_of_mbs {s t : State} (h : t.mbs = s.mbs) (n : Nat) : t.mb n = s.mb n := by rw [State.mb, h]; rfl

/-- The response that an answer makes ready. -/
def TakenCmd.response (x : TakenCmd) (status : Nat) (words : List Word) : Response :=
  ⟨false, BitVec.ofNat 8 status, x.tag, words, 0, x.session⟩

theorem State.mb_answer_self (s : State) (m : Nat) (x : TakenCmd) (st : Nat) (ws : List Word) :
    (s.answer m x st ws).mb m = { s.mb m with taken := none, ready := (s.mb m).ready ++ [x.response st ws] } := by
  simp [State.answer, State.respond, TakenCmd.response]

theorem State.mb_answer_ne (s : State) {m n : Nat} (x : TakenCmd) (st : Nat) (ws : List Word) (h : n ≠ m) :
    (s.answer m x st ws).mb n = s.mb n := by
  simp [State.answer, State.respond, State.mb_modMb_ne _ _ h]

theorem State.accept_ready (s : State) (m : Nat) (x : TakenCmd) : ((s.accept m x).mb m).ready = (s.mb m).ready := by
  simp [State.accept]

/-! ## The outcomes of a check -/

/-- What the check of a mailbox command leaves: it has answered and changed nothing else but the count of free values, it has carried
the command out and answered OK last, or it has made no response ready. -/
inductive Checked (s : State) (m : Nat) : State → Prop where
  | answered (n : Nat) (x : TakenCmd) (status : Nat) (words : List Word) :
      Checked s m (State.answer { s with free := n } m x status words)
  | done (u : State) (x : TakenCmd) (words : List Word) : Checked s m (u.answer m x Status.ok words)
  | silent {t : State} (h : (t.mb m).ready = (s.mb m).ready) : Checked s m t

namespace Checked

variable {s t u : State} {m : Nat}

/-- A refusal that has drawn no free value. -/
theorem refused (x : TakenCmd) (status : Nat) (words : List Word) : Checked s m (s.answer m x status words) :=
  .answered s.free x status words

/-- A free value drawn before the check is no effect. -/
theorem of_stepFree (h : Checked s.stepFree m t) : Checked s m t := by
  cases h with
  | answered n x status words => exact .answered n x status words
  | done u x words => exact .done u x words
  | silent hready => exact .silent hready

/-- Each way out of a check is one of the outcomes. -/
theorem ite {p : Prop} [Decidable p] (ht : Checked s m t) (hu : Checked s m u) : Checked s m (if p then t else u) := by
  split
  · exact ht
  · exact hu

/-- The command runs on what the CP took; without such a command nothing happens. -/
theorem onTaken {opcode : Nat} {f : TakenCmd → State} (h : ∀ x, Checked s m (f x)) : Checked s m (s.onTaken m opcode f) := by
  unfold State.onTaken
  split
  · exact .silent rfl
  · exact ite (h _) (.silent rfl)

/-- A command that is accepted, whatever else it does outside the mailboxes, makes no response ready. -/
theorem accepted (x : TakenCmd) (h : t.mbs = (s.accept m x).mbs) : Checked s m t :=
  .silent (by rw [State.mb_of_mbs h, State.accept_ready])

/-- A check that answered with one response of another status than OK has changed its own mailbox alone. -/
theorem no_effect (h : Checked s m t) {r : Response} (hr : (t.mb m).ready = (s.mb m).ready ++ [r]) (hst : r.status ≠ 0) :
    t = { s with mbs := t.mbs, free := t.free } ∧ (∀ n : Nat, n ≠ m → t.mb n = s.mb n) ∧
      t.mb m = { s.mb m with taken := none, ready := (s.mb m).ready ++ [r] } := by
  cases h with
  | answered n x status words =>
    rw [State.mb_answer_self] at hr ⊢
    refine ⟨rfl, fun k hk => State.mb_answer_ne _ x status words hk, ?_⟩
    rw [← hr]
    rfl
  | done u x words =>
    rw [State.mb_answer_self] at hr
    have hok : x.response Status.ok words = r := (List.append_inj' hr rfl).2 |> List.singleton_inj.mp
    exact absurd (hok ▸ rfl : r.status = 0) hst
  | silent hready => simp [hready] at hr

end Checked

end Sys2Proof.Machine
end

section
/-! The check of each mailbox command, way out by way out, in the order of its definition. -/

namespace Sys2Proof.Machine

variable {s t : State} {mb : MailboxNum}

/-! ## Jobs and boot -/

theorem execJobCancel_checked (h : execJobCancel mb s = .next t) : Checked s mb.toNat t := by
  cases h
  refine .onTaken fun x => .ite (.refused ..) ?_
  split
  · exact .refused ..
  · exact .ite (.refused ..) (.ite (.done ..) (.done ..))

theorem execJobStatus_checked (h : execJobStatus mb s = .next t) : Checked s mb.toNat t := by
  cases h
  refine .onTaken fun x => .ite (.refused ..) ?_
  split
  · exact .refused ..
  · exact .done ..

theorem execSchedInfo_checked (h : execSchedInfo mb s = .next t) : Checked s mb.toNat t := by
  cases h
  exact .onTaken fun x => .ite (.refused ..) (.done ..)

theorem execCtxSave_checked (h : execCtxSave mb s = .next t) : Checked s mb.toNat t := by
  cases h
  refine .onTaken fun x => ?_
  dsimp only
  split
  · exact .refused ..
  · exact .ite (.refused ..) (.ite (.refused ..) (.ite (.refused ..) (.accepted x (State.modJob_mbs ..))))

theorem execCfgOverlay_checked (h : execCfgOverlay mb s = .next t) : Checked s mb.toNat t := by
  cases h
  exact .onTaken fun x => .ite (.refused ..) (.ite (.refused ..) (.done ..))

theorem execCoreFence_checked (h : execCoreFence mb s = .next t) : Checked s mb.toNat t := by
  cases h
  exact .onTaken fun x => .ite (.refused ..) (.ite (.refused ..) (.ite (.refused ..) (.done ..)))

theorem execDistRead_checked (h : execDistRead mb s = .next t) : Checked s mb.toNat t := by
  cases h
  exact .onTaken fun x => .ite (.refused ..) (.ite (.refused ..) (.done ..))

/-! ## JOB_ADMIT and CTX_RESTORE -/

theorem State.sendUp_mbs (s : State) (c : CtlMsg) : (s.sendUp c).mbs = s.mbs := by
  unfold State.sendUp
  split
  · rfl
  · split
    · dsimp only
      split <;> rfl
    · rfl

theorem State.holdJob_mbs (s : State) (m : Nat) (x : TakenCmd) (j : Job) :
    (s.holdJob m x j).mbs =
      ((s.accept m x).modMb m fun b => { b with handle := BitVec.ofNat 16 s.cp.nextHandle }).mbs := by
  unfold State.holdJob
  dsimp only
  split
  · rw [State.sendUp_mbs]
    split <;> rfl
  · split <;> rfl

/-- A job that is held for admission leaves its mailbox without a new response. -/
theorem State.holdJob_ready (s : State) (m : Nat) (x : TakenCmd) (j : Job) :
    ((s.holdJob m x j).mb m).ready = (s.mb m).ready := by
  rw [State.mb_of_mbs (State.holdJob_mbs ..), State.mb_modMb_self]
  exact State.accept_ready ..

/-- The checks of JOB_ADMIT and CTX_RESTORE. -/
theorem State.admitCmd_checked (s : State) (m : Nat) (x : TakenCmd) (restore : Option RestoreReq) :
    Checked s m (s.admitCmd m x restore) := by
  unfold State.admitCmd
  dsimp only
  split
  · exact .refused ..
  · refine .ite (.refused ..) (.ite (.refused ..) (.ite (.refused ..) (.ite (.refused ..) ?_)))
    split
    · exact .refused ..
    · exact .silent (State.holdJob_ready ..)

theorem execJobAdmit_checked (h : execJobAdmit mb s = .next t) : Checked s mb.toNat t := by
  cases h
  exact .onTaken fun x => State.admitCmd_checked ..

theorem execCtxRestore_checked (h : execCtxRestore mb s = .next t) : Checked s mb.toNat t := by
  cases h
  exact .onTaken fun x => .of_stepFree (State.admitCmd_checked ..)

/-! ## The entropy source -/

theorem execEntRead_checked (h : execEntRead mb s = .next t) : Checked s mb.toNat t := by
  cases h
  exact .onTaken fun x => .ite (.refused ..) (.ite (.refused ..) (.ite (.refused ..) (.ite (.refused ..) (.ite (.refused ..)
    (.accepted x rfl)))))

theorem execEntRestart_checked (h : execEntRestart mb s = .next t) : Checked s mb.toNat t := by
  cases h
  exact .onTaken fun x => .ite (.refused ..) (.done ..)

theorem execNapEval_checked (h : execNapEval mb s = .next t) : Checked s mb.toNat t := by
  cases h
  exact .onTaken fun x => .ite (.refused ..) (.done ..)

/-! ## Debug -/

theorem execDbgWhistle_checked (h : execDbgWhistle mb s = .next t) : Checked s mb.toNat t := by
  cases h
  exact .onTaken fun x => .ite (.refused ..) (.done ..)

theorem execDbgScanout_checked (h : execDbgScanout mb s = .next t) : Checked s mb.toNat t := by
  cases h
  exact .onTaken fun x => .ite (.refused ..) (.ite (.refused ..) (.ite (.refused ..) (.done ..)))

theorem execDbgRelease_checked (h : execDbgRelease mb s = .next t) : Checked s mb.toNat t := by
  cases h
  exact .onTaken fun x => .ite (.refused ..) (.ite (.refused ..) (.done ..))

theorem execDbgSnapshot_checked (h : execDbgSnapshot mb s = .next t) : Checked s mb.toNat t := by
  cases h
  refine .onTaken fun x => ?_
  split
  · exact .refused ..
  · exact .ite (.refused ..) (.ite (.refused ..) (.ite (.refused ..) (.ite (.done ..) (.accepted x rfl))))

theorem execDbgWatch_checked (h : execDbgWatch mb s = .next t) : Checked s mb.toNat t := by
  cases h
  refine .onTaken fun x => ?_
  split
  · exact .refused ..
  · refine .ite (.refused ..) (.ite (.refused ..) (.ite (.refused ..) ?_))
    split
    · exact .done ..
    · exact .done ..

theorem execDbgWatchread_checked (h : execDbgWatchread mb s = .next t) : Checked s mb.toNat t := by
  cases h
  refine .onTaken fun x => ?_
  split
  · exact .refused ..
  · refine .ite (.refused ..) (.ite (.refused ..) ?_)
    split
    · exact .done ..
    · exact .ite (.done ..) (.done ..)

/-! ## The root of trust -/

theorem execSecReport_checked (h : execSecReport mb s = .next t) : Checked s mb.toNat t := by
  cases h
  exact .onTaken fun x => .ite (.refused ..) (.ite (.refused ..) (.ite (.refused ..) (.done ..)))

theorem execSecCtrread_checked (h : execSecCtrread mb s = .next t) : Checked s mb.toNat t := by
  cases h
  exact .onTaken fun x => .ite (.refused ..) (.ite (.refused ..) (.done ..))

theorem execSecLifecycle_checked (h : execSecLifecycle mb s = .next t) : Checked s mb.toNat t := by
  cases h
  exact .onTaken fun x => .ite (.refused ..) (.ite (.refused ..) (.ite (.refused ..) (.ite (.done ..) (.ite (.done ..)
    (.refused ..)))))

theorem execSecKeyset_checked (h : execSecKeyset mb s = .next t) : Checked s mb.toNat t := by
  cases h
  refine .onTaken fun x => ?_
  split
  · exact .refused ..
  · exact .ite (.refused ..) (.done ..)

theorem execSecKeydel_checked (h : execSecKeydel mb s = .next t) : Checked s mb.toNat t := by
  cases h
  refine .onTaken fun x => ?_
  split
  · exact .refused ..
  · exact .ite (.refused ..) (.done ..)

theorem execSecExport_checked (h : execSecExport mb s = .next t) : Checked s mb.toNat t := by
  cases h
  refine .onTaken fun x => ?_
  split
  · exact .refused ..
  · exact .ite (.refused ..) (.ite (.refused ..) (.ite (.refused ..) (.accepted x rfl)))

/-! ## Errors and the steward reset -/

theorem execErrAck_checked (h : execErrAck mb s = .next t) : Checked s mb.toNat t := by
  cases h
  exact .onTaken fun x => .ite (.refused ..) (.ite (.refused ..) (.done ..))

theorem execErrInject_checked (h : execErrInject mb s = .next t) : Checked s mb.toNat t := by
  cases h
  exact .onTaken fun x => .ite (.refused ..) (.ite (.refused ..) (.ite (.refused ..) (.done ..)))

theorem execStwReset_checked (h : execStwReset mb s = .next t) : Checked s mb.toNat t := by
  cases h
  exact .onTaken fun x => .ite (.refused ..) (.done ..)

/-! ## All of them -/

/-- Every command that the CP carries out at its check ends in one of the outcomes of a check. -/
theorem exec_checked {c : Instr} {m : MailboxNum} (hc : checkedMailbox c = some m) (h : exec c s = .next t) :
    Checked s m.toNat t := by
  unfold checkedMailbox at hc
  split at hc <;> cases hc
  exacts [execJobAdmit_checked h, execJobCancel_checked h, execJobStatus_checked h, execSchedInfo_checked h,
    execCtxSave_checked h, execCtxRestore_checked h, execCfgOverlay_checked h, execEntRead_checked h,
    execEntRestart_checked h, execNapEval_checked h, execCoreFence_checked h, execDistRead_checked h,
    execDbgWhistle_checked h, execDbgScanout_checked h, execDbgRelease_checked h, execDbgSnapshot_checked h,
    execDbgWatch_checked h, execDbgWatchread_checked h, execSecReport_checked h, execSecCtrread_checked h,
    execSecLifecycle_checked h, execSecKeyset_checked h, execSecKeydel_checked h, execSecExport_checked h,
    execErrAck_checked h, execErrInject_checked h, execStwReset_checked h]

end Sys2Proof.Machine
end

section

namespace Sys2Proof.Machine

/-- Settles O9: a response of status 1 to 5 is no answer OK, so the check's outcome is a refusal without effect. -/
theorem refusedCommandsHaveNoEffect : Obligations.RefusedCommandsHaveNoEffect := by
  intro c m s t r hc h hr hlow _
  refine (exec_checked hc h).no_effect hr fun h0 => ?_
  rw [h0] at hlow
  exact absurd hlow (by decide)

end Sys2Proof.Machine
end

section
/-! Bit fields and bytes of numbers: what a field reads after a field has been replaced, and the bytes of a word. -/

namespace Sys2Proof.Machine

/-! ## Bit fields -/

theorem testBit_bitsOf (x lo n i : Nat) : (bitsOf x lo n).testBit i = (decide (i < n) && x.testBit (lo + i)) := by
  simp [bitsOf]

/-- A number with one field replaced, bit by bit. -/
theorem testBit_putBits (x lo n v i : Nat) :
    (putBits x lo n v).testBit i = if lo ≤ i ∧ i < lo + n then v.testBit (i - lo) else x.testBit i := by
  have hx : x = 2 ^ lo * (2 ^ n * (x / 2 ^ lo / 2 ^ n) + bitsOf x lo n) + x % 2 ^ lo := by
    rw [bitsOf, Nat.shiftRight_eq_div_pow, Nat.div_add_mod, Nat.div_add_mod]
  have hput : putBits x lo n v = 2 ^ lo * (2 ^ n * (x / 2 ^ lo / 2 ^ n) + v % 2 ^ n) + x % 2 ^ lo := by
    rw [putBits, Nat.shiftLeft_eq, Nat.shiftLeft_eq]
    have hfield : 2 ^ lo * (2 ^ n * (x / 2 ^ lo / 2 ^ n) + bitsOf x lo n) =
        2 ^ lo * (2 ^ n * (x / 2 ^ lo / 2 ^ n)) + bitsOf x lo n * 2 ^ lo := by ring
    have hnew : 2 ^ lo * (2 ^ n * (x / 2 ^ lo / 2 ^ n) + v % 2 ^ n) =
        2 ^ lo * (2 ^ n * (x / 2 ^ lo / 2 ^ n)) + v % 2 ^ n * 2 ^ lo := by ring
    omega
  have hlow : x % 2 ^ lo < 2 ^ lo := Nat.mod_lt _ (by positivity)
  have hv : v % 2 ^ n < 2 ^ n := Nat.mod_lt _ (by positivity)
  rw [hput, Nat.testBit_two_pow_mul_add _ hlow]
  by_cases h1 : i < lo
  · simp [h1, show ¬ lo ≤ i by omega]
  · rw [if_neg h1, Nat.testBit_two_pow_mul_add _ hv]
    by_cases h2 : i - lo < n
    · simp [h2, show lo ≤ i ∧ i < lo + n by omega]
    · simp [h2, show ¬ (lo ≤ i ∧ i < lo + n) by omega, Nat.testBit_div_two_pow, show i - lo - n + n + lo = i by omega]

/-- The field that was replaced. -/
theorem bitsOf_putBits_self (x lo n v : Nat) : bitsOf (putBits x lo n v) lo n = v % 2 ^ n := by
  refine Nat.eq_of_testBit_eq fun i => ?_
  rw [testBit_bitsOf, testBit_putBits, Nat.testBit_mod_two_pow]
  by_cases h : i < n <;> simp [h]

/-- A field above the one that was replaced. -/
theorem bitsOf_putBits_above (x v : Nat) {lo n lo' : Nat} (n' : Nat) (h : lo + n ≤ lo') :
    bitsOf (putBits x lo n v) lo' n' = bitsOf x lo' n' := by
  refine Nat.eq_of_testBit_eq fun i => ?_
  rw [testBit_bitsOf, testBit_bitsOf, testBit_putBits, if_neg (by omega)]

/-- A field within the low `w` bits. -/
theorem bitsOf_mod (x : Nat) {lo n w : Nat} (h : lo + n ≤ w) : bitsOf (x % 2 ^ w) lo n = bitsOf x lo n := by
  refine Nat.eq_of_testBit_eq fun i => ?_
  rw [testBit_bitsOf, testBit_bitsOf, Nat.testBit_mod_two_pow]
  by_cases hi : i < n
  · simp [hi, show lo + i < w by omega]
  · simp [hi]

/-- A field of a register that holds a number. -/
theorem bitsOf_ofNat (x : Nat) {lo n : Nat} (h : lo + n ≤ 64) : bitsOf (BitVec.ofNat 64 x).toNat lo n = bitsOf x lo n := by
  rw [BitVec.toNat_ofNat, bitsOf_mod x h]

/-- A field of a register as bits of the register. -/
theorem bitsOf_eq_extract (x : Dword) (lo n : Nat) : bitsOf x.toNat lo n = (x.extractLsb' lo n).toNat := by
  rw [BitVec.extractLsb'_toNat, bitsOf]

/-! ## Bytes of a word -/

theorem length_bytesOf (n v : Nat) : (bytesOf n v).length = n := by simp [bytesOf]

theorem take_bytesOf {k n : Nat} (v : Nat) (h : k ≤ n) : (bytesOf n v).take k = bytesOf k v := by
  rw [bytesOf, ← List.map_take, List.take_range, Nat.min_eq_left h, bytesOf]

theorem bytesOf_four (v : Nat) : bytesOf 4 v =
    [BitVec.ofNat 8 v, BitVec.ofNat 8 (v >>> 8), BitVec.ofNat 8 (v >>> 16), BitVec.ofNat 8 (v >>> 24)] := rfl

theorem getD_bytesOf {n i : Nat} (v : Nat) (h : i < n) : (bytesOf n v).getD i 0 = BitVec.ofNat 8 (v >>> (8 * i)) := by
  simp [bytesOf, h]

theorem natOf_bytesOf_four (v : Nat) : natOf (bytesOf 4 v) = v % 2 ^ 32 := by
  simp only [bytesOf_four, natOf, List.foldr, BitVec.toNat_ofNat, Nat.shiftRight_eq_div_pow]
  omega

/-- A byte of a number depends on the bits of its own place alone. -/
theorem byte_mod (w x : Nat) {j : Nat} (h : j + 8 ≤ w) : BitVec.ofNat 8 ((x % 2 ^ w) >>> j) = BitVec.ofNat 8 (x >>> j) := by
  refine BitVec.eq_of_toNat_eq ?_
  simp only [BitVec.toNat_ofNat]
  exact bitsOf_mod x h

/-- Byte `i` of a word that stands at byte `k` of a wider number. -/
theorem byte_of_word_at (w k v : Nat) {i : Nat} (hw : 8 * k + 32 ≤ w) (hi : i < 4) :
    BitVec.ofNat 8 ((BitVec.ofNat w (v % 2 ^ 32 * 2 ^ (8 * k))).toNat >>> (8 * (k + i))) = BitVec.ofNat 8 (v >>> (8 * i)) := by
  rw [BitVec.toNat_ofNat, byte_mod w _ (by omega), ← Nat.shiftLeft_eq (v % 2 ^ 32) (8 * k), Nat.mul_add 8 k i,
    Nat.shiftRight_add, Nat.shiftLeft_shiftRight, byte_mod 32 v (by omega)]

/-- A word placed in a granule and taken out again is the word. -/
theorem word_of_granule {k : Nat} (v : Nat) (h : k + 4 ≤ 64) :
    ((granBytes (BitVec.ofNat 512 (natOf (bytesOf 4 v) * 2 ^ (8 * k)))).drop k).take 4 = bytesOf 4 v := by
  rw [natOf_bytesOf_four]
  generalize hg : BitVec.ofNat 512 (v % 2 ^ 32 * 2 ^ (8 * k)) = g
  refine List.ext_getElem ?_ fun i h1 h2 => ?_
  · rw [List.length_take, List.length_drop, granBytes, length_bytesOf, length_bytesOf]
    omega
  · have hi : i < 4 := by rwa [length_bytesOf] at h2
    simp only [granBytes, bytesOf, List.getElem_take, List.getElem_drop, List.getElem_map, List.getElem_range, ← hg]
    exact byte_of_word_at 512 k v (by omega) hi

/-- The value and the mask that the four bytes of a word give the register of four bytes at its own offset. -/
theorem regValue_word (o v : Nat) : regValue o 4 o (bytesOf 4 v) = (BitVec.ofNat 64 (v % 2 ^ 32), 0xFFFFFFFF) := by
  have join (a b k : Nat) (h : a < 2 ^ k) :
      BitVec.ofNat 64 a ||| BitVec.ofNat 64 (b * 2 ^ k) = BitVec.ofNat 64 (a + b * 2 ^ k) := by
    rw [← BitVec.ofNat_or, Nat.or_comm, Nat.mul_comm b, ← Nat.two_pow_add_eq_or_of_lt h, Nat.add_comm]
  have hvalue : (0 : Dword) ||| BitVec.ofNat 64 (v >>> (8 * 0) % 2 ^ 8 * 2 ^ (8 * 0)) |||
      BitVec.ofNat 64 (v >>> (8 * 1) % 2 ^ 8 * 2 ^ (8 * 1)) ||| BitVec.ofNat 64 (v >>> (8 * 2) % 2 ^ 8 * 2 ^ (8 * 2)) |||
      BitVec.ofNat 64 (v >>> (8 * 3) % 2 ^ 8 * 2 ^ (8 * 3)) = BitVec.ofNat 64 (v % 2 ^ 32) := by
    rw [show (0 : Dword) = 0#64 from rfl, BitVec.zero_or, join _ _ (8 * 1) (by omega), join _ _ (8 * 2) (by omega),
      join _ _ (8 * 3) (by omega)]
    congr 1
    omega
  have inside (i : Nat) (hi : i < 4) : o ≤ o + i ∧ o + i < o + (bytesOf 4 v).length := by
    rw [length_bytesOf]
    omega
  rw [regValue, show List.range 4 = [0, 1, 2, 3] from rfl]
  simp only [List.foldl_cons, List.foldl_nil, if_pos (inside 0 (by decide)), if_pos (inside 1 (by decide)),
    if_pos (inside 2 (by decide)), if_pos (inside 3 (by decide)), Nat.add_sub_cancel_left,
    getD_bytesOf v (show 0 < 4 by decide), getD_bytesOf v (show 1 < 4 by decide),
    getD_bytesOf v (show 2 < 4 by decide), getD_bytesOf v (show 3 < 4 by decide), BitVec.toNat_ofNat]
  rw [hvalue]
  exact congrArg _ (by decide)

end Sys2Proof.Machine
end

section
/-! Register writes of the device control block: how a write of one word of the device window reaches its register, and what the
access codes of Table 0-4 leave in it. -/

namespace Sys2Proof.Machine

/-! ## The low word of a register -/

theorem ofNat_mod_word (v : Nat) : BitVec.ofNat 64 (v % 2 ^ 32) = BitVec.ofNat 64 v &&& 0xFFFFFFFF := by
  refine BitVec.eq_of_toNat_eq ?_
  rw [BitVec.toNat_and, show (0xFFFFFFFF : Dword).toNat = 2 ^ 32 - 1 from rfl, Nat.and_two_pow_sub_one_eq_mod]
  simp only [BitVec.toNat_ofNat]
  omega

theorem word_of_dword (v : Dword) : BitVec.ofNat 64 (v.toNat % 2 ^ 32) = v &&& 0xFFFFFFFF := by
  rw [ofNat_mod_word, BitVec.ofNat_toNat, BitVec.setWidth_eq]

/-- A register with W1C bits alone, after a write: bits written as 1 are cleared, but for those set in this cycle (R26). -/
theorem Access.write_w1c (w old v m now : Dword) :
    (⟨0, w, 0⟩ : Access).write old v m now = old &&& ~~~(v &&& w &&& m &&& ~~~now) := by
  simp only [Access.write, show (0 : Dword) = 0#64 from rfl, BitVec.zero_and, BitVec.and_zero, BitVec.or_zero, BitVec.not_zero,
    BitVec.and_allOnes]

/-- A register with RW bits alone, after a write: these bits take the value, the others keep theirs. -/
theorem Access.write_rw (w old v m now : Dword) :
    (⟨w, 0, 0⟩ : Access).write old v m now = (old &&& ~~~(w &&& m)) ||| (v &&& w &&& m) := by
  simp only [Access.write, show (0 : Dword) = 0#64 from rfl, BitVec.zero_and, BitVec.and_zero, BitVec.not_zero,
    BitVec.and_allOnes]

/-! ## From the command to the register -/

/-- A REGISTER_WRITE of one word at an offset of the device control block. -/
def dcbWordWrite (o : Nat) (value : Dword) : Instr := .registerWrite 4 (BitVec.ofNat 48 (0x100000000000 + dcbBase + o)) value

/-- A write of one word at an aligned offset of the device control block is made at once (R364). -/
theorem exec_dcbWordWrite (o : Nat) (value : Dword) (s : State) (hs : s.power.coldReset = false) (ho : o < 0x1000000)
    (h4 : o % 4 = 0) :
    exec (dcbWordWrite o value) s = .next (s.dcbWrite o (bytesOf 4 value.toNat)) := by
  have haddr : (BitVec.ofNat 48 (0x100000000000 + dcbBase + o)).toNat = 0x130000000000 + o := by
    simp only [BitVec.toNat_ofNat, dcbBase]
    omega
  have hdev : deviceAddr (0x130000000000 + o) = some (0x30000000000 + o) := by
    rw [deviceAddr, if_pos (by omega)]
    exact congrArg some (by omega)
  have hregion : regionOf (0x30000000000 + o) = .dcb o := by
    rw [regionOf, if_neg (by omega), if_neg (by omega), if_neg (by omega), if_pos (by omega)]
    exact congrArg Region.dcb (by omega)
  have hucie : ucieOk 4 (0x130000000000 + o) = true := by
    simp only [ucieOk, beq_self_eq_true, Bool.true_or, Bool.true_and, beq_iff_eq]
    omega
  have hbytes : (granBytes (value.setWidth 512)).take 4 = bytesOf 4 value.toNat := by
    rw [granBytes, take_bytesOf _ (by decide), BitVec.toNat_setWidth_of_le (by decide)]
  show execRegisterWrite 4 _ value s = _
  rw [execRegisterWrite, whenFormed, if_pos (by rfl), State.access, if_neg (by simp [hs])]
  simp only [haddr, hdev, hucie, stewardPort, hregion, State.deviceAccess, State.deviceWrite, hbytes, if_true,
    Bool.not_true, Option.isSome_none, Bool.false_eq_true, if_false]

/-- A register of four bytes that stands alone at its offset: neither a mailbox, an error record nor a staging area. -/
def wordRegister (o : Nat) : Bool :=
  dcbRegAt o == some (o, 4) && o % 4 == 0 && !(decide (Dcb.mailbox 0 ≤ o) && decide (o < 0x50000)) &&
    !(decide (Dcb.errRec ≤ o) && decide (o < Dcb.errLastFatal + 32)) && !stagingArea o && decide (o < 0x1000000)

/-- The word of such a register is written to the register, with all its bits. -/
theorem State.dcbWrite_word (s : State) (o v : Nat) (ho : wordRegister o = true) :
    s.dcbWrite o (bytesOf 4 v) = s.dcbRegWrite o (BitVec.ofNat 64 (v % 2 ^ 32)) 0xFFFFFFFF := by
  simp only [wordRegister, Bool.and_eq_true, beq_iff_eq, Bool.not_eq_true', Bool.and_eq_false_iff, decide_eq_false_iff_not,
    decide_eq_true_eq] at ho
  obtain ⟨⟨⟨⟨⟨hreg, h4⟩, hmb⟩, herr⟩, hstage⟩, -⟩ := ho
  have hmb' : ¬(Dcb.mailbox 0 ≤ o ∧ o < 0x50000) := by omega
  have herr' : ¬(Dcb.errRec ≤ o ∧ o < Dcb.errGlobal) := by simp only [Dcb.errGlobal, Dcb.errLastFatal] at herr ⊢; omega
  have hlast : ¬(Dcb.errLastFatal ≤ o ∧ o < Dcb.errLastFatal + 32) := by
    simp only [Dcb.errRec, Dcb.errLastFatal] at herr ⊢; omega
  have hword : (s.dcbWord o).isNone = false := by
    simp only [State.dcbWord, if_neg hmb', if_neg herr', if_neg hlast, hstage, hreg, Bool.false_eq_true, if_false,
      Option.map_some, Option.isNone_some]
  have htouched : regsTouched dcbRegAt o 4 = [(o, 4)] := by
    simp only [regsTouched, wordsTouched, h4, show (0 + 4 + 3) / 4 = 1 from rfl, List.range_one, List.map_cons, List.map_nil,
      show o / 4 * 4 + 4 * 0 = o by omega, List.filterMap_cons, hreg, List.filterMap_nil]
    rfl
  simp only [State.dcbWrite, length_bytesOf, show 4 / 4 = 1 from rfl, List.range_one, List.any_cons, List.any_nil,
    Nat.mul_zero, Nat.add_zero, hword, Bool.or_false, Bool.false_eq_true, if_false, if_neg hmb', hstage, htouched,
    List.foldl_cons, List.foldl_nil, regValue_word]

/-- A REGISTER_WRITE of such a register outside cold reset. -/
theorem exec_dcbWordWrite_register (o : Nat) (value : Dword) (s : State) (hs : s.power.coldReset = false)
    (ho : wordRegister o = true) :
    exec (dcbWordWrite o value) s =
      .next (s.dcbRegWrite o (value &&& 0xFFFFFFFF) 0xFFFFFFFF) := by
  have h := ho
  simp only [wordRegister, Bool.and_eq_true, beq_iff_eq, decide_eq_true_eq] at h
  obtain ⟨⟨⟨⟨⟨-, h4⟩, -⟩, -⟩, -⟩, hlt⟩ := h
  rw [exec_dcbWordWrite o value s hs hlt h4, State.dcbWrite_word s o value.toNat ho, word_of_dword]

end Sys2Proof.Machine
end

section
/-! What a REGISTER_WRITE leaves in PWR_CTRL, BEAT_SYNC, TRACE_CTRL and MEM_FLAGS (R24 to R27). -/

namespace Sys2Proof.Machine

/-! ## Flags and counters that hardware sets -/

theorem State.dcbReg_setDcbBits (s : State) (o x : Nat) (m : Dword) :
    (s.setDcbBits o m).dcbReg x = if x = o then s.dcbReg o ||| m else s.dcbReg x := State.dcbReg_setDcb ..

theorem State.dcbReg_countDcb (s : State) (o x n : Nat) :
    (s.countDcb o n).dcbReg x = if x = o then BitVec.ofNat 64 (satAdd 64 (s.dcbReg o).toNat n) else s.dcbReg x :=
  State.dcbReg_setDcb ..

/-! ## A register by its access code -/

/-- A write of the register does more than change the register. -/
def writeActs (o : Nat) : Bool :=
  o == Dcb.bootCtrl || o == Dcb.cfgLs || o == Dcb.entTest || (decide (Dcb.entTrim 0 ≤ o) && decide (o ≤ Dcb.entTrim 3)) ||
    o == Dcb.thermCtrl

/-- A write of a register without RWS bits: the value is fixed where it is undefined, and undefined values are counted (R27). -/
theorem State.dcbRegWrite_plain (s : State) {o : Nat} (v m : Dword) (hacts : writeActs o = false) (hrws : (dcbAccess o).rws = 0) :
    s.dcbRegWrite o v m =
      let x := (dcbAccess o).write (s.dcbReg o) v m (tabGet 0 s.setNow o)
      let f := if (dcbAccess o).rw = 0 then (x.toNat, 0) else dcbFix o x.toNat
      let t := s.setDcb o (BitVec.ofNat 64 f.1)
      if f.2 = 0 then t else (t.countDcb Dcb.memUndef f.2).setDcbBits Dcb.memFlags 0x80 := by
  simp only [writeActs, Bool.or_eq_false_iff, beq_eq_false_iff_ne, Bool.and_eq_false_iff, decide_eq_false_iff_not] at hacts
  obtain ⟨⟨⟨⟨hboot, hls⟩, htest⟩, htrim⟩, htherm⟩ := hacts
  have htrim' : ¬(Dcb.entTrim 0 ≤ o ∧ o ≤ Dcb.entTrim 3) := by omega
  simp only [State.dcbRegWrite, if_neg hboot, if_neg hls, if_neg htest, if_neg htrim', hrws, ne_eq, not_true_eq_false, if_false,
    if_neg htherm]

/-- A write of a register whose writable bits are W1C. -/
theorem State.dcbRegWrite_w1c (s : State) {o : Nat} {w : Dword} (v m : Dword) (hacts : writeActs o = false)
    (ha : dcbAccess o = ⟨0, w, 0⟩) :
    s.dcbRegWrite o v m = s.setDcb o (s.dcbReg o &&& ~~~(v &&& w &&& m &&& ~~~(tabGet 0 s.setNow o))) := by
  rw [State.dcbRegWrite_plain s v m hacts (by rw [ha])]
  simp only [ha, Access.write_w1c, if_true, BitVec.ofNat_toNat, BitVec.setWidth_eq]

/-! ## Fields of masked registers -/

theorem bitsOf_and_of_ones {m : Dword} {lo n : Nat} (x : Dword) (h : m.extractLsb' lo n = BitVec.allOnes n) :
    bitsOf (x &&& m).toNat lo n = bitsOf x.toNat lo n := by
  rw [bitsOf_eq_extract, bitsOf_eq_extract, BitVec.extractLsb'_and, h, BitVec.and_allOnes]

theorem bitsOf_or_of_zero {y : Dword} {lo n : Nat} (x : Dword) (h : y.extractLsb' lo n = 0#n) :
    bitsOf (x ||| y).toNat lo n = bitsOf x.toNat lo n := by
  rw [bitsOf_eq_extract, bitsOf_eq_extract, BitVec.extractLsb'_or, h, BitVec.or_zero]

theorem extract_and_of_zero {m : Dword} {lo n : Nat} (x : Dword) (h : m.extractLsb' lo n = 0#n) :
    (x &&& m).extractLsb' lo n = 0#n := by
  rw [BitVec.extractLsb'_and, h, BitVec.and_zero]

/-- Bits cleared outside a field leave the field. -/
theorem bitsOf_and_not {y : Dword} {lo n : Nat} (x : Dword) (hlo : lo + n < 64) (h : y.extractLsb' lo n = 0#n) :
    bitsOf (x &&& ~~~y).toNat lo n = bitsOf x.toNat lo n := by
  refine bitsOf_and_of_ones x ?_
  rw [BitVec.extractLsb'_not_of_lt hlo, h, BitVec.not_zero]

/-! ## BEAT_SYNC and MEM_FLAGS -/

/-- BEAT_SYNC has one W1C bit; MODULE_ID is read-only. -/
theorem beatSync_write_moduleId (s : State) (v m : Dword) : (s.dcbRegWrite Dcb.beatSync v m).moduleId = s.moduleId := by
  rw [State.dcbRegWrite_w1c s (w := 0x8) v m (by decide) (by decide), State.moduleId, State.dcbF, State.dcbReg_setDcb_self]
  refine bitsOf_and_not _ (by decide) ?_
  rw [BitVec.and_comm v, BitVec.and_assoc, BitVec.and_assoc, BitVec.and_comm, ]
  exact extract_and_of_zero _ (by decide)

theorem memFlags_write (s : State) (value : Dword) :
    (s.dcbRegWrite Dcb.memFlags (value &&& 0xFFFFFFFF) 0xFFFFFFFF).dcbReg Dcb.memFlags =
      s.dcbReg Dcb.memFlags &&& ~~~(value &&& 0xFF &&& ~~~(tabGet 0 s.setNow Dcb.memFlags)) := by
  rw [State.dcbRegWrite_w1c s (w := 0xFF) _ _ (by decide) (by decide), State.dcbReg_setDcb_self, BitVec.and_assoc value,
    BitVec.and_assoc value, show (0xFFFFFFFF : Dword) &&& 0xFF &&& 0xFFFFFFFF = 0xFF from by decide]

/-! ## PWR_CTRL -/

/-- PWR_CTRL as software writes it, before an undefined WARN is fixed: WARN takes the value, the other bits stay. -/
def pwrWritten (old value : Dword) : Dword := (value &&& 0xFFF) ||| (old &&& ~~~0xFFF)

theorem pwrWritten_warn (old value : Dword) : bitsOf (pwrWritten old value).toNat 0 12 = bitsOf value.toNat 0 12 := by
  rw [pwrWritten, bitsOf_or_of_zero _ (extract_and_of_zero _ (by decide)), bitsOf_and_of_ones _ (by decide)]

theorem pwrWritten_above (old value : Dword) : bitsOf (pwrWritten old value).toNat 12 20 = bitsOf old.toNat 12 20 := by
  rw [pwrWritten, BitVec.or_comm, bitsOf_or_of_zero _ (extract_and_of_zero _ (by decide)), bitsOf_and_of_ones _ (by decide)]

/-- A write of PWR_CTRL: WARN in its range is in force, another value is its reset value and is counted (R27). -/
theorem pwrCtrl_write (s : State) (value : Dword) :
    s.dcbRegWrite Dcb.pwrCtrl (value &&& 0xFFFFFFFF) 0xFFFFFFFF =
      if 1000 ≤ bitsOf value.toNat 0 12 ∧ bitsOf value.toNat 0 12 ≤ 2900 then
        s.setDcb Dcb.pwrCtrl (pwrWritten (s.dcbReg Dcb.pwrCtrl) value)
      else
        ((s.setDcb Dcb.pwrCtrl
          (BitVec.ofNat 64 (putBits (pwrWritten (s.dcbReg Dcb.pwrCtrl) value).toNat 0 12 0xAC3))).countDcb
            Dcb.memUndef 1).setDcbBits Dcb.memFlags 0x80 := by
  have hwrite : (dcbAccess Dcb.pwrCtrl).write (s.dcbReg Dcb.pwrCtrl) (value &&& 0xFFFFFFFF) 0xFFFFFFFF
      (tabGet 0 s.setNow Dcb.pwrCtrl) = pwrWritten (s.dcbReg Dcb.pwrCtrl) value := by
    rw [show dcbAccess Dcb.pwrCtrl = ⟨0xFFF, 0, 0⟩ by decide, Access.write_rw, BitVec.or_comm, BitVec.and_assoc value,
      BitVec.and_assoc value]
    rfl
  rw [State.dcbRegWrite_plain s _ _ (by decide) (by decide)]
  simp only [hwrite, show ¬(dcbAccess Dcb.pwrCtrl).rw = 0 by decide, if_false, dcbFix, if_true, pwrWritten_warn]
  split
  · simp only [if_true, BitVec.ofNat_toNat, BitVec.setWidth_eq]
  · simp only [one_ne_zero, if_false]

/-- What a write of PWR_CTRL leaves. -/
theorem pwrCtrl_fields (s t : State) (value : Dword) (ht : t = s.dcbRegWrite Dcb.pwrCtrl (value &&& 0xFFFFFFFF) 0xFFFFFFFF) :
    let w := bitsOf value.toNat 0 12
    t.dcbF Dcb.pwrCtrl 12 20 = s.dcbF Dcb.pwrCtrl 12 20 ∧
      (1000 ≤ w ∧ w ≤ 2900 → t.dcbF Dcb.pwrCtrl 0 12 = w ∧ t.dcbReg Dcb.memUndef = s.dcbReg Dcb.memUndef) ∧
      (w < 1000 ∨ 2900 < w → t.dcbF Dcb.pwrCtrl 0 12 = 2755 ∧
        t.dcbReg Dcb.memUndef = BitVec.ofNat 64 (min ((s.dcbReg Dcb.memUndef).toNat + 1) (2 ^ 64 - 1)) ∧
        t.dcbF Dcb.memFlags 7 1 = 1) := by
  dsimp only
  rw [pwrCtrl_write] at ht
  split at ht
  next hin =>
    have hreg : t.dcbReg Dcb.pwrCtrl = pwrWritten (s.dcbReg Dcb.pwrCtrl) value := by rw [ht, State.dcbReg_setDcb_self]
    refine ⟨?_, fun _ => ⟨?_, ?_⟩, fun hout => absurd hin (by omega)⟩
    · rw [State.dcbF, hreg, pwrWritten_above, State.dcbF]
    · rw [State.dcbF, hreg, pwrWritten_warn]
    · rw [ht, State.dcbReg_setDcb, if_neg (by decide)]
  next hout =>
    have hreg : t.dcbReg Dcb.pwrCtrl =
        BitVec.ofNat 64 (putBits (pwrWritten (s.dcbReg Dcb.pwrCtrl) value).toNat 0 12 0xAC3) := by
      rw [ht, State.dcbReg_setDcbBits, if_neg (by decide), State.dcbReg_countDcb, if_neg (by decide), State.dcbReg_setDcb_self]
    refine ⟨?_, fun hin => absurd hin hout, fun _ => ⟨?_, ?_, ?_⟩⟩
    · rw [State.dcbF, hreg, bitsOf_ofNat _ (by decide), bitsOf_putBits_above _ _ _ (by decide), pwrWritten_above, State.dcbF]
    · rw [State.dcbF, hreg, bitsOf_ofNat _ (by decide), bitsOf_putBits_self]
      decide
    · rw [ht, State.dcbReg_setDcbBits, if_neg (by decide), State.dcbReg_countDcb, if_pos rfl, State.dcbReg_setDcb,
        if_neg (by decide)]
      rfl
    · rw [ht, State.dcbF, State.dcbReg_setDcbBits, if_pos rfl, bitsOf_eq_extract, BitVec.extractLsb'_or,
        show (0x80 : Dword).extractLsb' 7 1 = BitVec.allOnes 1 by decide, BitVec.or_allOnes]
      decide

/-! ## TRACE_CTRL -/

/-- Values that wait for the boundary, listed once each: each is in force after it (R25). -/
theorem State.dcbReg_foldl_setDcb (l : Tab Dword) (s : State) (o : Nat) (hl : l.Pairwise fun a b => a.1 < b.1) :
    (l.foldl (fun s e => s.setDcb e.1 e.2) s).dcbReg o = (tabFind l o).getD (s.dcbReg o) := by
  induction l generalizing s with
  | nil => rfl
  | cons e r ih =>
    obtain ⟨a, v⟩ := e
    rw [List.pairwise_cons] at hl
    rw [List.foldl_cons, ih _ hl.2, State.dcbReg_setDcb]
    by_cases h : o = a
    · have hnone : tabFind r o = none := tabFind_none_of_keys r o fun e he => by have := hl.1 e he; omega
      subst h
      simp [hnone, tabFind]
    · simp [tabFind, h, Ne.symm h]

theorem State.dcbInForce_dcbReg (s : State) (o : Nat) (hl : s.dcbRws.Pairwise fun a b => a.1 < b.1) :
    s.dcbInForce.dcbReg o = (tabFind s.dcbRws o).getD (s.dcbReg o) := State.dcbReg_foldl_setDcb _ s o hl

/-- A canonical table lists rising numbers. -/
theorem pairwise_of_tabWf_keys {β : Type} (l : Tab β) (h : tabWf false (l.map fun e => (e.1, true)) = true) :
    l.Pairwise fun a b => a.1 < b.1 := by
  have hkeys := ((tabWf_iff _ _).mp h).1
  rwa [List.pairwise_map] at hkeys

/-- What TRACE_CTRL reads after a write, while the write waits for the boundary. -/
def traceWritten (old value : Dword) : Dword := (value &&& 0x7F) ||| (old &&& ~~~0x7F)

theorem traceWritten_bits (old value : Dword) : bitsOf (traceWritten old value).toNat 0 7 = bitsOf value.toNat 0 7 := by
  rw [traceWritten, bitsOf_or_of_zero _ (extract_and_of_zero _ (by decide)), bitsOf_and_of_ones _ (by decide)]

theorem traceWritten_live (old value : Dword) : bitsOf (traceWritten old value).toNat 31 1 = bitsOf old.toNat 31 1 := by
  rw [traceWritten, BitVec.or_comm, bitsOf_or_of_zero _ (extract_and_of_zero _ (by decide)), bitsOf_and_of_ones _ (by decide)]

theorem traceCtrl_write (s : State) (value : Dword) :
    s.dcbRegWrite Dcb.traceCtrl (value &&& 0xFFFFFFFF) 0xFFFFFFFF =
      { s with
        dcbRws := tabPut s.dcbRws Dcb.traceCtrl
          (traceWritten (tabGet (s.dcbReg Dcb.traceCtrl) s.dcbRws Dcb.traceCtrl) value) } := by
  have hvalue (old : Dword) : old &&& ~~~(0x7F &&& 0xFFFFFFFF) ||| value &&& 0xFFFFFFFF &&& 0x7F &&& 0xFFFFFFFF =
      traceWritten old value := by
    rw [BitVec.or_comm, BitVec.and_assoc value, BitVec.and_assoc value]
    rfl
  simp only [State.dcbRegWrite, show dcbAccess Dcb.traceCtrl = ⟨0, 0, 0x7F⟩ by decide, hvalue,
    if_neg (show ¬Dcb.traceCtrl = Dcb.bootCtrl by decide), if_neg (show ¬Dcb.traceCtrl = Dcb.cfgLs by decide),
    if_neg (show ¬Dcb.traceCtrl = Dcb.entTest by decide),
    if_neg (show ¬(Dcb.entTrim 0 ≤ Dcb.traceCtrl ∧ Dcb.traceCtrl ≤ Dcb.entTrim 3) by decide),
    if_pos (show (0x7F : Dword) ≠ 0 by decide)]

/-- A write of TRACE_CTRL waits in its shadow: the register in force stays, the shadow is read, with LIVE 0, and comes into force at
the boundary (R25). -/
theorem traceCtrl_fields (s t : State) (value : Dword)
    (ht : t = s.dcbRegWrite Dcb.traceCtrl (value &&& 0xFFFFFFFF) 0xFFFFFFFF) :
    t.dcbReg Dcb.traceCtrl = s.dcbReg Dcb.traceCtrl ∧
      bitsOf (t.dcbRead Dcb.traceCtrl) 0 7 = bitsOf value.toNat 0 7 ∧
      ((tabGet (s.dcbReg Dcb.traceCtrl) s.dcbRws Dcb.traceCtrl).toNat < 2 ^ 31 → bitsOf (t.dcbRead Dcb.traceCtrl) 31 1 = 0) ∧
      (tabWf false (t.dcbRws.map fun e => (e.1, true)) = true →
        (t.dcbInForce.dcbReg Dcb.traceCtrl).toNat = t.dcbRead Dcb.traceCtrl) := by
  rw [traceCtrl_write] at ht
  have hfind : tabFind t.dcbRws Dcb.traceCtrl =
      some (traceWritten (tabGet (s.dcbReg Dcb.traceCtrl) s.dcbRws Dcb.traceCtrl) value) := by
    rw [ht, tabFind_tabPut_self]
  have hread : t.dcbRead Dcb.traceCtrl =
      (traceWritten (tabGet (s.dcbReg Dcb.traceCtrl) s.dcbRws Dcb.traceCtrl) value).toNat := by
    rw [State.dcbRead, if_neg (by decide), if_neg (by decide), if_pos (by decide), State.rwsRead, hfind]
  refine ⟨by rw [ht]; rfl, ?_, fun hlive => ?_, fun hwf => ?_⟩
  · rw [hread, traceWritten_bits]
  · rw [hread, traceWritten_live, bitsOf, Nat.shiftRight_eq_div_pow, Nat.div_eq_of_lt hlive, Nat.zero_mod]
  · rw [hread, State.dcbInForce_dcbReg t _ (pairwise_of_tabWf_keys _ hwf), hfind, Option.getD_some]

/-! ## The four writes -/

section Writes

variable (value : Dword) (s : State) (hs : s.power.coldReset = false)
include hs

/-- PWR_CTRL keeps WARN in its range (R27). -/
theorem exec_write_pwrCtrl :
    let w := bitsOf value.toNat 0 12
    ∃ t, exec (dcbWordWrite Dcb.pwrCtrl value) s = .next t ∧ t.dcbF Dcb.pwrCtrl 12 20 = s.dcbF Dcb.pwrCtrl 12 20 ∧
      (1000 ≤ w ∧ w ≤ 2900 → t.dcbF Dcb.pwrCtrl 0 12 = w ∧ t.dcbReg Dcb.memUndef = s.dcbReg Dcb.memUndef) ∧
      (w < 1000 ∨ 2900 < w → t.dcbF Dcb.pwrCtrl 0 12 = 2755 ∧
        t.dcbReg Dcb.memUndef = BitVec.ofNat 64 (min ((s.dcbReg Dcb.memUndef).toNat + 1) (2 ^ 64 - 1)) ∧
        t.dcbF Dcb.memFlags 7 1 = 1) :=
  ⟨_, exec_dcbWordWrite_register _ value s hs (by decide), pwrCtrl_fields s _ value rfl⟩

/-- MODULE_ID of BEAT_SYNC is read-only (R24). -/
theorem exec_write_beatSync : ∃ t, exec (dcbWordWrite Dcb.beatSync value) s = .next t ∧ t.moduleId = s.moduleId :=
  ⟨_, exec_dcbWordWrite_register _ value s hs (by decide), beatSync_write_moduleId ..⟩

/-- TRACE_CTRL waits in its shadow (R25). -/
theorem exec_write_traceCtrl :
    ∃ t, exec (dcbWordWrite Dcb.traceCtrl value) s = .next t ∧ t.dcbReg Dcb.traceCtrl = s.dcbReg Dcb.traceCtrl ∧
      bitsOf (t.dcbRead Dcb.traceCtrl) 0 7 = bitsOf value.toNat 0 7 ∧
      ((tabGet (s.dcbReg Dcb.traceCtrl) s.dcbRws Dcb.traceCtrl).toNat < 2 ^ 31 → bitsOf (t.dcbRead Dcb.traceCtrl) 31 1 = 0) ∧
      (tabWf false (t.dcbRws.map fun e => (e.1, true)) = true →
        (t.dcbInForce.dcbReg Dcb.traceCtrl).toNat = t.dcbRead Dcb.traceCtrl) :=
  ⟨_, exec_dcbWordWrite_register _ value s hs (by decide), traceCtrl_fields s _ value rfl⟩

/-- MEM_FLAGS keeps the flags set in this cycle (R26). -/
theorem exec_write_memFlags :
    ∃ t, exec (dcbWordWrite Dcb.memFlags value) s = .next t ∧
      t.dcbReg Dcb.memFlags = s.dcbReg Dcb.memFlags &&& ~~~(value &&& 0xFF &&& ~~~(tabGet 0 s.setNow Dcb.memFlags)) :=
  ⟨_, exec_dcbWordWrite_register _ value s hs (by decide), memFlags_write s value⟩

end Writes

end Sys2Proof.Machine
end

section
/-! A steward write of one word to a core window, in its slot and without errors on the way: how it reaches the core's registers and
storage (R301, R303, R323). -/

namespace Sys2Proof.Machine

/-! ## A transfer that meets no error -/

/-- What a transfer through a slice port that meets no error leaves: nothing is added to its counters. -/
def State.noErrors (s : State) : State := (s.countDcb Dcb.smemCe 0).countDcb Dcb.smemUe 0

/-- A count of nothing leaves what every register reads. -/
theorem State.dcbReg_countDcb_zero (s : State) (o x : Nat) : (s.countDcb o 0).dcbReg x = s.dcbReg x := by
  rw [State.dcbReg_countDcb]
  split
  next h =>
    rw [satAdd, Nat.add_zero, Nat.min_eq_left (by have := (s.dcbReg o).isLt; omega), BitVec.ofNat_toNat, BitVec.setWidth_eq, h]
  next => rfl

@[simp] theorem State.noErrors_dcbReg (s : State) (o : Nat) : s.noErrors.dcbReg o = s.dcbReg o := by
  rw [State.noErrors, State.dcbReg_countDcb_zero, State.dcbReg_countDcb_zero]

@[simp] theorem State.noErrors_core (s : State) (c : Nat) : s.noErrors.core c = s.core c := rfl

@[simp] theorem State.noErrors_halted (s : State) : s.noErrors.halted = s.halted := by simp [State.halted, State.dcbF]

theorem State.noErrors_coreJob (s : State) (c : Nat) : s.noErrors.coreJob c = s.coreJob c := by
  have hruns (j : Job) : s.noErrors.jobRuns j = s.jobRuns j := by
    rw [State.jobRuns, State.domainRuns, State.noErrors_halted]
    rfl
  have husable : s.noErrors.usable c = s.usable c := by simp [State.usable, State.enabled, State.fenced]
  simp only [State.coreJob, State.noErrors_core, husable, hruns]
  rfl

@[simp] theorem State.noErrors_tileRuns (s : State) (c : Nat) : s.noErrors.tileRuns c = s.tileRuns c := by
  rw [State.tileRuns, State.noErrors_coreJob]
  rfl

/-- A steward write that meets no error arrives as it was sent. -/
theorem State.meetWords_noErrors (s : State) (c a : Nat) (m : Byte) (g : Granule) :
    s.meetWords true false c 0 0 a 0 (XferErr.none.ce &&& m) (XferErr.none.ue &&& m) m false g = (g, 0, s.noErrors) := by
  have hce : XferErr.none.ce &&& m = 0 := BitVec.zero_and
  have hue : XferErr.none.ue &&& m = 0 := BitVec.zero_and
  have hspoil : s.spoil g 0#8 = (g, s) := by simp [State.spoil, List.range_succ]
  have hrecord : s.recordWords false c 0 0 a 0#16 0#8 0#8 false = s.noErrors := by
    simp [State.recordWords, State.noErrors, popcount]
  rw [hce, hue, State.meetWords]
  simp [hspoil, hrecord]

/-! ## Which registers an offset touches -/

/-- A register that covers an offset lies in the span of the ranges. -/
theorem regAt_bounds {rs : List RegRange} {lo hi o : Nat} {x : Nat × Nat}
    (hrs : ∀ r ∈ rs, lo ≤ r.base ∧ r.base + r.stride * r.count ≤ hi ∧ r.width ≤ r.stride) (h : regAt rs o = some x) :
    lo ≤ o ∧ o < hi := by
  obtain ⟨r, hr, hat⟩ := List.exists_of_findSome?_eq_some h
  obtain ⟨hlo, hhi, hw⟩ := hrs r hr
  simp only [RegRange.at?] at hat
  split at hat
  next => exact absurd hat (by simp)
  next hbase =>
    split at hat
    next hin =>
      have hspan : o - r.base < r.stride * r.count := by
        calc o - r.base = r.stride * ((o - r.base) / r.stride) + (o - r.base) % r.stride := (Nat.div_add_mod ..).symm
          _ < r.stride * ((o - r.base) / r.stride) + r.stride := by omega
          _ = r.stride * ((o - r.base) / r.stride + 1) := by ring
          _ ≤ r.stride * r.count := Nat.mul_le_mul_left _ hin.1
      omega
    next => exact absurd hat (by simp)

/-- The offset of a register lies in the ranges that list the register. -/
theorem regAt_base {rs : List RegRange} {o n w : Nat} (h : regAt rs o = some (n, w)) : (regAt rs n).isSome = true := by
  obtain ⟨r, hr, hat⟩ := List.exists_of_findSome?_eq_some h
  refine List.findSome?_isSome_iff.mpr ⟨r, hr, ?_⟩
  simp only [RegRange.at?] at hat
  split at hat
  next => exact absurd hat (by simp)
  next =>
    split at hat
    next hin =>
      have hn : n = r.base + (o - r.base) / r.stride * r.stride := by simpa using (congrArg Prod.fst (Option.some.inj hat)).symm
      have hq : (n - r.base) / r.stride = (o - r.base) / r.stride := by
        rw [hn, Nat.add_sub_cancel_left]
        rcases Nat.eq_zero_or_pos r.stride with h0 | h0
        · simp [h0]
        · exact Nat.mul_div_cancel _ h0
      have hm : (n - r.base) % r.stride = 0 := by rw [hn, Nat.add_sub_cancel_left, Nat.mul_mod_left]
      simp only [RegRange.at?, if_neg (show ¬n < r.base by omega), hq, hm]
      rw [if_pos ⟨hin.1, by omega⟩]
      rfl
    next => exact absurd hat (by simp)

theorem coreRegAt_of_seq {o : Nat} {x : Nat × Nat} (h : regAt seqRanges o = some x) : coreRegAt o = some x := by
  rw [regAt] at h
  simp [coreRegAt, regAt, List.findSome?_append, h]

/-- Where a core register lies, nothing of the storage is mapped. -/
theorem storageMapped_of_coreRegAt {o : Nat} {x : Nat × Nat} (h : coreRegAt o = some x) : storageMapped o = false := by
  have hbounds : 0xF00000 ≤ o ∧ o < 0xF0C000 := regAt_bounds (by decide) h
  rw [← Bool.not_eq_true]
  simp only [storageMapped, feltMapped, Bool.or_eq_true, Bool.and_eq_true, decide_eq_true_eq]
  simp only [Win.acc, Win.spins, Win.coupling, Win.boundary, Win.staging, Win.base, Win.rowBuffer, Win.knotsL, Win.knotsH,
    Win.schedule, Reg.hang]
  omega

/-- An aligned word touches the one register that covers its offset. -/
theorem regsTouched_word {o n w : Nat} (h4 : o % 4 = 0) (h : coreRegAt o = some (n, w)) : regsTouched coreRegAt o 4 = [(n, w)] := by
  simp only [regsTouched, wordsTouched, h4, show (0 + 4 + 3) / 4 = 1 from rfl, List.range_one, List.map_cons, List.map_nil,
    show o / 4 * 4 + 4 * 0 = o by omega, List.filterMap_cons, h, List.filterMap_nil]
  rfl

/-! ## The word in its slot -/

theorem offset_of_window {d c o : Nat} (hr : regionOf d = .window c o) : o = d % 0x1000000 := by
  simp only [regionOf] at hr
  repeat' split at hr
  all_goals simp at hr
  exact hr.2.symm

/-- An aligned access to a core window is aligned in the window, and its four bytes lie in one granule. -/
theorem window_aligned {a d c o : Nat} (hd : deviceAddr a = some d) (h4 : a % 4 = 0) (hr : regionOf d = .window c o) :
    d % 4 = 0 ∧ o % 4 = 0 := by
  have hda : d % 4 = 0 := by
    simp only [deviceAddr] at hd
    split at hd
    · have := Option.some.inj hd
      omega
    · exact absurd hd (by simp)
  have ho := offset_of_window hr
  exact ⟨hda, by omega⟩

section Word

variable {addr : BitVec 48} {data : Granule} {s : State} {d c o : Nat}
  (hd : deviceAddr addr.toNat = some d) (h4 : addr.toNat % 4 = 0) (hr : regionOf d = .window c o)
  (hb : s.blocked d = false) (hm : s.windowMapped c = true)
include hd h4 hr hb hm

/-- Where something is mapped, the word reaches the core's storage or its registers, as it was sent. -/
theorem State.serveSteward_word (hmap : (coreRegAt o).isSome = true ∨ storageMapped o = true) :
    s.serveSteward ⟨true, 4, addr.toNat, data, XferErr.none⟩ =
      if storageMapped o then
        (s.noErrors.coreStoreWrite c o (bytesOf 4 data.toNat)).modCore c fun k => if o < 0x40000 then k.markBad o 4 0 else k
      else
        (regsTouched coreRegAt o 4).foldl (fun s r =>
          let x := regValue r.1 r.2 o (bytesOf 4 data.toNat)
          s.coreRegWrite c r.1 x.1 x.2) s.noErrors := by
  obtain ⟨hd4, -⟩ := window_aligned hd h4 hr
  have hbytes : (granBytes data).take 4 = bytesOf 4 data.toNat := take_bytesOf _ (by decide)
  have hholes : ((coreRegAt o).isNone && !storageMapped o) = false := by
    rcases hmap with h | h
    · simp [Option.isNone_eq_false_iff.mpr h]
    · simp [h]
  have hcode : (0 : Byte) &&& wordMask d 4 = 0 := BitVec.zero_and
  simp only [State.serveSteward, hd, State.serveAt, if_true, hbytes, State.crossWrite, hr, State.windowWrite, hb, hm,
    Bool.not_true, Bool.false_eq_true, if_false, length_bytesOf, State.meetWords_noErrors,
    word_of_granule data.toNat (show d % 64 + 4 ≤ 64 by omega), show 4 / 4 = 1 from rfl, List.range_one, List.any_cons,
    List.any_nil, Nat.mul_zero, Nat.add_zero, hholes, Bool.or_false, hcode]

/-- A word of a register is written to the register that covers it. -/
theorem State.serveSteward_reg {n w : Nat} (hreg : coreRegAt o = some (n, w)) :
    s.serveSteward ⟨true, 4, addr.toNat, data, XferErr.none⟩ =
      s.noErrors.coreRegWrite c n (regValue n w o (bytesOf 4 data.toNat)).1 (regValue n w o (bytesOf 4 data.toNat)).2 := by
  have ho : o % 4 = 0 := (window_aligned hd h4 hr).2
  rw [State.serveSteward_word hd h4 hr hb hm (.inl (by rw [hreg]; rfl)), storageMapped_of_coreRegAt hreg,
    if_neg (by decide), regsTouched_word ho hreg]
  rfl

/-- A register of four bytes takes the word, with all its bits. -/
theorem State.serveSteward_reg_word (hreg : coreRegAt o = some (o, 4)) :
    s.serveSteward ⟨true, 4, addr.toNat, data, XferErr.none⟩ =
      s.noErrors.coreRegWrite c o (BitVec.ofNat 64 (data.toNat % 2 ^ 32)) 0xFFFFFFFF := by
  rw [State.serveSteward_reg hd h4 hr hb hm hreg, regValue_word]

/-- A word of the storage is written to the storage. -/
theorem State.serveSteward_store (hmap : storageMapped o = true) :
    (s.serveSteward ⟨true, 4, addr.toNat, data, XferErr.none⟩).core c =
      let k := (s.noErrors.coreStoreWrite c o (bytesOf 4 data.toNat)).core c
      if o < 0x40000 then k.markBad o 4 0 else k := by
  rw [State.serveSteward_word hd h4 hr hb hm (.inr hmap), if_pos hmap, State.core_modCore_self]

end Word

/-! ## Registers of a core -/

/-- A register of the sequencer while a job owns the core, or a Felt RW register while the tile runs steps, drops the write and counts
it (R119, R294). -/
theorem State.coreRegWrite_dropped (s : State) {c o : Nat} (v m : Dword)
    (h : ((regAt seqRanges o).isSome && (s.core c).job.isSome || feltRw o && s.tileRuns c) = true) :
    (s.coreRegWrite c o v m).core c = (s.core c).errCount := by
  simp only [State.coreRegWrite, h, if_true, State.core_modCore_self]

/-- A W1C register that takes the write: bits written as 1 are cleared, but for those set in this cycle (R26). -/
theorem State.coreRegWrite_w1c (s : State) {c o : Nat} {w : Dword} (v m : Dword)
    (h : ((regAt seqRanges o).isSome && (s.core c).job.isSome || feltRw o && s.tileRuns c) = false)
    (ha : coreAccess o = ⟨0, w, 0⟩) (hcnt : o ≠ Reg.coreErrcnt) :
    ((s.coreRegWrite c o v m).core c).reg o =
      (s.core c).reg o &&& ~~~(v &&& w &&& m &&& ~~~(tabGet 0 (s.core c).setNow o)) := by
  simp only [State.coreRegWrite, h, Bool.false_eq_true, if_false, ha, ne_eq, not_true_eq_false, if_true, Access.write_w1c,
    State.core_setCore_self, CoreState.count, CoreState.reg_setReg, if_neg hcnt, BitVec.ofNat_toNat, BitVec.setWidth_eq]

/-- A register with RWS bits alone: while a job owns the core and the die is not halted, the value waits in the shadow, else it is in
force at once (R25). -/
theorem State.coreRegWrite_rws (s : State) {c o : Nat} {r : Dword} (v m : Dword)
    (h : ((regAt seqRanges o).isSome && (s.core c).job.isSome || feltRw o && s.tileRuns c) = false)
    (ha : coreAccess o = ⟨0, 0, r⟩) (hr : r ≠ 0) :
    (s.coreRegWrite c o v m).core c =
      let k := s.core c
      let x := (k.written o &&& ~~~(r &&& m)) ||| (v &&& r &&& m)
      if k.job.isSome && !s.halted then { k with rws := tabPut k.rws o x }
      else { k.setReg o x with rws := tabDel k.rws o } := by
  simp only [State.coreRegWrite, h, Bool.false_eq_true, if_false, ha, if_pos hr, State.core_setCore_self]

end Sys2Proof.Machine
end

section
/-! What a steward write of one word leaves in a core (R25, R26, R45, R119, R179, R218, R274, R294, R301): its registers, its storage
and what it drops. -/

namespace Sys2Proof.Machine

/-! ## Bytes of a plane -/

theorem getLsbD_planeByte (x : BitVec 4096) (j t : Nat) :
    (planeByte x j).getLsbD t = (decide (t < 8) && x.getLsbD (8 * j + t)) := by
  rw [planeByte, BitVec.getLsbD_ofNat, Nat.testBit_shiftRight, BitVec.testBit_toNat]

/-- A plane with one byte replaced, byte by byte. -/
theorem planeByte_planePut (x : BitVec 4096) {i j : Nat} (v : Byte) (hi : i < 512) (hj : j < 512) :
    planeByte (planePut x i 0xFF v) j = if j = i then v else planeByte x j := by
  have hv : (planeByte x i &&& ~~~0xFF) ||| (v &&& 0xFF) = v := by
    rw [show ~~~(0xFF : Byte) = 0#8 by decide, BitVec.and_zero, BitVec.zero_or, show (0xFF : Byte) = BitVec.allOnes 8 by decide,
      BitVec.and_allOnes]
  refine BitVec.eq_of_getLsbD_eq fun t ht => ?_
  rw [getLsbD_planeByte, planePut, hv, BitVec.getLsbD_ofNat, testBit_putBits, BitVec.testBit_toNat, BitVec.testBit_toNat]
  by_cases h : j = i
  · subst h
    simp [ht, show 8 * j + t < 4096 by omega]
  · rw [if_neg h, getLsbD_planeByte, if_neg (by omega)]
    simp [ht, show 8 * j + t < 4096 by omega]

/-! ## The spin window while no job owns the core -/

/-- A byte of the spin window stands at once in its plane and in the snapshot (R45). -/
theorem CoreState.pokeByte_spins (k : CoreState) {o p : Nat} (b : Byte) (hlo : Win.spins ≤ o) (hhi : o < 0x802000)
    (hp : (o - Win.spins) / 512 = p) :
    (k.pokeByte o b).spin p = planePut (k.spin p) (o % 512) 0xFF b ∧
      (k.pokeByte o b).snapshot p = planePut (k.spin p) (o % 512) 0xFF b := by
  simp only [Win.spins] at hlo
  have hmapped : feltMapped o = true := by
    simp only [feltMapped, Bool.or_eq_true, Bool.and_eq_true, decide_eq_true_eq]
    simp only [Win.spins]
    omega
  have hstaging : ¬(Win.staging ≤ o ∧ o < 0x905800) := by simp only [Win.staging]; omega
  have hmantissa : isMantissa o = false := by
    rw [← Bool.not_eq_true]
    simp only [isMantissa, Bool.or_eq_true, Bool.and_eq_true, decide_eq_true_eq]
    simp only [Win.cond, Win.base]
    omega
  have hmask : (0xFF : Byte) &&& feltMask o = 0xFF := by
    rw [feltMask, hmantissa, Bool.false_and, if_neg (by decide), if_neg (by omega)]
    decide
  have hput : k.feltPut o 0xFF b = { k with spins := tabSet 0 k.spins p (planePut (k.spin p) (o % 512) 0xFF b) } := by
    simp only [CoreState.feltPut, hmask, if_pos hhi, hp]
  have hspin : (k.feltPut o 0xFF b).spin p = planePut (k.spin p) (o % 512) 0xFF b := by
    rw [hput]
    exact tabGet_tabSet_self ..
  rw [CoreState.pokeByte, if_pos hmapped, if_neg hstaging, CoreState.pokeFelt]
  simp only [if_pos hhi, hp, hspin]
  exact ⟨hspin, tabGet_tabSet_self ..⟩

/-- Four bytes of the spin window, one after the other. -/
theorem CoreState.pokeBytes_spins (k : CoreState) {o : Nat} (v : Nat) (hlo : Win.spins ≤ o) (hhi : o < 0x802000)
    (h4 : o % 4 = 0) :
    let t := (bytesOf 4 v).zipIdx.foldl (fun k e => k.pokeByte (o + e.2) e.1) k
    t.spin ((o - Win.spins) / 512) = t.snapshot ((o - Win.spins) / 512) ∧
      ∀ i < 4, t.feltByte (o + i) = BitVec.ofNat 8 (v >>> (8 * i)) := by
  intro t
  obtain ⟨p, hp⟩ : ∃ p, p = (o - Win.spins) / 512 := ⟨_, rfl⟩
  have hplane (i : Nat) (hi : i < 4) :
      Win.spins ≤ o + i ∧ o + i < 0x802000 ∧ (o + i - Win.spins) / 512 = p ∧ (o + i) % 512 = o % 512 + i := by
    simp only [Win.spins] at hp hlo ⊢
    omega
  have poke (k : CoreState) (b : Byte) (i : Nat) (hi : i < 4) :
      (k.pokeByte (o + i) b).spin p = planePut (k.spin p) (o % 512 + i) 0xFF b ∧
        (k.pokeByte (o + i) b).snapshot p = planePut (k.spin p) (o % 512 + i) 0xFF b := by
    obtain ⟨h1, h2, h3, h5⟩ := hplane i hi
    rw [← h5]
    exact k.pokeByte_spins b h1 h2 h3
  have ht : t = (((k.pokeByte (o + 0) (BitVec.ofNat 8 v)).pokeByte (o + 1) (BitVec.ofNat 8 (v >>> 8))).pokeByte (o + 2)
      (BitVec.ofNat 8 (v >>> 16))).pokeByte (o + 3) (BitVec.ofNat 8 (v >>> 24)) := rfl
  have hspin : t.spin p = t.snapshot p := by rw [ht, (poke _ _ 3 (by decide)).1, (poke _ _ 3 (by decide)).2]
  refine ⟨hp ▸ hspin, fun i hi => ?_⟩
  obtain ⟨-, h2, h3, h5⟩ := hplane i hi
  rw [CoreState.feltByte, if_pos h2, h3, h5, ← hspin, ht, (poke _ _ 3 (by decide)).1, (poke _ _ 2 (by decide)).1,
    (poke _ _ 1 (by decide)).1, (poke _ _ 0 (by decide)).1]
  rw [planeByte_planePut _ _ (by omega) (by omega), planeByte_planePut _ _ (by omega) (by omega),
    planeByte_planePut _ _ (by omega) (by omega), planeByte_planePut _ _ (by omega) (by omega)]
  interval_cases i <;> simp

/-! ## The storage of a core -/

/-- Scratch takes the word at any time. -/
theorem State.coreStoreWrite_scratch (s : State) {c o : Nat} (v : Nat) (ho : o < 0x40000) :
    bytesLanded (s.core c).store ((s.coreStoreWrite c o (bytesOf 4 v)).core c).store o 4 (v % 2 ^ 32) := by
  intro b
  rw [State.coreStoreWrite, if_pos ho, State.core_modCore_self]
  simp only [CoreState.writeScratch, CoreState.putBytes, Win.scratch, Nat.zero_add, byteAt_bytesWrite, length_bytesOf]
  split
  next hb => rw [getD_bytesOf v (by omega), byte_mod 32 v (by omega)]
  next => rfl

/-- Other storage takes no write while a job owns the core, the schedule store none at all: the write is counted (R274). -/
theorem State.coreStoreWrite_dropped (s : State) {c o : Nat} (bs : List Byte) (hlo : 0x40000 ≤ o) (hhi : o < Reg.hang)
    (h : (s.core c).job.isSome = true ∨ Win.schedule ≤ o) :
    (s.coreStoreWrite c o bs).core c = (s.core c).errCount := by
  rw [State.coreStoreWrite, if_neg (by omega), if_neg (by omega), if_pos h, State.core_modCore_self]

/-- The spin window while no job owns the core. -/
theorem State.coreStoreWrite_spins (s : State) {c o : Nat} (bs : List Byte) (hlo : Win.spins ≤ o) (hhi : o < 0x802000)
    (hjob : (s.core c).job = none) :
    (s.coreStoreWrite c o bs).core c = bs.zipIdx.foldl (fun k e => k.pokeByte (o + e.2) e.1) (s.core c) := by
  simp only [Win.spins] at hlo
  rw [State.coreStoreWrite, if_neg (by omega), if_neg (by simp only [Reg.hang]; omega),
    if_neg (by rw [hjob]; simp only [Win.schedule, Option.isSome_none, Bool.false_eq_true, false_or]; omega),
    State.core_modCore_self]

theorem storageMapped_of_scratch {o : Nat} (ho : o < 0x40000) : storageMapped o = true := by simp [storageMapped, ho]

theorem storageMapped_of_spins {o : Nat} (hlo : Win.spins ≤ o) (hhi : o < 0x802000) : storageMapped o = true := by
  have hfelt : feltMapped o = true := by simp [feltMapped, hlo, show o < 0x824000 by omega]
  simp [storageMapped, hfelt]

/-! ## The clauses on core windows -/

section Word

variable {addr : BitVec 48} {data : Granule} {s : State} {d c o : Nat}
  (hd : deviceAddr addr.toNat = some d) (h4 : addr.toNat % 4 = 0) (hr : regionOf d = .window c o)
  (hb : s.blocked d = false) (hm : s.windowMapped c = true)
include hd h4 hr hb hm

/-- FELT_EXP, before what decides where its value goes: its RWS bits take the word, the others keep what was written. -/
theorem feltExp_write (ho : o = Reg.feltExp) :
    let k := s.core c
    let x := (k.written Reg.feltExp &&& ~~~0x3F) ||| (BitVec.ofNat 64 (data.toNat % 2 ^ 32) &&& 0x3F)
    (s.serveSteward ⟨true, 4, addr.toNat, data, XferErr.none⟩).core c =
      if k.job.isSome && !s.halted then { k with rws := tabPut k.rws Reg.feltExp x }
      else { k.setReg Reg.feltExp x with rws := tabDel k.rws Reg.feltExp } := by
  subst ho
  rw [State.serveSteward_reg_word hd h4 hr hb hm (by decide),
    State.coreRegWrite_rws _ (r := 0x3F) _ _ (by simp [show regAt seqRanges Reg.feltExp = none by decide,
      show feltRw Reg.feltExp = false by decide]) (by decide) (by decide)]
  simp only [State.noErrors_core, State.noErrors_halted, show (0x3F : Dword) &&& 0xFFFFFFFF = 0x3F by decide, BitVec.and_assoc]

/-- A value of FELT_EXP that waits (R25). -/
theorem feltExp_waits (ho : o = Reg.feltExp) (hjob : (s.core c).job.isSome = true) (hhalt : s.halted = false) :
    let t := s.serveSteward ⟨true, 4, addr.toNat, data, XferErr.none⟩
    let x := ((s.core c).written Reg.feltExp &&& ~~~0x3F) ||| (BitVec.ofNat 64 (data.toNat % 2 ^ 32) &&& 0x3F)
    (t.core c).reg Reg.feltExp = (s.core c).reg Reg.feltExp ∧ (t.core c).written Reg.feltExp = x ∧
      t.coreRegRead c Reg.feltExp = x.toNat := by
  have hcore := feltExp_write (data := data) hd h4 hr hb hm ho
  simp only [hjob, hhalt, Bool.not_false, Bool.and_true, if_true] at hcore
  dsimp only
  refine ⟨by rw [hcore]; rfl, ?_, ?_⟩
  · rw [hcore, CoreState.written, tabGet, tabFind_tabPut_self, Option.getD_some]
  · simp only [State.coreRegRead, hcore, tabFind_tabPut_self]
    rfl

/-- A value of FELT_EXP that is in force at once (R25). -/
theorem feltExp_inForce (ho : o = Reg.feltExp) (h : (s.core c).job = none ∨ s.halted = true) :
    let t := s.serveSteward ⟨true, 4, addr.toNat, data, XferErr.none⟩
    let x := ((s.core c).written Reg.feltExp &&& ~~~0x3F) ||| (BitVec.ofNat 64 (data.toNat % 2 ^ 32) &&& 0x3F)
    (t.core c).reg Reg.feltExp = x ∧ t.coreRegRead c Reg.feltExp = x.toNat + 2 ^ 31 := by
  have hfree : ((s.core c).job.isSome && !s.halted) = false := by rcases h with h | h <;> simp [h]
  have hcore := feltExp_write (data := data) hd h4 hr hb hm ho
  simp only [hfree, Bool.false_eq_true, if_false] at hcore
  have hreg : ((s.serveSteward ⟨true, 4, addr.toNat, data, XferErr.none⟩).core c).reg Reg.feltExp =
      ((s.core c).written Reg.feltExp &&& ~~~0x3F) ||| (BitVec.ofNat 64 (data.toNat % 2 ^ 32) &&& 0x3F) := by
    rw [hcore]
    exact CoreState.reg_setReg_self ..
  refine ⟨hreg, ?_⟩
  have hnone : tabFind ((s.serveSteward ⟨true, 4, addr.toNat, data, XferErr.none⟩).core c).rws Reg.feltExp = none := by
    rw [hcore, tabFind_tabDel, if_pos rfl]
  simp only [State.coreRegRead, hnone, hreg]
  rfl

/-- A W1C register of four bytes that is not dropped. -/
theorem w1c_write {w : Dword} (hreg : coreRegAt o = some (o, 4)) (ha : coreAccess o = ⟨0, w, 0⟩) (hcnt : o ≠ Reg.coreErrcnt)
    (hw : w &&& 0xFFFFFFFF = w)
    (hopen : ((regAt seqRanges o).isSome && (s.core c).job.isSome || feltRw o && s.tileRuns c) = false) :
    ((s.serveSteward ⟨true, 4, addr.toNat, data, XferErr.none⟩).core c).reg o =
      (s.core c).reg o &&& ~~~(BitVec.ofNat 64 (data.toNat % 2 ^ 32) &&& w &&& ~~~(tabGet 0 (s.core c).setNow o)) := by
  rw [State.serveSteward_reg_word hd h4 hr hb hm hreg,
    State.coreRegWrite_w1c _ _ _ (by rwa [State.noErrors_core, State.noErrors_tileRuns]) ha hcnt, State.noErrors_core,
    BitVec.and_assoc _ w, hw]

/-- FELT_FLAGS (R26). -/
theorem feltFlags_write (ho : o = Reg.feltFlags) :
    ((s.serveSteward ⟨true, 4, addr.toNat, data, XferErr.none⟩).core c).reg Reg.feltFlags =
      (s.core c).reg Reg.feltFlags &&&
        ~~~(BitVec.ofNat 64 (data.toNat % 2 ^ 32) &&& 0xF &&& ~~~(tabGet 0 (s.core c).setNow Reg.feltFlags)) := by
  subst ho
  exact w1c_write hd h4 hr hb hm (by decide) (by decide) (by decide) (by decide)
    (by simp [show regAt seqRanges Reg.feltFlags = none by decide, show feltRw Reg.feltFlags = false by decide])

/-- CORE_STAT while no job owns the core (R26). -/
theorem coreStat_write (ho : o = Reg.coreStat) (hjob : (s.core c).job = none) :
    ((s.serveSteward ⟨true, 4, addr.toNat, data, XferErr.none⟩).core c).reg Reg.coreStat =
      (s.core c).reg Reg.coreStat &&&
        ~~~(BitVec.ofNat 64 (data.toNat % 2 ^ 32) &&& 0x3E &&& ~~~(tabGet 0 (s.core c).setNow Reg.coreStat)) := by
  subst ho
  exact w1c_write hd h4 hr hb hm (by decide) (by decide) (by decide) (by decide)
    (by simp [hjob, show feltRw Reg.coreStat = false by decide])

/-- A write that a running job or a running tile keeps out is counted and changes nothing else of the core. -/
theorem dropped_write
    (h : (regAt seqRanges o).isSome = true ∧ (s.core c).job.isSome = true ∨
      storageMapped o = true ∧ 0x40000 ≤ o ∧ o < Reg.hang ∧ ((s.core c).job.isSome = true ∨ Win.schedule ≤ o) ∨
      s.tileRuns c = true ∧ ∃ n w, coreRegAt o = some (n, w) ∧ feltRw n = true) :
    (s.serveSteward ⟨true, 4, addr.toNat, data, XferErr.none⟩).core c = (s.core c).errCount := by
  rcases h with ⟨hseq, hjob⟩ | ⟨hmap, hlo, hhi, hkept⟩ | ⟨hruns, n, w, hreg, hn⟩
  · obtain ⟨⟨n, w⟩, hreg⟩ := Option.isSome_iff_exists.mp hseq
    rw [State.serveSteward_reg hd h4 hr hb hm (coreRegAt_of_seq hreg),
      State.coreRegWrite_dropped _ _ _ (by rw [State.noErrors_core, regAt_base hreg, hjob]; rfl), State.noErrors_core]
  · rw [State.serveSteward_store hd h4 hr hb hm hmap]
    simp only [show ¬o < 0x40000 by omega, if_false]
    exact State.coreStoreWrite_dropped s.noErrors _ hlo hhi hkept
  · rw [State.serveSteward_reg hd h4 hr hb hm hreg,
      State.coreRegWrite_dropped _ _ _ (by rw [State.noErrors_tileRuns, hn, hruns]; simp),
      State.noErrors_core]

/-- Scratch holds the word's bytes, and every other byte of the core's storage is as before. -/
theorem scratch_write (ho : o < 0x40000) :
    bytesLanded (s.core c).store ((s.serveSteward ⟨true, 4, addr.toNat, data, XferErr.none⟩).core c).store o 4
      (data.toNat % 2 ^ 32) := by
  rw [State.serveSteward_store hd h4 hr hb hm (storageMapped_of_scratch ho)]
  simp only [ho, if_true]
  exact s.noErrors.coreStoreWrite_scratch _ ho

/-- The spin window while no job owns the core holds the word's bytes at once, in the storage and in the snapshot (R45). -/
theorem spins_write (hlo : Win.spins ≤ o) (hhi : o < 0x802000) (hjob : (s.core c).job = none) :
    let t := s.serveSteward ⟨true, 4, addr.toNat, data, XferErr.none⟩
    (t.core c).spin ((o - Win.spins) / 512) = (t.core c).snapshot ((o - Win.spins) / 512) ∧
      ∀ i < 4, (t.core c).feltByte (o + i) = BitVec.ofNat 8 ((data.toNat % 2 ^ 32) >>> (8 * i)) := by
  have hfar : ¬o < 0x40000 := by simp only [Win.spins] at hlo; omega
  have hcore : (s.serveSteward ⟨true, 4, addr.toNat, data, XferErr.none⟩).core c =
      (bytesOf 4 data.toNat).zipIdx.foldl (fun k e => k.pokeByte (o + e.2) e.1) (s.core c) := by
    rw [State.serveSteward_store hd h4 hr hb hm (storageMapped_of_spins hlo hhi)]
    simp only [hfar, if_false]
    exact State.coreStoreWrite_spins s.noErrors _ hlo hhi hjob
  obtain ⟨hsnap, hbytes⟩ := (s.core c).pokeBytes_spins data.toNat hlo hhi (window_aligned hd h4 hr).2
  dsimp only
  rw [hcore]
  exact ⟨hsnap, fun i hi => (hbytes i hi).trans (byte_mod 32 _ (by omega)).symm⟩

end Word

end Sys2Proof.Machine
end

section

namespace Sys2Proof.Machine

/-- The steward's address of FELT_EXP of core 0. -/
def feltExpAddr : BitVec 48 := BitVec.ofNat 48 (0x100000000000 + 0x20000000000 + Reg.feltExp)

/-- Refutes O31 by how its formula groups: in the clause on dropped writes the arrow stands under the `∃`, so that what is claimed of
every write is the disjunction of the three causes to drop it. A write of FELT_EXP of core 0 right after reset has none of them: it
is no register of the sequencer, no storage, and no tile runs. The clauses as the words have them hold: `dropped_write` with the arrow
outside, and beside it `exec_write_pwrCtrl`, `exec_write_beatSync`, `exec_write_traceCtrl`, `exec_write_memFlags`, `feltExp_waits`,
`feltExp_inForce`, `feltFlags_write`, `coreStat_write`, `scratch_write` and `spins_write`. -/
theorem not_registerWritesKeepTheirRanges : ¬ Obligations.RegisterWritesKeepTheirRanges := by
  rintro ⟨-, h⟩
  have hd : deviceAddr feltExpAddr.toNat = some (0x20000000000 + Reg.feltExp) := by decide
  have hr : regionOf (0x20000000000 + Reg.feltExp) = .window 0 Reg.feltExp := by decide
  have hb : State.reset.blocked (0x20000000000 + Reg.feltExp) = false := by decide
  have hm : State.reset.windowMapped 0 = true := by decide
  obtain ⟨-, -, -, -, hcauses, -⟩ := h feltExpAddr 0 State.reset _ 0 Reg.feltExp hd (by decide) hr hb hm
  rcases hcauses with ⟨hseq, -⟩ | ⟨hstorage, -⟩ | ⟨hruns, -⟩
  · exact absurd hseq (by decide)
  · exact absurd hstorage (by decide)
  · exact absurd hruns (by decide)

end Sys2Proof.Machine
end

section
/-! What the operations on one core leave of its Felt planes. -/

namespace Sys2Proof.Machine

/-- The spin planes, their snapshot and the hold masks (Table 3-2). -/
def CoreState.planes (k : CoreState) : Tab (BitVec 4096) × Tab (BitVec 4096) × Tab (BitVec 4096) := (k.spins, k.snap, k.hold)

theorem CoreState.snap_of_planes {k k' : CoreState} (h : k'.planes = k.planes) : k'.snap = k.snap :=
  congrArg (fun x => x.2.1) h

theorem foldl_planes {α : Type} (f : CoreState → α → CoreState) (h : ∀ k a, (f k a).planes = k.planes) (l : List α)
    (k : CoreState) : (l.foldl f k).planes = k.planes := by
  induction l generalizing k with
  | nil => rfl
  | cons a l ih => rw [List.foldl_cons, ih, h]

@[simp] theorem ite_planes (p : Prop) [Decidable p] (k k' : CoreState) :
    (if p then k else k').planes = if p then k.planes else k'.planes := by split <;> rfl

/-! ## Registers, engines and bytes of storage -/

@[simp] theorem CoreState.setReg_planes (k : CoreState) (o : Nat) (v : Dword) : (k.setReg o v).planes = k.planes := by rfl

@[simp] theorem CoreState.setRegF_planes (k : CoreState) (o lo n v : Nat) : (k.setRegF o lo n v).planes = k.planes :=
  CoreState.setReg_planes ..

@[simp] theorem CoreState.count_planes (k : CoreState) (o n : Nat) : (k.count o n).planes = k.planes :=
  CoreState.setReg_planes ..

@[simp] theorem CoreState.setBits_planes (k : CoreState) (o : Nat) (m : Dword) : (k.setBits o m).planes = k.planes := by rfl

@[simp] theorem CoreState.setEngine_planes (k : CoreState) (e : Nat) (x : EngineSlot) : (k.setEngine e x).planes = k.planes := by rfl

@[simp] theorem CoreState.store_planes (k : CoreState) (m : Bytes) : ({ k with store := m } : CoreState).planes = k.planes := by rfl

@[simp] theorem CoreState.rws_planes (k : CoreState) (r : RegFile) : ({ k with rws := r } : CoreState).planes = k.planes := by rfl

@[simp] theorem CoreState.putBytes_planes (k : CoreState) (o : Nat) (bs : List Byte) : (k.putBytes o bs).planes = k.planes := by rfl

@[simp] theorem CoreState.writeScratch_planes (k : CoreState) (o : Nat) (bs : List Byte) :
    (k.writeScratch o bs).planes = k.planes := CoreState.putBytes_planes ..

/-! ## Accumulators and output rows -/

@[simp] theorem CoreState.setAccRow_planes (k : CoreState) (t i : Nat) (xs : List Acc) : (k.setAccRow t i xs).planes = k.planes :=
  CoreState.putBytes_planes ..

@[simp] theorem CoreState.mmaDone_planes (k : CoreState) (m : Mma) (tile : AccTile) (bad : Nat) :
    (k.mmaDone m tile bad).planes = k.planes := by
  have hrows : (tile.zipIdx.foldl (fun k r => k.setAccRow m.acc r.2 (r.1.map fun e => e.acc)) k).planes = k.planes :=
    foldl_planes _ (fun _ _ => CoreState.setAccRow_planes ..) _ _
  simp [CoreState.mmaDone, hrows]

@[simp] theorem CoreState.accLoaded_planes (k : CoreState) (t : Nat) (xs : List (Acc × Bool × Bool)) :
    (k.accLoaded t xs).planes = k.planes := by
  simp [CoreState.accLoaded, foldl_planes _ fun _ _ => CoreState.setAccRow_planes ..]

@[simp] theorem CoreState.outScratch_planes (k : CoreState) (o : Out) (rows : List (Nat × List Rounded)) :
    (k.outScratch o rows).planes = k.planes := by
  simp [CoreState.outScratch]

/-! ## Exchanged data -/

@[simp] theorem CoreState.moveStaged_planes (k : CoreState) (d : Nat) : (k.moveStaged d).planes = k.planes := by rfl

/-! ## The sampler -/

@[simp] theorem CoreState.catCounts_planes (k : CoreState) (x : Cat) (es : List CatEntry) : (k.catCounts x es).planes = k.planes := by
  simp [CoreState.catCounts]

@[simp] theorem CoreState.catResult_planes (k : CoreState) (at_ : Nat) (best : Option (Int × Nat)) :
    (k.catResult at_ best).planes = k.planes := by
  simp [CoreState.catResult]

@[simp] theorem CoreState.catRow_planes (k : CoreState) (x : Cat) (r : Nat) (es : List CatEntry) :
    (k.catRow x r es).planes = k.planes := by
  simp [CoreState.catRow]

@[simp] theorem CoreState.catShort_planes (k : CoreState) (x : Cat) (n : Nat) : (k.catShort x n).planes = k.planes := by
  simp [CoreState.catShort, foldl_planes]

@[simp] theorem CoreState.setLrow_planes (k : CoreState) (x : Cat) (isOpen : Bool) : (k.setLrow x isOpen).planes = k.planes :=
  CoreState.setReg_planes ..

@[simp] theorem CoreState.histogram_planes (k : CoreState) (clear : Bool) (bins : List Nat) :
    (k.histogram clear bins).planes = k.planes := by
  unfold CoreState.histogram
  rw [foldl_planes _ fun k _ => k.store_planes _]
  split <;> rfl

@[simp] theorem CoreState.setBoundary_planes (k : CoreState) (x : Cat) : (k.setBoundary x).planes = k.planes := by
  unfold CoreState.setBoundary
  split <;> simp

@[simp] theorem CoreState.setLbest_planes (k : CoreState) (b : Option (Int × Nat)) : (k.setLbest b).planes = k.planes := by
  unfold CoreState.setLbest
  split
  · exact CoreState.setReg_planes ..
  · rfl

@[simp] theorem CoreState.catLoad_planes (k : CoreState) (x : Cat) (codes : List Nat) : (k.catLoad x codes).planes = k.planes := by
  unfold CoreState.catLoad
  extract_lets es k₁ k₂ k₃
  have h₃ : k₃.planes = k.planes := by
    dsimp only [k₃]
    split <;> simp [k₂, k₁]
  split <;> simp [h₃]

@[simp] theorem CoreState.catSelect_planes (k : CoreState) (x : Cat) (codes : List Nat) :
    (k.catSelect x codes).planes = k.planes := by
  simp [CoreState.catSelect]

@[simp] theorem CoreState.catDrawPass_planes (k : CoreState) (x : Cat) (codes : List Nat) :
    (k.catDrawPass x codes).planes = k.planes := by
  simp [CoreState.catDrawPass]

end Sys2Proof.Machine
end

section
/-! The operations that leave the cores and the units beside them as they are: registers of the device control block, jobs, error
records, injected errors and the trace. -/

namespace Sys2Proof.Machine

/-- The mailboxes, the entropy source, the root of trust, the CP, the MACs, the flash, the SRAM and the power unit. -/
def State.units (s : State) : Tab Mailbox × Entropy × Security × Cp × Tab Mac × Flash × Bytes × Power :=
  (s.mbs, s.ent, s.sec, s.cp, s.macs, s.flash, s.sram, s.power)

/-- The cores and the units. -/
def State.coresUnits (s : State) :
    Tab CoreState × Tab Mailbox × Entropy × Security × Cp × Tab Mac × Flash × Bytes × Power := (s.cores, s.units)

theorem State.core_of_coresUnits {s t : State} (h : t.coresUnits = s.coresUnits) (c : Nat) : t.core c = s.core c := by
  have hcores : t.cores = s.cores := congrArg Prod.fst h
  rw [State.core, hcores]
  rfl

theorem State.units_of_coresUnits {s t : State} (h : t.coresUnits = s.coresUnits) : t.units = s.units := congrArg Prod.snd h

@[simp] theorem ite_coresUnits (p : Prop) [Decidable p] (s t : State) :
    (if p then s else t).coresUnits = if p then s.coresUnits else t.coresUnits := by split <;> rfl

/-! ## Registers, jobs and the Whistle -/

@[simp] theorem State.setDcb_coresUnits (s : State) (o : Nat) (v : Dword) : (s.setDcb o v).coresUnits = s.coresUnits := by rfl

@[simp] theorem State.setDcbF_coresUnits (s : State) (o lo n v : Nat) : (s.setDcbF o lo n v).coresUnits = s.coresUnits :=
  State.setDcb_coresUnits ..

@[simp] theorem State.countDcb_coresUnits (s : State) (o n : Nat) : (s.countDcb o n).coresUnits = s.coresUnits :=
  State.setDcb_coresUnits ..

@[simp] theorem State.setDcbBits_coresUnits (s : State) (o : Nat) (m : Dword) : (s.setDcbBits o m).coresUnits = s.coresUnits := by
  rfl

@[simp] theorem State.stepFree_coresUnits (s : State) : s.stepFree.coresUnits = s.coresUnits := by rfl

@[simp] theorem State.dieEvent_coresUnits (s : State) (src : Nat) : (s.dieEvent src).coresUnits = s.coresUnits := by rfl

theorem State.modJob_coresUnits (s : State) (h : Handle) (f : Job → Job) : (s.modJob h f).coresUnits = s.coresUnits := by
  unfold State.modJob
  split <;> rfl

@[simp] theorem State.markEnd_coresUnits (s : State) (h : Handle) (st : JobSt) (record : Word) :
    (s.markEnd h st record).coresUnits = s.coresUnits := State.modJob_coresUnits ..

@[simp] theorem State.soundWhistle_coresUnits (s : State) (src : Nat) : (s.soundWhistle src).coresUnits = s.coresUnits := by
  simp only [State.soundWhistle, ite_coresUnits, State.setDcbF_coresUnits, State.setDcb_coresUnits]
  split
  · rfl
  · split
    · split <;> rfl
    · rfl

/-! ## Error records -/

@[simp] theorem State.setErrUnit_coresUnits (s : State) (u : Nat) (x : ErrUnit) : (s.setErrUnit u x).coresUnits = s.coresUnits := by
  rfl

@[simp] theorem State.enterError_coresUnits (s : State) (unit code : Nat) (i : ErrInfo) :
    (s.enterError unit code i).coresUnits = s.coresUnits := by
  unfold State.enterError
  extract_lets r u u₁ u₂ s₁ s₂ errs s₃
  have h₁ : s₁.coresUnits = s.coresUnits := by simp [s₁]
  have h₂ : s₂.coresUnits = s.coresUnits := by simp [s₂, h₁]
  have h₃ : s₃.coresUnits = s.coresUnits := h₂
  split
  · exact h₁
  · split
    · simp [h₁]
    · split
      · exact (State.soundWhistle_coresUnits s₃ 5).trans h₃
      · exact h₃

@[simp] theorem State.takeInject_coresUnits (s : State) (unit : Nat) : (s.takeInject unit).2.coresUnits = s.coresUnits := by
  unfold State.takeInject
  split <;> rfl

@[simp] theorem State.spoil_coresUnits (s : State) (g : Granule) (m : Byte) : (s.spoil g m).2.coresUnits = s.coresUnits := by
  refine List.foldlRecOn (motive := fun x : Granule × State => x.2.coresUnits = s.coresUnits) _ _ rfl fun x hx i _ => ?_
  split
  · exact (State.stepFree_coresUnits x.2).trans hx
  · exact hx

@[simp] theorem State.recordWords_coresUnits (s : State) (hbm : Bool) (p c e addr : Nat) (h : Handle) (ce ue : Byte) (capar : Bool) :
    (s.recordWords hbm p c e addr h ce ue capar).coresUnits = s.coresUnits := by
  simp [State.recordWords]

@[simp] theorem State.meetErrors_coresUnits (s : State) (write hbm : Bool) (p c e addr : Nat) (h : Handle) (x : XferErr)
    (data : Granule) : (s.meetErrors write hbm p c e addr h x data).2.2.coresUnits = s.coresUnits := by
  simp [State.meetErrors, State.meetWords]

/-! ## The trace -/

theorem State.traceCmd_coresUnits (s : State) (c e : Nat) (i : Issued) (endCycle : Nat) (cut : Bool) :
    (s.traceCmd c e i endCycle cut).coresUnits = s.coresUnits := by
  unfold State.traceCmd
  extract_lets
  split <;> rfl

end Sys2Proof.Machine
end

section
/-! FELT_RUN on the spins: a stage decides free cells alone (R93), and nothing else that the run does reaches a held cell's spin, a
hold mask or the snapshot (R43). -/

namespace Sys2Proof.Machine

/-! ## A command that leaves its engine -/

theorem State.engineCmd_op {s : State} {c op : Nat} {h : Handle} {j : Job} {i : Issued}
    (hcmd : s.engineCmd c op = some (h, j, i)) : i.op = op := by
  unfold State.engineCmd at hcmd
  split at hcmd
  · cases hcmd
  · split at hcmd
    · cases hcmd
    · split at hcmd
      · cases hcmd; assumption
      · cases hcmd

theorem State.finishCmd_cmd (s : State) (c : Nat) (j : Job) (i : Issued) :
    (((s.finishCmd c j i).core c).engine (cmdEngine i.op)).cmd = none := by
  rw [State.finishCmd, State.core_of_coresUnits (State.traceCmd_coresUnits ..), State.core_modCore_self]
  simp [CoreState.setEngine, CoreState.engine]

/-! ## What keeps the held cells -/

/-- The hold masks and the snapshot are the same, and so is the spin of every held cell. -/
structure CoreState.KeepsHeld (k k' : CoreState) : Prop where
  hold : k'.hold = k.hold
  snap : k'.snap = k.snap
  spin : ∀ p n, (k.holdMask p).getLsbD n = true → (k'.spin p).getLsbD n = (k.spin p).getLsbD n

/-- Every core keeps its held cells. -/
def State.KeepsHeld (s t : State) : Prop := ∀ m, (s.core m).KeepsHeld (t.core m)

theorem CoreState.KeepsHeld.of_planes {k k' : CoreState} (h : k'.planes = k.planes) : k.KeepsHeld k' := by
  obtain ⟨hspins, hsnap, hhold⟩ : k'.spins = k.spins ∧ k'.snap = k.snap ∧ k'.hold = k.hold := by simpa [CoreState.planes] using h
  exact ⟨hhold, hsnap, fun p n _ => by rw [CoreState.spin, hspins]; rfl⟩

theorem CoreState.KeepsHeld.holdMask {k k' : CoreState} (h : k.KeepsHeld k') (p : Nat) : k'.holdMask p = k.holdMask p := by
  rw [CoreState.holdMask, h.hold]; rfl

theorem CoreState.KeepsHeld.snapshot {k k' : CoreState} (h : k.KeepsHeld k') (p : Nat) : k'.snapshot p = k.snapshot p := by
  rw [CoreState.snapshot, h.snap]; rfl

theorem CoreState.KeepsHeld.trans {k k' k'' : CoreState} (h : k.KeepsHeld k') (h' : k'.KeepsHeld k'') : k.KeepsHeld k'' :=
  ⟨h'.hold.trans h.hold, h'.snap.trans h.snap, fun p n hp =>
    (h'.spin p n (by rwa [h.holdMask])).trans (h.spin p n hp)⟩

namespace State.KeepsHeld

theorem of_coresUnits {s t : State} (h : t.coresUnits = s.coresUnits) : s.KeepsHeld t := fun m =>
  .of_planes (by rw [State.core_of_coresUnits h])

theorem refl (s : State) : s.KeepsHeld s := of_coresUnits rfl

theorem trans {s t u : State} (h : s.KeepsHeld t) (h' : t.KeepsHeld u) : s.KeepsHeld u := fun m => (h m).trans (h' m)

theorem modCore {s : State} {c : Nat} {f : CoreState → CoreState} (h : (s.core c).KeepsHeld (f (s.core c))) :
    s.KeepsHeld (s.modCore c f) := by
  intro m
  rw [State.core_modCore]
  split
  case isTrue hm => exact hm ▸ h
  case isFalse => exact .of_planes rfl

theorem modCore_planes {s : State} {c : Nat} {f : CoreState → CoreState} (h : ∀ k, (f k).planes = k.planes) :
    s.KeepsHeld (s.modCore c f) := modCore (.of_planes (h _))

theorem foldl {α : Type} {f : State → α → State} (h : ∀ (s : State) (a : α), s.KeepsHeld (f s a)) (l : List α) (s : State) :
    s.KeepsHeld (l.foldl f s) :=
  List.foldlRecOn (motive := fun t : State => s.KeepsHeld t) l f (refl s) fun t ht a _ => ht.trans (h t a)

end State.KeepsHeld

/-! ## One stage -/

theorem getLsbD_putCell (x : BitVec 4096) (v : Bool) {n b : Nat} (h : n ≠ b) :
    (if v then x ||| BitVec.twoPow 4096 b else x &&& ~~~(BitVec.twoPow 4096 b)).getLsbD n = x.getLsbD n := by
  split
  · simp [BitVec.getLsbD_twoPow, h.symm]
  · simp only [BitVec.getLsbD_and, BitVec.getLsbD_not, BitVec.getLsbD_twoPow, h.symm, decide_false, Bool.and_false, Bool.not_false,
      Bool.and_true, Bool.and_eq_left_iff_imp, decide_eq_true_eq]
    exact BitVec.lt_of_getLsbD

/-- A held cell keeps its spin in a stage (R93): of the cells that the stage goes through, it decides only such as are not held. -/
theorem State.feltStage_held (s : State) (c p col : Nat) (relaxed : Bool) (stage : Nat) {n : Nat}
    (hn : ((s.core c).holdMask p).getLsbD n = true) :
    (s.feltStage c p col relaxed stage).getLsbD n = ((s.core c).spin p).getLsbD n := by
  unfold State.feltStage
  dsimp only
  split
  · rfl
  · refine List.foldlRecOn (motive := fun x : BitVec 4096 => x.getLsbD n = _) _ _ rfl fun x hx r _ =>
      List.foldlRecOn (motive := fun y : BitVec 4096 => y.getLsbD n = _) _ _ hx fun y hy cc _ => ?_
    split
    case isTrue hcell =>
      have hne : n ≠ cellBit r cc := by
        rintro rfl
        simp [hn] at hcell
      exact (getLsbD_putCell y _ hne).trans hy
    case isFalse => exact hy

/-- A plane that agrees with the one in force on the held cells takes its place. -/
theorem CoreState.KeepsHeld.putSpin {k k' : CoreState} (h : k.KeepsHeld k') {p : Nat} {x : BitVec 4096}
    (hx : ∀ n, (k.holdMask p).getLsbD n = true → x.getLsbD n = (k.spin p).getLsbD n) :
    k.KeepsHeld { k' with spins := tabSet 0 k'.spins p x } := by
  refine ⟨h.hold, h.snap, fun q n hq => ?_⟩
  rw [CoreState.spin, tabGet_tabSet]
  split
  case isTrue hqp => exact hqp ▸ hx n (hqp ▸ hq)
  case isFalse => exact h.spin q n hq

theorem State.stageAll_keepsHeld (s : State) (as : List FeltAct) (stage : Nat) : s.KeepsHeld (s.stageAll as stage) := by
  refine List.foldlRecOn (motive := fun t : State => s.KeepsHeld t) _ _ (.refl s) fun t ht x hx m => ?_
  obtain ⟨a, -, rfl⟩ := List.mem_map.mp hx
  rw [State.core_modCore]
  split
  case isTrue hm =>
    subst hm
    exact (ht _).putSpin fun n hn => s.feltStage_held _ _ _ _ _ hn
  case isFalse => exact ht m

/-! ## The run -/

theorem State.stepCounts_keepsHeld (s s0 s1 : State) (a : FeltAct) : s.KeepsHeld (s.stepCounts s0 s1 a) :=
  .modCore_planes fun k => by simp

theorem State.feltCycle_keepsHeld (s : State) (runs : List (Nat × Issued)) (cyc : Nat) : s.KeepsHeld (s.feltCycle runs cyc) := by
  unfold State.feltCycle
  extract_lets now s' acts s1 s2 s3
  have hpos : s.KeepsHeld s' := .foldl (fun t x => .modCore_planes fun k => by simp) _ _
  have hstages : s'.KeepsHeld s2 := (s'.stageAll_keepsHeld acts 0).trans (s1.stageAll_keepsHeld acts 1)
  have hcounts : s2.KeepsHeld s3 := .foldl (fun t a => t.stepCounts_keepsHeld s' s1 a) _ _
  exact ((hpos.trans hstages).trans hcounts).trans (.foldl (fun t x => .modCore_planes fun k => by simp [CoreState.advance]) _ _)

theorem State.feltUpTo_keepsHeld (s : State) (j : Job) (beat stop : Nat) : s.KeepsHeld (s.feltUpTo j beat stop) := by
  unfold State.feltUpTo
  extract_lets runs todo t
  have hsteps : s.KeepsHeld t := by
    refine .foldl (fun u cyc => ?_) _ _
    split
    · exact .refl u
    · exact u.feltCycle_keepsHeld _ _
  exact hsteps.trans (.foldl (fun u x => .modCore_planes fun k => by simp) _ _)

theorem State.finishCmd_keepsHeld (s : State) (c : Nat) (j : Job) (i : Issued) : s.KeepsHeld (s.finishCmd c j i) := by
  unfold State.finishCmd
  exact .trans (.modCore_planes fun _ => by rfl) (.of_coresUnits (State.traceCmd_coresUnits ..))

theorem execFeltRun_keepsHeld {core : CoreNum} {s t : State} (h : execFeltRun core s = .next t) : s.KeepsHeld t := by
  unfold execFeltRun at h
  dsimp only at h
  split at h
  · cases h
    exact .refl s
  · split at h
    · cases h
      refine .trans ?_ (.trans (State.feltUpTo_keepsHeld _ _ _ _) (State.finishCmd_keepsHeld _ _ _ _))
      split
      · exact .modCore_planes fun k => k.setBits_planes ..
      · exact .refl s
    · cases h
      exact .refl s

/-- Settles O20: at the end of its run the command leaves the engine through `finishCmd`; every step before keeps the held cells. -/
theorem feltRunKeepsHeldSpinsAndTheSnapshot : Obligations.FeltRunKeepsHeldSpinsAndTheSnapshot := by
  refine ⟨fun core s h j i hcmd => ?_, fun core s t h m p => ?_⟩
  · have hop := State.engineCmd_op hcmd
    refine ⟨fun hover => ?_, fun hbefore => ?_⟩
    · refine ⟨_, by simp only [exec, execFeltRun, hcmd, hover, if_true]; rfl, ?_⟩
      rw [← hop]
      exact State.finishCmd_cmd ..
    · simp [exec, execFeltRun, hcmd, hbefore]
  · have hk := execFeltRun_keepsHeld h m
    exact ⟨hk.holdMask p, hk.snapshot p, fun n _ hn => hk.spin p n hn⟩

end Sys2Proof.Machine
end

section
/-! What the commands of a core's engines leave alone: the other cores, the planes of their own core and the units beside the cores
(R43, R304). -/

namespace Sys2Proof.Machine

/-- From `s` to `t` core `c` alone has changed, and of it no plane; the units beside the cores are as before. -/
structure State.OwnCore (c : Nat) (s t : State) : Prop where
  others : ∀ m, m ≠ c → t.core m = s.core m
  planes : (t.core c).planes = (s.core c).planes
  units : t.units = s.units

namespace State.OwnCore

variable {c : Nat} {s t u : State}

theorem of_coresUnits (h : t.coresUnits = s.coresUnits) : OwnCore c s t :=
  ⟨fun m _ => State.core_of_coresUnits h m, by rw [State.core_of_coresUnits h], State.units_of_coresUnits h⟩

theorem refl (s : State) : OwnCore c s s := of_coresUnits rfl

theorem trans (h : OwnCore c s t) (h' : OwnCore c t u) : OwnCore c s u :=
  ⟨fun m hm => (h'.others m hm).trans (h.others m hm), h'.planes.trans h.planes, h'.units.trans h.units⟩

theorem modCore {f : CoreState → CoreState} (h : ∀ k, (f k).planes = k.planes) : OwnCore c s (s.modCore c f) :=
  ⟨fun m hm => by rw [State.core_modCore, if_neg hm], by rw [State.core_modCore_self, h], rfl⟩

theorem ite {p : Prop} [Decidable p] (h : OwnCore c s t) (h' : OwnCore c s u) : OwnCore c s (if p then t else u) := by
  split
  · exact h
  · exact h'

theorem foldl {α : Type} {f : State → α → State} (h : ∀ (s : State) (a : α), OwnCore c s (f s a)) (l : List α) (s : State) :
    OwnCore c s (l.foldl f s) :=
  List.foldlRecOn (motive := fun t : State => OwnCore c s t) l f (refl s) fun t ht a _ => ht.trans (h t a)

end State.OwnCore

/-! ## Faults and Felt writes -/

theorem State.enterJobFault_own (s : State) (c code detail addr engine : Nat) :
    OwnCore c s (s.enterJobFault c code detail addr engine) := by
  unfold State.enterJobFault
  exact .ite (.refl s) (.trans (.of_coresUnits (State.enterError_coresUnits ..)) (.modCore fun _ => by rfl))

theorem State.accessError_own (s : State) (c e a : Nat) : OwnCore c s (s.accessError c e a) := s.enterJobFault_own ..

theorem State.slotError_own (s : State) (c e a : Nat) : OwnCore c s (s.slotError c e a) :=
  .trans (.of_coresUnits (by simp)) (State.enterJobFault_own ..)

theorem State.feltWrite_own (s : State) (c : Nat) (ws : List FeltWrite) : OwnCore c s (s.feltWrite c ws) := by
  unfold State.feltWrite
  have hwaits : OwnCore c s (s.modCore c fun k => { k with feltWrites := k.feltWrites ++ ws }) := .modCore fun _ => by rfl
  exact .ite (hwaits.trans ((OwnCore.modCore fun k => k.setBits_planes ..).trans (State.enterJobFault_own ..))) hwaits

theorem State.finishCmd_own (s : State) (c : Nat) (j : Job) (i : Issued) : OwnCore c s (s.finishCmd c j i) := by
  unfold State.finishCmd
  exact .trans (.modCore fun _ => by rfl) (.of_coresUnits (State.traceCmd_coresUnits ..))

/-! ## Transfers on their way -/

theorem State.logTransfer_own (s : State) (x : Transfer) (data : Granule) : OwnCore x.core s (s.logTransfer x data) := by
  unfold State.logTransfer
  split
  · exact .ite (.modCore fun _ => by rfl) (.refl s)
  · exact .refl s

theorem State.tapSend_own (s : State) (x : Transfer) (f : Nat) (data : Granule) : OwnCore x.core s (s.tapSend x f data) :=
  .trans (.of_coresUnits (by rfl)) (State.logTransfer_own ..)

theorem State.readSource_own (s : State) (x : Transfer) (a : Nat) : OwnCore x.core s (s.readSource x a).2 := by
  unfold State.readSource
  split
  · split
    · exact .of_coresUnits (State.meetErrors_coresUnits ..)
    · exact State.accessError_own ..
  · exact State.accessError_own ..

theorem State.fillData_own (s : State) (x : Transfer) : OwnCore x.core s (s.fillData x).2 := by
  unfold State.fillData
  split
  case h_4 => exact State.readSource_own ..
  all_goals exact .refl s

theorem State.advance_own (r : List Transfer × State) (x : Transfer) : OwnCore x.core r.2 (State.advance r x).2 := by
  unfold State.advance
  split
  · split
    · have hfill := r.2.fillData_own x
      dsimp only
      split
      · exact hfill.trans (State.tapSend_own ..)
      · exact hfill
    · exact .refl r.2
  · split <;> exact .refl r.2

theorem State.launch_own (s : State) {c : Nat} {x : Transfer} (hx : x.core = c) : OwnCore c s (s.launch x) := by
  subst hx
  unfold State.launch
  split
  · exact (State.advance_own ([], s) x).trans (.of_coresUnits (by rfl))
  · exact .of_coresUnits (by rfl)

theorem State.launchWrite_own (s : State) (c : Nat) (h : Handle) (j : Job) (e : Nat) (slot : Nat × Word) (a n : Nat)
    (fill : WriteData) (target : WriteTarget) (data : Granule) :
    OwnCore c s (s.launchWrite c h j e slot a n fill target data) :=
  .ite (s.launch_own rfl) (.ite (s.accessError_own c e a) (s.launch_own rfl))

theorem State.launchRead_own (s : State) (c : Nat) (h : Handle) (j : Job) (e : Nat) (slot : Nat × Word) (a n : Nat)
    (dest : ReadDest) : OwnCore c s (s.launchRead c h j e slot a n dest) :=
  .ite (s.accessError_own c e a) (s.launch_own rfl)

theorem State.sendOperand_own (s : State) (c : Nat) (h : Handle) (j : Job) (r : AccRed) (slot : Nat × Word) (n : Nat) :
    OwnCore c s (s.sendOperand c h j r slot n) :=
  .ite (s.accessError_own ..) (s.launch_own rfl)

theorem State.moveOne_own (s : State) (c : Nat) (h : Handle) (j : Job) (m : Move) (slot : Option (Nat × Word)) (n : Nat) :
    OwnCore c s (s.moveOne c h j m slot n) := by
  unfold State.moveOne
  dsimp only
  split
  · exact State.slotError_own ..
  · exact .ite (State.launchWrite_own ..) (State.launchRead_own ..)

theorem State.writeAll_own (s : State) (c : Nat) (h : Handle) (j : Job) (e : Nat) (slots : List (Nat × Word)) (as : List Nat)
    (data : List Byte) : OwnCore c s (s.writeAll c h j e slots as data) := by
  refine .foldl (fun t x => ?_) _ _
  split
  · exact State.launchWrite_own ..
  · exact State.slotError_own ..

/-! ## The engines' work -/

theorem State.qRead_own (s : State) (c : Nat) (i : Issued) : OwnCore c s (s.qRead c i).2 :=
  .ite (.modCore fun k => k.setBits_planes ..) (.refl s)

theorem State.watchCmd_own (s : State) (c : Nat) (h : Handle) (acc : Option Nat) (i : Issued) (vs : List Watched) :
    OwnCore c s (s.watchCmd c h acc i vs) := by
  refine .foldl (fun t n => ?_) _ _
  dsimp only
  refine .ite ?_ (.refl t)
  have hwatch (w : Watch) (v : Nat) : OwnCore c t (t.modCore c fun k =>
      let k := { k with watches := tabSet Watch.reset k.watches n w }
      if v = 0 then k else (k.count Reg.accEclamp v).setBits Reg.accFlags 0x2) :=
    .modCore fun k => by
      dsimp only
      split
      · rfl
      · simp only [CoreState.setBits_planes, CoreState.count_planes]
        rfl
  exact .ite ((hwatch ..).trans (.of_coresUnits (State.dieEvent_coresUnits ..))) (hwatch ..)

theorem State.feMma_own (s : State) (c : Nat) (h : Handle) (j : Job) (i : Issued) : OwnCore c s (s.feMma c h j i) :=
  .ite (State.watchCmd_own ..) (.trans (.modCore fun k => k.mmaDone_planes ..) (State.watchCmd_own ..))

theorem State.feOut_own (s : State) (c : Nat) (h : Handle) (i : Issued) : OwnCore c s (s.feOut c h i) := by
  unfold State.feOut
  extract_lets o k₀ ex n rows rs sats t₁ t₂
  have hrows : OwnCore c s t₁ := .modCore fun k => by simp
  have hplane : OwnCore c t₁ t₂ := .ite (State.feltWrite_own ..) (.refl t₁)
  exact (hrows.trans hplane).trans (State.watchCmd_own ..)

theorem State.feBern_own (s : State) (c : Nat) (h : Handle) (i : Issued) : OwnCore c s (s.feBern c h i) := by
  unfold State.feBern
  extract_lets b n rows t₁ quad t₂
  have hrows : OwnCore c s t₁ := .modCore fun k => by simp
  have hplane : OwnCore c t₁ t₂ := .ite (State.feltWrite_own ..) (.refl t₁)
  exact (hrows.trans hplane).trans (State.watchCmd_own ..)

theorem State.napFill_own (s : State) (c : Nat) (i : Issued) : OwnCore c s (s.napFill c i) := by
  unfold State.napFill
  exact .modCore fun k => by simp

theorem State.openRow_own (s : State) (c : Nat) : OwnCore c s (s.openRow c) := by
  unfold State.openRow
  extract_lets v
  refine .trans (.trans (.modCore fun k => ?_) (.of_coresUnits (State.stepFree_coresUnits _)))
    (.of_coresUnits (State.stepFree_coresUnits _))
  exact (CoreState.setReg_planes ..).trans (k.setReg_planes ..)

theorem State.catLong_own (s : State) (c : Nat) (x : Cat) : OwnCore c s (s.catLong c x) := by
  unfold State.catLong
  exact .trans (.ite (s.openRow_own c) (.refl s)) (.modCore fun k => by simp)

theorem State.catDraw_own (s : State) (c : Nat) (i : Issued) : OwnCore c s (s.catDraw c i) :=
  .ite (.ite (State.catLong_own ..) (.refl s)) (.modCore fun k => k.catShort_planes ..)

/-! ## The commands -/

/-- If the command answers a state, its own core alone has changed. -/
def OwnOutcome (c : Nat) (s : State) (o : Host.Outcome State Fault Refusal) : Prop := ∀ t, o = .next t → State.OwnCore c s t

namespace OwnOutcome

variable {c : Nat} {s t : State} {o o' : Host.Outcome State Fault Refusal}

theorem next (h : State.OwnCore c s t) : OwnOutcome c s (.next t) := fun _ heq => by
  cases heq
  exact h

/-- A command that its engine does not hold, or whose time has not come. -/
theorem idle : OwnOutcome c s (.next s) := next (.refl s)

/-- A command that has done its work and leaves its engine. -/
theorem done {j : Job} {i : Issued} (h : State.OwnCore c s t) : OwnOutcome c s (.next (t.finishCmd c j i)) :=
  next (h.trans (State.finishCmd_own ..))

theorem ite {p : Prop} [Decidable p] (h : OwnOutcome c s o) (h' : OwnOutcome c s o') : OwnOutcome c s (if p then o else o') := by
  split
  · exact h
  · exact h'

end OwnOutcome

section Commands

variable (core : CoreNum) (s : State)

theorem execFeltQscan_own : OwnOutcome core.toNat s (execFeltQscan core s) := by
  unfold execFeltQscan
  dsimp only
  split
  · exact .idle
  · exact .done (.trans (State.qRead_own ..) (.modCore fun k => k.setReg_planes ..))

theorem execFeltQconv_own : OwnOutcome core.toNat s (execFeltQconv core s) := by
  unfold execFeltQconv
  dsimp only
  split
  · exact .idle
  · refine .done (.trans (.trans (.trans ?_ (State.qRead_own ..)) (.modCore fun k => by simp)) (State.feltWrite_own ..))
    exact .ite (.modCore fun k => (CoreState.rws_planes ..).trans (k.setReg_planes ..)) (.refl s)

theorem execFeltBetaSet_own : OwnOutcome core.toNat s (execFeltBetaSet core s) := by
  unfold execFeltBetaSet
  dsimp only
  split
  · exact .idle
  · exact .done (.modCore fun k => k.rws_planes _)

theorem execRotStore_own : OwnOutcome core.toNat s (execRotStore core s) := by
  unfold execRotStore
  dsimp only
  split
  · exact .idle
  · exact .done (State.writeAll_own ..)

theorem execRotLoad_own : OwnOutcome core.toNat s (execRotLoad core s) := by
  unfold execRotLoad
  dsimp only
  split
  · exact .idle
  · refine .ite (.done ?_) (.done ?_)
    · exact .trans (.modCore fun k => k.setBits_planes ..) (State.enterJobFault_own ..)
    · exact .trans (.modCore fun _ => by rfl) (State.feltWrite_own ..)

theorem execStagingMove_own : OwnOutcome core.toNat s (execStagingMove core s) := by
  have hmove (l : List Nat) : State.OwnCore core.toNat s (s.modCore core.toNat fun k =>
      (l.foldl CoreState.moveStaged k).setReg Reg.feltXlast s.beatCtr) :=
    .modCore fun k => (CoreState.setReg_planes ..).trans (foldl_planes _ CoreState.moveStaged_planes _ _)
  unfold execStagingMove
  dsimp only
  split
  · exact .idle
  · refine .ite .idle (.ite (.ite .idle (.next (hmove _))) (.ite (.ite (.next ?_) (.next ?_)) .idle))
    · exact .ite (.refl s) (hmove _)
    · exact .trans (.trans (.ite (.refl s) (hmove _)) (.modCore fun k => k.setBits_planes ..)) (State.enterJobFault_own ..)

theorem execFeMma_own : OwnOutcome core.toNat s (execFeMma core s) := by
  unfold execFeMma
  dsimp only
  split
  · exact .idle
  · exact .done (State.feMma_own ..)

theorem execFeOut_own : OwnOutcome core.toNat s (execFeOut core s) := by
  unfold execFeOut
  dsimp only
  split
  · exact .idle
  · exact .done (State.feOut_own ..)

theorem execFeBern_own : OwnOutcome core.toNat s (execFeBern core s) := by
  unfold execFeBern
  dsimp only
  split
  · exact .idle
  · exact .done (State.feBern_own ..)

theorem execNapFill_own : OwnOutcome core.toNat s (execNapFill core s) := by
  unfold execNapFill
  dsimp only
  split
  · exact .idle
  · exact .done (State.napFill_own ..)

theorem execCatDraw_own : OwnOutcome core.toNat s (execCatDraw core s) := by
  unfold execCatDraw
  dsimp only
  split
  · exact .idle
  · exact .done (State.catDraw_own ..)

theorem execAccStore_own : OwnOutcome core.toNat s (execAccStore core s) := by
  unfold execAccStore
  dsimp only
  split
  · exact .idle
  · refine .done (.foldl (fun t x => ?_) _ _)
    split
    · exact State.launchWrite_own ..
    · exact State.slotError_own ..

theorem execAccLoad_own : OwnOutcome core.toNat s (execAccLoad core s) := by
  unfold execAccLoad
  dsimp only
  split
  · exact .idle
  · exact .done (.modCore fun k => k.accLoaded_planes ..)

theorem execAccRed_own : OwnOutcome core.toNat s (execAccRed core s) := by
  unfold execAccRed
  dsimp only
  split
  · exact .idle
  · exact .done (.foldl (fun t x => t.sendOperand_own ..) _ _)

theorem execLsMove_own : OwnOutcome core.toNat s (execLsMove core s) := by
  unfold execLsMove
  dsimp only
  split
  · exact .idle
  · exact .done (.foldl (fun t n => t.moveOne_own ..) _ _)

end Commands

/-- Every command of an engine but FELT_RUN and EXCH_SEND keeps to its own core. -/
theorem exec_own {c : Instr} {n : CoreNum} (hc : engineCore c = some n) (s : State) : OwnOutcome n.toNat s (exec c s) := by
  unfold engineCore at hc
  split at hc <;> cases hc
  exacts [execFeltQscan_own n s, execFeltQconv_own n s, execRotStore_own n s, execRotLoad_own n s,
    execFeltBetaSet_own n s, execStagingMove_own n s, execFeMma_own n s, execFeOut_own n s,
    execFeBern_own n s, execNapFill_own n s, execCatDraw_own n s, execAccStore_own n s, execAccLoad_own n s,
    execAccRed_own n s, execLsMove_own n s]

/-- Settles O11: every such command is made of operations on its own core, of which none reaches a plane, and of error records. -/
theorem engineCommandsTouchOneCore : Obligations.EngineCommandsTouchOneCore := by
  intro c n s t hc h
  obtain ⟨hothers, hplanes, hunits⟩ := exec_own hc s t h
  obtain ⟨hmbs, hent, hsec, hcp, hmacs, hflash, hsram, hpower⟩ : t.mbs = s.mbs ∧ t.ent = s.ent ∧ t.sec = s.sec ∧ t.cp = s.cp ∧
      t.macs = s.macs ∧ t.flash = s.flash ∧ t.sram = s.sram ∧ t.power = s.power := by simpa [State.units] using hunits
  exact ⟨hothers, CoreState.snap_of_planes hplanes, hmbs, hent, hsec, hcp, hmacs, hflash, hsram, hpower⟩

end Sys2Proof.Machine
end

section
/-! What a command leaves of the queue, the clock and memory: the relation between the state before and the state after, and how it
goes through the model's operations. -/

namespace Sys2Proof.Machine

/-- From `s` to `t` the queue, the clock and memory stand. -/
structure State.Still (s t : State) : Prop where
  clock : t.queueClock = s.queueClock
  mem : t.mem = s.mem

namespace State.Still

variable {s t u : State}

theorem refl (s : State) : Still s s := ⟨rfl, rfl⟩

theorem trans (h : Still s t) (h' : Still t u) : Still s u := ⟨h'.clock.trans h.clock, h'.mem.trans h.mem⟩

/-- What stands from `t` on stands from `s` on, where `t` differs from `s` elsewhere. -/
theorem after (h : Still t u) (hclock : t.queueClock = s.queueClock) (hmem : t.mem = s.mem) : Still s u := trans ⟨hclock, hmem⟩ h

theorem ite {p : Prop} [Decidable p] (h : Still s t) (h' : Still s u) : Still s (if p then t else u) := by
  split
  · exact h
  · exact h'

theorem foldl {α : Type} {f : State → α → State} (h : ∀ (t : State) (a : α), Still t (f t a)) (l : List α) (s : State) :
    Still s (l.foldl f s) :=
  List.foldlRecOn (motive := fun t : State => Still s t) l f (refl s) fun t ht a _ => ht.trans (h t a)

theorem modCore (s : State) (c : Nat) (f : CoreState → CoreState) : Still s (s.modCore c f) := ⟨by simp, by simp⟩

theorem setDcbF (s : State) (o lo n v : Nat) : Still s (s.setDcbF o lo n v) := ⟨by simp, by simp⟩

theorem setDcb (s : State) (o : Nat) (v : Dword) : Still s (s.setDcb o v) := ⟨by simp, by simp⟩

theorem dieEvent (s : State) (n : Nat) : Still s (s.dieEvent n) := ⟨by simp, by simp⟩

theorem answer (s : State) (m : Nat) (x : TakenCmd) (status : Nat) (words : List Word) : Still s (s.answer m x status words) :=
  ⟨by simp, by simp⟩

theorem complete (s : State) (m status : Nat) (words : List Word) (record : Word) :
    Still s (s.complete m status words record) := ⟨by simp, by simp⟩

/-- Without a command of this opcode nothing happens. -/
theorem onTaken {m opcode : Nat} {f : TakenCmd → State} (h : ∀ x, Still s (f x)) : Still s (s.onTaken m opcode f) := by
  unfold State.onTaken
  split
  · exact refl s
  · exact ite (h _) (refl s)

theorem outOfReset {f : State → State} (h : Still s (f s)) : Still s (s.outOfReset f) := ite (refl s) h

/-- A row of the management bus clears the mark of an invalid command first. -/
theorem pmbus {f : State → State} (h : ∀ t, Still t (f t)) : Still s (s.pmbus f) :=
  ite (trans ⟨by simp, by simp⟩ (h _)) (refl s)

theorem reply (s : State) (f : State → List Byte) : Still s (s.reply f) := pmbus fun _ => ⟨by simp, by simp⟩

end State.Still

/-- If the command answers a state, that state has the property. -/
def Answers (R : State → Prop) (o : Host.Outcome State Fault Refusal) : Prop := ∀ t, o = .next t → R t

/-- If the command answers a state, the queue, the clock and memory stand in it. -/
abbrev Quiet (s : State) (o : Host.Outcome State Fault Refusal) : Prop := Answers s.Still o

namespace Answers

variable {R Q : State → Prop} {s t : State} {o o' : Host.Outcome State Fault Refusal}

theorem next (h : R t) : Answers R (.next t) := fun _ heq => by
  cases heq
  exact h

/-- A command that has nothing to act on. -/
theorem idle : Quiet s (.next s) := next (.refl s)

theorem ite {p : Prop} [Decidable p] (h : Answers R o) (h' : Answers R o') : Answers R (if p then o else o') := by
  split
  · exact h
  · exact h'

theorem whenFormed {c : Instr} (h : Answers R o) : Answers R (whenFormed c o) := ite h fun _ heq => nomatch heq

theorem mono (hRQ : ∀ t, R t → Q t) (h : Answers R o) : Answers Q o := fun t heq => hRQ t (h t heq)

end Answers

end Sys2Proof.Machine
end

section
/-! The commands of threads and engines, of transfers and of the state's events leave the queue, the clock and memory as they are. -/

namespace Sys2Proof.Machine

/-! ## Threads -/

section Threads

variable (core : CoreNum) (thread : ThreadNum) (s : State)

theorem execDeadlockDetect_quiet : Quiet s (execDeadlockDetect core s) := by
  unfold execDeadlockDetect
  dsimp only
  split
  · exact .idle
  · exact .ite (.next ⟨by simp, by simp⟩) .idle

theorem execIssue_quiet : Quiet s (execIssue core thread s) := by
  unfold execIssue
  dsimp only
  split
  · exact .idle
  · exact .ite (.ite (.next ⟨by simp, by simp⟩) (.ite .idle (.next ⟨by simp, by simp⟩))) .idle

theorem execWait_quiet : Quiet s (execWait core thread s) := by
  unfold execWait
  dsimp only
  split
  · exact .idle
  · exact .ite (.next ⟨by simp, by simp⟩) (.next ⟨by simp, by simp⟩)

theorem execWaitRelease_quiet : Quiet s (execWaitRelease core thread s) := by
  unfold execWaitRelease
  dsimp only
  split
  · exact .idle
  · exact .ite (.next ⟨by simp, by simp⟩) .idle

theorem execSig_quiet : Quiet s (execSig core thread s) := by
  unfold execSig
  dsimp only
  split
  · exact .idle
  · exact .next ⟨by simp, by simp⟩

theorem execScoreboardIncrement_quiet : Quiet s (execScoreboardIncrement core s) := by
  unfold execScoreboardIncrement
  split
  · exact .idle
  · exact .next ⟨by simp, by simp⟩

theorem execArrive_quiet : Quiet s (execArrive core thread s) := by
  unfold execArrive
  dsimp only
  split
  · exact .idle
  · exact .ite (.next ⟨by simp, by simp⟩) (.next ⟨by simp, by simp⟩)

theorem execRwait_quiet : Quiet s (execRwait core thread s) := by
  unfold execRwait
  dsimp only
  split
  · exact .idle
  · exact .next ⟨by simp, by simp⟩

theorem execRwaitRelease_quiet : Quiet s (execRwaitRelease core thread s) := by
  unfold execRwaitRelease
  dsimp only
  split
  · exact .idle
  · exact .ite (.next ⟨by simp, by simp⟩) .idle

theorem execRally_quiet : Quiet s (execRally core thread s) := by
  unfold execRally
  dsimp only
  split
  · exact .idle
  · exact .ite (.next ⟨by simp, by simp⟩) (.next ⟨by simp, by simp⟩)

theorem execMark_quiet : Quiet s (execMark core thread s) := by
  unfold execMark
  dsimp only
  split
  · exact .idle
  · exact .ite (.next ⟨by simp, by simp⟩) (.next ⟨by simp, by simp⟩)

end Threads

/-! ## Engines -/

section Engines

variable (core : CoreNum) (handle : Handle) (s : State)

/-- A command that has done its work and leaves its engine. -/
theorem Answers.done {s t : State} {c : Nat} {j : Job} {i : Issued} (h : s.Still t) : Quiet s (.next (t.finishCmd c j i)) :=
  .next (h.trans ⟨by simp, by simp⟩)

theorem execFeltRun_quiet : Quiet s (execFeltRun core s) := by
  unfold execFeltRun
  dsimp only
  split
  · exact .idle
  · exact .ite (.done ⟨by simp, by simp⟩) .idle

theorem execFeltQscan_quiet : Quiet s (execFeltQscan core s) := by
  unfold execFeltQscan
  dsimp only
  split
  · exact .idle
  · exact .done ⟨by simp, by simp⟩

theorem State.qRead_still (s : State) (c : Nat) (i : Issued) : s.Still (s.qRead c i).2 := ⟨by simp, by simp⟩

theorem State.feltWrite_still (s : State) (c : Nat) (ws : List FeltWrite) : s.Still (s.feltWrite c ws) := ⟨by simp, by simp⟩

theorem execFeltQconv_quiet : Quiet s (execFeltQconv core s) := by
  unfold execFeltQconv
  dsimp only
  split
  · exact .idle
  · refine .done (.trans (.trans (.trans ?_ (State.qRead_still ..)) (.modCore ..)) (State.feltWrite_still ..))
    exact .ite (.modCore ..) (.refl s)

theorem execFeltBetaSet_quiet : Quiet s (execFeltBetaSet core s) := by
  unfold execFeltBetaSet
  dsimp only
  split
  · exact .idle
  · exact .done (.modCore ..)

theorem execRotStore_quiet : Quiet s (execRotStore core s) := by
  unfold execRotStore
  dsimp only
  split
  · exact .idle
  · exact .done ⟨by simp, by simp⟩

theorem execRotLoad_quiet : Quiet s (execRotLoad core s) := by
  unfold execRotLoad
  dsimp only
  split
  · exact .idle
  · exact .ite (.done ⟨by simp, by simp⟩) (.done (.trans (.modCore ..) (State.feltWrite_still ..)))

theorem execExchSend_quiet : Quiet s (execExchSend core s) := by
  unfold execExchSend
  dsimp only
  split
  · exact .idle
  · split
    · split
      · exact .done ⟨by simp, by simp⟩
      · exact .ite (.done ⟨by simp, by simp⟩) (.ite (.done ⟨by simp, by simp⟩) (.done ⟨by simp, by simp⟩))
    · exact .done ⟨by simp, by simp⟩

theorem execExchangeBeat_quiet : Quiet s (execExchangeBeat handle s) := by
  unfold execExchangeBeat
  split
  · exact .idle
  · exact .ite (.next (.foldl (fun t e => .modCore ..) _ _)) .idle

theorem execReplicaExchangeDecide_quiet : Quiet s (execReplicaExchangeDecide handle s) := by
  unfold execReplicaExchangeDecide
  split
  · exact .idle
  · split
    · exact .idle
    · dsimp only
      split
      · exact .idle
      · exact .ite (.next (.trans (.foldl (fun t e => .modCore ..) _ _) ⟨rfl, rfl⟩)) .idle

theorem execStagingMove_quiet : Quiet s (execStagingMove core s) := by
  unfold execStagingMove
  dsimp only
  split
  · exact .idle
  · exact .ite .idle (.ite (.ite .idle (.next (.modCore ..))) (.ite (.ite (.next (.ite (.refl s) (.modCore ..)))
      (.next ⟨by simp, by simp⟩)) .idle))

theorem execFeMma_quiet : Quiet s (execFeMma core s) := by
  unfold execFeMma
  dsimp only
  split
  · exact .idle
  · exact .done ⟨by simp, by simp⟩

theorem execFeOut_quiet : Quiet s (execFeOut core s) := by
  unfold execFeOut
  dsimp only
  split
  · exact .idle
  · exact .done ⟨by simp, by simp⟩

theorem execFeBern_quiet : Quiet s (execFeBern core s) := by
  unfold execFeBern
  dsimp only
  split
  · exact .idle
  · exact .done ⟨by simp, by simp⟩

theorem execNapFill_quiet : Quiet s (execNapFill core s) := by
  unfold execNapFill
  dsimp only
  split
  · exact .idle
  · exact .done ⟨by simp, by simp⟩

theorem execCatDraw_quiet : Quiet s (execCatDraw core s) := by
  unfold execCatDraw
  dsimp only
  split
  · exact .idle
  · exact .done ⟨by simp, by simp⟩

theorem execAccStore_quiet : Quiet s (execAccStore core s) := by
  unfold execAccStore
  dsimp only
  split
  · exact .idle
  · refine .done (.foldl (fun t x => ?_) _ _)
    split <;> exact ⟨by simp, by simp⟩

theorem execAccLoad_quiet : Quiet s (execAccLoad core s) := by
  unfold execAccLoad
  dsimp only
  split
  · exact .idle
  · exact .done (.modCore ..)

theorem execAccRed_quiet : Quiet s (execAccRed core s) := by
  unfold execAccRed
  dsimp only
  split
  · exact .idle
  · exact .done (.foldl (fun t x => ⟨by simp, by simp⟩) _ _)

theorem execLsMove_quiet : Quiet s (execLsMove core s) := by
  unfold execLsMove
  dsimp only
  split
  · exact .idle
  · exact .done (.foldl (fun t n => ⟨by simp, by simp⟩) _ _)

theorem execReadDataDeliver_quiet (err : XferErr) : Quiet s (execReadDataDeliver core err s) := by
  unfold execReadDataDeliver
  refine .whenFormed (.ite ?_ .idle)
  split
  · exact .idle
  · exact .ite (.next ⟨by simp, by simp⟩) (.next ⟨by simp, by simp⟩)

end Engines

/-! ## Jobs and what ends them -/

section Jobs

variable (handle : Handle) (token : Dword) (s : State)

theorem execJobContainedEnd_quiet : Quiet s (execJobContainedEnd handle s) := by
  unfold execJobContainedEnd
  split
  · split
    · exact .ite (.next ⟨by simp, by simp⟩) .idle
    · exact .idle
  · exact .idle

theorem execFatalEnd_quiet : Quiet s (execFatalEnd s) := by
  unfold execFatalEnd
  split
  · exact .ite (.next (.after (.foldl (fun t h => ⟨by simp, by simp⟩) _ _) rfl rfl)) .idle
  · exact .idle

theorem execFenceApply_quiet (core : CoreNum) : Quiet s (execFenceApply core s) := by
  unfold execFenceApply
  dsimp only
  split
  · exact .ite (.next ⟨by simp, by simp⟩) .idle
  · exact .idle

theorem execClusterFence_quiet (cluster : BitVec 6) : Quiet s (execClusterFence cluster s) := by
  unfold execClusterFence
  dsimp only
  split
  · exact .ite (.next ⟨by simp, by simp⟩) .idle
  · exact .idle

theorem execCtxSuspend_quiet : Quiet s (execCtxSuspend handle s) := by
  have hrefuse (r : SaveReq) (f : Job → Job) : s.Still ((s.complete r.mb Status.refused [] 0).modJob handle f) :=
    ⟨by simp, by simp⟩
  have hsuspend (t : State) (j k : Job) : t.Still (((t.setJob handle k).dieEvent (65 + j.mailbox)).traceJob handle k s.beat) :=
    ⟨by simp, by simp⟩
  unfold execCtxSuspend
  split
  · exact .idle
  · split
    · exact .idle
    · refine .ite .idle (.ite (.next (hrefuse ..)) (.ite .idle (.ite (.next (hrefuse ..)) (.next ?_))))
      exact .trans (.foldl (fun t x => ⟨by simp, by simp⟩) _ _) (hsuspend ..)

theorem execAdmission_quiet : Quiet s (execAdmission handle s) := by
  have hwithdraw (st : Nat) : Quiet s (.next (s.withdraw handle st)) := .next ⟨by simp, by simp⟩
  unfold execAdmission
  split
  · exact .idle
  · refine .ite .idle (.ite (hwithdraw _) (.ite .idle ?_))
    split
    · exact hwithdraw _
    · exact .ite (.ite (hwithdraw _) .idle) (.next ⟨by simp, by simp⟩)

theorem execLaunchDeadlineWithdraw_quiet : Quiet s (execLaunchDeadlineWithdraw handle s) := by
  unfold execLaunchDeadlineWithdraw
  split
  · exact .idle
  · exact .ite (.next ⟨by simp, by simp⟩) .idle

theorem execGoTimeoutWithdraw_quiet : Quiet s (execGoTimeoutWithdraw handle s) := by
  unfold execGoTimeoutWithdraw
  split
  · exact .idle
  · exact .ite (.next ⟨by simp, by simp⟩) .idle

theorem execGoSend_quiet : Quiet s (execGoSend token s) := by
  unfold execGoSend
  split
  · exact .idle
  · exact .ite (.next ⟨by simp, by simp⟩) .idle

theorem execBaseSend_quiet : Quiet s (execBaseSend token s) := by
  unfold execBaseSend
  split
  · exact .idle
  · exact .ite (.next (.after (.foldl (fun t n => .ite ⟨by simp, by simp⟩ ⟨by simp, by simp⟩) _ _) rfl rfl)) .idle

theorem execJobStart_quiet : Quiet s (execJobStart handle s) := by
  have hstart (t : State) (j : Job) : t.Still ((t.setJob handle j).traceJob handle j s.beat) := ⟨by simp, by simp⟩
  unfold execJobStart
  split
  · exact .idle
  · refine .ite .idle ?_
    extract_lets j' iter t own digests u
    have hcores : s.Still t := by
      refine .foldl (fun t x => ?_) _ _
      split
      · exact .refl t
      · exact .modCore ..
    have hdigests : t.Still digests := ⟨rfl, rfl⟩
    have hlockstep : t.Still u := by
      dsimp only [u]
      split
      · split
        · exact hdigests.trans (.trans (.setDcbF ..) (.trans (.setDcbF ..) (.setDcbF ..)))
        · exact hdigests.trans (.trans (.setDcbF ..) (.setDcbF ..))
      · exact .refl t
    exact .next (.trans (hcores.trans hlockstep) (hstart ..))

theorem execJobDone_quiet : Quiet s (execJobDone handle s) := by
  unfold execJobDone
  split
  · exact .idle
  · refine .ite ?_ .idle
    extract_lets t
    have hsave : s.Still t := by
      dsimp only [t]
      split
      · exact .complete ..
      · exact .refl s
    exact .next (hsave.trans ⟨by simp, by simp⟩)

theorem execOverlayApply_quiet : Quiet s (execOverlayApply s) := by
  unfold execOverlayApply
  split
  · exact .ite (.next ⟨by simp, by simp⟩) .idle
  · exact .idle

end Jobs

end Sys2Proof.Machine
end

section
/-! The commands of the mailboxes, the entropy source, the links, the steward die, the root of trust and the power unit that leave the
queue, the clock and memory as they are. -/

namespace Sys2Proof.Machine

/-! ## Mailboxes -/

section Mailboxes

variable (mb : MailboxNum) (s : State)

theorem execDoorbell_quiet : Quiet s (execDoorbell mb s) := .next (.outOfReset ⟨by simp, by simp⟩)

theorem execAck_quiet : Quiet s (execAck mb s) := .next (.outOfReset ⟨by simp, by simp⟩)

theorem execMbCommandTake_quiet : Quiet s (execMbCommandTake s) := by
  unfold execMbCommandTake
  refine .ite .idle ?_
  split
  · exact .idle
  · exact .next ⟨by simp, by simp⟩

theorem execMbResponseWrite_quiet : Quiet s (execMbResponseWrite mb s) := by
  unfold execMbResponseWrite
  dsimp only
  split
  · split <;> exact .next ⟨by simp, by simp⟩
  · exact .idle

theorem execJobAdmit_quiet : Quiet s (execJobAdmit mb s) := .next (.onTaken fun _ => ⟨by simp, by simp⟩)

theorem execCtxRestore_quiet : Quiet s (execCtxRestore mb s) := .next (.onTaken fun _ => ⟨by simp, by simp⟩)

theorem execJobCancel_quiet : Quiet s (execJobCancel mb s) := by
  refine .next (.onTaken fun x => .ite (.answer ..) ?_)
  split
  · exact .answer ..
  · exact .ite (.answer ..) (.ite ⟨by simp, by simp⟩ ⟨by simp, by simp⟩)

theorem execJobStatus_quiet : Quiet s (execJobStatus mb s) := by
  refine .next (.onTaken fun x => .ite (.answer ..) ?_)
  split
  · exact .answer ..
  · exact .answer ..

theorem execSchedInfo_quiet : Quiet s (execSchedInfo mb s) := .next (.onTaken fun _ => .ite (.answer ..) (.answer ..))

theorem execCtxSave_quiet : Quiet s (execCtxSave mb s) := by
  refine .next (.onTaken fun x => ?_)
  dsimp only
  split
  · exact .answer ..
  · exact .ite (.answer ..) (.ite (.answer ..) (.ite (.answer ..) ⟨by simp, by simp⟩))

theorem execCfgOverlay_quiet : Quiet s (execCfgOverlay mb s) := .next (.onTaken fun _ => ⟨by simp, by simp⟩)

theorem execCoreFence_quiet : Quiet s (execCoreFence mb s) := by
  have hcores (un : Prop) [Decidable un] (l : List Nat) :
      s.Still (if un then l.foldl State.unfence s else l.foldl State.fenceNext s) :=
    .ite (.foldl (fun t c => ⟨by simp, by simp⟩) _ _) (.foldl (fun t c => ⟨by simp, by simp⟩) _ _)
  exact .next (.onTaken fun x => .ite (.answer ..) (.ite (.answer ..) (.ite (.answer ..) ((hcores ..).trans (.answer ..)))))

theorem execDistRead_quiet : Quiet s (execDistRead mb s) := .next (.onTaken fun _ => ⟨by simp, by simp⟩)

theorem execErrAck_quiet : Quiet s (execErrAck mb s) := .next (.onTaken fun _ => ⟨by simp, by simp⟩)

theorem execErrInject_quiet : Quiet s (execErrInject mb s) := .next (.onTaken fun _ => ⟨by simp, by simp⟩)

theorem execStwReset_quiet : Quiet s (execStwReset mb s) := .next (.onTaken fun _ => ⟨by simp, by simp⟩)

/-! ## Debug -/

theorem execDbgWhistle_quiet : Quiet s (execDbgWhistle mb s) := .next (.onTaken fun _ => ⟨by simp, by simp⟩)

theorem execDbgRelease_quiet : Quiet s (execDbgRelease mb s) := .next (.onTaken fun _ => ⟨by simp, by simp⟩)

theorem execDbgSnapshot_quiet : Quiet s (execDbgSnapshot mb s) := by
  refine .next (.onTaken fun x => ?_)
  split
  · exact .answer ..
  · exact .ite (.answer ..) (.ite (.answer ..) (.ite (.answer ..) (.ite (.answer ..) ⟨by simp, by simp⟩)))

theorem execDbgWatch_quiet : Quiet s (execDbgWatch mb s) := by
  refine .next (.onTaken fun x => ?_)
  split
  · exact .answer ..
  · refine .ite (.answer ..) (.ite (.answer ..) (.ite (.answer ..) ?_))
    split
    · exact .answer ..
    · exact .trans (.modCore ..) (.answer ..)

theorem execDbgWatchread_quiet : Quiet s (execDbgWatchread mb s) := by
  refine .next (.onTaken fun x => ?_)
  split
  · exact .answer ..
  · refine .ite (.answer ..) (.ite (.answer ..) ?_)
    split
    · exact .answer ..
    · exact .ite (.answer ..) (.trans (.ite (.modCore ..) (.refl s)) (.answer ..))

theorem execScanoutDone_quiet : Quiet s (execScanoutDone s) := .next (.ite (.setDcbF ..) (.refl s))

theorem execHangSnapshot_quiet (core : CoreNum) : Quiet s (execHangSnapshot core s) := by
  unfold execHangSnapshot
  refine .ite .idle ?_
  extract_lets held t u rest u'
  have htaken : s.Still t := .ite (.refl s) (.ite ⟨by simp, by simp⟩ ⟨by simp, by simp⟩)
  have hgiven : s.Still u := htaken.trans (.modCore ..)
  exact .next (hgiven.trans (.after (.foldl (fun t x => .complete ..) _ _) rfl rfl))

/-! ## The root of trust -/

theorem execSecSpdm_quiet : Quiet s (execSecSpdm mb s) := by
  refine .next (.onTaken fun x => ?_)
  split
  · exact .answer ..
  · refine .ite (.answer ..) ?_
    dsimp only
    exact .ite (.answer ..) (.ite ⟨by simp, by simp⟩ (.ite ⟨by simp, by simp⟩ (.ite ⟨by simp, by simp⟩ (.ite ⟨by simp, by simp⟩
      (.ite ⟨by simp, by simp⟩ ⟨by simp, by simp⟩)))))

theorem execSecReport_quiet : Quiet s (execSecReport mb s) := .next (.onTaken fun _ => ⟨by simp, by simp⟩)

theorem execSecCtrread_quiet : Quiet s (execSecCtrread mb s) :=
  .next (.onTaken fun _ => .ite (.answer ..) (.ite (.answer ..) (.answer ..)))

theorem execSecLifecycle_quiet : Quiet s (execSecLifecycle mb s) := .next (.onTaken fun _ => ⟨by simp, by simp⟩)

theorem execSecKeyset_quiet : Quiet s (execSecKeyset mb s) := by
  refine .next (.onTaken fun x => ?_)
  split
  · exact .answer ..
  · exact .ite (.answer ..) ⟨by simp, by simp⟩

theorem execSecKeydel_quiet : Quiet s (execSecKeydel mb s) := by
  refine .next (.onTaken fun x => ?_)
  split
  · exact .answer ..
  · exact .ite (.answer ..) ⟨by simp, by simp⟩

theorem execSecImport_quiet : Quiet s (execSecImport mb s) := by
  refine .next (.onTaken fun x => ?_)
  split
  · exact .answer ..
  · exact .ite (.answer ..) (.ite (.answer ..) (.ite ⟨by simp, by simp⟩ (.ite (.answer ..) ⟨by simp, by simp⟩)))

theorem execSecExport_quiet : Quiet s (execSecExport mb s) := by
  refine .next (.onTaken fun x => ?_)
  split
  · exact .answer ..
  · exact .ite (.answer ..) (.ite (.answer ..) (.ite (.answer ..) ⟨by simp, by simp⟩))

theorem execScrubStart_quiet (part : BitVec 3) : Quiet s (execScrubStart part s) := by
  unfold execScrubStart
  refine .ite ?_ .idle
  extract_lets t
  have hcores : s.Still t := by
    refine .foldl (fun t e => ?_) _ _
    split
    · exact .modCore ..
    · exact .refl t
  exact .next (hcores.trans ⟨rfl, rfl⟩)

end Mailboxes

/-! ## The entropy source -/

section Entropy

variable (s : State)

theorem execEntRead_quiet (mb : MailboxNum) : Quiet s (execEntRead mb s) := .next (.onTaken fun _ => ⟨by simp, by simp⟩)

theorem execEntReadComplete_quiet (mb : MailboxNum) : Quiet s (execEntReadComplete mb s) := by
  have hdone (t : State) (reads : List EntWait) (words : List Word) :
      t.Still (State.complete { t with ent := { t.ent with reads := reads } } mb.toNat Status.ok words 0) :=
    .after (.complete ..) rfl rfl
  unfold execEntReadComplete
  dsimp only
  split
  · exact .idle
  · refine .ite (.ite ?_ .idle) (.ite (.next (hdone ..)) .idle)
    split
    case h_1 r hr =>
      exact .next (.trans ⟨State.drbgRequest_queueClock _ _ _ _ hr, State.drbgRequest_mem _ _ _ _ hr⟩ (hdone ..))
    case h_2 => exact .idle

theorem execEntRestart_quiet (mb : MailboxNum) : Quiet s (execEntRestart mb s) :=
  .next (.onTaken fun _ => ⟨by simp, by simp⟩)

theorem execNapEval_quiet (mb : MailboxNum) : Quiet s (execNapEval mb s) := .next (.onTaken fun _ => .ite (.answer ..) (.answer ..))

theorem execEntSample_quiet (sample : Dword) : Quiet s (execEntSample sample s) := by
  unfold execEntSample
  refine .ite .idle ?_
  extract_lets s₁ s₂ x n r s₃ fails s₄ m s₅
  have h₂ : s.Still s₂ := .trans (t := s₁) ⟨by simp [s₁], by simp [s₁]⟩ (.ite ⟨by simp, by simp⟩ (.refl s₁))
  have h₃ : s₂.Still s₃ := .after ⟨State.countDcb_queueClock .., State.countDcb_mem ..⟩ rfl rfl
  have h₄ : s₃.Still s₄ := by
    dsimp only [s₄]
    split
    · exact ⟨by simp, by simp⟩
    · exact .refl s₃
  have h₅ : s₄.Still s₅ := .ite (.refl s₄) ⟨by simp, by simp⟩
  exact .next (((h₂.trans h₃).trans (h₄.trans h₅)).trans (.ite ⟨rfl, rfl⟩ (.refl s₅)))

theorem execStartupTestEnd_quiet (katOk : Bool) : Quiet s (execStartupTestEnd katOk s) := by
  unfold execStartupTestEnd
  exact .ite (.ite (.next ⟨by simp, by simp⟩) (.next (.after (.ite (.refl _) (.trans (.setDcbF ..) (.setDcbF ..))) rfl rfl))) .idle

theorem execDrbgInstantiate_quiet : Quiet s (execDrbgInstantiate s) := by
  unfold execDrbgInstantiate
  refine .ite ?_ .idle
  split
  · dsimp only
    exact .next ⟨by simp, by simp⟩
  · exact .idle

theorem execEstWindow_quiet : Quiet s (execEstWindow s) := .next (.ite ⟨by simp, by simp⟩ (.refl s))

theorem execPrivateWireRequest_quiet (link : Bool) : Quiet s (execPrivateWireRequest link s) := by
  unfold execPrivateWireRequest
  exact .ite .idle (.next (.after (.ite ⟨by simp, by simp⟩ (.refl _)) rfl rfl))

theorem execPrivateWireServe_quiet : Quiet s (execPrivateWireServe s) := by
  unfold execPrivateWireServe
  split
  · exact .ite .idle (.ite (.next ⟨rfl, rfl⟩) (.next ⟨rfl, rfl⟩))
  · exact .idle

theorem execEntTrimWrite_quiet (fromCp : Bool) (n : BitVec 2) (value : Dword) : Quiet s (execEntTrimWrite fromCp n value s) :=
  .next (.outOfReset ⟨by simp, by simp⟩)

theorem execEntTestWrite_quiet (value : Word) : Quiet s (execEntTestWrite value s) := .next (.outOfReset ⟨by simp, by simp⟩)

end Entropy

/-! ## Links -/

section Links

variable (port : BitVec 4) (s : State)

theorem execLinkFrameTx_quiet : Quiet s (execLinkFrameTx port s) := .ite .idle (.next ⟨by simp, by simp⟩)

theorem execLinkUp_quiet (rounds : List (Nat × Nat)) (peerModule : BitVec 6) (peerPort : BitVec 4) :
    Quiet s (execLinkUp port rounds peerModule peerPort s) := by
  unfold execLinkUp
  refine .whenFormed (.ite .idle ?_)
  extract_lets d lat s₁ s₂ s₃
  have h₁ : s.Still s₁ := .trans (.setDcbF ..) (.setDcbF ..)
  have h₂ : s₁.Still s₂ := .trans (.setDcbF ..) (.setDcbF ..)
  have h₃ : s₂.Still s₃ := .trans (.setDcbF ..) ⟨State.dieEvent_queueClock .., State.dieEvent_mem ..⟩
  exact .next ((h₁.trans (h₂.trans h₃)).trans ⟨State.setLink_queueClock .., State.setLink_mem ..⟩)

theorem execLinkDown_quiet : Quiet s (execLinkDown port s) := .next ⟨by simp, by simp⟩

theorem execBeatLockLoss_quiet : Quiet s (execBeatLockLoss s) := .next ⟨by simp, by simp⟩

theorem execLockstepCompare_quiet : Quiet s (execLockstepCompare s) := by
  unfold execLockstepCompare
  refine .ite .idle ?_
  split
  · exact .idle
  · exact .ite (.next ⟨rfl, rfl⟩) (.next ⟨by simp, by simp⟩)

theorem execSidelineFrame_quiet : Quiet s (execSidelineFrame s) := by
  unfold execSidelineFrame
  exact .ite .idle (.next ⟨by simp, by simp⟩)

theorem execSidelineTrainDone_quiet : Quiet s (execSidelineTrainDone s) := .ite .idle (.next (.setDcbF ..))

end Links

end Sys2Proof.Machine
end

section
/-! The commands of the interrupt controller, the boot, the power unit, the management bus and the steward's devices that leave the
queue, the clock and memory as they are; then all such commands together. -/

namespace Sys2Proof.Machine

variable (s : State)

/-! ## Memory's own events -/

theorem execHbmRefresh_quiet (pc : PortNum) : Quiet s (execHbmRefresh pc s) := .idle

theorem execPhyMaintenance_quiet (pc : PortNum) : Quiet s (execPhyMaintenance pc s) := .idle

/-! ## Interrupts and the UCIe link -/

theorem execDieEventSend_quiet (source : BitVec 9) : Quiet s (execDieEventSend source s) :=
  .whenFormed (.ite (.next ⟨rfl, rfl⟩) .idle)

theorem execDieInterruptMessage_quiet : Quiet s (execDieInterruptMessage s) := by
  unfold execDieInterruptMessage
  split
  · exact .idle
  · exact .ite (.next ⟨by simp, by simp⟩) .idle

theorem execStewardEdge_quiet (source : BitVec 9) : Quiet s (execStewardEdge source s) :=
  .whenFormed (.next (.outOfReset ⟨by simp, by simp⟩))

theorem execLevelSourceChange_quiet (source : BitVec 9) (asserted : Bool) : Quiet s (execLevelSourceChange source asserted s) :=
  .whenFormed (.next (.outOfReset ⟨by simp, by simp⟩))

theorem execIcClaim_quiet (ctx : BitVec 5) : Quiet s (execIcClaim ctx s) := .next (.outOfReset ⟨by simp, by simp⟩)

theorem execIcComplete_quiet (ctx : BitVec 5) (source : BitVec 9) : Quiet s (execIcComplete ctx source s) :=
  .next (.outOfReset ⟨by simp, by simp⟩)

theorem execIcSwset_quiet (source : BitVec 9) : Quiet s (execIcSwset source s) := .next (.outOfReset ⟨by simp, by simp⟩)

theorem execIcSrcWrite_quiet (source : BitVec 9) (value : Word) : Quiet s (execIcSrcWrite source value s) :=
  .next (.outOfReset ⟨by simp, by simp⟩)

theorem execIcThreshWrite_quiet (ctx : BitVec 5) (value : Word) : Quiet s (execIcThreshWrite ctx value s) :=
  .next (.outOfReset ⟨by simp, by simp⟩)

theorem execFabricClockStop_quiet : Quiet s (execFabricClockStop s) := .ite (.next ⟨rfl, rfl⟩) .idle

theorem execFabricClockRestart_quiet : Quiet s (execFabricClockRestart s) := .ite .idle (.next ⟨by simp, by simp⟩)

theorem execUcieLinkDown_quiet : Quiet s (execUcieLinkDown s) := .ite (.next ⟨by simp, by simp⟩) .idle

theorem execUcieLinkUp_quiet : Quiet s (execUcieLinkUp s) := .next ⟨rfl, rfl⟩

/-! ## Boot, errors and the Whistle -/

theorem execBootGo_quiet : Quiet s (execBootGo s) := .ite .idle (.next ⟨by simp, by simp⟩)

theorem execFwVerifyDone_quiet : Quiet s (execFwVerifyDone s) := by
  have hgood (t : State) (v a : Dword) :
      t.Still (((((t.setDcbF Dcb.bootStat 0 3 3).setDcb Dcb.fwId v).setDcb Dcb.abiId a).applyConfig).applyCalibration) :=
    ⟨by simp, by simp⟩
  unfold execFwVerifyDone
  exact .ite .idle (.ite (.next (.after (hgood ..) rfl rfl)) (.next (.trans (.trans (.setDcbF ..) (.setDcbF ..)) (.setDcbF ..))))

theorem execCpFault_quiet : Quiet s (execCpFault s) := .next (.outOfReset ⟨by simp, by simp⟩)

theorem execLogicFault_quiet (fault : LogicFault) : Quiet s (execLogicFault fault s) := by
  refine .whenFormed (.next (.outOfReset ?_))
  split <;> exact ⟨by simp, by simp⟩

theorem execWhistleSound_quiet (source : BitVec 3) : Quiet s (execWhistleSound source s) := by
  have hsound (t : State) (n : Nat) : t.Still (t.soundWhistle n) := ⟨by simp, by simp⟩
  refine .whenFormed (.next (.outOfReset ?_))
  extract_lets _ t
  have htap : s.Still t := .ite ⟨rfl, rfl⟩ (.refl s)
  exact htap.trans (hsound ..)

theorem execStewardReset_quiet : Quiet s (execStewardReset s) := .next (.outOfReset (.ite ⟨by simp, by simp⟩ (.refl s)))

/-! ## Power -/

theorem execColdResetRelease_quiet : Quiet s (execColdResetRelease s) := .ite (.next ⟨by simp, by simp⟩) .idle

theorem execTapReset_quiet : Quiet s (execTapReset s) := .next ⟨by simp, by simp⟩

theorem execRailPowerGood_quiet (rail : BitVec 4) : Quiet s (execRailPowerGood rail s) :=
  .whenFormed (.ite (.ite .idle (.next ⟨by simp, by simp⟩)) (.ite (.next ⟨by simp, by simp⟩) .idle))

theorem execPowerWindow_quiet (input : BitVec 20) (rails : List (BitVec 20)) : Quiet s (execPowerWindow input rails s) := by
  refine .whenFormed (.next (.outOfReset (.ite (.refl s) ?_)))
  dsimp only
  split <;> exact ⟨by simp, by simp⟩

theorem execPowerReadingWindow_quiet (input : PowerReading) (parts rails : List PowerReading) :
    Quiet s (execPowerReadingWindow input parts rails s) := by
  have hset (t : State) (o : Nat) (v : Dword) : t.Still (t.setDcb o v) := ⟨by simp, by simp⟩
  refine .whenFormed (.next (.outOfReset (.ite (.refl s) ?_)))
  exact .trans (.trans (hset ..) (.foldl (fun t e => hset ..) _ _)) (.foldl (fun t e => hset ..) _ _)

/-! ## The management bus -/

theorem execClearFaults_quiet : Quiet s (execClearFaults s) := .next (.pmbus fun _ => ⟨by simp, by simp⟩)

theorem execCapability_quiet : Quiet s (execCapability s) := .next (.reply ..)

theorem execPmbusRevision_quiet : Quiet s (execPmbusRevision s) := .next (.reply ..)

theorem execStatusWord_quiet : Quiet s (execStatusWord s) := .next (.reply ..)

theorem execReadVin_quiet : Quiet s (execReadVin s) := .next (.reply ..)

theorem execReadIin_quiet : Quiet s (execReadIin s) := .next (.reply ..)

theorem execReadPin_quiet : Quiet s (execReadPin s) := .next (.reply ..)

theorem execReadTemperature1_quiet : Quiet s (execReadTemperature1 s) := .next (.reply ..)

theorem execReadTemperature2_quiet : Quiet s (execReadTemperature2 s) := .next (.reply ..)

theorem execReadTemperature3_quiet : Quiet s (execReadTemperature3 s) := .next (.reply ..)

theorem execMfrId_quiet : Quiet s (execMfrId s) := .next (.reply ..)

theorem execMfrModel_quiet : Quiet s (execMfrModel s) := .next (.reply ..)

theorem execMfrSerial_quiet : Quiet s (execMfrSerial s) := .next (.reply ..)

theorem execMfrGradeMap_quiet : Quiet s (execMfrGradeMap s) := .next (.reply ..)

theorem execMfrDclass_quiet : Quiet s (execMfrDclass s) := .next (.reply ..)

theorem execMfrRstCause_quiet : Quiet s (execMfrRstCause s) := .next (.reply ..)

theorem execMfrWhistle_quiet (value : Byte) : Quiet s (execMfrWhistle value s) :=
  .next (.pmbus fun t => .ite (.outOfReset ⟨by simp, by simp⟩) (.refl t))

theorem execMfrStwReset_quiet (value : Byte) : Quiet s (execMfrStwReset value s) :=
  .next (.pmbus fun t => .ite (.outOfReset ⟨rfl, rfl⟩) (.refl t))

theorem execMfrLastFatal_quiet : Quiet s (execMfrLastFatal s) := .next (.reply ..)

theorem execMfrPartPower_quiet : Quiet s (execMfrPartPower s) := .next (.reply ..)

theorem execPmbusInvalidCommand_quiet (code : Byte) : Quiet s (execPmbusInvalidCommand code s) :=
  .next (.pmbus fun _ => ⟨by simp, by simp⟩)

/-! ## Flash and MACs -/

theorem execFlCmd_quiet (value : Word) : Quiet s (execFlCmd value s) := .next (.outOfReset ⟨by simp, by simp⟩)

theorem execFlashOpDone_quiet (err : Bool) (data : List Byte) : Quiet s (execFlashOpDone err data s) := by
  have hend (t : State) : t.Still (t.flashReads.icEdge 264) := ⟨by simp, by simp⟩
  refine .whenFormed ?_
  split
  · exact .idle
  · extract_lets v f₁ f₂ f₃ r
    exact .next (.after (hend _) rfl rfl)

theorem execEthLinkChange_quiet (port : BitVec 1) (link pcsLock : Bool) : Quiet s (execEthLinkChange port link pcsLock s) :=
  .next (.outOfReset ⟨by simp, by simp⟩)

/-! ## All of them -/

/-- Every command that neither moves the clock nor stores leaves the queue, the clock and memory as they are. -/
theorem exec_quiet {c : Instr} (hclock : movesClock c = false) (hmem : storesMemory c = false) : Quiet s (exec c s) := by
  cases c with
  | beatBoundary => cases hclock
  | deadlockDetect core => exact execDeadlockDetect_quiet core s
  | issue core thread => exact execIssue_quiet core thread s
  | wait core thread => exact execWait_quiet core thread s
  | waitRelease core thread => exact execWaitRelease_quiet core thread s
  | sig core thread => exact execSig_quiet core thread s
  | scoreboardIncrement core => exact execScoreboardIncrement_quiet core s
  | arrive core thread => exact execArrive_quiet core thread s
  | rwait core thread => exact execRwait_quiet core thread s
  | rwaitRelease core thread => exact execRwaitRelease_quiet core thread s
  | rally core thread => exact execRally_quiet core thread s
  | mark core thread => exact execMark_quiet core thread s
  | feltRun core => exact execFeltRun_quiet core s
  | feltQscan core => exact execFeltQscan_quiet core s
  | feltQconv core => exact execFeltQconv_quiet core s
  | rotStore core => exact execRotStore_quiet core s
  | rotLoad core => exact execRotLoad_quiet core s
  | exchSend core => exact execExchSend_quiet core s
  | feltBetaSet core => exact execFeltBetaSet_quiet core s
  | exchangeBeat handle => exact execExchangeBeat_quiet handle s
  | replicaExchangeDecide handle => exact execReplicaExchangeDecide_quiet handle s
  | stagingMove core => exact execStagingMove_quiet core s
  | feMma core => exact execFeMma_quiet core s
  | feOut core => exact execFeOut_quiet core s
  | feBern core => exact execFeBern_quiet core s
  | napFill core => exact execNapFill_quiet core s
  | catDraw core => exact execCatDraw_quiet core s
  | accStore core => exact execAccStore_quiet core s
  | accLoad core => exact execAccLoad_quiet core s
  | accRed core => exact execAccRed_quiet core s
  | nodeAdd _ => cases hmem
  | lsMove core => exact execLsMove_quiet core s
  | sliceWriteLand _ _ => cases hmem
  | readDataDeliver core err => exact execReadDataDeliver_quiet core s err
  | hbmAccess _ _ => cases hmem
  | hbmRefresh pc => exact execHbmRefresh_quiet s pc
  | phyMaintenance pc => exact execPhyMaintenance_quiet s pc
  | stewardAccess _ _ _ _ _ => cases hmem
  | registerWrite _ _ _ => cases hmem
  | jobContainedEnd handle => exact execJobContainedEnd_quiet handle s
  | fatalEnd => exact execFatalEnd_quiet s
  | fenceApply core => exact execFenceApply_quiet s core
  | clusterFence cluster => exact execClusterFence_quiet s cluster
  | doorbell mb => exact execDoorbell_quiet mb s
  | ack mb => exact execAck_quiet mb s
  | mbCommandTake => exact execMbCommandTake_quiet s
  | mbResponseWrite mb => exact execMbResponseWrite_quiet mb s
  | jobAdmit mb => exact execJobAdmit_quiet mb s
  | jobCancel mb => exact execJobCancel_quiet mb s
  | jobStatus mb => exact execJobStatus_quiet mb s
  | schedInfo mb => exact execSchedInfo_quiet mb s
  | ctxSave mb => exact execCtxSave_quiet mb s
  | ctxSuspend handle => exact execCtxSuspend_quiet handle s
  | ctxSaveDone _ => cases hmem
  | ctxRestore mb => exact execCtxRestore_quiet mb s
  | admission handle => exact execAdmission_quiet handle s
  | launchDeadlineWithdraw handle => exact execLaunchDeadlineWithdraw_quiet handle s
  | jobStart handle => exact execJobStart_quiet handle s
  | jobDone handle => exact execJobDone_quiet handle s
  | goSend token => exact execGoSend_quiet token s
  | goTimeoutWithdraw handle => exact execGoTimeoutWithdraw_quiet handle s
  | baseSend token => exact execBaseSend_quiet token s
  | cfgOverlay mb => exact execCfgOverlay_quiet mb s
  | overlayApply => exact execOverlayApply_quiet s
  | entRead mb => exact execEntRead_quiet s mb
  | entReadComplete mb => exact execEntReadComplete_quiet s mb
  | entRestart mb => exact execEntRestart_quiet s mb
  | napEval mb => exact execNapEval_quiet s mb
  | coreFence mb => exact execCoreFence_quiet mb s
  | distRead mb => exact execDistRead_quiet mb s
  | entSample sample => exact execEntSample_quiet s sample
  | startupTestEnd katOk => exact execStartupTestEnd_quiet s katOk
  | drbgInstantiate => exact execDrbgInstantiate_quiet s
  | estWindow => exact execEstWindow_quiet s
  | privateWireRequest link => exact execPrivateWireRequest_quiet s link
  | privateWireServe => exact execPrivateWireServe_quiet s
  | entTrimWrite fromCp n value => exact execEntTrimWrite_quiet s fromCp n value
  | entTestWrite value => exact execEntTestWrite_quiet s value
  | linkFrameTx port => exact execLinkFrameTx_quiet port s
  | linkFrameRx _ _ _ => cases hmem
  | linkUp port rounds peerModule peerPort => exact execLinkUp_quiet port s rounds peerModule peerPort
  | linkDown port => exact execLinkDown_quiet port s
  | beatLock _ => cases hclock
  | beatLockLoss => exact execBeatLockLoss_quiet s
  | counterLoad => cases hclock
  | lockstepCompare => exact execLockstepCompare_quiet s
  | sidelineFrame => exact execSidelineFrame_quiet s
  | dieEventSend source => exact execDieEventSend_quiet s source
  | dieInterruptMessage => exact execDieInterruptMessage_quiet s
  | stewardEdge source => exact execStewardEdge_quiet s source
  | levelSourceChange source asserted => exact execLevelSourceChange_quiet s source asserted
  | icClaim ctx => exact execIcClaim_quiet s ctx
  | icComplete ctx source => exact execIcComplete_quiet s ctx source
  | icSwset source => exact execIcSwset_quiet s source
  | icSrcWrite source value => exact execIcSrcWrite_quiet s source value
  | icThreshWrite ctx value => exact execIcThreshWrite_quiet s ctx value
  | fabricClockStop => exact execFabricClockStop_quiet s
  | fabricClockRestart => exact execFabricClockRestart_quiet s
  | ucieLinkDown => exact execUcieLinkDown_quiet s
  | ucieLinkUp => exact execUcieLinkUp_quiet s
  | bootGo => exact execBootGo_quiet s
  | fwVerifyDone => exact execFwVerifyDone_quiet s
  | bootReady _ _ => cases hmem
  | whistleSound source => exact execWhistleSound_quiet s source
  | whistleStop => cases hclock
  | hangSnapshot core => exact execHangSnapshot_quiet s core
  | dbgWhistle mb => exact execDbgWhistle_quiet mb s
  | dbgScanout _ => cases hmem
  | dbgRelease mb => exact execDbgRelease_quiet mb s
  | dbgSnapshot mb => exact execDbgSnapshot_quiet mb s
  | dbgWatch mb => exact execDbgWatch_quiet mb s
  | dbgWatchread mb => exact execDbgWatchread_quiet mb s
  | secSpdm mb => exact execSecSpdm_quiet mb s
  | secReport mb => exact execSecReport_quiet mb s
  | secCtrread mb => exact execSecCtrread_quiet mb s
  | secLifecycle mb => exact execSecLifecycle_quiet mb s
  | secKeyset mb => exact execSecKeyset_quiet mb s
  | secKeydel mb => exact execSecKeydel_quiet mb s
  | secImport mb => exact execSecImport_quiet mb s
  | secExport mb => exact execSecExport_quiet mb s
  | scrubStart part => exact execScrubStart_quiet s part
  | scrubDone _ => cases hmem
  | errAck mb => exact execErrAck_quiet mb s
  | errInject mb => exact execErrInject_quiet mb s
  | stwReset mb => exact execStwReset_quiet mb s
  | stewardReset => exact execStewardReset_quiet s
  | coldResetAssert _ => cases hclock
  | coldResetRelease => exact execColdResetRelease_quiet s
  | clockLoss => cases hclock
  | tapReset => exact execTapReset_quiet s
  | railPowerGood rail => exact execRailPowerGood_quiet s rail
  | shutdown _ => cases hclock
  | powerWindow input rails => exact execPowerWindow_quiet s input rails
  | powerReadingWindow input parts rails => exact execPowerReadingWindow_quiet s input parts rails
  | thermalThreshold _ _ => cases hclock
  | operation _ => cases hclock
  | clearFaults => exact execClearFaults_quiet s
  | capability => exact execCapability_quiet s
  | pmbusRevision => exact execPmbusRevision_quiet s
  | statusWord => exact execStatusWord_quiet s
  | readVin => exact execReadVin_quiet s
  | readIin => exact execReadIin_quiet s
  | readPin => exact execReadPin_quiet s
  | readTemperature1 => exact execReadTemperature1_quiet s
  | readTemperature2 => exact execReadTemperature2_quiet s
  | readTemperature3 => exact execReadTemperature3_quiet s
  | mfrId => exact execMfrId_quiet s
  | mfrModel => exact execMfrModel_quiet s
  | mfrSerial => exact execMfrSerial_quiet s
  | mfrGradeMap => exact execMfrGradeMap_quiet s
  | mfrDclass => exact execMfrDclass_quiet s
  | mfrRstCause => exact execMfrRstCause_quiet s
  | mfrColdReset _ => cases hclock
  | mfrWhistle value => exact execMfrWhistle_quiet s value
  | mfrStwReset value => exact execMfrStwReset_quiet s value
  | mfrLastFatal => exact execMfrLastFatal_quiet s
  | mfrPartPower => exact execMfrPartPower_quiet s
  | pmbusInvalidCommand code => exact execPmbusInvalidCommand_quiet s code
  | flCmd value => exact execFlCmd_quiet s value
  | flashOpDone err data => exact execFlashOpDone_quiet s err data
  | ethTransmit _ => cases hmem
  | ethReceive _ _ _ _ => cases hmem
  | scanoutDone => exact execScanoutDone_quiet s
  | secImportDone _ => cases hmem
  | secExportDone _ => cases hmem
  | sidelineTrainDone => exact execSidelineTrainDone_quiet s
  | ethLinkChange port link pcsLock => exact execEthLinkChange_quiet s port link pcsLock
  | vin48Loss => cases hclock
  | cpFault => exact execCpFault_quiet s
  | logicFault fault => exact execLogicFault_quiet s fault

end Sys2Proof.Machine
end

section
/-! The commands that store to memory or move the clock: what they leave of the queue and the clock, and that memory keeps its canonical
form. -/

namespace Sys2Proof.Machine

/-- From `s` to `t` the queue and the clock stand, and memory keeps its canonical form. -/
structure State.Stores (s t : State) : Prop where
  clock : t.queueClock = s.queueClock
  form : Memory.wf s.mem = true → Memory.wf t.mem = true

namespace State.Stores

variable {s t u : State}

theorem of_still (h : s.Still t) : Stores s t := ⟨h.clock, fun hs => by rwa [h.mem]⟩

theorem refl (s : State) : Stores s s := of_still (.refl s)

theorem trans (h : Stores s t) (h' : Stores t u) : Stores s u := ⟨h'.clock.trans h.clock, fun hs => h'.form (h.form hs)⟩

/-- What is stored from `t` on is stored from `s` on, where `t` differs from `s` elsewhere. -/
theorem after (h : Stores t u) (hclock : t.queueClock = s.queueClock) (hmem : t.mem = s.mem) : Stores s u :=
  trans (of_still ⟨hclock, hmem⟩) h

/-- Storing first, and nothing of memory after. -/
theorem still (h : Stores s t) (h' : t.Still u) : Stores s u := h.trans (of_still h')

theorem ite {p : Prop} [Decidable p] (h : Stores s t) (h' : Stores s u) : Stores s (if p then t else u) := by
  split
  · exact h
  · exact h'

theorem foldl {α : Type} {f : State → α → State} (h : ∀ (t : State) (a : α), Stores t (f t a)) (l : List α) (s : State) :
    Stores s (l.foldl f s) :=
  List.foldlRecOn (motive := fun t : State => Stores s t) l f (refl s) fun t ht a _ => ht.trans (h t a)

theorem onTaken {m opcode : Nat} {f : TakenCmd → State} (h : ∀ x, Stores s (f x)) : Stores s (s.onTaken m opcode f) := by
  unfold State.onTaken
  split
  · exact refl s
  · exact ite (h _) (refl s)

theorem outOfReset {f : State → State} (h : Stores s (f s)) : Stores s (s.outOfReset f) := ite (refl s) h

theorem putBytes (s : State) (a : Nat) (bs : List Byte) : Stores s (s.putBytes a bs) := ⟨by simp, s.putBytes_wf a bs⟩

theorem landWrite (s : State) (x : Transfer) (err : XferErr) : Stores s (s.landWrite x err) := ⟨by simp, s.landWrite_wf x err⟩

theorem takeFrame (s : State) (l : Nat) (f : RxFrame) : Stores s (s.takeFrame l f) := ⟨by simp, s.takeFrame_wf l f⟩

theorem dmaWrite (s : State) (a : Nat) (bs : List Byte) : Stores s (s.dmaWrite a bs) := ⟨by simp, s.dmaWrite_wf a bs⟩

theorem macReceive (s : State) (p : Nat) (frame : List Byte) (ok : Bool) : Stores s (s.macReceive p frame ok) :=
  ⟨by simp, s.macReceive_wf p frame ok⟩

end State.Stores

/-! ## Commands that store -/

section Storing

variable (s : State)

theorem execSliceWriteLand_stores (port : PortNum) (err : XferErr) : Answers s.Stores (execSliceWriteLand port err s) := by
  refine .whenFormed (.ite ?_ (.next (.refl s)))
  split
  · exact .next (.refl s)
  · exact .next (.after (.landWrite ..) rfl rfl)

theorem execHbmAccess_stores (pc : PortNum) (err : XferErr) : Answers s.Stores (execHbmAccess pc err s) := by
  refine .whenFormed (.ite ?_ (.next (.refl s)))
  split
  · exact .next (.refl s)
  · refine .ite (.next (.after (.landWrite ..) rfl rfl)) ?_
    extract_lets r u t
    have hinject : s.Still u := ⟨State.takeInject_queueClock .., State.takeInject_mem ..⟩
    have htaken : u.Still t := ⟨rfl, rfl⟩
    refine .next (.of_still ((hinject.trans htaken).trans (.foldl (fun t x => ?_) _ _)))
    exact ⟨State.serveMember_queueClock .., State.serveMember_mem ..⟩

theorem execNodeAdd_stores (port : PortNum) : Answers s.Stores (execNodeAdd port s) := by
  have hform (n : Nat) (l : List NodeOperand) : s.Stores (s.formNodes n l []).2 := ⟨by simp, s.formNodes_wf n l []⟩
  exact .ite (.next ((hform ..).trans (.of_still ⟨rfl, rfl⟩))) (.next (.refl s))

theorem execLinkFrameRx_stores (port : BitVec 4) (frame : List Byte) (late : List Nat) :
    Answers s.Stores (execLinkFrameRx port frame late s) := by
  refine .whenFormed (.ite (.next (.refl s)) ?_)
  extract_lets up r f t
  have hinject : s.Still r.2 := by
    dsimp only [r]
    split
    · exact ⟨State.takeInject_queueClock .., State.takeInject_mem ..⟩
    · exact .refl s
  have hcount : s.Still t := hinject.trans ⟨by simp [t], by simp [t]⟩
  refine .ite (.next (.ite (.takeFrame ..) (.refl s))) (.next (.trans (.of_still hcount) (.ite (.takeFrame ..) ?_)))
  exact .of_still ⟨State.loseFrame_queueClock .., by simp [State.loseFrame]⟩

/-- A steward access waits for its slot, is made at once, or is one that the UCIe link does not carry. -/
theorem State.access_stores (r : StewardReq) : Answers s.Stores (s.access r) := by
  unfold State.access
  refine .ite (.next (.refl s)) ?_
  split
  · exact .next (.of_still ⟨by simp, by simp⟩)
  · exact .ite (fun _ heq => nomatch heq) (.ite (.next (.of_still ⟨rfl, rfl⟩))
      (.next ⟨State.deviceAccess_queueClock .., fun h => State.deviceAccess_wf _ _ _ h⟩))

theorem execStewardAccess_stores (write : Bool) (size : Nat) (addr : BitVec 48) (data : Granule) (err : XferErr) :
    Answers s.Stores (execStewardAccess write size addr data err s) := .whenFormed (s.access_stores _)

theorem execRegisterWrite_stores (size : Nat) (addr : BitVec 48) (value : Dword) :
    Answers s.Stores (execRegisterWrite size addr value s) := .whenFormed (s.access_stores _)

theorem execEthTransmit_stores (port : BitVec 1) : Answers s.Stores (execEthTransmit port s) := by
  have hread (t : State) (a n : Nat) : t.Still (t.dmaRead a n).2 := ⟨by simp, by simp⟩
  have hsent (t : State) (p : Nat) : t.Still (((t.macCount p 0x40 1).macAdvance p txRing).macFlag p 0) := ⟨by simp, by simp⟩
  refine .next (.outOfReset (.ite (.refl s) ?_))
  extract_lets d r w ctl b
  refine .ite (.refl s) ?_
  refine .trans (.trans (.of_still ((hread ..).trans (hread ..))) (.dmaWrite ..)) (.trans (.of_still (hsent ..)) (.ite (.macReceive ..) ?_))
  exact .of_still ⟨State.setMac_queueClock .., State.setMac_mem ..⟩

theorem execEthReceive_stores (port : BitVec 1) (frame : List Byte) (fcsOk : Bool) (codewords : BitVec 16) :
    Answers s.Stores (execEthReceive port frame fcsOk codewords s) := by
  have hcount (n : Nat) : s.Stores (s.macCount port.toNat 0x60 n) := .of_still ⟨by simp, by simp⟩
  exact .next (.outOfReset ((hcount _).trans (.ite (.refl _) (.macReceive ..))))

theorem execCtxSaveDone_stores (handle : Handle) : Answers s.Stores (execCtxSaveDone handle s) := by
  have hfree (t : State) (j : Job) (f : Job → Job) :
      t.Still (((t.releaseKeySlot j.keySlot).leaveCores handle j).modJob handle f) := ⟨by simp, by simp⟩
  unfold execCtxSaveDone
  split
  · exact .next (.refl s)
  · split
    · exact .ite (.next (((State.Stores.foldl (fun t x => .putBytes ..) _ _).still (hfree ..)).still (.complete ..)))
        (.next (.refl s))
    · exact .next (.refl s)

theorem execDbgScanout_stores (mb : MailboxNum) : Answers s.Stores (execDbgScanout mb s) := by
  have hanswer (t : State) (x : TakenCmd) (status : Nat) : t.Stores (t.answer mb.toNat x status []) := .of_still (.answer ..)
  refine .next (.onTaken fun x => .ite (hanswer ..) (.ite (hanswer ..) (.ite (hanswer ..) ?_)))
  exact ((State.Stores.foldl (fun t i => .putBytes ..) _ _).still (.setDcbF ..)).still (.answer ..)

theorem execSecImportDone_stores (mb : MailboxNum) : Answers s.Stores (execSecImportDone mb s) := by
  have htaken (x : Option CryptXfer) : s.Still (s.setXfer mb.toNat x) := ⟨by simp, by simp⟩
  have hkey (t : State) (p k : Nat) (x : KeySet) : t.Still (t.setKeySet p k x) := ⟨by simp, by simp⟩
  have hfail (t : State) : t.Still t.secTagFail := ⟨by simp, by simp⟩
  unfold execSecImportDone
  dsimp only
  split
  · exact .next (.refl s)
  · refine .ite (.next (.refl s)) ?_
    split
    · exact .next (((State.Stores.of_still ((htaken _).trans (hkey ..))).trans (.putBytes ..)).still (.complete ..))
    · exact .next ((((State.Stores.of_still (htaken _)).trans (.putBytes ..)).still (hfail _)).still (.complete ..))

theorem execSecExportDone_stores (mb : MailboxNum) : Answers s.Stores (execSecExportDone mb s) := by
  have htaken (x : Option CryptXfer) : s.Still (s.setXfer mb.toNat x) := ⟨by simp, by simp⟩
  unfold execSecExportDone
  dsimp only
  split
  · exact .next (.refl s)
  · exact .ite (.next (.refl s)) (.next (((State.Stores.of_still (htaken _)).trans (.putBytes ..)).still (.complete ..)))

theorem execScrubDone_stores (part : BitVec 3) : Answers s.Stores (execScrubDone part s) := by
  have hpart (t : State) (p v : Nat) : t.Still (t.setPartState p v) := ⟨by simp, by simp⟩
  unfold execScrubDone
  refine .ite ?_ (.next (.refl s))
  extract_lets t
  have hscrub : s.Stores t := ⟨State.scrubMemory_queueClock .., s.scrubMemory_wf part.toNat⟩
  exact .next (hscrub.trans (.of_still (.after (hpart ..) (by simp) rfl)))

theorem execBootReady_stores (trained : Word) (faulty : Dword) : Answers s.Stores (execBootReady trained faulty s) := by
  have hready (t : State) (v : Dword) : t.Still (((t.setDcbF Dcb.bootStat 0 3 4).setDcb Dcb.bootTime v).dieEvent 129) :=
    .trans (.trans (.setDcbF ..) (.setDcb ..)) (.dieEvent ..)
  have hfences : s.Still (((List.range 64).filter fun q => faulty.toNat.testBit q).foldl (fun s q => s.fenceCluster q) s) :=
    .foldl (fun t q => ⟨State.fenceCluster_queueClock .., State.fenceCluster_mem ..⟩) _ _
  have hzero (t : State) : t.Stores (if t.dcbF Dcb.secLcs 2 1 = 1 then t.zeroMemory else t) :=
    .ite ⟨State.zeroMemory_queueClock t, t.zeroMemory_wf⟩ (.refl t)
  unfold execBootReady
  refine .ite (.next (.refl s)) (.next ?_)
  refine .still (.still (.trans (.of_still (hfences.trans (.foldl (fun t k => .setDcbF ..) _ _))) (hzero _))
    (.foldl (fun t l => .ite (.setDcbF ..) (.refl t)) _ _)) (hready ..)

/-- Every command that does not move the clock leaves the queue and the clock as they are, and memory in its canonical form. -/
theorem exec_stores {c : Instr} (hclock : movesClock c = false) : Answers s.Stores (exec c s) := by
  cases c with
  | beatBoundary => cases hclock
  | nodeAdd port => exact execNodeAdd_stores s port
  | sliceWriteLand port err => exact execSliceWriteLand_stores s port err
  | hbmAccess pc err => exact execHbmAccess_stores s pc err
  | stewardAccess write size addr data err => exact execStewardAccess_stores s write size addr data err
  | registerWrite size addr value => exact execRegisterWrite_stores s size addr value
  | ctxSaveDone handle => exact execCtxSaveDone_stores s handle
  | linkFrameRx port frame late => exact execLinkFrameRx_stores s port frame late
  | beatLock _ => cases hclock
  | counterLoad => cases hclock
  | bootReady trained faulty => exact execBootReady_stores s trained faulty
  | whistleStop => cases hclock
  | dbgScanout mb => exact execDbgScanout_stores s mb
  | scrubDone part => exact execScrubDone_stores s part
  | coldResetAssert _ => cases hclock
  | clockLoss => cases hclock
  | shutdown _ => cases hclock
  | thermalThreshold _ _ => cases hclock
  | operation _ => cases hclock
  | mfrColdReset _ => cases hclock
  | ethTransmit port => exact execEthTransmit_stores s port
  | ethReceive port frame fcsOk codewords => exact execEthReceive_stores s port frame fcsOk codewords
  | secImportDone mb => exact execSecImportDone_stores s mb
  | secExportDone mb => exact execSecExportDone_stores s mb
  | vin48Loss => cases hclock
  | _ => exact (exec_quiet s hclock rfl).mono fun _ => .of_still

end Storing

end Sys2Proof.Machine
end

section
/-! The commands that may move the clock keep the cycle within the beat and memory canonical (R52, R53), and with the others every step
does. -/

namespace Sys2Proof.Machine

namespace State.Sound

variable {s t : State}

theorem of_stores (hs : s.Sound) (h : s.Stores t) : t.Sound :=
  ⟨(State.cycle_of_queueClock h.clock).trans_lt hs.1, h.form hs.2⟩

theorem of_still (hs : s.Sound) (h : s.Still t) : t.Sound := hs.of_stores (.of_still h)

theorem ite {p : Prop} [Decidable p] {u : State} (h : t.Sound) (h' : u.Sound) : (if p then t else u).Sound := by
  split
  · exact h
  · exact h'

theorem tick (hs : s.Sound) : s.tick.Sound := ⟨s.tick_cycle_lt hs.1, s.tick_wf hs.2⟩

theorem takeLock (hs : s.Sound) (l : Nat) : (s.takeLock l).Sound := ⟨s.takeLock_cycle_lt l, by rw [State.takeLock_mem]; exact hs.2⟩

theorem coldReset (hs : s.Sound) (cause : Nat) (keepMem : Bool) : (s.coldReset cause keepMem).Sound :=
  ⟨by simp, s.coldReset_wf cause keepMem hs.2⟩

theorem powerDown (s : State) : s.powerDown.Sound := ⟨by simp, s.powerDown_wf⟩

theorem shutDown (hs : s.Sound) (i : Nat) : (s.shutDown i).Sound := ⟨s.shutDown_cycle_lt i hs.1, s.shutDown_wf i hs.2⟩

theorem setPower (hs : s.Sound) (f : Power → Power) : (s.setPower f).Sound := hs.of_still ⟨by simp, by simp⟩

theorem pmbus {f : State → State} (hs : s.Sound) (hf : ∀ t : State, t.Sound → (f t).Sound) : (s.pmbus f).Sound :=
  ite (hf _ (hs.setPower _)) hs

end State.Sound

/-! ## The boundary, beat lock and the stop of the Whistle -/

section Clock

variable {s : State} (hs : s.Sound)
include hs

theorem execBeatBoundary_sound : Answers State.Sound (execBeatBoundary s) :=
  .ite (.next hs) (.next ⟨by simp, State.boundary_wf _ (State.cycleEnd_wf _ (State.elapse_wf _ s hs.2))⟩)

theorem execBeatLock_sound (align : BitVec 8) : Answers State.Sound (execBeatLock align s) := by
  have halign (v : Nat) : (s.setDcbF Dcb.beatSync 16 8 v).Sound := hs.of_still (.setDcbF ..)
  refine .whenFormed ?_
  split
  · exact .next hs
  · exact .ite (.next hs) (.next (.ite ((halign _).of_still (.setDcbF ..)) ((halign _).takeLock _)))

theorem execCounterLoad_sound : Answers State.Sound (execCounterLoad s) := by
  unfold execCounterLoad
  split
  · exact .ite (.next (hs.takeLock _)) (.next hs)
  · exact .next hs

theorem execWhistleStop_sound : Answers State.Sound (execWhistleStop s) := by
  have hstop : (State.runToStop 24 s).Sound := ⟨State.runToStop_cycle_lt 24 s hs.1, State.runToStop_wf 24 s hs.2⟩
  exact .ite (.next (hstop.of_still ⟨State.haltNow_queueClock _, State.haltNow_mem _⟩)) (.next hs)

/-! ## Cold reset and losses of power -/

theorem execColdResetAssert_sound (cause : BitVec 3) : Answers State.Sound (execColdResetAssert cause s) := by
  have hcold := hs.coldReset cause.toNat true
  exact .whenFormed (.next (.ite (hcold.setPower _) (.ite (hcold.setPower _) hcold)))

theorem execClockLoss_sound : Answers State.Sound (execClockLoss s) := .next ((hs.coldReset 2 true).setPower _)

theorem execMfrColdReset_sound (value : Byte) : Answers State.Sound (execMfrColdReset value s) :=
  .next (hs.pmbus fun _ ht => .ite (ht.coldReset 3 true) ht)

omit hs in
theorem execVin48Loss_sound : Answers State.Sound (execVin48Loss s) := by
  unfold execVin48Loss
  extract_lets t
  have hdown : t.Sound := ((State.Sound.powerDown s).of_still (.setDcb ..)).setPower _
  exact .next (hdown.of_still ⟨rfl, rfl⟩)

theorem execShutdown_sound (index : Byte) : Answers State.Sound (execShutdown index s) := .next (hs.shutDown _)

theorem execOperation_sound (value : Byte) : Answers State.Sound (execOperation value s) := by
  have hon (t : State) : t.Still t.tryPowerOn := ⟨by simp, by simp⟩
  refine .next (hs.pmbus fun t ht => .ite ((ht.setPower _).of_still (hon _)) (.ite ?_ ht))
  exact .ite (.powerDown _) (ht.setPower _)

/-- A reading stores a value, warns and trips before it shuts the module down. -/
theorem State.thermReading_sound (i : Nat) (temp : BitVec 12) : (s.thermReading i temp).Sound := by
  unfold State.thermReading
  extract_lets before s₁ s₂ s₃
  have h₁ : s.Still s₁ := ⟨by simp [s₁], by simp [s₁]⟩
  have h₂ : s₁.Still s₂ := .ite ⟨by simp, by simp⟩ (.refl s₁)
  have h₃ : s₂.Still s₃ := ⟨by simp [s₃], by simp [s₃]⟩
  have hs₃ : s₃.Sound := hs.of_still ((h₁.trans h₂).trans h₃)
  exact .ite (hs₃.shutDown _) hs₃

theorem execThermalThreshold_sound (sensor : Byte) (temp : BitVec 12) :
    Answers State.Sound (execThermalThreshold sensor temp s) := by
  have hon (t : State) : t.Still t.tryPowerOn := ⟨by simp, by simp⟩
  exact .whenFormed (.next (.ite ((hs.setPower _).of_still (hon _)) (State.thermReading_sound (hs.setPower _) _ _)))

/-! ## Every command, and the step -/

/-- Whatever a command answers has a cycle of the beat and canonical memory. -/
theorem exec_sound (c : Instr) : Answers State.Sound (exec c s) := by
  by_cases hclock : movesClock c = false
  · exact (exec_stores s hclock).mono fun _ => hs.of_stores
  · unfold movesClock at hclock
    split at hclock
    exacts [execBeatBoundary_sound hs, execBeatLock_sound hs _, execCounterLoad_sound hs, execWhistleStop_sound hs,
      execColdResetAssert_sound hs _, execClockLoss_sound hs, execVin48Loss_sound, execShutdown_sound hs _,
      execOperation_sound hs _, execMfrColdReset_sound hs _, execThermalThreshold_sound hs _ _, absurd rfl hclock]

/-- The step keeps the cycle within the beat and memory canonical. -/
theorem step_sound {t : State} (h : step s = .next t) : t.Sound := by
  unfold step at h
  split at h
  case h_1 =>
    cases h
    exact hs.tick
  case h_2 c rest _ => exact exec_sound (s := { s with pending := rest }) hs c t h

end Clock

end Sys2Proof.Machine
end

section

namespace Sys2Proof.Machine

/-- Settles O4: the tick and every command keep the invariant. -/
theorem everyStepKeepsTheStateSound : Obligations.EveryStepKeepsTheStateSound := fun _ _ hs h => step_sound hs h

/-- Settles O6: a command that is not one of those that move the clock leaves it, whether or not it stores to memory. -/
theorem onlyTimeCommandsMoveTheClock : Obligations.OnlyTimeCommandsMoveTheClock := by
  intro c s t hclock h
  have hstands := (exec_stores s hclock t h).clock
  exact ⟨State.beat_of_queueClock hstands, State.cycle_of_queueClock hstands⟩

/-- Settles O3: right after reset the cycle is 0 and memory lists no byte. -/
theorem resetIsSound : Obligations.ResetIsSound := ⟨by decide, by decide⟩

end Sys2Proof.Machine
end

section

namespace Sys2Proof.Machine

/-! ## Right after reset every table is empty: what is read is its default -/

theorem State.dcbReg_reset (o : Nat) : State.reset.dcbReg o = dcbDefault o := rfl

theorem State.core_reset (c : Nat) : State.reset.core c = CoreState.reset := rfl

theorem CoreState.reg_reset (o : Nat) : CoreState.reset.reg o = coreDefault o := rfl

theorem State.icSrc_reset (n : Nat) : State.reset.icSrc n = IcSource.reset := rfl

theorem State.icCtx_reset (x : Nat) : State.reset.icCtx x = IcContext.reset := rfl

/-- The trim codes of the entropy source are 8 each (Table 9-7). -/
theorem dcbDefault_entTrim : ∀ n < 4, dcbDefault (Dcb.entTrim n) = 0x8888888888888888 := by decide

/-- LINK_STAT reads 0 after reset. -/
theorem dcbDefault_linkStat : ∀ l < 16, dcbDefault (Dcb.linkStat l) = 0 := by decide

/-- Settles O2: the registers of the device control block, of the cores and of the interrupt controller read their defaults. -/
theorem resetHoldsTheTablesValues : Obligations.ResetHoldsTheTablesValues := by
  have hcore (c : Nat) : (State.reset.core c).reg Reg.feltSize = 0x4040 ∧
      (State.reset.core c).reg Reg.feltPerm = 0xFEDCBA9876543210 ∧ (State.reset.core c).regF Reg.feltXcfg 8 6 = 2 := by
    rw [State.core_reset, CoreState.regF, CoreState.reg_reset, CoreState.reg_reset, CoreState.reg_reset]
    decide
  refine ⟨rfl, rfl, rfl, rfl, rfl, rfl, rfl, by decide, by decide, fun n hn => ?_, fun l hl => ?_, by decide, by decide, by decide,
    fun n => ?_, fun x => ?_, hcore, rfl, by decide⟩
  · rw [State.dcbReg_reset, dcbDefault_entTrim n hn]
  · rw [State.linkState, State.dcbF, State.dcbReg_reset, dcbDefault_linkStat l hl]
    rfl
  · rw [State.icSrc_reset]
    exact ⟨rfl, rfl⟩
  · rw [State.icCtx_reset]
    rfl

end Sys2Proof.Machine
end

section
/-! What a reported error leaves: the relation between the state before an error is entered, a job marked for its end or the Whistle
sounded, and the state after; and the fields of a register of the device control block after a write. -/

namespace Sys2Proof.Machine

/-! ## Fields of a register -/

theorem bitsOf_putF_self (x : Dword) {lo n : Nat} (v : Nat) (h : lo + n ≤ 64) : bitsOf (putF x lo n v).toNat lo n = v % 2 ^ n := by
  rw [putF, bitsOf_ofNat _ h, bitsOf_putBits_self]

/-- A field that lies beside the one written stands. -/
theorem bitsOf_putF_ne (x : Dword) {lo n lo' n' : Nat} (v : Nat) (hw : lo' + n' ≤ 64) (h : lo' + n' ≤ lo ∨ lo + n ≤ lo') :
    bitsOf (putF x lo n v).toNat lo' n' = bitsOf x.toNat lo' n' := by
  rw [putF, bitsOf_ofNat _ hw]
  refine Nat.eq_of_testBit_eq fun i => ?_
  simp only [bitsOf, Nat.testBit_mod_two_pow, Nat.testBit_shiftRight, testBit_putBits]
  by_cases hi : i < n'
  · have hout : ¬(lo ≤ lo' + i ∧ lo' + i < lo + n) := by omega
    simp [hi, hout]
  · simp [hi]

theorem State.dcbF_setDcbF_self (s : State) (o v : Nat) {lo n : Nat} (h : lo + n ≤ 64) :
    (s.setDcbF o lo n v).dcbF o lo n = v % 2 ^ n := by
  rw [State.dcbF, State.dcbReg_setDcbF, if_pos rfl, bitsOf_putF_self _ _ h]

theorem State.dcbF_setDcbF_beside (s : State) (o v : Nat) {lo n lo' n' : Nat} (hw : lo' + n' ≤ 64)
    (h : lo' + n' ≤ lo ∨ lo + n ≤ lo') : (s.setDcbF o lo n v).dcbF o lo' n' = s.dcbF o lo' n' := by
  rw [State.dcbF, State.dcbReg_setDcbF, if_pos rfl, bitsOf_putF_ne _ _ hw h]
  rfl

theorem State.dcbF_setDcbF_ne (s : State) {o o' : Nat} (lo n v lo' n' : Nat) (h : o' ≠ o) :
    (s.setDcbF o lo n v).dcbF o' lo' n' = s.dcbF o' lo' n' := by
  rw [State.dcbF, State.dcbReg_setDcbF, if_neg h]
  rfl

/-- Bits set in a register are set in the field that they fill. -/
theorem State.dcbF_setDcbBits_self (s : State) (o : Nat) {lo n : Nat} {m : Dword} (h : m.extractLsb' lo n = BitVec.allOnes n) :
    (s.setDcbBits o m).dcbF o lo n = 2 ^ n - 1 := by
  rw [State.dcbF, State.dcbReg_setDcbBits, if_pos rfl, bitsOf_eq_extract, BitVec.extractLsb'_or, h]
  simp

theorem State.dcbF_of_dcbReg {s t : State} {o : Nat} (h : t.dcbReg o = s.dcbReg o) (lo n : Nat) : t.dcbF o lo n = s.dcbF o lo n := by
  rw [State.dcbF, h, State.dcbF]

theorem State.dcbReg_of_dcb {s t : State} (h : t.dcb = s.dcb) (o : Nat) : t.dcbReg o = s.dcbReg o := by
  rw [State.dcbReg, h, State.dcbReg]

/-! ## Latches of the die's events -/

/-- The count in the latch of a source of the die (R400). -/
def State.latchCount (s : State) (n : Nat) : Nat := tabGet 0 s.ic.latches n

theorem State.latchCount_of_ic {s t : State} (h : t.ic = s.ic) (n : Nat) : t.latchCount n = s.latchCount n := by
  rw [State.latchCount, h, State.latchCount]

theorem State.latchCount_dieEvent_self (s : State) (n : Nat) : (s.dieEvent n).latchCount n = min (s.latchCount n + 1) 255 :=
  tabGet_tabSet_self ..

theorem State.latchCount_dieEvent_ne (s : State) {n x : Nat} (h : x ≠ n) : (s.dieEvent n).latchCount x = s.latchCount x :=
  tabGet_tabSet_ne _ _ _ h

/-! ## Ends of jobs -/

/-- From `j` to `k` only the end that waits may differ, and one that waited still waits. -/
def Job.Marked (j k : Job) : Prop := k = { j with pendingEnd := k.pendingEnd } ∧ (j.pendingEnd.isSome → k.pendingEnd.isSome)

theorem Job.Marked.refl (j : Job) : j.Marked j := ⟨rfl, id⟩

theorem Job.Marked.trans {j k l : Job} (h : j.Marked k) (h' : k.Marked l) : j.Marked l := by
  obtain ⟨hk, hpend⟩ := h
  obtain ⟨hl, hpend'⟩ := h'
  refine ⟨?_, hpend' ∘ hpend⟩
  rw [hl, hk]

theorem Job.Marked.of_some (j : Job) (e : JobSt × Word × Nat) : j.Marked { j with pendingEnd := some e } := ⟨rfl, fun _ => rfl⟩

theorem State.job_modJob (s : State) (h x : Handle) (f : Job → Job) :
    (s.modJob h f).job x = if x = h then (s.job h).map f else s.job x := by
  unfold State.modJob
  by_cases hx : x = h
  · subst hx
    cases hj : s.job x <;> simp [hj]
  · cases hj : s.job h <;> simp [hx, State.job_setJob]

/-- The job that a mark leaves. -/
def State.marked (s : State) (j : Job) (st : JobSt) (record : Word) : Job :=
  if s.canEnd j then
    match j.pendingEnd with
    | none => { j with pendingEnd := some (st, record, s.beat + 1) }
    | some (.ended, _, _) => j
    | some _ => if st = .ended then { j with pendingEnd := some (st, record, s.beat + 1) } else j
  else j

theorem State.markEnd_eq (s : State) (h : Handle) (st : JobSt) (record : Word) :
    s.markEnd h st record = s.modJob h fun j => s.marked j st record := rfl

theorem State.marked_marked (s : State) (j : Job) (st : JobSt) (record : Word) : j.Marked (s.marked j st record) := by
  unfold State.marked
  split
  · split
    · exact .of_some ..
    · exact .refl j
    · split
      · exact .of_some ..
      · exact .refl j
  · exact .refl j

theorem State.marked_isSome {s : State} {j : Job} (st : JobSt) (record : Word) (h : s.canEnd j = true) :
    (s.marked j st record).pendingEnd.isSome = true := by
  unfold State.marked
  rw [if_pos h]
  split
  · rfl
  · simp [*]
  · split <;> simp [*]

/-- Whether a job can end does not depend on a mark, nor on the state but for the beat. -/
theorem State.canEnd_of_marked {s t : State} {j k : Job} (hbeat : t.beat = s.beat) (h : j.Marked k) : t.canEnd k = s.canEnd j := by
  rw [h.1]
  simp only [State.canEnd, hbeat]

/-! ## The relation -/

/-- From `s` to `t` errors were reported and the Whistle may have sounded: the registers below those of trace, Whistle and errors,
the latches below those of the error classes, the clock, the cores and their units stand, the die is halted or runs as before,
jobs are marked at most, and a Whistle that has sounded has sounded still. -/
structure State.Reported (s t : State) : Prop where
  coresUnits : t.coresUnits = s.coresUnits
  clock : t.queueClock = s.queueClock
  reg : ∀ o < Dcb.traceCtrl, t.dcbReg o = s.dcbReg o
  latch : ∀ n < 169, t.latchCount n = s.latchCount n
  halted : t.halted = s.halted
  sounded : s.whistle.pending = true → t.whistle.pending = true
  job : ∀ h j, s.job h = some j → ∃ k, t.job h = some k ∧ j.Marked k

namespace State.Reported

variable {s t u : State}

theorem refl (s : State) : Reported s s :=
  ⟨rfl, rfl, fun _ _ => rfl, fun _ _ => rfl, rfl, id, fun _ j h => ⟨j, h, .refl j⟩⟩

theorem trans (h : Reported s t) (h' : Reported t u) : Reported s u where
  coresUnits := h'.coresUnits.trans h.coresUnits
  clock := h'.clock.trans h.clock
  reg o ho := (h'.reg o ho).trans (h.reg o ho)
  latch n hn := (h'.latch n hn).trans (h.latch n hn)
  halted := h'.halted.trans h.halted
  sounded := h'.sounded ∘ h.sounded
  job x j hj := by
    obtain ⟨k, hk, hmark⟩ := h.job x j hj
    obtain ⟨l, hl, hmark'⟩ := h'.job x k hk
    exact ⟨l, hl, hmark.trans hmark'⟩

theorem ite {p : Prop} [Decidable p] (h : Reported s t) (h' : Reported s u) : Reported s (if p then t else u) := by
  split
  · exact h
  · exact h'

theorem foldl {α : Type} {f : State → α → State} (h : ∀ (t : State) (a : α), Reported t (f t a)) (l : List α) (s : State) :
    Reported s (l.foldl f s) :=
  List.foldlRecOn (motive := fun t : State => Reported s t) l f (refl s) fun _ ht a _ => ht.trans (h _ a)

/-- A register of trace, Whistle or errors is written, and the die is halted or runs as before. -/
theorem setDcb {s : State} {o : Nat} {v : Dword} (ho : Dcb.traceCtrl ≤ o) (hrun : (s.setDcb o v).halted = s.halted) :
    Reported s (s.setDcb o v) where
  coresUnits := by simp
  clock := by simp
  reg x hx := by rw [State.dcbReg_setDcb, if_neg (by omega)]
  latch _ _ := State.latchCount_of_ic (State.setDcb_ic ..) _
  halted := hrun
  sounded h := h
  job _ j hj := ⟨j, hj, .refl j⟩

theorem halted_setDcb (s : State) {o : Nat} (v : Dword) (h : o ≠ Dcb.whistleStat) : (s.setDcb o v).halted = s.halted := by
  rw [State.halted, State.dcbF, State.dcbReg_setDcb, if_neg h.symm, State.halted, State.dcbF]

/-- A register of trace, Whistle or errors other than WHISTLE_STAT is written. -/
theorem setDcb_ne (s : State) {o : Nat} (v : Dword) (ho : Dcb.traceCtrl ≤ o) (h : o ≠ Dcb.whistleStat) :
    Reported s (s.setDcb o v) := setDcb ho (halted_setDcb s v h)

/-- A field of WHISTLE_STAT above HALTED is written. -/
theorem setWhistleStat (s : State) {lo n : Nat} (v : Nat) (h : 1 ≤ lo) : Reported s (s.setDcbF Dcb.whistleStat lo n v) := by
  refine setDcb (by decide) ?_
  rw [State.halted, ← State.setDcbF, State.dcbF_setDcbF_beside _ _ _ (by decide) (.inl h), State.halted]

theorem dieEvent (s : State) {n : Nat} (hn : 169 ≤ n) : Reported s (s.dieEvent n) where
  coresUnits := by simp
  clock := by simp
  reg _ _ := State.dcbReg_of_dcb (State.dieEvent_dcb ..) _
  latch x hx := State.latchCount_dieEvent_ne s (by omega)
  halted := rfl
  sounded h := h
  job _ j hj := ⟨j, hj, .refl j⟩

/-- The error records of the units and the record of the fatal error change. -/
theorem setErr (s : State) (e : Errors) : Reported s { s with err := e } :=
  ⟨rfl, rfl, fun _ _ => rfl, fun _ _ => rfl, rfl, id, fun _ j h => ⟨j, h, .refl j⟩⟩

theorem modJob {s : State} {f : Job → Job} (h : Handle) (hf : ∀ j : Job, j.Marked (f j)) : Reported s (s.modJob h f) where
  coresUnits := State.modJob_coresUnits ..
  clock := by simp
  reg _ _ := by unfold State.modJob; split <;> rfl
  latch _ _ := by unfold State.modJob; split <;> rfl
  halted := by unfold State.modJob; split <;> rfl
  sounded := by unfold State.modJob; split <;> exact id
  job x j hj := by
    rw [State.job_modJob]
    by_cases hx : x = h
    · subst hx
      exact ⟨f j, by simp [hj], hf j⟩
    · exact ⟨j, by simp [hx, hj], .refl j⟩

theorem markEnd (s : State) (h : Handle) (st : JobSt) (record : Word) : Reported s (s.markEnd h st record) :=
  modJob h fun j => s.marked_marked j st record

/-- The Whistle's own state changes to one that has sounded. -/
theorem setWhistle (s : State) {w : Whistle} (h : w.pending = true) : Reported s { s with whistle := w } :=
  ⟨rfl, rfl, fun _ _ => rfl, fun _ _ => rfl, rfl, fun _ => h, fun _ j h => ⟨j, h, .refl j⟩⟩

theorem soundWhistle (s : State) (src : Nat) : Reported s (s.soundWhistle src) := by
  have hstat (t : State) {lo n : Nat} (v : Nat) (h : 1 ≤ lo) : Reported t (t.setDcbF Dcb.whistleStat lo n v) := setWhistleStat t v h
  refine ite (refl s) (ite (ite (hstat _ _ (by decide)) (refl s)) ?_)
  refine trans ?_ (setDcb_ne _ _ (by decide) (by decide))
  exact (((setWhistle s rfl).trans (hstat _ _ (by decide))).trans (hstat _ _ (by decide))).trans (hstat _ _ (by decide))

theorem enterError (s : State) (unit code : Nat) (i : ErrInfo) : Reported s (s.enterError unit code i) := by
  unfold State.enterError
  extract_lets r u pushed u' s₁ s₂ e s₃
  have hcnt : Dcb.traceCtrl ≤ Dcb.errCnt r.cls := by
    have : Dcb.traceCtrl ≤ 0x2E0008 := by decide
    exact this.trans (Nat.le_add_right ..)
  have hne : Dcb.errCnt r.cls ≠ Dcb.whistleStat := by
    simp only [Dcb.errCnt, Dcb.whistleStat]
    omega
  have h₁ : Reported s s₁ := ((setErr s _).trans (setDcb_ne _ _ hcnt hne)).trans (dieEvent _ (Nat.le_add_right ..))
  have h₂ : Reported s s₂ := (h₁.trans (setDcb_ne s₁ _ (by decide) (by decide))).trans (markEnd ..)
  have h₃ : Reported s s₃ := h₂.trans (setErr s₂ _)
  exact ite h₁ (ite (h₁.trans (markEnd ..)) (ite (h₃.trans (soundWhistle ..)) h₃))

theorem beat (h : Reported s t) : t.beat = s.beat := State.beat_of_queueClock h.clock

/-- A job that can end has an end marked after it is marked and more is reported. -/
theorem isSome_of_markEnd {x : Handle} {j : Job} {st : JobSt} {record : Word} (hj : s.job x = some j) (hend : s.canEnd j = true)
    (h : Reported (s.markEnd x st record) t) : ∃ k, t.job x = some k ∧ k.pendingEnd.isSome = true := by
  have hmarked : (s.markEnd x st record).job x = some (s.marked j st record) := by
    simp [State.markEnd_eq, State.job_modJob, hj]
  obtain ⟨k, hk, _, hsome⟩ := h.job x _ hmarked
  exact ⟨k, hk, hsome (State.marked_isSome st record hend)⟩

/-- Of the jobs that are marked one after the other, each that can end has an end marked. -/
theorem isSome_of_foldl_markEnd (st : JobSt) (record : Word) (hs : List Handle) :
    ∀ {t : State} {x : Handle} {j : Job}, x ∈ hs → t.job x = some j → t.canEnd j = true →
      ∃ k, (hs.foldl (fun s h => s.markEnd h st record) t).job x = some k ∧ k.pendingEnd.isSome = true := by
  induction hs with
  | nil => intro t x j hx; cases hx
  | cons h hs ih =>
    intro t x j hx hj hend
    by_cases hxh : x = h
    · subst hxh
      exact isSome_of_markEnd hj hend (foldl (fun _ _ => markEnd ..) hs _)
    · obtain ⟨k, hk, hmark⟩ := (markEnd t h st record).job x j hj
      exact ih ((List.mem_cons.1 hx).resolve_left hxh) hk
        ((State.canEnd_of_marked (markEnd t h st record).beat hmark).trans hend)

end State.Reported

end Sys2Proof.Machine
end

section
/-! Lock-step and the Sideline port (R86, R87, R356, R451): what the comparison of two digests, the end of training and a frame
leave. -/

namespace Sys2Proof.Machine

/-! ## The comparison -/

/-- The Whistle that is sounded on a die that is not halted has sounded. -/
theorem State.soundWhistle_pending {s : State} (src : Nat) (h : s.halted = false) : (s.soundWhistle src).whistle.pending = true := by
  unfold State.soundWhistle
  rw [if_neg (by simp [h])]
  split
  · split <;> simp_all
  · simp

/-- The digests that are still to be compared in this beat or a later one (R86). -/
def State.digestsLeft (s : State) : LinkSys :=
  { s.linkSys with
    ownDigests := s.linkSys.ownDigests.filter fun x => decide (s.beat < s.beatOf64 x.1.toNat + 3)
    peerDigests := s.linkSys.peerDigests.filter fun x => decide (s.beat < s.beatOf64 x.1.toNat + 3) }

/-- The peer's digest of the beat that is compared in this one. -/
def State.peerDigest (s : State) : Option Dword := (s.linkSys.peerDigests.find? fun x => x.1 == s.beatCtr - 3).map (·.2)

/-- The registers in which a failed comparison stands. -/
def State.noteMismatch (s : State) (own : Dword) : State :=
  (((({ s with linkSys := s.digestsLeft }.setDcbBits Dcb.lockstepStat (if s.peerDigest.isSome then 0x2 else 0x4)).setDcb
    Dcb.lockstepBeat (s.beatCtr - 3)).setDcb Dcb.lockstepOwn own).setDcb Dcb.lockstepPeer (s.peerDigest.getD 0)).dieEvent 132

theorem execLockstepCompare_equal {s : State} {n own : Dword} (hcycle : s.cycle = 0) (hrun : s.halted = false)
    (hpend : s.whistle.pending = false) (hown : s.linkSys.ownDigests.find? (fun x => x.1 == s.beatCtr - 3) = some (n, own))
    (hpeer : s.peerDigest = some own) : execLockstepCompare s = .next { s with linkSys := s.digestsLeft } := by
  unfold execLockstepCompare
  rw [if_neg (by simp [hcycle, hrun, hpend])]
  simp only [hown]
  exact if_pos hpeer

theorem execLockstepCompare_differ {s : State} {n own : Dword} (hcycle : s.cycle = 0) (hrun : s.halted = false)
    (hpend : s.whistle.pending = false) (hown : s.linkSys.ownDigests.find? (fun x => x.1 == s.beatCtr - 3) = some (n, own))
    (hpeer : s.peerDigest ≠ some own) :
    ∃ i, execLockstepCompare s = .next (((s.noteMismatch own).enterError UnitNo.cp 0x15 i).soundWhistle 1) := by
  unfold execLockstepCompare
  rw [if_neg (by simp [hcycle, hrun, hpend])]
  simp only [hown]
  exact ⟨_, if_neg hpeer⟩

/-- The registers and the latch after a failed comparison, before the error is entered. -/
theorem State.noteMismatch_spec (s : State) (own : Dword) :
    (s.noteMismatch own).halted = s.halted ∧ (s.noteMismatch own).dcbReg Dcb.lockstepBeat = s.beatCtr - 3 ∧
      (s.noteMismatch own).dcbReg Dcb.lockstepOwn = own ∧ (s.noteMismatch own).dcbReg Dcb.lockstepPeer = s.peerDigest.getD 0 ∧
      (s.noteMismatch own).dcbF Dcb.lockstepStat (if s.peerDigest.isSome then 1 else 2) 1 = 1 ∧
      (s.noteMismatch own).latchCount 132 = min (s.latchCount 132 + 1) 255 := by
  have hreg (t : State) (x : Nat) : (t.dieEvent 132).dcbReg x = t.dcbReg x := State.dcbReg_of_dcb (State.dieEvent_dcb ..) x
  have hstat : (s.noteMismatch own).dcbReg Dcb.lockstepStat =
      ({ s with linkSys := s.digestsLeft }.setDcbBits Dcb.lockstepStat (if s.peerDigest.isSome then 0x2 else 0x4)).dcbReg
        Dcb.lockstepStat := by
    simp [State.noteMismatch, hreg, State.dcbReg_setDcb, Dcb.lockstepBeat, Dcb.lockstepOwn, Dcb.lockstepPeer, Dcb.lockstepStat]
  refine ⟨?_, ?_, ?_, ?_, ?_, State.latchCount_dieEvent_self ..⟩
  · simp only [State.halted, State.dcbF, State.noteMismatch, hreg, State.dcbReg_setDcb, State.dcbReg_setDcbBits]
    rfl
  · simp [State.noteMismatch, hreg, State.dcbReg_setDcb, Dcb.lockstepBeat, Dcb.lockstepOwn, Dcb.lockstepPeer]
  · simp [State.noteMismatch, hreg, State.dcbReg_setDcb, Dcb.lockstepOwn, Dcb.lockstepPeer]
  · simp [State.noteMismatch, hreg]
  · rw [State.dcbF_of_dcbReg hstat]
    cases s.peerDigest.isSome
    · exact State.dcbF_setDcbBits_self _ _ (by decide)
    · exact State.dcbF_setDcbBits_self _ _ (by decide)

/-! ## The Sideline port -/

/-- What a frame of the Sideline port takes and counts. -/
theorem execSidelineFrame_spec {s : State} (hup : s.dcbF Dcb.sideStat 0 2 = 2) (hreset : s.power.coldReset = false) :
    ∃ t, execSidelineFrame s = .next t ∧
      t.trace.buffer = s.trace.buffer.drop (if s.trace.dropped = 0 then 3596 else 3595) ∧ t.trace.dropped = 0 ∧
      t.dcbReg Dcb.sideFrames = BitVec.ofNat 64 (min ((s.dcbReg Dcb.sideFrames).toNat + 1) (2 ^ 64 - 1)) := by
  unfold execSidelineFrame
  rw [if_neg (by simp [hup, hreset])]
  refine ⟨_, rfl, ?_, ?_, ?_⟩
  · simp only [State.countDcb_trace, State.setDcbF_trace]
    split <;> rfl
  · simp only [State.countDcb_trace, State.setDcbF_trace]
  · rw [State.dcbReg_countDcb, if_pos rfl, State.dcbReg_setDcbF, if_neg (by decide)]
    rfl

/-- Settles O47: a failed comparison notes its registers before the error is entered, and neither the entry nor the Whistle
changes them. -/
theorem lockstepAndSideline : Obligations.LockstepAndSideline := by
  unfold Obligations.LockstepAndSideline
  refine ⟨fun s own n hcycle hrun hpend hown => ⟨fun hpeer => ?_, fun hpeer => ?_⟩, fun s hreset => ⟨?_, fun hup => ?_⟩⟩
  · exact ⟨_, execLockstepCompare_equal hcycle hrun hpend hown hpeer, rfl⟩
  · obtain ⟨i, hi⟩ := execLockstepCompare_differ hcycle hrun hpend hown hpeer
    obtain ⟨hnoted, hbeat, hown', hpeer', hstat, hlatch⟩ := s.noteMismatch_spec own
    have hentered := State.Reported.enterError (s.noteMismatch own) UnitNo.cp 0x15 i
    have hsound := hentered.trans (.soundWhistle _ 1)
    refine ⟨_, hi, State.soundWhistle_pending 1 (hentered.halted.trans (hnoted.trans hrun)), ?_, ?_, ?_, ?_, ?_⟩
    · exact (hsound.reg _ (by decide)).trans hbeat
    · exact (hsound.reg _ (by decide)).trans hown'
    · exact (hsound.reg _ (by decide)).trans hpeer'
    · exact (State.dcbF_of_dcbReg (hsound.reg _ (by decide)) ..).trans hstat
    · exact (hsound.latch 132 (by decide)).trans hlatch
  · refine ⟨_, if_neg (by simp [hreset]), ?_⟩
    exact State.dcbF_setDcbF_self _ _ _ (by decide)
  · exact execSidelineFrame_spec hup hreset

end Sys2Proof.Machine
end

section
/-! Ports and the beat lock (R81, R84, R343, R347 to R350): the measured distance, the registers of a port that comes up or falls, the
lock on the master's count and its loss. -/

namespace Sys2Proof.Machine

/-! ## The measured distance (R348) -/

theorem le_foldl_max {α : Type} (f : α → Nat) (l : List α) (n : Nat) :
    n ≤ l.foldl (fun n x => max n (f x)) n ∧ ∀ x ∈ l, f x ≤ l.foldl (fun n x => max n (f x)) n := by
  induction l generalizing n with
  | nil => simp
  | cons a l ih =>
    obtain ⟨hstart, hmem⟩ := ih (max n (f a))
    rw [List.foldl_cons]
    refine ⟨(Nat.le_max_left ..).trans hstart, fun x hx => ?_⟩
    rcases List.mem_cons.1 hx with rfl | hx
    · exact (Nat.le_max_right ..).trans hstart
    · exact hmem x hx

theorem foldl_max_eq {α : Type} (f : α → Nat) (l : List α) (n : Nat) :
    l.foldl (fun n x => max n (f x)) n = n ∨ ∃ x ∈ l, l.foldl (fun n x => max n (f x)) n = f x := by
  induction l generalizing n with
  | nil => simp
  | cons a l ih =>
    rw [List.foldl_cons]
    rcases ih (max n (f a)) with h | ⟨x, hx, h⟩
    · rcases Nat.le_total n (f a) with hle | hle
      · exact .inr ⟨a, List.mem_cons_self .., h.trans (max_eq_right hle)⟩
      · exact .inl (h.trans (max_eq_left hle))
    · exact .inr ⟨x, List.mem_cons_of_mem _ hx, h⟩

theorem halfRound_le_measuredD {rounds : List (Nat × Nat)} {x : Nat × Nat} (h : x ∈ rounds) : halfRound x ≤ measuredD rounds :=
  (le_foldl_max halfRound rounds 0).2 x h

/-- The distance is one of the measurements. -/
theorem measuredD_eq_halfRound {rounds : List (Nat × Nat)} (h : rounds ≠ []) : ∃ x ∈ rounds, measuredD rounds = halfRound x := by
  rcases foldl_max_eq halfRound rounds 0 with hzero | hround
  · obtain ⟨x, hx⟩ := List.exists_mem_of_ne_nil rounds h
    have hle : halfRound x ≤ measuredD rounds := halfRound_le_measuredD hx
    exact ⟨x, hx, by rw [measuredD, hzero] at hle ⊢; omega⟩
  · exact hround

/-! ## A port comes up -/

/-- A field inside the one written. -/
theorem bitsOf_putF_inside (x : Dword) {lo n lo' n' : Nat} (v : Nat) (hw : lo + n ≤ 64) (hlo : lo ≤ lo') (hhi : lo' + n' ≤ lo + n) :
    bitsOf (putF x lo n v).toNat lo' n' = bitsOf v (lo' - lo) n' := by
  rw [putF, bitsOf_ofNat _ (hhi.trans hw)]
  refine Nat.eq_of_testBit_eq fun i => ?_
  simp only [bitsOf, Nat.testBit_mod_two_pow, Nat.testBit_shiftRight, testBit_putBits]
  by_cases hi : i < n'
  · have hin : lo ≤ lo' + i ∧ lo' + i < lo + n := by omega
    have hidx : lo' + i - lo = lo' - lo + i := by omega
    simp [hi, hin, hidx]
  · simp [hi]

/-- The state after training of a port has measured `d`. -/
def State.linkTrained (s : State) (l d pm pp : Nat) : State :=
  let s := (s.setDcbF (Dcb.linkDelay l) 0 16 d).setDcbF (Dcb.linkDelay l) 16 8 (1 + (d + 132) / 750)
  let s := (s.setDcbF (Dcb.linkStat l) 0 3 (2 + 4 * bit (decide (d + 132 ≤ 742)))).setDcbF (Dcb.linkStat l) 16 6 pm
  let s := (s.setDcbF (Dcb.linkStat l) 24 4 pp).dieEvent (136 + l)
  s.setLink l { s.link l with lostRun := 0 }

theorem execLinkUp_eq {port : BitVec 4} {rounds : List (Nat × Nat)} {pm : BitVec 6} {pp : BitVec 4} {s : State}
    (hwf : (Instr.linkUp port rounds pm pp).wf = true) (hreset : s.power.coldReset = false) (htrain : s.linkState port.toNat = 1) :
    execLinkUp port rounds pm pp s = .next (s.linkTrained port.toNat (measuredD rounds) pm.toNat pp.toNat) := by
  unfold execLinkUp
  rw [whenFormed, if_pos hwf]
  exact if_neg (by simp [hreset, htrain])

theorem Dcb.linkDelay_ne_linkStat (k l : Nat) : Dcb.linkDelay k ≠ Dcb.linkStat l := by
  simp only [Dcb.linkDelay, Dcb.linkStat]
  omega

theorem State.linkTrained_linkStat (s : State) (l d pm pp : Nat) :
    (s.linkTrained l d pm pp).dcbReg (Dcb.linkStat l) =
      putF (putF (putF (s.dcbReg (Dcb.linkStat l)) 0 3 (2 + 4 * bit (decide (d + 132 ≤ 742)))) 16 6 pm) 24 4 pp := by
  have hne := (Dcb.linkDelay_ne_linkStat l l).symm
  unfold State.linkTrained
  rw [State.dcbReg_of_dcb (State.setLink_dcb ..), State.dcbReg_of_dcb (State.dieEvent_dcb ..)]
  simp only [State.dcbReg_setDcbF, if_true, if_neg hne]

theorem State.linkTrained_linkDelay (s : State) (l d pm pp : Nat) :
    (s.linkTrained l d pm pp).dcbReg (Dcb.linkDelay l) =
      putF (putF (s.dcbReg (Dcb.linkDelay l)) 0 16 d) 16 8 (1 + (d + 132) / 750) := by
  unfold State.linkTrained
  rw [State.dcbReg_of_dcb (State.setLink_dcb ..), State.dcbReg_of_dcb (State.dieEvent_dcb ..)]
  simp only [State.dcbReg_setDcbF, if_true, if_neg (Dcb.linkDelay_ne_linkStat l l)]

/-- STATE is UP, SHORT, the peer's module and port stand in LINK_STAT. -/
theorem State.linkTrained_stat (s : State) {l d pm pp : Nat} (hpm : pm < 2 ^ 6) (hpp : pp < 2 ^ 4) :
    (s.linkTrained l d pm pp).linkState l = 2 ∧
      (s.linkTrained l d pm pp).dcbF (Dcb.linkStat l) 2 1 = bit (decide (d + 132 ≤ 742)) ∧
      (s.linkTrained l d pm pp).dcbF (Dcb.linkStat l) 16 6 = pm ∧ (s.linkTrained l d pm pp).dcbF (Dcb.linkStat l) 24 4 = pp := by
  have hstate (v : Nat) (b : Bool) (x : Dword) : bitsOf (putF x 0 3 (2 + 4 * bit b)).toNat 0 2 = 2 := by
    rw [bitsOf_putF_inside _ _ (by decide) (by decide) (by decide)]
    cases b <;> rfl
  have hshort (b : Bool) (x : Dword) : bitsOf (putF x 0 3 (2 + 4 * bit b)).toNat 2 1 = bit b := by
    rw [bitsOf_putF_inside _ _ (by decide) (by decide) (by decide)]
    cases b <;> rfl
  simp only [State.linkState, State.dcbF, State.linkTrained_linkStat]
  refine ⟨?_, ?_, ?_, ?_⟩
  · rw [bitsOf_putF_ne _ _ (by decide) (by decide), bitsOf_putF_ne _ _ (by decide) (by decide), hstate 0]
  · rw [bitsOf_putF_ne _ _ (by decide) (by decide), bitsOf_putF_ne _ _ (by decide) (by decide), hshort]
  · rw [bitsOf_putF_ne _ _ (by decide) (by decide), bitsOf_putF_self _ _ (by decide), Nat.mod_eq_of_lt hpm]
  · rw [bitsOf_putF_self _ _ (by decide), Nat.mod_eq_of_lt hpp]

/-- d and T stand in LINK_DELAY. -/
theorem State.linkTrained_delay (s : State) {l d : Nat} (pm pp : Nat) (hd : d < 2 ^ 16) :
    (s.linkTrained l d pm pp).dcbF (Dcb.linkDelay l) 0 16 = d ∧
      (s.linkTrained l d pm pp).dcbF (Dcb.linkDelay l) 16 8 = 1 + (d + 132) / 750 := by
  simp only [State.dcbF, State.linkTrained_linkDelay]
  refine ⟨?_, ?_⟩
  · rw [bitsOf_putF_ne _ _ (by decide) (by decide), bitsOf_putF_self _ _ (by decide), Nat.mod_eq_of_lt hd]
  · rw [bitsOf_putF_self _ _ (by decide)]
    omega

theorem State.latchCount_linkTrained (s : State) (l d pm pp : Nat) :
    (s.linkTrained l d pm pp).latchCount (136 + l) = min (s.latchCount (136 + l) + 1) 255 := by
  unfold State.linkTrained
  rw [State.latchCount_of_ic (State.setLink_ic ..), State.latchCount_dieEvent_self]
  simp only [State.latchCount, State.setDcbF_ic]

/-- The measurements of a well-formed LINK_UP: 1,024 of them, none above 65,535. -/
theorem rounds_of_wf {port : BitVec 4} {rounds : List (Nat × Nat)} {pm : BitVec 6} {pp : BitVec 4}
    (h : (Instr.linkUp port rounds pm pp).wf = true) : rounds ≠ [] ∧ ∀ x ∈ rounds, x.2 ≤ x.1 ∧ x.1 ≤ x.2 + 131070 := by
  simp only [Instr.wf, Bool.and_eq_true, decide_eq_true_eq, List.all_eq_true] at h
  refine ⟨?_, h.2⟩
  rintro rfl
  exact absurd h.1 (by decide)

/-- d is at least half of every measurement and at most half a cycle above one of them, and fits its field. -/
theorem measuredD_spec {rounds : List (Nat × Nat)} (hne : rounds ≠ []) (hr : ∀ x ∈ rounds, x.2 ≤ x.1 ∧ x.1 ≤ x.2 + 131070) :
    (∀ x ∈ rounds, x.1 - x.2 ≤ 2 * measuredD rounds) ∧ (∃ x ∈ rounds, 2 * measuredD rounds ≤ x.1 - x.2 + 1) ∧
      measuredD rounds < 2 ^ 16 := by
  obtain ⟨x, hx, heq⟩ := measuredD_eq_halfRound hne
  refine ⟨fun y hy => ?_, ⟨x, hx, ?_⟩, ?_⟩
  · have hle := halfRound_le_measuredD hy
    rw [halfRound] at hle
    omega
  · rw [heq, halfRound]
    omega
  · obtain ⟨-, hx'⟩ := hr x hx
    rw [heq, halfRound]
    omega

/-! ## The loss of lock (R84, R350) -/

theorem mem_of_tabFind {β : Type} {t : Tab β} {k : Nat} {v : β} (h : tabFind t k = some v) : (k, v) ∈ t := by
  induction t with
  | nil => cases h
  | cons e t ih =>
    unfold tabFind at h
    split at h
    · next hkey => exact Option.some.inj h ▸ hkey ▸ List.mem_cons_self ..
    · exact List.mem_cons_of_mem _ (ih h)

theorem State.job_of_jobs {s t : State} (h : t.jobs = s.jobs) (x : Handle) : t.job x = s.job x := by
  rw [State.job, h, State.job]

/-- The registers and the latch of a lost lock. -/
def State.lockDropped (s : State) : State :=
  (((s.setDcbF Dcb.beatSync 0 1 0).setDcbF Dcb.beatSync 2 1 0).setDcbBits Dcb.beatSync 0x8).dieEvent 134

/-- The multi-module jobs that hold resources and can end. -/
def State.multiJobs (s : State) : List Handle :=
  (s.jobs.filter fun e => s.canEnd e.2 && e.2.st != .waiting && e.2.multi).map fun e => BitVec.ofNat 16 e.1

theorem State.lockLoss_eq {s : State} (h : s.locked = true ∨ s.dcbF Dcb.beatSync 2 1 = 1) :
    ∃ id, s.lockLoss =
      s.multiJobs.foldl (fun t h => t.markEnd h .contained id) (s.lockDropped.enterError UnitNo.cp 0x14 {}) :=
  ⟨_, if_pos h⟩

theorem State.Reported.markAll (s : State) (hs : List Handle) (st : JobSt) (record : Word) :
    s.Reported (hs.foldl (fun t h => t.markEnd h st record) s) := .foldl (fun t h => .markEnd t h st record) hs s

theorem State.Reported.enterFor (s : State) (unit code detail : Nat) (hs : List Handle) :
    s.Reported (s.enterFor unit code detail hs) := .trans (.enterError ..) (.markAll ..)

/-- What the loss of lock leaves, from the dropped lock on. -/
theorem State.lockLoss_reported {s : State} (h : s.locked = true ∨ s.dcbF Dcb.beatSync 2 1 = 1) :
    s.lockDropped.Reported s.lockLoss := by
  obtain ⟨id, hid⟩ := State.lockLoss_eq h
  rw [hid]
  exact .trans (.enterError ..) (.markAll ..)

theorem State.lockDropped_dcbReg (s : State) {o : Nat} (h : o ≠ Dcb.beatSync) : s.lockDropped.dcbReg o = s.dcbReg o := by
  rw [State.lockDropped, State.dcbReg_of_dcb (State.dieEvent_dcb ..)]
  simp only [State.dcbReg_setDcbBits, State.dcbReg_setDcbF, if_neg h]

theorem State.lockLoss_dcbReg (s : State) {o : Nat} (h : o < Dcb.traceCtrl) (hne : o ≠ Dcb.beatSync) :
    s.lockLoss.dcbReg o = s.dcbReg o := by
  by_cases hlock : s.locked = true ∨ s.dcbF Dcb.beatSync 2 1 = 1
  · exact ((State.lockLoss_reported hlock).reg o h).trans (s.lockDropped_dcbReg hne)
  · rw [State.lockLoss, if_neg hlock]

theorem State.lockLoss_latchCount (s : State) {n : Nat} (h : n < 169) (hne : n ≠ 134) :
    s.lockLoss.latchCount n = s.latchCount n := by
  by_cases hlock : s.locked = true ∨ s.dcbF Dcb.beatSync 2 1 = 1
  · exact ((State.lockLoss_reported hlock).latch n h).trans (State.latchCount_dieEvent_ne _ hne)
  · rw [State.lockLoss, if_neg hlock]

/-- LOCKED falls and LOSTLOCK is set. -/
theorem State.lockDropped_fields (s : State) : s.lockDropped.locked = false ∧ s.lockDropped.dcbF Dcb.beatSync 3 1 = 1 := by
  have hreg : s.lockDropped.dcbReg Dcb.beatSync = putF (putF (s.dcbReg Dcb.beatSync) 0 1 0) 2 1 0 ||| 8 := by
    rw [State.lockDropped, State.dcbReg_of_dcb (State.dieEvent_dcb ..)]
    simp only [State.dcbReg_setDcbBits, State.dcbReg_setDcbF, if_true]
  simp only [State.locked, State.dcbF, hreg]
  refine ⟨?_, ?_⟩
  · rw [bitsOf_or_of_zero _ (by decide), bitsOf_putF_ne _ _ (by decide) (by decide), bitsOf_putF_self _ _ (by decide)]
    rfl
  · rw [bitsOf_eq_extract, BitVec.extractLsb'_or]
    generalize BitVec.extractLsb' 3 1 _ = y
    revert y
    decide

/-- Every multi-module job that can end and holds resources has an end marked. -/
theorem State.lockLoss_job {s : State} {h : Handle} {j : Job} (hlock : s.locked = true) (hj : s.job h = some j)
    (hend : s.canEnd j = true) (hst : j.st ≠ .waiting) (hmulti : j.multi = true) :
    ∃ k, s.lockLoss.job h = some k ∧ k.pendingEnd.isSome = true := by
  obtain ⟨id, hid⟩ := State.lockLoss_eq (s := s) (.inl hlock)
  have hmem : h ∈ s.multiJobs := by
    refine List.mem_map.2 ⟨(h.toNat, j), List.mem_filter.2 ⟨?_, by simp [hend, hst, hmulti]⟩, by simp⟩
    exact mem_of_tabFind hj
  have hdropped : s.lockDropped.job h = some j := (State.job_of_jobs (by simp [State.lockDropped]) h).trans hj
  have hentered := State.Reported.enterError s.lockDropped UnitNo.cp 0x14 {}
  have hbeat : s.lockDropped.beat = s.beat := by simp [State.lockDropped]
  obtain ⟨k, hk, hmark⟩ := hentered.job h j hdropped
  have hend' := State.canEnd_of_marked (hentered.beat.trans hbeat) hmark
  rw [hid]
  exact State.Reported.isSome_of_foldl_markEnd .contained id s.multiJobs hmem hk (hend'.trans hend)

/-! ## A port falls -/

/-- The registers and the latch of a port that trains anew. -/
def State.portDropped (s : State) (l : Nat) : State :=
  ((s.setDcbF (Dcb.linkStat l) 0 2 1).setDcbBits (Dcb.linkFlags l) 0x4).dieEvent (152 + l)

theorem State.portDropped_fields (s : State) (l : Nat) :
    (s.portDropped l).linkState l = 1 ∧ (s.portDropped l).dcbF (Dcb.linkFlags l) 2 1 = 1 ∧
      (s.portDropped l).latchCount (152 + l) = min (s.latchCount (152 + l) + 1) 255 := by
  have hne : Dcb.linkStat l ≠ Dcb.linkFlags l := by
    simp only [Dcb.linkStat, Dcb.linkFlags]
    omega
  have hreg (o : Nat) : (s.portDropped l).dcbReg o =
      ((s.setDcbF (Dcb.linkStat l) 0 2 1).setDcbBits (Dcb.linkFlags l) 0x4).dcbReg o := State.dcbReg_of_dcb (State.dieEvent_dcb ..) o
  refine ⟨?_, ?_, ?_⟩
  · rw [State.linkState, State.dcbF, hreg, State.dcbReg_setDcbBits, if_neg hne, ← State.dcbF]
    exact State.dcbF_setDcbF_self _ _ _ (by decide)
  · rw [State.dcbF_of_dcbReg (hreg _)]
    exact State.dcbF_setDcbBits_self _ _ (by decide)
  · exact State.latchCount_dieEvent_self ..

/-- From the dropped port on, a fall reports the error and loses the lock over an upstream port. -/
theorem State.linkFall_keeps {s : State} {l : Nat} (h : s.linkState l = 2) :
    (∀ o < Dcb.traceCtrl, o ≠ Dcb.beatSync → (s.linkFall l).dcbReg o = (s.portDropped l).dcbReg o) ∧
      ∀ n < 169, n ≠ 134 → (s.linkFall l).latchCount n = (s.portDropped l).latchCount n := by
  have hfor := State.Reported.enterFor ((s.portDropped l).setLink l { (s.portDropped l).link l with lostRun := 0 }) (UnitNo.link l)
    0x12 0 (s.jobsOnLink l)
  unfold State.linkFall
  rw [if_pos h]
  dsimp only
  refine ⟨fun o ho hne => ?_, fun n hn hne => ?_⟩
  · have hbase := (hfor.reg o ho).trans (State.dcbReg_of_dcb (State.setLink_dcb ..) o)
    split
    · exact (State.lockLoss_dcbReg _ ho hne).trans hbase
    · exact hbase
  · have hbase := (hfor.latch n hn).trans (State.latchCount_of_ic (State.setLink_ic ..) n)
    split
    · exact (State.lockLoss_latchCount _ hn hne).trans hbase
    · exact hbase

/-! ## The lock on the master's count (R81, R349) -/

theorem State.loadCount_dcbReg (s : State) (n o : Nat) : (s.loadCount n).dcbReg o = s.dcbReg o := rfl

theorem State.takeLock_beatSync (s : State) (l : Nat) :
    (s.takeLock l).dcbReg Dcb.beatSync = putF (putF (s.dcbReg Dcb.beatSync) 0 1 1) 2 1 0 := by
  unfold State.takeLock
  simp only [State.dcbReg_setDcbF, State.loadCount_dcbReg, if_true, Dcb.beatSync, Dcb.linkSys, Nat.reduceEqDiff, if_false]

/-- The counter and the cycle are the master's, LOCKED is set and nothing is pending. -/
theorem State.takeLock_spec (s : State) (l : Nat) :
    (s.takeLock l).locked = true ∧ (s.takeLock l).dcbF Dcb.beatSync 2 1 = 0 ∧
      (s.takeLock l).beatCtr = BitVec.ofNat 64 (s.masterNow l / 750) ∧ (s.takeLock l).cycle = s.masterNow l % 750 := by
  refine ⟨?_, ?_, ?_, rfl⟩
  · rw [State.locked, State.dcbF, State.takeLock_beatSync, bitsOf_putF_ne _ _ (by decide) (by decide),
      bitsOf_putF_self _ _ (by decide)]
    rfl
  · rw [State.dcbF, State.takeLock_beatSync, bitsOf_putF_self _ _ (by decide), Nat.zero_mod]
  · refine BitVec.eq_of_toNat_eq ?_
    show (BitVec.ofNat 64 (s.masterNow l / 750 % 2 ^ 64 + 2 ^ 64)).toNat = _
    simp

theorem State.takeLock_align (s : State) (l : Nat) : (s.takeLock l).dcbF Dcb.beatSync 16 8 = s.dcbF Dcb.beatSync 16 8 := by
  rw [State.dcbF, State.takeLock_beatSync, bitsOf_putF_ne _ _ (by decide) (by decide), bitsOf_putF_ne _ _ (by decide) (by decide)]
  rfl

/-- The master's count does not depend on BEAT_SYNC. -/
theorem State.masterNow_setBeatSync (s : State) (lo n v l : Nat) : (s.setDcbF Dcb.beatSync lo n v).masterNow l = s.masterNow l := by
  have hne : Dcb.linkDelay l ≠ Dcb.beatSync := by
    simp only [Dcb.linkDelay, Dcb.beatSync]
    omega
  have hd : (s.setDcbF Dcb.beatSync lo n v).linkD l = s.linkD l := State.dcbF_setDcbF_ne _ _ _ _ _ _ hne
  simp only [State.masterNow, State.linkLat, hd]
  rfl

/-- BEAT_LOCK over a good upstream port of a die that is not locked. -/
theorem execBeatLock_eq {align : BitVec 8} {s : State} {l : Nat} (hwf : align.toNat ≤ 4 ∨ 252 ≤ align.toNat) (hup : s.upstream = some l)
    (hstate : s.linkState l = 2) (hpeer : ((s.link l).peerLocked || (s.link l).peerMaster) = true) (hat : (s.link l).peerAt ≠ none)
    (hlock : s.locked = false) :
    execBeatLock align s = .next (if s.jobHeld then (s.setDcbF Dcb.beatSync 16 8 align.toNat).setDcbF Dcb.beatSync 2 1 1
      else (s.setDcbF Dcb.beatSync 16 8 align.toNat).takeLock l) := by
  have hformed : (Instr.beatLock align).wf = true := by simpa [Instr.wf] using hwf
  unfold execBeatLock
  rw [whenFormed, if_pos hformed]
  simp only [hup]
  have hheld : (s.setDcbF Dcb.beatSync 16 8 align.toNat).jobHeld = s.jobHeld := by
    rw [State.jobHeld, State.setDcbF_jobs, State.setDcbF_beat, State.jobHeld]
  rw [if_neg (by simp [hstate, hpeer, hat, hlock]), hheld]

theorem execBeatLock_spec {align : BitVec 8} {s : State} {l : Nat} (hwf : align.toNat ≤ 4 ∨ 252 ≤ align.toNat)
    (hup : s.upstream = some l) (hstate : s.linkState l = 2) (hpeer : ((s.link l).peerLocked || (s.link l).peerMaster) = true)
    (hat : (s.link l).peerAt ≠ none) (hlock : s.locked = false) :
    ∃ t, execBeatLock align s = .next t ∧ t.dcbF Dcb.beatSync 16 8 = align.toNat ∧
      (s.jobHeld = false → t.locked = true ∧ t.beatCtr = BitVec.ofNat 64 (s.masterNow l / 750) ∧ t.cycle = s.masterNow l % 750) ∧
      (s.jobHeld = true → t.locked = false ∧ t.dcbF Dcb.beatSync 2 1 = 1 ∧ t.beat = s.beat ∧ t.cycle = s.cycle) := by
  have halign : (s.setDcbF Dcb.beatSync 16 8 align.toNat).dcbF Dcb.beatSync 16 8 = align.toNat := by
    rw [State.dcbF_setDcbF_self _ _ _ (by decide), Nat.mod_eq_of_lt align.isLt]
  have heq := execBeatLock_eq hwf hup hstate hpeer hat hlock
  cases hheld : s.jobHeld with
  | true =>
    rw [if_pos hheld] at heq
    refine ⟨_, heq, (State.dcbF_setDcbF_beside _ _ _ (by decide) (by decide)).trans halign, nofun, fun _ => ⟨?_, ?_, by simp, by simp⟩⟩
    · have hlocked := (State.dcbF_setDcbF_beside (s.setDcbF Dcb.beatSync 16 8 align.toNat) Dcb.beatSync 1 (lo := 2) (n := 1) (lo' := 0)
        (n' := 1) (by decide) (by decide)).trans (State.dcbF_setDcbF_beside s Dcb.beatSync align.toNat (by decide) (by decide))
      rw [State.locked] at hlock ⊢
      exact (congrArg (· == 1) hlocked).trans hlock
    · exact State.dcbF_setDcbF_self _ _ _ (by decide)
  | false =>
    rw [if_neg (by simp [hheld])] at heq
    obtain ⟨hlocked, -, hctr, hcycle⟩ := (s.setDcbF Dcb.beatSync 16 8 align.toNat).takeLock_spec l
    rw [State.masterNow_setBeatSync] at hctr hcycle
    exact ⟨_, heq, (State.takeLock_align ..).trans halign, fun _ => ⟨hlocked, hctr, hcycle⟩, nofun⟩

/-- COUNTER_LOAD at a boundary without a held job. -/
theorem execCounterLoad_eq {s : State} {l : Nat} (hup : s.upstream = some l) (hpend : s.dcbF Dcb.beatSync 2 1 = 1)
    (hheld : s.jobHeld = false) (hcycle : s.cycle = 0) : execCounterLoad s = .next (s.takeLock l) := by
  unfold execCounterLoad
  simp only [hup]
  exact if_pos (by simp [hpend, hheld, hcycle])

/-- Settles O46: each clause is the spec lemma of its operation; a reported error changes neither a port's registers nor its
latches. -/
theorem portsAndTheBeatLock : Obligations.PortsAndTheBeatLock := by
  unfold Obligations.PortsAndTheBeatLock
  refine ⟨fun port rounds pm pp s hreset htrain hwf => ?_, fun port s hup => ?_, fun align s l hwf hup hstate hpeer hat hlock => ?_,
    fun s l hup hpend hheld hcycle => ?_, fun s hlock => ?_⟩
  · obtain ⟨hne, hr⟩ := rounds_of_wf hwf
    obtain ⟨hle, hge, hd⟩ := measuredD_spec hne hr
    obtain ⟨hstate, hshort, hpm, hpp⟩ := s.linkTrained_stat (l := port.toNat) (d := measuredD rounds) pm.isLt pp.isLt
    obtain ⟨hdelay, hperiod⟩ := s.linkTrained_delay (l := port.toNat) pm.toNat pp.toNat hd
    exact ⟨hle, hge, _, execLinkUp_eq hwf hreset htrain, hstate, hdelay, hperiod, hshort, hpm, hpp, s.latchCount_linkTrained ..⟩
  · obtain ⟨hreg, hlatch⟩ := State.linkFall_keeps hup
    obtain ⟨hstate, hflag, hcount⟩ := s.portDropped_fields port.toNat
    have hport := port.isLt
    refine ⟨_, rfl, ?_, ?_, ?_⟩
    · refine (State.dcbF_of_dcbReg (hreg _ ?_ ?_) ..).trans hstate <;> simp only [Dcb.linkStat, Dcb.traceCtrl, Dcb.beatSync] <;> omega
    · refine (State.dcbF_of_dcbReg (hreg _ ?_ ?_) ..).trans hflag <;> simp only [Dcb.linkFlags, Dcb.traceCtrl, Dcb.beatSync] <;> omega
    · exact (hlatch _ (by omega) (by omega)).trans hcount
  · exact execBeatLock_spec hwf hup hstate hpeer hat hlock
  · obtain ⟨hlocked, hdone, hctr, hcyc⟩ := s.takeLock_spec l
    exact ⟨_, execCounterLoad_eq hup hpend hheld hcycle, hlocked, hdone, hctr, hcyc⟩
  · have hrep := State.lockLoss_reported (s := s) (.inl hlock)
    obtain ⟨hfree, hlost⟩ := s.lockDropped_fields
    have hsync := hrep.reg Dcb.beatSync (by decide)
    refine ⟨_, rfl, ?_, (State.dcbF_of_dcbReg hsync ..).trans hlost, ?_, fun h j => State.lockLoss_job hlock⟩
    · rw [State.locked, State.dcbF_of_dcbReg hsync, ← State.locked, hfree]
    · exact (hrep.latch 134 (by decide)).trans (State.latchCount_dieEvent_self ..)

end Sys2Proof.Machine
end

section
/-! What the operations on jobs leave beside what they are about: the completion of a command, the cores that leave or take a job, and
the messages that go down the beat tree. -/

namespace Sys2Proof.Machine

/-! ## Operations on the cores alone -/

/-- From `s` to `t` only cores have changed. -/
def State.CoresOnly (s t : State) : Prop := t = { s with cores := t.cores }

namespace State.CoresOnly

variable {s t u : State}

theorem refl (s : State) : CoresOnly s s := rfl

theorem trans (h : CoresOnly s t) (h' : CoresOnly t u) : CoresOnly s u := by
  rw [CoresOnly, h', h]

theorem ite {p : Prop} [Decidable p] (h : CoresOnly s t) (h' : CoresOnly s u) : CoresOnly s (if p then t else u) := by
  split
  · exact h
  · exact h'

theorem foldl {α : Type} {f : State → α → State} (h : ∀ (t : State) (a : α), CoresOnly t (f t a)) (l : List α) (s : State) :
    CoresOnly s (l.foldl f s) :=
  List.foldlRecOn (motive := fun t : State => CoresOnly s t) l f (refl s) fun _ ht a _ => ht.trans (h _ a)

theorem modCore (s : State) (c : Nat) (f : CoreState → CoreState) : CoresOnly s (s.modCore c f) := rfl

theorem eq (h : CoresOnly s t) : t = { s with cores := t.cores } := h

theorem jobs (h : CoresOnly s t) : t.jobs = s.jobs := by rw [h.eq]
theorem mbs (h : CoresOnly s t) : t.mbs = s.mbs := by rw [h.eq]
theorem ic (h : CoresOnly s t) : t.ic = s.ic := by rw [h.eq]

theorem declareFor (s : State) (h : Handle) (c : Nat) : CoresOnly s (s.declareFor h c) := by
  unfold State.declareFor
  split
  · exact refl s
  · split
    · exact modCore ..
    · exact refl s

theorem leaveCore (s : State) (c : Nat) : CoresOnly s (s.leaveCore c) := by
  unfold State.leaveCore
  dsimp only
  split
  · exact (modCore s c _).trans (declareFor ..)
  · exact modCore ..

theorem leaveCores (s : State) (h : Handle) (j : Job) : CoresOnly s (s.leaveCores h j) :=
  foldl (fun _ _ => ite (leaveCore ..) (refl _)) ..

theorem declareIdle (s : State) (h : Handle) (j : Job) : CoresOnly s (s.declareIdle h j) :=
  foldl (fun _ _ => ite (declareFor ..) (refl _)) ..

end State.CoresOnly

/-! ## Completion of a command (R367) -/

theorem State.complete_eq (s : State) (m status : Nat) (words : List Word) (record : Word) :
    s.complete m status words record = { s with mbs := (s.complete m status words record).mbs } := by
  unfold State.complete
  split <;> rfl

@[simp] theorem State.complete_jobs (s : State) (m status : Nat) (words : List Word) (record : Word) :
    (s.complete m status words record).jobs = s.jobs := by rw [s.complete_eq m status words record]

@[simp] theorem State.complete_ic (s : State) (m status : Nat) (words : List Word) (record : Word) :
    (s.complete m status words record).ic = s.ic := by rw [s.complete_eq m status words record]

@[simp] theorem State.complete_links (s : State) (m status : Nat) (words : List Word) (record : Word) :
    (s.complete m status words record).links = s.links := by rw [s.complete_eq m status words record]

@[simp] theorem State.complete_linkSys (s : State) (m status : Nat) (words : List Word) (record : Word) :
    (s.complete m status words record).linkSys = s.linkSys := by rw [s.complete_eq m status words record]

/-- A held command gets its response. -/
theorem State.completed_complete {s : State} {m : Nat} {x : TakenCmd} (status : Nat) (words : List Word) (record : Word)
    (h : (s.mb m).waiting = some x) : completed s (s.complete m status words record) m x status words record := by
  unfold State.complete completed
  simp [h, State.respond]

/-- A mailbox without a held command is left as it is. -/
theorem State.complete_of_none {s : State} {m : Nat} (status : Nat) (words : List Word) (record : Word)
    (h : (s.mb m).waiting = none) : s.complete m status words record = s := by
  unfold State.complete
  rw [h]

theorem State.mb_complete_ne (s : State) {m n : Nat} (status : Nat) (words : List Word) (record : Word) (h : n ≠ m) :
    (s.complete m status words record).mb n = s.mb n := by
  unfold State.complete
  split
  · rfl
  · simp only [State.respond, State.mb_modMb_ne _ _ h]

/-- What a mailbox shows of a completed command is the same in a state with the same mailbox. -/
theorem completed_of_mb {s t s' t' : State} {m : Nat} {x : TakenCmd} {status : Nat} {words : List Word} {record : Word}
    (hready : (s.mb m).ready = (s'.mb m).ready) (ht : t'.mb m = t.mb m) (h : completed s t m x status words record) :
    completed s' t' m x status words record := by
  obtain ⟨hwait, hresp⟩ := h
  exact ⟨(congrArg Mailbox.waiting ht).trans hwait, (congrArg Mailbox.ready ht).trans (hready ▸ hresp)⟩

/-- A command that the CP holds is answered in a state that has the mailbox of before. -/
theorem answered_answer {s u : State} {m : MailboxNum} (x : TakenCmd) (status : Nat) (words : List Word)
    (h : u.mb m.toNat = s.mb m.toNat) : answered s (u.answer m.toNat x status words) m x status words := by
  rw [answered, State.mb_answer_self, h]
  exact ⟨rfl, rfl⟩

@[simp] theorem State.answer_jobs (s : State) (m : Nat) (x : TakenCmd) (status : Nat) (words : List Word) :
    (s.answer m x status words).jobs = s.jobs := rfl

/-- The CP carries out a command that it holds. -/
theorem State.onTaken_of_holds {s : State} {m : MailboxNum} {opcode : Nat} {x : TakenCmd} (h : holds s m opcode x)
    (f : TakenCmd → State) : s.onTaken m.toNat opcode f = f x := by
  obtain ⟨htaken, hop⟩ := h
  unfold State.onTaken
  simp [htaken, hop]

/-! ## The trace of a job -/

theorem State.traceJob_eq (s : State) (h : Handle) (j : Job) (beat : Nat) :
    s.traceJob h j beat = { s with trace := (s.traceJob h j beat).trace } := by
  unfold State.traceJob
  split <;> rfl

@[simp] theorem State.traceJob_jobs (s : State) (h : Handle) (j : Job) (beat : Nat) : (s.traceJob h j beat).jobs = s.jobs :=
  by rw [s.traceJob_eq h j beat]

@[simp] theorem State.traceJob_mbs (s : State) (h : Handle) (j : Job) (beat : Nat) : (s.traceJob h j beat).mbs = s.mbs :=
  by rw [s.traceJob_eq h j beat]

@[simp] theorem State.traceJob_ic (s : State) (h : Handle) (j : Job) (beat : Nat) : (s.traceJob h j beat).ic = s.ic :=
  by rw [s.traceJob_eq h j beat]

@[simp] theorem State.traceJob_cores (s : State) (h : Handle) (j : Job) (beat : Nat) : (s.traceJob h j beat).cores = s.cores :=
  by rw [s.traceJob_eq h j beat]

/-! ## The end of a job -/

@[simp] theorem State.releaseKeySlot_mbs (s : State) (n : Option Nat) : (s.releaseKeySlot n).mbs = s.mbs := by
  cases n <;> rfl

@[simp] theorem State.releaseKeySlot_ic (s : State) (n : Option Nat) : (s.releaseKeySlot n).ic = s.ic := by
  cases n <;> rfl

/-- The record of a job that has ended. -/
def Job.finished (j : Job) (st : JobSt) (record : Word) (beat : Nat) : Job :=
  { j with st := st, record := record, endBeat := beat, pendingEnd := none, save := none, linkKey := 0, keySlot := none }

/-- The job has left its cores, its slot for link keys and the lock-step pair. -/
def State.jobLeft (s : State) (h : Handle) (j : Job) : State :=
  let s := (s.releaseKeySlot j.keySlot).leaveCores h j
  if j.lockstep.isSome then s.setDcbF Dcb.lockstepStat 0 1 0 else s

theorem State.jobLeft_mbs_ic (s : State) (h : Handle) (j : Job) : (s.jobLeft h j).mbs = s.mbs ∧ (s.jobLeft h j).ic = s.ic := by
  have hleft := State.CoresOnly.leaveCores (s.releaseKeySlot j.keySlot) h j
  have hmbs := hleft.mbs.trans (s.releaseKeySlot_mbs _)
  have hic := hleft.ic.trans (s.releaseKeySlot_ic _)
  unfold State.jobLeft
  dsimp only
  split
  · exact ⟨by rw [State.setDcbF_mbs, hmbs], by rw [State.setDcbF_ic, hic]⟩
  · exact ⟨hmbs, hic⟩

theorem State.finishAt_eq {s : State} {h : Handle} {j : Job} (st : JobSt) (record : Word) (beat : Nat) (hj : s.job h = some j) :
    s.finishAt h st record beat =
      (((s.jobLeft h j).setJob h (j.finished st record beat)).dieEvent (65 + j.mailbox)).traceJob h (j.finished st record beat)
        beat := by
  unfold State.finishAt
  rw [hj]
  rfl

/-- What the end of a job leaves: its record, its end source, and the mailboxes as they were. -/
theorem State.finishAt_spec {s : State} {h : Handle} {j : Job} (st : JobSt) (record : Word) (beat : Nat) (hj : s.job h = some j) :
    (s.finishAt h st record beat).job h = some (j.finished st record beat) ∧ (s.finishAt h st record beat).mbs = s.mbs ∧
      (s.finishAt h st record beat).latchCount (65 + j.mailbox) = min (s.latchCount (65 + j.mailbox) + 1) 255 := by
  obtain ⟨hmbs, hic⟩ := s.jobLeft_mbs_ic h j
  rw [State.finishAt_eq st record beat hj]
  refine ⟨?_, ?_, ?_⟩
  · rw [State.job_of_jobs (State.traceJob_jobs ..), State.job_of_jobs (State.dieEvent_jobs ..)]
    exact State.job_setJob_self ..
  · rw [State.traceJob_mbs, State.dieEvent_mbs, State.setJob_mbs, hmbs]
  · rw [State.latchCount_of_ic (State.traceJob_ic ..), State.latchCount_dieEvent_self,
      State.latchCount_of_ic (State.setJob_ic ..), State.latchCount_of_ic hic]

/-! ## Messages down the beat tree (R351, R499) -/

/-- A message joins the frames of one port where fewer than 16 wait. -/
def State.queueDown (s : State) (c : CtlMsg) (l : Nat) : State :=
  if (s.link l).down.length < 16 then s.setLink l { s.link l with down := (s.link l).down ++ [c] } else s

theorem State.sendDown_cons (s : State) (l : Nat) (ports : List Nat) (c : CtlMsg) :
    s.sendDown (l :: ports) c = (s.queueDown c l).sendDown ports c := rfl

theorem State.queueDown_eq (s : State) (c : CtlMsg) (l : Nat) : s.queueDown c l = { s with links := (s.queueDown c l).links } := by
  unfold State.queueDown
  split <;> rfl

theorem State.sendDown_eq (s : State) (ports : List Nat) (c : CtlMsg) :
    s.sendDown ports c = { s with links := (s.sendDown ports c).links } := by
  induction ports generalizing s with
  | nil => rfl
  | cons l ports ih =>
    rw [State.sendDown_cons]
    exact (ih (s.queueDown c l)).trans (by rw [s.queueDown_eq c l])

@[simp] theorem State.sendDown_jobs (s : State) (ports : List Nat) (c : CtlMsg) : (s.sendDown ports c).jobs = s.jobs :=
  by rw [s.sendDown_eq ports c]

@[simp] theorem State.sendDown_mbs (s : State) (ports : List Nat) (c : CtlMsg) : (s.sendDown ports c).mbs = s.mbs :=
  by rw [s.sendDown_eq ports c]

@[simp] theorem State.sendDown_beat (s : State) (ports : List Nat) (c : CtlMsg) : (s.sendDown ports c).beat = s.beat :=
  by rw [s.sendDown_eq ports c]

@[simp] theorem State.sendDown_linkSys (s : State) (ports : List Nat) (c : CtlMsg) : (s.sendDown ports c).linkSys = s.linkSys :=
  by rw [s.sendDown_eq ports c]

@[simp] theorem State.sendDown_dcb (s : State) (ports : List Nat) (c : CtlMsg) : (s.sendDown ports c).dcb = s.dcb :=
  by rw [s.sendDown_eq ports c]

theorem State.link_of_links {s t : State} (h : t.links = s.links) (l : Nat) : t.link l = s.link l := by
  rw [State.link, h, State.link]

theorem State.link_setLink (s : State) (l x : Nat) (p : LinkPort) : (s.setLink l p).link x = if x = l then p else s.link x :=
  tabGet_tabSet ..

theorem State.link_queueDown_ne (s : State) (c : CtlMsg) {l x : Nat} (h : x ≠ l) : (s.queueDown c l).link x = s.link x := by
  unfold State.queueDown
  split
  · rw [State.link_setLink, if_neg h]
  · rfl

theorem State.link_sendDown_of_notMem (s : State) {ports : List Nat} (c : CtlMsg) {l : Nat} (h : l ∉ ports) :
    (s.sendDown ports c).link l = s.link l := by
  induction ports generalizing s with
  | nil => rfl
  | cons a ports ih =>
    obtain ⟨hne, hmem⟩ := not_or.1 (List.mem_cons.not.1 h)
    rw [State.sendDown_cons, ih _ hmem, State.link_queueDown_ne _ _ hne]

/-- Each port named once and with room takes the message. -/
theorem State.down_sendDown (s : State) {ports : List Nat} (c : CtlMsg) (hnodup : ports.Nodup) {l : Nat} (hl : l ∈ ports)
    (hroom : (s.link l).down.length < 16) : ((s.sendDown ports c).link l).down = (s.link l).down ++ [c] := by
  induction ports generalizing s with
  | nil => cases hl
  | cons a ports ih =>
    obtain ⟨ha, hnodup'⟩ := List.nodup_cons.1 hnodup
    rw [State.sendDown_cons]
    by_cases hla : l = a
    · subst hla
      rw [State.link_sendDown_of_notMem _ _ ha, State.queueDown, if_pos hroom, State.link_setLink, if_pos rfl]
    · have hlink := State.link_queueDown_ne s c hla
      rw [ih _ hnodup' ((List.mem_cons.1 hl).resolve_left hla) (hlink ▸ hroom), hlink]

end Sys2Proof.Machine
end

section
/-! GO and bases (R83, R351, R499): what the master sends, and what its own job takes. -/

namespace Sys2Proof.Machine

/-! ## GO -/

theorem State.jobOfToken_of_jobs {s t : State} (h : t.jobs = s.jobs) (token : Dword) (st : JobSt) :
    t.jobOfToken token st = s.jobOfToken token st := by
  rw [State.jobOfToken, h, State.jobOfToken]

/-- An armed job whose launch beat has not come takes GO: it is admitted and its command gets OK. -/
theorem State.takeGo_spec {s : State} {token : Dword} {h : Handle} {j : Job} (hj : s.jobOfToken token .armed = some (h, j))
    (hbeat : s.beat < j.launch) :
    (s.takeGo token).job h = some { j with st := .admitted } ∧ (s.takeGo token).links = s.links ∧
      (s.takeGo token).linkSys = s.linkSys ∧
      ∀ w, (s.mb j.mailbox).waiting = some w → completed s (s.takeGo token) j.mailbox w Status.ok (j.admitWords h) 0 := by
  have heq : s.takeGo token =
      ((s.setJob h { j with st := .admitted }).modMb j.mailbox fun b => { b with armed := false }).complete j.mailbox Status.ok
        (j.admitWords h) 0 := by
    unfold State.takeGo
    rw [hj]
    exact if_neg (by omega)
  rw [heq]
  refine ⟨?_, ?_, ?_, fun w hw => ?_⟩
  · rw [State.job_of_jobs (State.complete_jobs ..), State.job_of_jobs (State.modMb_jobs ..), State.job_setJob_self]
  · rw [State.complete_links, State.modMb_links, State.setJob_links]
  · rw [State.complete_linkSys, State.modMb_linkSys, State.setJob_linkSys]
  · have hmb := State.mb_of_mbs (State.setJob_mbs s h { j with st := .admitted }) j.mailbox
    refine completed_of_mb ?_ rfl (State.completed_complete _ _ _ ?_)
    · rw [State.mb_modMb_self, hmb]
    · rw [State.mb_modMb_self, hmb, hw]

theorem State.downPorts_nodup (s : State) : s.downPorts.Nodup := List.nodup_range.filter _

/-- The master without the tokens of a set. -/
def State.dropTokens (s : State) (token : Dword) : State :=
  { s with linkSys := { s.linkSys with tokens := s.linkSys.tokens.filter fun x => x.1 != token } }

/-- The tokens of a job's set that the master held by the end of beat b - 4. -/
def State.heldTokens (s : State) (token : Dword) (j : Job) : Nat :=
  (s.linkSys.tokens.filter fun x => x.1 == token && decide (x.2.2 + 4 ≤ j.launch)).length

theorem execGoSend_eq {s : State} {token : Dword} {h : Handle} {j : Job} (hj : s.jobOfToken token .armed = some (h, j))
    (hmaster : s.isMaster = true) (hbeat : s.beat + 3 = j.launch) :
    execGoSend token s =
      if popcount 64 j.modset.toNat ≤ s.heldTokens token j then
        .next (((s.dropTokens token).sendDown s.downPorts ⟨token, BitVec.ofNat 64 j.launch, false⟩).takeGo token)
      else .next s := by
  unfold execGoSend
  rw [hj]
  simp only [hmaster, hbeat, true_and]
  rfl

/-- GO leaves the master in beat b - 3, on every port that leads away and has room. -/
theorem execGoSend_sends {s : State} {token : Dword} {h : Handle} {j : Job} (hj : s.jobOfToken token .armed = some (h, j))
    (hmaster : s.isMaster = true) (hbeat : s.beat + 3 = j.launch) (hheld : popcount 64 j.modset.toNat ≤ s.heldTokens token j) :
    ∃ t, execGoSend token s = .next t ∧ t.linkSys.tokens = s.linkSys.tokens.filter (fun x => x.1 != token) ∧
      t.job h = some { j with st := .admitted } ∧
      (∀ w, (s.mb j.mailbox).waiting = some w → completed s t j.mailbox w Status.ok (j.admitWords h) 0) ∧
      ∀ l ∈ s.downPorts, (s.link l).down.length < 16 →
        (t.link l).down = (s.link l).down ++ [⟨token, BitVec.ofNat 64 j.launch, false⟩] := by
  have hsent := ((s.dropTokens token).sendDown_jobs s.downPorts ⟨token, BitVec.ofNat 64 j.launch, false⟩)
  have hmbs := ((s.dropTokens token).sendDown_mbs s.downPorts ⟨token, BitVec.ofNat 64 j.launch, false⟩)
  obtain ⟨hjob, hlinks, hsys, hdone⟩ := State.takeGo_spec
    (s := (s.dropTokens token).sendDown s.downPorts ⟨token, BitVec.ofNat 64 j.launch, false⟩)
    ((State.jobOfToken_of_jobs hsent token .armed).trans hj)
    (by rw [State.sendDown_beat]; exact Nat.lt_of_lt_of_eq (Nat.lt_add_of_pos_right (by decide)) hbeat)
  refine ⟨_, (execGoSend_eq hj hmaster hbeat).trans (if_pos hheld), ?_, hjob, fun w hw => ?_, fun l hl hroom => ?_⟩
  · rw [hsys, State.sendDown_linkSys]
    rfl
  · have hmb := State.mb_of_mbs hmbs j.mailbox
    exact completed_of_mb (congrArg Mailbox.ready hmb) rfl (hdone w ((congrArg Mailbox.waiting hmb).trans hw))
  · rw [State.link_of_links hlinks]
    exact (s.dropTokens token).down_sendDown _ s.downPorts_nodup hl hroom

/-! ## Bases -/

/-- One step of BASE_SEND: the base of a module goes to its own job or down the tree. -/
def State.sendBase (token : Dword) (base : Nat → Nat) (s : State) (n : Nat) : State :=
  if n = s.moduleId then s.takeBase token n (base n)
  else s.sendDown s.downPorts ⟨token, BitVec.ofNat 64 (n * 2 ^ 56 + base n), true⟩

theorem State.moduleId_of_dcb {s t : State} (h : t.dcb = s.dcb) : t.moduleId = s.moduleId :=
  State.dcbF_of_dcbReg (State.dcbReg_of_dcb h _) ..

theorem State.takeBase_keeps (s : State) (token : Dword) (n b : Nat) :
    (s.takeBase token n b).dcb = s.dcb ∧ (s.takeBase token n b).linkSys = s.linkSys := by
  unfold State.takeBase
  split
  · split <;> exact ⟨rfl, rfl⟩
  · exact ⟨rfl, rfl⟩

theorem State.sendBase_keeps (token : Dword) (base : Nat → Nat) (s : State) (n : Nat) :
    (State.sendBase token base s n).dcb = s.dcb ∧ (State.sendBase token base s n).linkSys = s.linkSys := by
  unfold State.sendBase
  split
  · exact s.takeBase_keeps ..
  · exact ⟨s.sendDown_dcb .., s.sendDown_linkSys ..⟩

theorem State.sendBase_jobs_ne (token : Dword) (base : Nat → Nat) {s : State} {n : Nat} (h : n ≠ s.moduleId) :
    (State.sendBase token base s n).jobs = s.jobs := by
  rw [State.sendBase, if_neg h, State.sendDown_jobs]

/-- The module's own job takes its base. -/
theorem State.sendBase_job_self {token : Dword} (base : Nat → Nat) {s : State} {h : Handle} {j : Job}
    (hj : s.jobOfToken token .waiting = some (h, j)) (hneeds : j.needsBase = true) :
    (State.sendBase token base s s.moduleId).job h = some { j with base := some (base s.moduleId) } := by
  rw [State.sendBase, if_pos rfl, State.takeBase, hj]
  simp [hneeds]

theorem State.foldl_sendBase_keeps (token : Dword) (base : Nat → Nat) (mods : List Nat) (s : State) :
    (mods.foldl (State.sendBase token base) s).dcb = s.dcb ∧ (mods.foldl (State.sendBase token base) s).linkSys = s.linkSys :=
  List.foldlRecOn (motive := fun t : State => t.dcb = s.dcb ∧ t.linkSys = s.linkSys) mods _ ⟨rfl, rfl⟩ fun t ⟨hdcb, hsys⟩ n _ =>
    ⟨(State.sendBase_keeps token base t n).1.trans hdcb, (State.sendBase_keeps token base t n).2.trans hsys⟩

theorem State.foldl_sendBase_jobs (token : Dword) (base : Nat → Nat) {mods : List Nat} {s : State} (h : s.moduleId ∉ mods) :
    (mods.foldl (State.sendBase token base) s).jobs = s.jobs := by
  induction mods generalizing s with
  | nil => rfl
  | cons n mods ih =>
    obtain ⟨hne, hmem⟩ := not_or.1 (List.mem_cons.not.1 h)
    have hid := State.moduleId_of_dcb (State.sendBase_keeps token base s n).1
    rw [List.foldl_cons, ih (hid ▸ hmem), State.sendBase_jobs_ne token base (Ne.symm hne)]

/-- Of the modules of a set, each named once, the own one takes its base and the others leave the jobs as they are. -/
theorem State.foldl_sendBase_job {token : Dword} (base : Nat → Nat) {mods : List Nat} {s : State} {h : Handle} {j : Job}
    (hnodup : mods.Nodup) (hmem : s.moduleId ∈ mods) (hj : s.jobOfToken token .waiting = some (h, j)) (hneeds : j.needsBase = true) :
    (mods.foldl (State.sendBase token base) s).job h = some { j with base := some (base s.moduleId) } := by
  induction mods generalizing s with
  | nil => cases hmem
  | cons n mods ih =>
    obtain ⟨hn, hnodup'⟩ := List.nodup_cons.1 hnodup
    have hid := State.moduleId_of_dcb (State.sendBase_keeps token base s n).1
    rw [List.foldl_cons]
    by_cases hown : n = s.moduleId
    · have hout : (State.sendBase token base s n).moduleId ∉ mods := by rwa [hid, ← hown]
      rw [State.job_of_jobs (State.foldl_sendBase_jobs token base hout), hown, State.sendBase_job_self base hj hneeds]
    · have hjobs := State.sendBase_jobs_ne token base hown
      rw [ih hnodup' (hid ▸ (List.mem_cons.1 hmem).resolve_left (Ne.symm hown)) ((State.jobOfToken_of_jobs hjobs _ _).trans hj), hid]

/-- Settles O37: what goes down the tree changes links alone, so the own job takes its GO or its base as it stands. -/
theorem theMasterSendsGoAndBases : Obligations.TheMasterSendsGoAndBases := by
  unfold Obligations.TheMasterSendsGoAndBases
  refine ⟨fun token s h j hj hmaster hbeat => ⟨execGoSend_sends hj hmaster hbeat, fun hfew => ?_⟩,
    fun token s h j hj hmaster hneeds hown => ?_⟩
  · exact (execGoSend_eq hj hmaster hbeat).trans (if_neg (Nat.not_le.2 hfew))
  · intro es mods count hall
    have hmem : s.moduleId ∈ mods := List.mem_filter.2 ⟨List.mem_range.2 (Nat.mod_lt _ (by decide)), hown⟩
    have hnodup : mods.Nodup := List.nodup_range.filter _
    have hcensus : mods.all fun n => es.any fun x => x.2.1 == n := by
      refine List.all_eq_true.2 fun n hn => List.any_eq_true.2 ?_
      obtain ⟨x, hx, hmod⟩ := hall n hn
      exact ⟨x, hx, beq_iff_eq.2 hmod⟩
    let base (n : Nat) : Nat :=
      if (mods.map count).sum < j.image.e then 0x1FFFF else ((mods.filter fun k => decide (k < n)).map count).sum
    let t : State := { s with linkSys := { s.linkSys with census := s.linkSys.census.filter fun x => x.1 != token } }
    have hexec : execBaseSend token s = .next (mods.foldl (State.sendBase token base) t) := by
      unfold execBaseSend
      rw [hj]
      exact if_pos ⟨hmaster, hneeds, hcensus⟩
    refine ⟨_, hexec, ?_, State.foldl_sendBase_job (s := t) base hnodup hmem hj hneeds⟩
    rw [(State.foldl_sendBase_keeps token base mods t).2]

end Sys2Proof.Machine
end

section
/-! Jobs that are cancelled, withdrawn or shown (R74, R76, R78, R378, R380, R382). -/

namespace Sys2Proof.Machine

/-! ## A withdrawal -/

theorem State.setPartState_keeps (s : State) (p v : Nat) : (s.setPartState p v).mbs = s.mbs ∧ (s.setPartState p v).jobs = s.jobs :=
  ⟨rfl, rfl⟩

/-- The completion of other commands leaves a mailbox without a held command as it is. -/
theorem State.mb_foldl_complete {α : Type} (f : α → Nat) (status : Nat) (words : List Word) (record : Word) (l : List α) {s : State}
    {m : Nat} (h : (s.mb m).waiting = none) :
    (l.foldl (fun s e => s.complete (f e) status words record) s).mb m = s.mb m := by
  induction l generalizing s with
  | nil => rfl
  | cons a l ih =>
    have hstep : (s.complete (f a) status words record).mb m = s.mb m := by
      by_cases hm : m = f a
      · rw [State.complete_of_none _ _ _ (hm ▸ h)]
      · exact State.mb_complete_ne s status words record hm
    rw [List.foldl_cons, ih (hstep ▸ h), hstep]

theorem State.foldl_complete_jobs {α : Type} (f : α → Nat) (status : Nat) (words : List Word) (record : Word) (l : List α) (s : State) :
    (l.foldl (fun s e => s.complete (f e) status words record) s).jobs = s.jobs :=
  List.foldlRecOn (motive := fun t : State => t.jobs = s.jobs) l _ rfl fun t ht _ _ => (t.complete_jobs ..).trans ht

theorem State.mbs_of_coresUnits {s t : State} (h : t.coresUnits = s.coresUnits) : t.mbs = s.mbs := congrArg (fun x => x.2.1) h

/-- The end of a session leaves a mailbox without a held command as it is, and marks jobs at most. -/
theorem State.endSession_spec (s : State) (p : Nat) :
    (∀ m, (s.mb m).waiting = none → (s.endSession p).mb m = s.mb m) ∧
      ∀ h j, s.job h = some j → ∃ k, (s.endSession p).job h = some k ∧ j.Marked k := by
  unfold State.endSession
  split
  · extract_lets s₁ s₂ gone sec s₃
    have hmbs₁ : s₁.mbs = s.mbs := by rw [State.setDcbF_mbs, (s.setPartState_keeps p 2).1]
    have hjobs₁ : s₁.jobs = s.jobs := by rw [State.setDcbF_jobs, (s.setPartState_keeps p 2).2]
    have hmarked : s₁.Reported s₂ := .foldl (fun _ _ => .markEnd ..) _ _
    have hmbs₂ : s₂.mbs = s.mbs := (State.mbs_of_coresUnits hmarked.coresUnits).trans hmbs₁
    have hmbs₃ : s₃.mbs = s.mbs := hmbs₂
    have hjobs₃ : s₃.jobs = s₂.jobs := rfl
    clear_value s₃
    refine ⟨fun m hm => ?_, fun h j hj => ?_⟩
    · have hmb := State.mb_of_mbs hmbs₃ m
      rw [State.mb_foldl_complete _ _ _ _ _ (hmb ▸ hm), hmb]
    · obtain ⟨k, hk, hmark⟩ := hmarked.job h j ((State.job_of_jobs hjobs₁ h).trans hj)
      exact ⟨k, (State.job_of_jobs ((State.foldl_complete_jobs ..).trans hjobs₃) h).trans hk, hmark⟩
  · exact ⟨fun _ _ => rfl, fun h j hj => ⟨j, hj, .refl j⟩⟩

/-- The answer to the command of a job that waits: it is completed, other mailboxes stand unless a session ends, and jobs are marked at
most. -/
theorem State.answerAdmit_spec {s : State} {j : Job} (status : Nat) (record : Word) (hst : j.st = .waiting ∨ j.st = .armed) :
    (∀ w, (s.mb j.mailbox).waiting = some w → completed s (s.answerAdmit j status record) j.mailbox w status [] record) ∧
      (status ≠ Status.fault → ∀ m, m ≠ j.mailbox → (s.answerAdmit j status record).mb m = s.mb m) ∧
      ∀ h k, s.job h = some k → ∃ l, (s.answerAdmit j status record).job h = some l ∧ k.Marked l := by
  have hjob (h : Handle) (k : Job) (hk : s.job h = some k) : (s.complete j.mailbox status [] record).job h = some k :=
    (State.job_of_jobs (State.complete_jobs ..) h).trans hk
  have hplain : (∀ w, (s.mb j.mailbox).waiting = some w →
        completed s (s.complete j.mailbox status [] record) j.mailbox w status [] record) ∧
      (status ≠ Status.fault → ∀ m, m ≠ j.mailbox → (s.complete j.mailbox status [] record).mb m = s.mb m) ∧
      ∀ h k, s.job h = some k → ∃ l, (s.complete j.mailbox status [] record).job h = some l ∧ k.Marked l :=
    ⟨fun w hw => State.completed_complete _ _ _ hw, fun _ m hm => State.mb_complete_ne _ _ _ _ hm,
      fun h k hk => ⟨k, hjob h k hk, .refl k⟩⟩
  unfold State.answerAdmit
  rw [if_pos hst]
  dsimp only
  split
  · next p _ _ =>
    split
    · next hfault =>
      obtain ⟨hmb, hmark⟩ := (s.complete j.mailbox status [] record).endSession_spec p
      refine ⟨fun w hw => ?_, fun hne => absurd hfault.1 hne, fun h k hk => hmark h k (hjob h k hk)⟩
      have hdone := State.completed_complete (s := s) status [] record hw
      exact completed_of_mb rfl (hmb _ hdone.1) hdone
    · exact hplain
  · exact hplain

/-- A withdrawal: the job is withdrawn, its command gets the status, and other mailboxes stand unless a session ends. -/
theorem State.withdraw_spec {s : State} {h : Handle} {j : Job} (status : Nat) (hj : s.job h = some j)
    (hst : j.st = .waiting ∨ j.st = .armed) :
    (∃ k, (s.withdraw h status).job h = some k ∧ k.st = .withdrawn) ∧
      (∀ w, (s.mb j.mailbox).waiting = some w → completed s (s.withdraw h status) j.mailbox w status [] 0) ∧
      (status ≠ Status.fault → ∀ m, m ≠ j.mailbox → (s.withdraw h status).mb m = s.mb m) := by
  unfold State.withdraw
  rw [hj]
  dsimp only
  generalize hu : (if status = Status.fault then s else s.unbindKeySet h) = u
  have hmbs : u.mbs = s.mbs := by
    rw [← hu]
    split <;> rfl
  have hjobs : u.jobs = s.jobs := by
    rw [← hu]
    split <;> rfl
  have hmb (m : Nat) : u.mb m = s.mb m := State.mb_of_mbs hmbs m
  obtain ⟨hdone, hothers, hmark⟩ := State.answerAdmit_spec (s := u) status 0 hst
  obtain ⟨k, hk, -⟩ := hmark h j ((State.job_of_jobs hjobs h).trans hj)
  obtain ⟨hend, hkeep, -⟩ := State.finishAt_spec .withdrawn 0 (u.answerAdmit j status 0).beat hk
  refine ⟨⟨_, hend, rfl⟩, fun w hw => ?_, fun hne m hm => ?_⟩
  · exact completed_of_mb (congrArg Mailbox.ready (hmb _)) (State.mb_of_mbs hkeep _)
      (hdone w ((congrArg Mailbox.waiting (hmb _)).trans hw))
  · exact (State.mb_of_mbs hkeep m).trans ((hothers hne m hm).trans (hmb m))

/-! ## JOB_CANCEL, JOB_STATUS and SCHED_INFO -/

section

variable {mb : MailboxNum} {s : State} {x : TakenCmd} {j : Job}

theorem execJobCancel_waiting (hheld : holds s mb 0x02 x) (hocc : s.occupied mb.toNat = false) (hj : s.job x.jobHandle = some j)
    (hend : s.canEnd j = true) (hsave : j.save = none) (hst : j.st = .waiting ∨ j.st = .armed) :
    execJobCancel mb s = .next ((s.withdraw x.jobHandle Status.refused).answer mb.toNat x Status.ok []) := by
  unfold execJobCancel
  dsimp only
  rw [State.onTaken_of_holds hheld, hj]
  simp [hocc, hend, hsave, hst]

theorem execJobCancel_started (hheld : holds s mb 0x02 x) (hocc : s.occupied mb.toNat = false) (hj : s.job x.jobHandle = some j)
    (hend : s.canEnd j = true) (hsave : j.save = none) (hst : ¬(j.st = .waiting ∨ j.st = .armed)) :
    execJobCancel mb s = .next ((s.markEnd x.jobHandle .cancelled 0).answer mb.toNat x Status.ok []) := by
  unfold execJobCancel
  dsimp only
  rw [State.onTaken_of_holds hheld, hj]
  simp [hocc, hend, hsave, hst]

theorem execJobCancel_ended (hheld : holds s mb 0x02 x) (hocc : s.occupied mb.toNat = false) (hj : s.job x.jobHandle = some j)
    (hend : s.canEnd j = false) : execJobCancel mb s = .next (s.answer mb.toNat x Status.refused []) := by
  unfold execJobCancel
  dsimp only
  rw [State.onTaken_of_holds hheld, hj]
  simp [hocc, hend]

theorem execJobStatus_shown (hheld : holds s mb 0x03 x) (hocc : s.occupied mb.toNat = false) (hj : s.job x.jobHandle = some j)
    (hconf : s.anyPartConf j.parts = false) :
    execJobStatus mb s = .next (s.answer mb.toNat x Status.ok (j.statusWords true)) := by
  unfold execJobStatus
  dsimp only
  rw [State.onTaken_of_holds hheld, hj]
  simp [hocc, hconf]

theorem execSchedInfo_free (hheld : holds s mb 0x04 x) (hocc : s.occupied mb.toNat = false) :
    ∃ v, execSchedInfo mb s = .next (s.answer mb.toNat x Status.ok [0x63626160, 748 + 749 * 65536, v,
      BitVec.ofNat 32 ((s.jobs.filter fun e => e.2.st == .waiting).length % 65536)]) := by
  unfold execSchedInfo
  dsimp only
  rw [State.onTaken_of_holds hheld, if_neg (by simp [hocc])]
  exact ⟨_, rfl⟩

end

/-- Settles O36: each command answers on its own mailbox; a withdrawal completes the job's own command and ends the job. -/
theorem jobsAreCancelledWithdrawnAndShown : Obligations.JobsAreCancelledWithdrawnAndShown := by
  unfold Obligations.JobsAreCancelledWithdrawnAndShown
  refine ⟨fun mb s x j hocc hj => ⟨fun hheld hend hsave hst hmb => ?_, fun hheld hend hsave hst hpend => ?_, fun hheld hend => ?_,
    fun hheld hconf => ?_⟩, fun mb s x hheld hocc => ?_, fun handle s j w hj hw => ⟨fun hst hlaunch hlate => ?_, fun hst hlate => ?_⟩⟩
  · obtain ⟨⟨k, hk, hkst⟩, -, hothers⟩ := State.withdraw_spec Status.refused hj hst
    exact ⟨_, k, execJobCancel_waiting hheld hocc hj hend hsave hst,
      answered_answer _ _ _ (hothers (by decide) _ (Ne.symm hmb)), hk, hkst⟩
  · have hne : ¬(j.st = .waiting ∨ j.st = .armed) := by rcases hst with h | h <;> simp [h]
    have hmbs := State.mb_of_mbs (State.modJob_mbs s x.jobHandle fun j => s.marked j .cancelled 0) mb.toNat
    refine ⟨_, execJobCancel_started hheld hocc hj hend hsave hne, answered_answer _ _ _ hmbs, ?_⟩
    rw [State.job_of_jobs (State.answer_jobs ..), State.markEnd_eq, State.job_modJob, if_pos rfl, hj]
    simp [State.marked, hend, hpend]
  · exact ⟨_, execJobCancel_ended hheld hocc hj hend, answered_answer _ _ _ rfl, rfl⟩
  · exact ⟨_, execJobStatus_shown hheld hocc hj hconf, answered_answer _ _ _ rfl⟩
  · obtain ⟨v, hv⟩ := execSchedInfo_free hheld hocc
    exact ⟨_, v, hv, answered_answer _ _ _ rfl⟩
  · obtain ⟨⟨k, hk, hkst⟩, hdone, -⟩ := State.withdraw_spec Status.refused hj (.inl hst)
    refine ⟨_, k, ?_, hk, hkst, hdone w hw⟩
    show execLaunchDeadlineWithdraw handle s = _
    rw [execLaunchDeadlineWithdraw, hj]
    exact if_pos ⟨hst, hlaunch, hlate⟩
  · obtain ⟨⟨k, hk, hkst⟩, hdone, -⟩ := State.withdraw_spec Status.fault hj (.inr hst)
    refine ⟨_, k, ?_, hk, hkst, hdone w hw⟩
    show execGoTimeoutWithdraw handle s = _
    rw [execGoTimeoutWithdraw, hj]
    exact if_pos ⟨hst, hlate⟩

end Sys2Proof.Machine
end

section
/-! A job from its request to its end (R74, R76, R326, R373, R377, R379): held under the next handle, admitted, started, and done. -/

namespace Sys2Proof.Machine

/-! ## The request is held -/

theorem State.sendUp_jobs_cp (s : State) (c : CtlMsg) : (s.sendUp c).jobs = s.jobs ∧ (s.sendUp c).cp = s.cp := by
  unfold State.sendUp
  dsimp only
  split
  · exact ⟨rfl, rfl⟩
  · split
    · split <;> exact ⟨rfl, rfl⟩
    · exact ⟨rfl, rfl⟩

theorem State.holdJob_jobs_cp (s : State) (m : Nat) (x : TakenCmd) (j : Job) :
    (s.holdJob m x j).jobs = ((s.accept m x).assignHandle j).2.jobs ∧
      (s.holdJob m x j).cp = ((s.accept m x).assignHandle j).2.cp := by
  unfold State.holdJob
  extract_lets r t sec u
  have hu : u.jobs = r.2.jobs ∧ u.cp = r.2.cp := by
    dsimp only [u]
    split <;> exact ⟨rfl, rfl⟩
  split
  · exact ⟨(State.sendUp_jobs_cp ..).1.trans hu.1, (State.sendUp_jobs_cp ..).2.trans hu.2⟩
  · exact hu

/-- A job that is held waits under the next handle, and the next handle follows. -/
theorem State.holdJob_spec (s : State) (m : Nat) (x : TakenCmd) (j : Job) (hn : s.cp.nextHandle ≤ 65535) :
    (s.holdJob m x j).job (BitVec.ofNat 16 s.cp.nextHandle) = some j ∧
      (s.holdJob m x j).mb m = { s.mb m with
        taken := none, waiting := some x, active := true, tag := x.outerTag, handle := BitVec.ofNat 16 s.cp.nextHandle } ∧
      (s.holdJob m x j).cp.nextHandle = (if s.cp.nextHandle = 65535 then 1 else s.cp.nextHandle + 1) := by
  obtain ⟨hjobs, hcp⟩ := s.holdJob_jobs_cp m x j
  refine ⟨?_, ?_, ?_⟩
  · have hmod : (BitVec.ofNat 16 s.cp.nextHandle).toNat = s.cp.nextHandle := Nat.mod_eq_of_lt (by omega)
    rw [State.job_of_jobs hjobs, State.job, hmod]
    exact tabFind_tabPut_self ..
  · rw [State.mb_of_mbs (s.holdJob_mbs m x j), State.mb_modMb_self, State.accept, State.mb_modMb_self]
  · rw [hcp]
    show (if s.cp.nextHandle ≥ 65535 then 1 else s.cp.nextHandle + 1) = _
    split <;> split <;> omega

/-- A request that passes every check is held. -/
theorem State.admitCmd_held {s : State} {m : Nat} {x : TakenCmd} {im : Image}
    (him : readImage s.mem x.admitReq.image (s.dcbF Dcb.abiId 0 16) s.moduleId = some im)
    (hargs : s.admitArgsBad m x x.admitReq = false) (himage : s.admitImageBad x.admitReq (s.newJob m x x.admitReq im none) = false)
    (hready : s.admitNotReady (s.newJob m x x.admitReq im none) = false) (hocc : s.occupied m = false)
    (href : s.admitRefused (s.newJob m x x.admitReq im none) = false) :
    s.admitCmd m x none = s.holdJob m x (s.newJob m x x.admitReq im none) := by
  have hrestore : (if (s.newJob m x x.admitReq im none).needsBase then none
      else s.restoreStatus (s.newJob m x x.admitReq im none)) = none := by
    split <;> rfl
  unfold State.admitCmd
  dsimp only
  rw [him]
  simp only [hargs, himage, hready, hocc, href, hrestore, Bool.false_eq_true, or_self, if_false]

/-! ## Admission -/

/-- Without link encryption, a drawn seed or a restore nothing is awaited. -/
theorem State.admitPlaced_plain (s : State) (h : Handle) {p : Job} (hseed : p.entropySeed = false) (henc : p.linkEnc = false)
    (hrestore : p.restore = none) : s.admitPlaced h p = s.takeIn h { p with linkKey := 0, keySlot := none } := by
  have hlink : s.drawLinkKey p = some (some 0, s) := by simp [State.drawLinkKey, henc]
  have hdraw : s.drawSeed h p = some (p.key, s) := by simp [State.drawSeed, hseed, hrestore]
  unfold State.admitPlaced
  simp [hseed, henc, hlink, hdraw]

/-- A job of one module without link encryption has its programs loaded, and is then admitted and answered. -/
theorem State.takeIn_single_eq (s : State) (h : Handle) {j : Job} (hmulti : j.multi = false) (henc : j.linkEnc = false) :
    ∃ u, s.CoresOnly u ∧ s.takeIn h j =
      ((u.setJob h { j with st := .admitted }).declareIdle h { j with st := .admitted }).complete j.mailbox Status.ok
        (j.admitWords h) 0 := by
  unfold State.takeIn
  extract_lets u v
  have hloaded : s.CoresOnly u := by
    refine .foldl (fun t x => ?_) ..
    split
    · exact .modCore ..
    · exact .refl t
  have hv : v = u := by simp [v, State.sendKeyRecords, henc]
  rw [if_neg (by simp [hmulti]), hv]
  exact ⟨u, hloaded, rfl⟩

/-- A job of one module without link encryption is admitted, and its command gets OK. -/
theorem State.takeIn_single (s : State) (h : Handle) {j : Job} (hmulti : j.multi = false) (henc : j.linkEnc = false) :
    (s.takeIn h j).job h = some { j with st := .admitted } ∧
      ∀ w, (s.mb j.mailbox).waiting = some w → completed s (s.takeIn h j) j.mailbox w Status.ok (j.admitWords h) 0 := by
  obtain ⟨u, hloaded, heq⟩ := s.takeIn_single_eq h hmulti henc
  have hidle := State.CoresOnly.declareIdle (u.setJob h { j with st := .admitted }) h { j with st := .admitted }
  have hmb := State.mb_of_mbs (hidle.mbs.trans ((u.setJob_mbs _ _).trans hloaded.mbs)) j.mailbox
  rw [heq]
  refine ⟨?_, fun w hw => ?_⟩
  · rw [State.job_of_jobs (State.complete_jobs ..), State.job_of_jobs hidle.jobs]
    exact State.job_setJob_self ..
  · exact completed_of_mb (congrArg Mailbox.ready hmb) rfl
      (State.completed_complete _ _ _ ((congrArg Mailbox.waiting hmb).trans hw))

section

variable {handle : Handle} {s : State} {j : Job}

/-- What ADMISSION does with a waiting job of one module in time. -/
theorem execAdmission_eq (hj : s.job handle = some j) (hst : j.st = .waiting) (hcycle : s.cycle = 0) (htaken : j.takenBeat < s.beat)
    (hrun : s.halted = false) (hfatal : s.fatal = false) (hcp : s.cpRuns = true) (hmulti : j.multi = false)
    (hmap : s.mapShort j = false) (hlaunch : j.launch = 0 ∨ (s.placed j s.beat).startBeat ≤ j.launch)
    (hfault : s.admissionFault j (s.placed j s.beat) = none) :
    execAdmission handle s =
      if !s.fits (s.placed j s.beat) ∨ s.laterThan handle (s.placed j s.beat) then
        (if j.nowait then .next (s.withdraw handle Status.refused) else .next s)
      else .next (s.admitPlaced handle (s.placed j s.beat)) := by
  have hbase : j.needsBase = false := by
    have hcensus : j.byCensus = false := by
      rw [Job.byCensus]
      rw [Job.multi] at hmulti
      simp [hmulti]
    simp [Job.needsBase, hcensus]
  unfold execAdmission
  rw [hj]
  dsimp only
  rw [if_neg (by simp [hst, hcycle, hrun, hfatal, hcp, hbase, htaken]), if_neg (by simp [hmap]), if_neg (by omega), hfault]

end

/-- An admitted job that restores nothing runs from beat a + 4 or its launch beat on, for its L beats. -/
theorem State.placed_plain (s : State) {j : Job} (a : Nat) (h : j.restore = none) :
    s.placed j a = { j with
      engines := s.mapOf j, startBeat := max (a + 4) j.launch, compBeat := max (a + 4) j.launch + j.image.l - 1, startK := 0 } := by
  simp [State.placed, h]

/-! ## The start -/

namespace CoreState

/-- What changes no core's job, one step after the other, changes it in none. -/
theorem foldl_job {α : Type} {f : CoreState → α → CoreState} (h : ∀ k a, (f k a).job = k.job) (l : List α) (k : CoreState) :
    (l.foldl f k).job = k.job :=
  List.foldlRecOn (motive := fun x : CoreState => x.job = k.job) l f rfl fun _ hx a _ => (h _ a).trans hx

theorem declare_job (k : CoreState) (j : Job) (r : EngineRec) : (k.declare j r).job = k.job := by
  unfold CoreState.declare
  extract_lets im set nbr k₁ k₂ k₃ k₄ k₅ k₆ k₇ k₈ k₉
  have hset (k : CoreState) (o v : Nat) : (set k o v).job = k.job := rfl
  have hbase : k₃.job = k.job := rfl
  have hbeta : k₄.job = k₃.job := foldl_job (fun k x => hset ..) ..
  have hprog : k₅.job = k₄.job := foldl_job (fun k x => hset ..) ..
  have hmembers : k₆.job = k₅.job := foldl_job (fun k x => hset ..) ..
  have hqueues : k₇.job = k₆.job := foldl_job (fun k x => hset ..) ..
  have hbounds : k₈.job = k₇.job := foldl_job (fun k q => by split <;> rfl) ..
  have hkey : k₉.job = k₈.job := rfl
  rw [← hbase, ← hbeta, ← hprog, ← hmembers, ← hqueues, ← hbounds, ← hkey]

theorem startJob_job (k : CoreState) (h : Handle) (j : Job) (r : EngineRec) : (k.startJob h j r).job = some h :=
  declare_job _ j r

theorem setRegF_job (k : CoreState) (o lo n v : Nat) : (k.setRegF o lo n v).job = k.job := rfl

theorem startPeriod_job (k : CoreState) (iter : Nat) : (k.startPeriod iter).job = k.job := by
  refine foldl_job (fun k t => ?_) ..
  split
  · rw [setRegF_job, setRegF_job]
  · rfl

end CoreState

/-- The cores of the engines named in a list take a job one after the other: a step gives the job to the core of its engine, and no
later step takes it away. -/
theorem State.core_job_foldl {f : State → Nat × Nat → State} {h : Handle} {n : Nat}
    (htake : ∀ t x, x.1 < n → ((f t x).core x.2).job = some h)
    (hkeep : ∀ t x c, (t.core c).job = some h → ((f t x).core c).job = some h) (l : List (Nat × Nat)) (s : State) :
    ∀ x ∈ l, x.1 < n → ((l.foldl f s).core x.2).job = some h := by
  have hstay (l : List (Nat × Nat)) (t : State) (c : Nat) (hc : (t.core c).job = some h) : ((l.foldl f t).core c).job = some h :=
    List.foldlRecOn (motive := fun t : State => (t.core c).job = some h) l f hc fun t ht x _ => hkeep t x c ht
  induction l generalizing s with
  | nil => nofun
  | cons a l ih =>
    intro x hx hn
    rw [List.foldl_cons]
    rcases List.mem_cons.1 hx with rfl | hx
    · exact hstay l _ _ (htake s x hn)
    · exact ih (f s a) x hx hn

theorem State.core_of_cores {s t : State} (h : t.cores = s.cores) (c : Nat) : t.core c = s.core c := by
  rw [State.core, h, State.core]

/-- JOB_START at s:0: the cores have the job, and it runs. -/
theorem execJobStart_spec {handle : Handle} {s : State} {j : Job} (hj : s.job handle = some j) (hst : j.st = .admitted)
    (hcycle : s.cycle = 0) (hbeat : s.beat = j.startBeat) (hdue : s.endDue j = false) (hruns : s.domainRuns = true) :
    ∃ t, execJobStart handle s = .next t ∧ t.job handle = some { j with st := .running } ∧
      (j.restore = none → ∀ x ∈ j.engines, x.1 < j.image.engines.length → (t.core x.2).job = some handle) := by
  unfold execJobStart
  rw [hj]
  dsimp -zeta only
  rw [if_neg (by simp [hst, hcycle, hbeat, hdue, hruns])]
  extract_lets j' iter t₁ sys u t₂
  have hcores : t₂.cores = t₁.cores := by
    dsimp only [t₂]
    split
    · split <;> rfl
    · rfl
  refine ⟨_, rfl, ?_, fun hrestore x hx hn => ?_⟩
  · rw [State.job_of_jobs (State.traceJob_jobs ..)]
    exact State.job_setJob_self ..
  · rw [State.core_of_cores ((State.traceJob_cores ..).trans ((State.setJob_cores ..).trans hcores))]
    refine State.core_job_foldl (fun t x hn => ?_) (fun t x c hc => ?_) j.engines s x hx hn
    · rw [List.getElem?_eq_getElem hn, hrestore]
      dsimp only
      rw [State.core_modCore_self, CoreState.startPeriod_job, CoreState.startJob_job]
    · split
      · exact hc
      · rw [hrestore, State.core_modCore]
        split
        · dsimp only
          rw [CoreState.startPeriod_job, CoreState.startJob_job]
        · exact hc

/-! ## The end -/

/-- A save of a job that is done is refused (R366). -/
def State.refuseSave (s : State) (j : Job) : State :=
  match j.save with
  | some r => s.complete r.mb Status.refused [] 0
  | none => s

theorem State.refuseSave_jobs_ic (s : State) (j : Job) : (s.refuseSave j).jobs = s.jobs ∧ (s.refuseSave j).ic = s.ic := by
  unfold State.refuseSave
  split
  · exact ⟨State.complete_jobs .., State.complete_ic ..⟩
  · exact ⟨rfl, rfl⟩

/-- JOB_DONE from c + 2:0. -/
theorem execJobDone_spec {handle : Handle} {s : State} {j : Job} (hj : s.job handle = some j) (hst : j.st = .running)
    (hbeat : j.compBeat + 2 ≤ s.beat) (hpend : j.pendingEnd = none) (hrun : s.halted = false) :
    ∃ t, execJobDone handle s = .next t ∧ t.job handle = some (j.finished .done 0 (j.compBeat + 2)) ∧
      t.latchCount (65 + j.mailbox) = min (s.latchCount (65 + j.mailbox) + 1) 255 := by
  have heq : execJobDone handle s = .next ((s.refuseSave j).finishAt handle .done 0 (j.compBeat + 2)) := by
    unfold execJobDone
    rw [hj]
    exact if_pos ⟨hst, hbeat, hpend, .inl (by simp [hrun])⟩
  obtain ⟨hjobs, hic⟩ := s.refuseSave_jobs_ic j
  obtain ⟨hjob, -, hlatch⟩ := State.finishAt_spec .done 0 (j.compBeat + 2) ((State.job_of_jobs hjobs handle).trans hj)
  exact ⟨_, heq, hjob, hlatch.trans (by rw [State.latchCount_of_ic hic])⟩

/-- Settles O35: the request is held, admitted with its placement, started on its cores and finished. -/
theorem admittedJobsStartAndComplete : Obligations.AdmittedJobsStartAndComplete := by
  unfold Obligations.AdmittedJobsStartAndComplete
  refine ⟨fun mb s x im hheld him => ?_, fun handle s j hj hst hcycle htaken hrun hfatal hcp hmulti hmap hseed henc hrestore => ?_,
    fun handle s j hj hst hcycle hbeat hdue hruns => execJobStart_spec hj hst hcycle hbeat hdue hruns,
    fun handle s j hj hst hbeat hpend hrun => ?_⟩
  · intro j hargs himage hready hocc href hn
    obtain ⟨hjob, hmb, hnext⟩ := s.holdJob_spec mb.toNat x j hn
    refine ⟨s.holdJob mb.toNat x j, ?_, hjob, rfl, ?_, ?_, ?_, ?_, hnext⟩
    · show execJobAdmit mb s = _
      rw [execJobAdmit, State.onTaken_of_holds hheld, State.admitCmd_held him hargs himage hready hocc href]
    all_goals rw [hmb]
  · intro p hlaunch hfault
    have heq := execAdmission_eq hj hst hcycle htaken hrun hfatal hcp hmulti hmap hlaunch hfault
    refine ⟨fun hfits hlater => ?_, fun hfits hwait => ?_, fun hfits hwait => ?_⟩
    · have hp : p = _ := s.placed_plain s.beat hrestore
      have hsingle : p.multi = false := by rw [hp]; exact hmulti
      have hplain : p.linkEnc = false := by rw [hp]; exact henc
      have hadmit := s.admitPlaced_plain handle (p := p) (by rw [hp]; exact hseed) hplain (by rw [hp]; exact hrestore)
      obtain ⟨hjob, hdone⟩ := s.takeIn_single handle (j := { p with linkKey := 0, keySlot := none }) hsingle hplain
      rw [if_neg (by simp [p, hfits, hlater]), hadmit] at heq
      refine ⟨_, _, heq, hjob, rfl, ?_, ?_, ?_, ?_, fun w hw => ?_⟩
      · rw [hp]
      · rw [hp]
      · rw [hp]
      · rw [hp]
      · have hbox : p.mailbox = j.mailbox := by rw [hp]
        exact hbox ▸ hdone w (hbox ▸ hw)
    · exact heq.trans ((if_pos (.inl (by simpa using hfits))).trans (if_neg (by simp [hwait])))
    · obtain ⟨⟨k, hk, hkst⟩, -⟩ := State.withdraw_spec Status.refused hj (.inl hst)
      exact ⟨_, k, heq.trans ((if_pos (.inl (by simpa using hfits))).trans (if_pos hwait)), hk, hkst⟩
  · obtain ⟨t, ht, hjob, hlatch⟩ := execJobDone_spec hj hst hbeat hpend hrun
    exact ⟨t, _, ht, hjob, rfl, rfl, rfl, hlatch⟩

end Sys2Proof.Machine
end

section
/-! The boundary of a die that a Whistle stops (R44, R458, R459): the domain executes the last cycle of the beat and not the boundary,
so what waits in its cores goes on waiting. -/

namespace Sys2Proof.Machine

/-- An image of one engine that does nothing, four beats long. -/
def idleImage : Image := ⟨0, 0, 1, 1, 0, 4, 0, [], 0, 0, [], [], []⟩

/-- A job of this image that runs from beat 0 to beat 3. -/
def idleJob : Job :=
  { State.reset.newJob 2 ⟨0, [], none⟩ (TakenCmd.admitReq ⟨0, [], none⟩) idleImage none with st := .running, compBeat := 3 }

/-- Core 0 has the job, and a write of a spin plane waits in it. The Whistle has sounded at 0:726, so that cycle 0:749, 23 later, is the
last one that the domain executes. -/
def stoppingState : State :=
  { State.reset with
    cycle := 749
    jobs := [(1, idleJob)]
    cores := [(0, { CoreState.reset with job := some 1, feltWrites := [⟨true, Win.spins, 0xFF, 1⟩] })]
    whistle := { pending := true, beat := 0, cycle := 726, stopBeat := 0, stopCycle := 0 } }

/-- The domain executes the last cycle of the beat, for a job that goes on. -/
theorem stoppingState_runs :
    (stoppingState.power.coldReset = false ∧ stoppingState.cycle = 749 ∧ stoppingState.domainRuns = true ∧
      stoppingState.cp.release = none ∧ stoppingState.stewardQ = []) ∧
    (stoppingState.core 0).job = some 1 ∧ stoppingState.job 1 = some idleJob ∧ idleJob.st = .running ∧
      stoppingState.beat < idleJob.compBeat ∧ idleJob.pendingEnd = none ∧
      ∀ e ∈ stoppingState.jobs, BitVec.ofNat 16 e.1 = (1 : Handle) → e.2 = idleJob := by
  decide +kernel

/-- The next beat finds the write still waiting. -/
theorem stoppingState_waits : (stoppingState.cycleEnd.boundary.core 0).feltWrites ≠ [] := by
  decide +kernel

theorem execBeatBoundary_last {s : State} (hreset : s.power.coldReset = false) (hcycle : s.cycle = 749) :
    execBeatBoundary s = .next s.cycleEnd.boundary := by
  unfold execBeatBoundary
  rw [if_neg (by simp [hreset]), hcycle]
  rfl

/-- Refutes O12: the clause on a core whose job goes on asks that the domain executes cycle 749, not that it executes the boundary. A
Whistle that sounded at cycle 726 stops the die between the two (R458), and the core's Felt writes go on waiting (R459; the model's log
entry 81). -/
theorem not_beatCounterCountsBeats : ¬ Obligations.BeatCounterCountsBeats := by
  unfold Obligations.BeatCounterCountsBeats
  rintro ⟨-, -, -, -, -, -, hcore, -⟩
  obtain ⟨⟨hreset, hcycle, hruns, hrelease, hqueue⟩, howns, hjob, hst, hbeat, hpend, hsame⟩ := stoppingState_runs
  obtain ⟨t, ht, hfelt, -⟩ :=
    hcore stoppingState 0 1 idleJob hreset hcycle hruns hrelease hqueue howns hjob hst hbeat hpend hsame
  have hnext : t = stoppingState.cycleEnd.boundary :=
    (Host.Outcome.next.inj ((execBeatBoundary_last hreset hcycle).symm.trans ht)).symm
  exact stoppingState_waits (hnext ▸ hfelt)

end Sys2Proof.Machine
end

section
/-! What the commands of the load/store engine and the reports of errors leave in their own core of the registers, the writes of FELT_EXP
and FELT_BETA that wait (R25), and the Felt writes that wait (R44); and tables that a command fills row by row. -/

namespace Sys2Proof.Machine

/-! ## Rows -/

/-- A row of entries is written, each at a place of its own: an entry of the row is read as written, another one as before. -/
theorem get_foldl_write {σ ι κ β : Type} [DecidableEq ι] {f : σ → ι → σ} {get : σ → κ → β} {place : ι → κ} {val : ι → β}
    (hplace : Function.Injective place) (hself : ∀ t n, get (f t n) (place n) = val n)
    (hother : ∀ t n x, x ≠ place n → get (f t n) x = get t x) (l : List ι) (t : σ) (x : ι) :
    get (l.foldl f t) (place x) = if x ∈ l then val x else get t (place x) := by
  induction l generalizing t with
  | nil => rfl
  | cons a l ih =>
    rw [List.foldl_cons, ih]
    by_cases hl : x ∈ l
    · rw [if_pos hl, if_pos (List.mem_cons_of_mem a hl)]
    · by_cases hx : x = a
      · subst hx
        rw [if_neg hl, if_pos List.mem_cons_self, hself]
      · rw [if_neg hl, if_neg (by simp [hx, hl]), hother _ _ _ (hplace.ne hx)]

theorem tabFind_foldl_tabPut {β : Type} {place : Nat → Nat} (hplace : Function.Injective place) (val : Nat → β) (t : Tab β)
    {l : List Nat} {x : Nat} (hx : x ∈ l) :
    tabFind (l.foldl (fun t n => tabPut t (place n) (val n)) t) (place x) = some (val x) := by
  rw [get_foldl_write (get := tabFind) (val := fun n => some (val n)) hplace (fun _ _ => tabFind_tabPut_self ..)
    (fun _ _ _ hne => (tabFind_tabPut ..).trans (if_neg hne)), if_pos hx]

theorem CoreState.reg_foldl_setReg {place : Nat → Nat} (hplace : Function.Injective place) (val : Nat → Dword) (k : CoreState)
    {l : List Nat} {x : Nat} (hx : x ∈ l) :
    (l.foldl (fun k n => k.setReg (place n) (val n)) k).reg (place x) = val x := by
  rw [get_foldl_write (get := CoreState.reg) (val := val) hplace (fun _ _ => CoreState.reg_setReg_self ..)
    (fun _ _ _ hne => (CoreState.reg_setReg ..).trans (if_neg hne)), if_pos hx]

theorem feltBeta_injective : Function.Injective Reg.feltBeta := fun m n h => by
  simp only [Reg.feltBeta] at h
  omega

theorem feltEnergy_injective : Function.Injective Reg.feltEnergy := fun m n h => by
  simp only [Reg.feltEnergy] at h
  omega

/-! ## Registers -/

theorem CoreState.reg_of_regs {k k' : CoreState} (h : k'.regs = k.regs) (o : Nat) : k'.reg o = k.reg o := by
  rw [CoreState.reg, h, CoreState.reg]

theorem CoreState.regF_of_regs {k k' : CoreState} (h : k'.regs = k.regs) (o lo n : Nat) : k'.regF o lo n = k.regF o lo n := by
  rw [CoreState.regF, CoreState.reg_of_regs h, CoreState.regF]

theorem CoreState.reg0_of_regs0 {k k' : CoreState} (h : k'.regs0 = k.regs0) (o : Nat) : k'.reg0 o = k.reg0 o := by
  rw [CoreState.reg0, h, CoreState.reg0]

theorem CoreState.reg_setBits_ne (k : CoreState) {o x : Nat} (m : Dword) (h : x ≠ o) : (k.setBits o m).reg x = k.reg x :=
  (k.reg_setReg o x _).trans (if_neg h)

/-! ## Writes that wait -/

/-- The writes of a core that wait for the boundary: of FELT_EXP and FELT_BETA, and of Felt storage. -/
def CoreState.waiting (k : CoreState) : RegFile × List FeltWrite := (k.rws, k.feltWrites)

theorem CoreState.rws_of_waiting {k k' : CoreState} (h : k'.waiting = k.waiting) : k'.rws = k.rws := congrArg Prod.fst h

theorem CoreState.feltWrites_of_waiting {k k' : CoreState} (h : k'.waiting = k.waiting) : k'.feltWrites = k.feltWrites :=
  congrArg Prod.snd h

@[simp] theorem CoreState.setReg_waiting (k : CoreState) (o : Nat) (v : Dword) : (k.setReg o v).waiting = k.waiting := by rfl

@[simp] theorem CoreState.setBits_waiting (k : CoreState) (o : Nat) (m : Dword) : (k.setBits o m).waiting = k.waiting := by rfl

theorem State.enterJobFault_waiting (s : State) (c code detail addr engine : Nat) :
    ((s.enterJobFault c code detail addr engine).core c).waiting = (s.core c).waiting := by
  unfold State.enterJobFault
  dsimp only
  split
  · rfl
  · rw [State.core_modCore_self, State.core_of_coresUnits (State.enterError_coresUnits ..)]
    rfl

/-- Felt writes join those that wait, whether or not they conflict (R44). -/
theorem State.feltWrite_waiting (s : State) (c : Nat) (ws : List FeltWrite) :
    ((s.feltWrite c ws).core c).waiting = ((s.core c).rws, (s.core c).feltWrites ++ ws) := by
  unfold State.feltWrite
  extract_lets t
  have hwaits : (t.core c).waiting = ((s.core c).rws, (s.core c).feltWrites ++ ws) := by
    rw [State.core_modCore_self]
    rfl
  split
  · rw [State.enterJobFault_waiting, State.core_modCore_self, CoreState.setBits_waiting, hwaits]
  · exact hwaits

/-! ## A command that is ready, and one that leaves its engine -/

theorem State.engineCmd_of_ready {s : State} {c op : Nat} {h : Handle} {j : Job} {i : Issued}
    (hready : s.readyCmd c op = some (h, j, i)) : s.engineCmd c op = some (h, j, i) := by
  unfold State.readyCmd at hready
  split at hready
  · cases hready
  · exact hready

theorem State.readyCmd_due {s : State} {c op : Nat} (hdue : s.operandsDue c (cmdEngine op) = true) : s.readyCmd c op = none :=
  if_pos hdue

/-- The engine of a command that was ready is free after it. -/
theorem State.finishCmd_frees {s : State} {c op : Nat} {h : Handle} {j : Job} {i : Issued}
    (hready : s.readyCmd c op = some (h, j, i)) (t : State) : (((t.finishCmd c j i).core c).engine (cmdEngine op)).cmd = none := by
  rw [← State.engineCmd_op (State.engineCmd_of_ready hready)]
  exact State.finishCmd_cmd ..

theorem State.finishCmd_regs (s : State) (c : Nat) (j : Job) (i : Issued) :
    ((s.finishCmd c j i).core c).regs = (s.core c).regs := by
  rw [State.finishCmd, State.core_of_coresUnits (State.traceCmd_coresUnits ..), State.core_modCore_self]
  rfl

theorem State.finishCmd_waiting (s : State) (c : Nat) (j : Job) (i : Issued) :
    ((s.finishCmd c j i).core c).waiting = (s.core c).waiting := by
  rw [State.finishCmd, State.core_of_coresUnits (State.traceCmd_coresUnits ..), State.core_modCore_self]
  rfl

end Sys2Proof.Machine
end

section
/-! The quantising loads and FELT_BETA_SET (R98 to R100, R138): each waits for its last granule, then leaves its result and its
engine. -/

namespace Sys2Proof.Machine

/-! ## The exponent that a scan finds -/

theorem QValue.need_lt (v : QValue) : v.need < 64 := by
  unfold QValue.need
  cases hfind : (List.range 64).find? fun e => decide ((v.scaled e).rne.natAbs ≤ v.limit.natAbs) with
  | none => decide
  | some e => exact List.mem_range.1 (List.mem_of_find?_eq_some hfind)

theorem CoreState.regF_lt (k : CoreState) (o lo n : Nat) : k.regF o lo n < 2 ^ n := Nat.mod_lt _ (by positivity)

/-- The largest of exponents fits the register's field. -/
theorem foldl_max_need_lt (vs : List QValue) {prev : Nat} (hprev : prev < 64) : (vs.map QValue.need).foldl max prev < 64 := by
  rw [List.foldl_map]
  exact List.foldlRecOn (motive := (· < 64)) vs _ hprev fun _ he v _ => max_lt he v.need_lt

/-- FELT_QACC as a scan writes it: an exponent under VALID. -/
theorem CoreState.regF_scanned (k : CoreState) {e : Nat} (he : e < 64) :
    (k.setReg Reg.feltQacc (BitVec.ofNat 64 (e + 256))).regF Reg.feltQacc 8 1 = 1 ∧
      (k.setReg Reg.feltQacc (BitVec.ofNat 64 (e + 256))).regF Reg.feltQacc 0 6 = e := by
  simp only [CoreState.regF, CoreState.reg_setReg_self]
  rw [bitsOf_ofNat _ (by decide), bitsOf_ofNat _ (by decide)]
  simp only [bitsOf, Nat.shiftRight_eq_div_pow]
  omega

/-- FELT_QSCAN once its last granule has come (R99). -/
theorem execFeltQscan_ready {core : CoreNum} {s : State} {h : Handle} {j : Job} {i : Issued}
    (hready : s.readyCmd core.toNat 0x21 = some (h, j, i)) :
    ∃ t, execFeltQscan core s = .next t ∧ ((t.core core.toNat).engine (cmdEngine 0x21)).cmd = none ∧
      (t.core core.toNat).regF Reg.feltQacc 8 1 = 1 ∧
      (t.core core.toNat).regF Reg.feltQacc 0 6 =
        (((s.qRead core.toNat i).1.filter QValue.finite).map QValue.need).foldl max
          (if i.quant.first then 0 else (s.core core.toNat).regF Reg.feltQacc 0 6) := by
  unfold execFeltQscan
  extract_lets c
  rw [(hready : s.readyCmd c 0x21 = _)]
  dsimp -zeta only
  extract_lets r prev e
  have hprev : prev < 64 := by
    dsimp only [prev]
    split
    · decide
    · exact CoreState.regF_lt ..
  have he : ((r.1.filter QValue.finite).map QValue.need).foldl max prev = e := List.foldl_map
  refine ⟨_, rfl, State.finishCmd_frees hready _, ?_⟩
  rw [CoreState.regF_of_regs (State.finishCmd_regs ..), CoreState.regF_of_regs (State.finishCmd_regs ..), State.core_modCore_self]
  exact he ▸ CoreState.regF_scanned _ (foldl_max_need_lt _ hprev)

/-! ## The mantissas -/

theorem State.qRead_waiting (s : State) (c : Nat) (i : Issued) : ((s.qRead c i).2.core c).waiting = (s.core c).waiting := by
  unfold State.qRead
  dsimp only
  split
  · rw [State.core_modCore_self, CoreState.setBits_waiting]
  · rfl

/-- The state in which FELT_QCONV reads: a FIRST command has cleared FELT_QERR and written its exponent to FELT_EXP (R100). -/
def State.convOpened (s : State) (c : Nat) (first : Bool) (e : Nat) : State :=
  if first then s.modCore c fun k => { k.setReg Reg.feltQerr 0 with rws := tabPut k.rws Reg.feltExp (BitVec.ofNat 64 e) } else s

theorem State.convOpened_feltWrites (s : State) (c : Nat) (first : Bool) (e : Nat) :
    ((s.convOpened c first e).core c).feltWrites = (s.core c).feltWrites := by
  unfold State.convOpened
  split
  · rw [State.core_modCore_self]
    rfl
  · rfl

theorem State.convOpened_exp {first : Bool} (hfirst : first = true) (s : State) (c e : Nat) :
    tabFind ((s.convOpened c first e).core c).rws Reg.feltExp = some (BitVec.ofNat 64 e) := by
  rw [State.convOpened, if_pos hfirst, State.core_modCore_self]
  exact tabFind_tabPut_self ..

/-- FELT_QCONV once its last granule has come (R100). -/
theorem execFeltQconv_ready {core : CoreNum} {s : State} {h : Handle} {j : Job} {i : Issued}
    (hready : s.readyCmd core.toNat 0x22 = some (h, j, i)) :
    let e := if i.quant.fixed then i.quant.exp else (s.core core.toNat).regF Reg.feltQacc 0 6
    let vs := ((s.convOpened core.toNat i.quant.first e).qRead core.toNat i).1
    ∃ t, execFeltQconv core s = .next t ∧ ((t.core core.toNat).engine (cmdEngine 0x22)).cmd = none ∧
      (t.core core.toNat).feltWrites = (s.core core.toNat).feltWrites ++ vs.flatMap (fun v => v.bytes e) ∧
      (i.quant.first = true → tabFind (t.core core.toNat).rws Reg.feltExp = some (BitVec.ofNat 64 e)) := by
  intro e vs
  unfold execFeltQconv
  extract_lets c
  rw [(hready : s.readyCmd c 0x22 = _)]
  dsimp -zeta only
  extract_lets q e' s0 r vs' sat zeroed err s1
  have hs1 : (s1.core c).waiting = (s0.core c).waiting := by
    refine Eq.trans ?_ (s0.qRead_waiting c i)
    rw [State.core_modCore_self]
    dsimp only
    split
    · rw [CoreState.setReg_waiting]
    · rw [CoreState.setBits_waiting, CoreState.setReg_waiting]
  have hwaits : (((s1.feltWrite c (vs'.flatMap fun v => v.bytes e')).finishCmd c j i).core c).waiting =
      ((s0.core c).rws, (s0.core c).feltWrites ++ vs'.flatMap fun v => v.bytes e') := by
    rw [State.finishCmd_waiting, State.feltWrite_waiting, CoreState.rws_of_waiting hs1, CoreState.feltWrites_of_waiting hs1]
  obtain ⟨hrws, hfelt⟩ := Prod.ext_iff.1 hwaits
  refine ⟨_, rfl, State.finishCmd_frees hready _, hfelt.trans ?_, fun hfirst => ?_⟩
  · exact congrArg (· ++ _) (State.convOpened_feltWrites ..)
  · exact (congrArg (tabFind · Reg.feltExp) hrws).trans (State.convOpened_exp hfirst ..)

/-! ## The beta codes -/

/-- FELT_BETA_SET once its granule has come (R138). -/
theorem execFeltBetaSet_ready {core : CoreNum} {s : State} {h : Handle} {j : Job} {i : Issued}
    (hready : s.readyCmd core.toNat 0x26 = some (h, j, i)) :
    let a := ((s.core core.toNat).regF Reg.feltAnneal 0 44 + 32 * i.f 0 8 16) % 2 ^ 44
    let bs := (s.core core.toNat).operands 4 0 1
    ∃ t, execFeltBetaSet core s = .next t ∧ ((t.core core.toNat).engine (cmdEngine 0x26)).cmd = none ∧
      ∀ n < 16, tabFind (t.core core.toNat).rws (Reg.feltBeta n) =
        some (BitVec.ofNat 64 (natOf ((bs.drop (a % 64 + 2 * n)).take 2))) := by
  intro a bs
  unfold execFeltBetaSet
  extract_lets c
  rw [(hready : s.readyCmd c 0x26 = _)]
  dsimp -zeta only
  refine ⟨_, rfl, State.finishCmd_frees hready _, fun n hn => ?_⟩
  rw [CoreState.rws_of_waiting (State.finishCmd_waiting ..), State.core_modCore_self]
  dsimp only
  exact tabFind_foldl_tabPut feltBeta_injective _ _ (List.mem_range.2 hn)

/-! ## All three -/

/-- Settles O21: a command that is ready leaves its result through `finishCmd`, and one that is not leaves the state alone. -/
theorem quantisingLoadsAndBetaSet : Obligations.QuantisingLoadsAndBetaSet := by
  unfold Obligations.QuantisingLoadsAndBetaSet
  refine ⟨fun core s h j i hready => execFeltQscan_ready hready, fun core s h j i hready => execFeltQconv_ready hready,
    fun core s h j i hready => execFeltBetaSet_ready hready, fun core s hdue => ?_⟩
  have hnone (op : Nat) (hop : cmdEngine op = 4) : s.readyCmd core.toNat op = none := State.readyCmd_due (hop ▸ hdue)
  refine ⟨?_, ?_, ?_⟩
  · show execFeltQscan core s = _
    simp only [execFeltQscan, hnone 0x21 rfl]
  · show execFeltQconv core s = _
    simp only [execFeltQconv, hnone 0x22 rfl]
  · show execFeltBetaSet core s = _
    simp only [execFeltBetaSet, hnone 0x26 rfl]

end Sys2Proof.Machine
end

section
/-! Replica exchange (R113 to R115, R145): EXCHANGE_BEAT and REPLICA_EXCHANGE_DECIDE change the cores of a job one after the other, each
by its own state alone. -/

namespace Sys2Proof.Machine

/-! ## Cores changed one after the other -/

/-- A core is changed as often as it is listed. -/
theorem State.core_foldl_modCore (f : Nat → CoreState → CoreState) (es : List (Nat × Nat)) (s : State) (c : Nat) :
    (es.foldl (fun t e => t.modCore e.2 (f e.2)) s).core c = (f c)^[(es.map (·.2)).count c] (s.core c) := by
  induction es generalizing s with
  | nil => rfl
  | cons e es ih =>
    rw [List.foldl_cons, ih, State.core_modCore, List.map_cons]
    by_cases hc : e.2 = c
    · rw [hc, if_pos rfl, List.count_cons_self, Function.iterate_succ_apply]
    · rw [if_neg (Ne.symm hc), List.count_cons_of_ne hc]

/-! ## The energies are latched -/

/-- The energies of core `c`'s share of the planes, as `s` has them, in the registers FELT_ENERGY of `k` (R114). -/
def State.putEnergies (s : State) (c : Nat) (k : CoreState) : CoreState :=
  (List.range 16).foldl (fun k p => k.setReg (Reg.feltEnergy p) (BitVec.ofNat 64 (unsigned 32 (s.energyPartial c p)))) k

/-- An exchange of FELT_XROUND's round begins in job beat `b` (R113); `bad` says that a live entry of the tile names a core
that the job does not hold (R117). -/
def CoreState.openRound (b : Nat) (bad : Bool) (k : CoreState) : CoreState :=
  let k := { k with
    energyExp := k.regF Reg.feltExp 0 6
    rounds := k.rounds.filter (fun x => x.1 != b) ++ [(b, BitVec.ofNat 64 (k.reg0 Reg.feltXround))] }
  if bad then k.setBits Reg.feltFlags 0x8 else k

/-- What EXCHANGE_BEAT does to core `c` of a job that is in job beat `b`. -/
def State.latchEnergies (s : State) (b c : Nat) (k : CoreState) : CoreState :=
  (s.putEnergies c k).openRound b (s.nbrBad c)

theorem State.putEnergies_reg (s : State) (c : Nat) (k : CoreState) {p : Nat} (hp : p < 16) :
    (s.putEnergies c k).reg (Reg.feltEnergy p) = BitVec.ofNat 64 (unsigned 32 (s.energyPartial c p)) :=
  CoreState.reg_foldl_setReg feltEnergy_injective _ k (List.mem_range.2 hp)

theorem State.putEnergies_regs0 (s : State) (c : Nat) (k : CoreState) : (s.putEnergies c k).regs0 = k.regs0 := by
  unfold State.putEnergies
  exact List.foldlRecOn (motive := fun x : CoreState => x.regs0 = k.regs0) _ _ rfl fun _ hx _ _ => hx

section
variable (b : Nat) (bad : Bool) (k : CoreState)

theorem CoreState.openRound_regs0 : (k.openRound b bad).regs0 = k.regs0 := by
  cases bad <;> rfl

theorem CoreState.openRound_reg_ne {o : Nat} (ho : o ≠ Reg.feltFlags) : (k.openRound b bad).reg o = k.reg o := by
  cases bad
  · rfl
  · exact CoreState.reg_setBits_ne _ _ ho

theorem CoreState.mem_openRound_rounds : (b, BitVec.ofNat 64 (k.reg0 Reg.feltXround)) ∈ (k.openRound b bad).rounds := by
  have hrounds : (k.openRound b bad).rounds =
      k.rounds.filter (fun x => x.1 != b) ++ [(b, BitVec.ofNat 64 (k.reg0 Reg.feltXround))] := by
    cases bad <;> rfl
  rw [hrounds]
  exact List.mem_append_right _ List.mem_cons_self

end

/-- EXCHANGE_BEAT in an exchange beat. -/
theorem execExchangeBeat_eq {handle : Handle} {s : State} {j : Job} (hj : s.job handle = some j) (hruns : s.jobRuns j = true)
    (hbeat : j.firstCore.any (fun c => (s.core c).exchangeBeat (s.jobBeat j)) = true) :
    execExchangeBeat handle s =
      .next (j.engines.foldl (fun t e => t.modCore e.2 (s.latchEnergies (s.jobBeat j) e.2)) s) := by
  unfold execExchangeBeat
  rw [hj]
  exact if_pos ⟨hruns, hbeat⟩

/-- A core that is listed once or more holds its energies, and the round of the exchange. -/
theorem State.latchEnergies_foldl (s : State) (b : Nat) {es : List (Nat × Nat)} {e : Nat × Nat} (he : e ∈ es) {p : Nat}
    (hp : p < 16) :
    let t := es.foldl (fun t e => t.modCore e.2 (s.latchEnergies b e.2)) s
    (t.core e.2).reg (Reg.feltEnergy p) = BitVec.ofNat 64 (unsigned 32 (s.energyPartial e.2 p)) ∧
      (b, BitVec.ofNat 64 ((s.core e.2).reg0 Reg.feltXround)) ∈ (t.core e.2).rounds := by
  intro t
  obtain ⟨n, hn⟩ : ∃ n, (es.map (·.2)).count e.2 = n + 1 :=
    Nat.exists_eq_succ_of_ne_zero (List.count_pos_iff.2 (List.mem_map_of_mem he)).ne'
  set k := (s.latchEnergies b e.2)^[n] (s.core e.2)
  have hcore : t.core e.2 = (s.putEnergies e.2 k).openRound b (s.nbrBad e.2) := by
    rw [State.core_foldl_modCore, hn, Function.iterate_succ_apply', State.latchEnergies]
  have hk : k.regs0 = (s.core e.2).regs0 :=
    Function.Iterate.rec (fun x : CoreState => x.regs0 = (s.core e.2).regs0) rfl
      (fun x hx => ((CoreState.openRound_regs0 ..).trans (s.putEnergies_regs0 e.2 x)).trans hx) n
  rw [hcore]
  constructor
  · rw [CoreState.openRound_reg_ne _ _ _ (by simp only [Reg.feltEnergy, Reg.feltFlags]; omega), s.putEnergies_reg e.2 k hp]
  · rw [← CoreState.reg0_of_regs0 ((s.putEnergies_regs0 e.2 k).trans hk)]
    exact CoreState.mem_openRound_rounds ..

/-! ## The new order waits -/

/-- What the decision of round `r` in job beat `b` does to a core: its outcome waits for the boundary that opens beat `next`
(R113, R115). -/
def CoreState.decided (energy : Nat → Dyad) (r : Dword) (b next : Nat) (k : CoreState) : CoreState :=
  { k.count Reg.napXchg 2 with
    rounds := k.rounds.filter fun x => x.1 + k.lag != b
    regNext := k.regNext ++
      [⟨next, Reg.feltPerm, BitVec.ofNat 64 (k.exchange r.toNat energy), -1⟩, ⟨next, Reg.feltXround, r + 1, -1⟩] }

/-- REPLICA_EXCHANGE_DECIDE in the beat in which a decision falls due. -/
theorem execReplicaExchangeDecide_eq {handle : Handle} {s : State} {j : Job} {c0 : Nat} {r : Dword} (hj : s.job handle = some j)
    (hfirst : j.firstCore = some c0) (hruns : s.jobRuns j = true) (hdue : (s.core c0).roundDue (s.jobBeat j) = some r) :
    execReplicaExchangeDecide handle s =
      let t := j.engines.foldl (fun t e =>
        t.modCore e.2 (CoreState.decided (fun p => s.planeEnergy j p) r (s.jobBeat j) (s.beat + 1))) s
      .next { t with free := t.free + 16 * j.image.e } := by
  unfold execReplicaExchangeDecide
  rw [hj]
  dsimp only
  rw [hfirst]
  dsimp only
  rw [hdue]
  exact if_pos hruns

/-- Settles O25: each core of the job is changed by its own state alone; where the cores are distinct, each is changed once. -/
theorem replicaExchangeLatchesEnergiesAndSwaps : Obligations.ReplicaExchangeLatchesEnergiesAndSwaps := by
  unfold Obligations.ReplicaExchangeLatchesEnergiesAndSwaps
  refine ⟨fun handle s j hj hruns hbeat => ?_, fun handle s j c0 r hj hfirst hdistinct hruns hdue => ?_⟩
  · exact ⟨_, execExchangeBeat_eq hj hruns hbeat, fun e he p hp => s.latchEnergies_foldl _ he hp⟩
  · refine ⟨_, execReplicaExchangeDecide_eq hj hfirst hruns hdue, fun e he => ?_⟩
    have honce : (j.engines.map (·.2)).count e.2 = 1 := List.count_eq_one_of_mem hdistinct (List.mem_map_of_mem he)
    have hcore := State.core_foldl_modCore
      (fun _ => CoreState.decided (fun p => s.planeEnergy j p) r (s.jobBeat j) (s.beat + 1)) j.engines s e.2
    rw [honce] at hcore
    exact congrArg CoreState.regNext hcore

end Sys2Proof.Machine
end

section
/-! ROT_STORE, ACC_STORE and LS_MOVE (R130, R186, R314, R318): a command's transfers join those in flight one after the other, and a
launch changes nothing else that the next one sees. -/

namespace Sys2Proof.Machine

/-! ## One transfer is launched -/

/-- `s` with the transfers `ts` in flight. -/
def State.withTransfers (s : State) (ts : List Transfer) : State := { s with transfers := ts }

theorem State.jobMay_withTransfers (s : State) (ts : List Transfer) (j : Job) (c a n : Nat) (write : Bool) :
    (s.withTransfers ts).jobMay j c a n write = s.jobMay j c a n write := by
  rfl

/-- Filling a write changes no state, and needs none of the transfers in flight, unless the data come from memory. -/
theorem State.fillData_withTransfers (s : State) (ts : List Transfer) {x : Transfer} (hfill : ∀ a, x.fill ≠ .copy a) :
    (s.withTransfers ts).fillData x = ((s.fillData x).1, s.withTransfers ts) := by
  unfold State.fillData
  split
  case h_4 a hcopy => exact absurd hcopy (hfill a)
  all_goals rfl

/-- A write joins the transfers in flight, with its data where its slot has come (R187, R310). -/
theorem State.launch_write (s : State) (ts : List Transfer) {x : Transfer} (hwrite : x.write = true)
    (htap : ∀ f, x.target ≠ .tap f) (hfill : x.leaves s.now = true → ∀ a, x.fill ≠ .copy a) :
    (s.withTransfers ts).launch x = s.withTransfers (ts ++ [launched s x]) := by
  have hnow : (s.withTransfers ts).now = s.now := rfl
  unfold State.launch State.advance launched
  rw [if_pos hwrite, if_pos hwrite]
  dsimp only
  rw [hnow]
  by_cases hleaves : x.leaves s.now = true
  · rw [if_pos hleaves, if_pos hleaves, s.fillData_withTransfers ts (hfill hleaves)]
    dsimp only
    split
    next f htarget => exact absurd htarget (htap f)
    next => rfl
  · rw [if_neg hleaves, if_neg hleaves]
    rfl

section
variable (s : State) (ts : List Transfer) {c : Nat} {j : Job} {slot : Nat × Word} {a n : Nat} (h : Handle)

/-- A write of the load/store engine to memory, through a slot that is none of a link tap. -/
theorem State.launchWrite_memory {fill : WriteData} (data : Granule) (hslot : slotKind slot.2 ≠ 2)
    (hmay : s.jobMay j c a n true = true) (hfill : ∀ b, fill ≠ .copy b) :
    (s.withTransfers ts).launchWrite c h j 4 slot a n fill .memory data =
      s.withTransfers (ts ++ [launched s (writeTransfer s c h slot a n fill .memory data)]) := by
  unfold State.launchWrite
  dsimp only
  rw [if_neg hslot, s.jobMay_withTransfers, hmay]
  exact s.launch_write (x := writeTransfer s c h slot a n fill .memory data) ts rfl nofun fun _ => hfill

/-- A read of the load/store engine into scratch. -/
theorem State.launchRead_scratch (off : Nat) (hmay : s.jobMay j c a n false = true) :
    (s.withTransfers ts).launchRead c h j 4 slot a n (.scratch off n) =
      s.withTransfers (ts ++ [readTransfer s c h slot a off n]) := by
  unfold State.launchRead
  rw [s.jobMay_withTransfers, hmay]
  rfl

end

/-! ## A command's transfers -/

/-- Steps that each launch one transfer launch them in their order. -/
theorem State.foldl_withTransfers (s : State) {α : Type} {f : State → α → State} {x : α → Transfer} {l : List α}
    (hstep : ∀ a ∈ l, ∀ ts, f (s.withTransfers ts) a = s.withTransfers (ts ++ [x a])) (ts : List Transfer) :
    l.foldl f (s.withTransfers ts) = s.withTransfers (ts ++ l.map x) := by
  induction l generalizing ts with
  | nil => rw [List.foldl_nil, List.map_nil, List.append_nil]
  | cons a l ih =>
    rw [List.foldl_cons, hstep a List.mem_cons_self, ih fun b hb => hstep b (List.mem_cons_of_mem a hb), List.map_cons,
      List.append_assoc, List.singleton_append]

theorem zipIdx_eq_map_range {α : Type} (l : List α) (d : α) : l.zipIdx = (List.range l.length).map fun n => (l.getD n d, n) :=
  List.ext_getElem (by simp) fun n hn _ => by
    rw [List.length_zipIdx] at hn
    simp [List.getElem?_eq_getElem hn]

theorem length_granules (a n : Nat) : (granules a n).length = n := by
  rw [granules, List.length_map, List.length_range]

theorem getD_mem {α : Type} {l : List α} {n : Nat} (d : α) (hn : n < l.length) : l.getD n d ∈ l := by
  rw [List.getD_eq_getElem _ _ hn]
  exact List.getElem_mem hn

theorem getElem?_eq_some_getD {α : Type} {l : List α} {n : Nat} (d : α) (hn : n < l.length) : l[n]? = some (l.getD n d) := by
  rw [List.getD_eq_getElem _ _ hn, List.getElem?_eq_getElem hn]

/-- A command that writes `count` granules, each through the slot of its number (R314), launches one write of 64 bytes for each. -/
theorem State.foldl_launchWrite {s : State} {c count : Nat} {h : Handle} {j : Job} {slots : List (Nat × Word)} {as : List Nat}
    {fill : Nat → WriteData} {data : Nat → Granule} {f : State → Nat × Nat → State}
    (hf : ∀ t x sl, slots[x.2]? = some sl → f t x = t.launchWrite c h j 4 sl x.1 64 (fill x.2) .memory (data x.2))
    (hfill : ∀ n b, fill n ≠ .copy b) (has : as.length = count) (hlen : slots.length = count)
    (hslots : ∀ sl ∈ slots, slotKind sl.2 ≠ 2) (hmay : ∀ a ∈ as, s.jobMay j c a 64 true = true) :
    as.zipIdx.foldl f s =
      s.withTransfers (s.transfers ++ (List.range count).map fun n =>
        launched s (writeTransfer s c h (slots.getD n (0, 0)) (as.getD n 0) 64 (fill n) .memory (data n))) := by
  rw [zipIdx_eq_map_range as 0, List.foldl_map, has]
  refine s.foldl_withTransfers (fun n hn ts => ?_) s.transfers
  have hn : n < count := List.mem_range.1 hn
  rw [hf _ _ _ (getElem?_eq_some_getD (0, 0) (hlen ▸ hn))]
  exact s.launchWrite_memory ts h (data n) (hslots _ (getD_mem _ (hlen ▸ hn))) (hmay _ (getD_mem _ (has ▸ hn))) (hfill n)

section
variable (s : State) (ts : List Transfer) {c n : Nat} (h : Handle) {j : Job} {m : Move} {slots : List (Nat × Word)}

/-- One granule of an LS_MOVE to memory leaves scratch through its slot; the last has TAIL bytes (R318). -/
theorem State.moveOne_toMem (hmem : m.toMem = true) (hn : n < slots.length) (hslots : ∀ sl ∈ slots, slotKind sl.2 ≠ 2)
    (hmay : s.jobMay j c (m.addrOf n) (if n + 1 = m.count then m.tail else 64) true = true) :
    (s.withTransfers ts).moveOne c h j m slots[n]? n =
      s.withTransfers (ts ++ [launched s (writeTransfer s c h (slots.getD n (0, 0)) (m.addrOf n)
        (if n + 1 = m.count then m.tail else 64) (.scratch (m.scr + 64 * n)) .memory 0)]) := by
  rw [getElem?_eq_some_getD (0, 0) hn]
  exact (if_pos hmem).trans (s.launchWrite_memory ts h 0 (hslots _ (getD_mem _ hn)) hmay nofun)

/-- One granule of an LS_MOVE to scratch is asked for through its slot (R318). -/
theorem State.moveOne_toScratch (hmem : m.toMem = false) (hn : n < slots.length)
    (hmay : s.jobMay j c (m.addrOf n) (if n + 1 = m.count then m.tail else 64) false = true) :
    (s.withTransfers ts).moveOne c h j m slots[n]? n =
      s.withTransfers (ts ++ [readTransfer s c h (slots.getD n (0, 0)) (m.addrOf n) (m.scr + 64 * n)
        (if n + 1 = m.count then m.tail else 64)]) := by
  rw [getElem?_eq_some_getD (0, 0) hn]
  exact (if_neg (by simp [hmem])).trans (s.launchRead_scratch ts h _ hmay)

end

/-! ## The command leaves its engine -/

theorem State.traceCmd_transfers (s : State) (c e : Nat) (i : Issued) (endCycle : Nat) (cut : Bool) :
    (s.traceCmd c e i endCycle cut).transfers = s.transfers := by
  unfold State.traceCmd
  extract_lets conf part
  rw [apply_ite State.transfers, State.addTrace_transfers, ite_self]

theorem State.finishCmd_transfers (s : State) (c : Nat) (j : Job) (i : Issued) :
    (s.finishCmd c j i).transfers = s.transfers := by
  rw [State.finishCmd, State.traceCmd_transfers, State.modCore_transfers]

/-- A command whose transfers are in flight leaves its engine free, and them as they are. -/
theorem State.finishCmd_launched {s t : State} {c op : Nat} {h : Handle} {j : Job} {i : Issued} {ts : List Transfer}
    (hcmd : s.engineCmd c op = some (h, j, i)) (ht : t = s.withTransfers ts) :
    (((t.finishCmd c j i).core c).engine (cmdEngine op)).cmd = none ∧ (t.finishCmd c j i).transfers = ts :=
  ⟨State.engineCmd_op hcmd ▸ State.finishCmd_cmd .., ht ▸ State.finishCmd_transfers ..⟩

/-! ## The commands -/

section
variable {core : CoreNum} {s : State} {h : Handle} {j : Job} {i : Issued}

theorem execRotStore_eq (hcmd : s.engineCmd core.toNat 0x23 = some (h, j, i)) :
    execRotStore core s = .next ((s.writeAll core.toNat h j 4 (s.cmdSlots core.toNat j i) (granules (i.f 1 0 44) 640)
      (s.core core.toNat).image).finishCmd core.toNat j i) := by
  unfold execRotStore
  extract_lets c
  rw [(hcmd : s.engineCmd c 0x23 = _)]

theorem execLsMove_eq (hcmd : s.engineCmd core.toNat 0x2A = some (h, j, i)) :
    execLsMove core s = .next (((List.range i.move.count).foldl (fun t n =>
      t.moveOne core.toNat h j i.move (s.cmdSlots core.toNat j i)[n]? n) s).finishCmd core.toNat j i) := by
  unfold execLsMove
  extract_lets c
  rw [(hcmd : s.engineCmd c 0x2A = _)]

end

/-- Settles O22: the transfers of each command join those in flight one by one, and the command leaves its engine through
`finishCmd`. -/
theorem storingCommandsLaunchOneWritePerGranule : Obligations.StoringCommandsLaunchOneWritePerGranule := by
  unfold Obligations.StoringCommandsLaunchOneWritePerGranule
  refine ⟨fun core s h j i hcmd => ?_, fun core s h j i hcmd => ?_, fun core s h j i hcmd => ?_, fun core s h j i hcmd => ?_⟩
  · intro slots as hlen hslots hmay
    exact ⟨_, execRotStore_eq hcmd, State.finishCmd_launched hcmd (State.foldl_launchWrite (fill := fun _ => .ready)
      (fun t x sl hsl => by rw [hsl]) nofun (length_granules ..) hlen hslots hmay)⟩
  · intro slots as hlen hslots hmay
    show ∃ t, execAccStore core s = .next t ∧ _
    unfold execAccStore
    extract_lets c
    rw [(hcmd : s.engineCmd c 0x27 = _)]
    exact ⟨_, rfl, State.finishCmd_launched hcmd (State.foldl_launchWrite (fill := .tile (i.f 0 8 4)) (data := fun _ => 0)
      (fun t x sl hsl => by rw [hsl]) nofun (length_granules ..) hlen hslots hmay)⟩
  · intro slots m bytes hmem hlen hslots hmay
    exact ⟨_, execLsMove_eq hcmd, State.finishCmd_launched hcmd <| s.foldl_withTransfers (fun n hn ts =>
      have hn : n < m.count := List.mem_range.1 hn
      s.moveOne_toMem ts h hmem (hlen ▸ hn) hslots (hmay n hn)) s.transfers⟩
  · intro slots m bytes hmem hlen hmay
    exact ⟨_, execLsMove_eq hcmd, State.finishCmd_launched hcmd <| s.foldl_withTransfers (fun n hn ts =>
      have hn : n < m.count := List.mem_range.1 hn
      s.moveOne_toScratch ts h hmem (hlen ▸ hn) (hmay n hn)) s.transfers⟩

end Sys2Proof.Machine
end

section
/-! The field engine (R149 to R171, R240): what each of its commands leaves in its own core of the storage and of the Felt writes that
wait. The counters, flags and watches that a command keeps beside them are in neither. -/

namespace Sys2Proof.Machine

/-! ## Storage and waiting Felt writes -/

/-- What an engine's results go to: the core's storage, and the Felt writes that wait for the boundary (R44). -/
def CoreState.results (k : CoreState) : Bytes × List FeltWrite := (k.store, k.feltWrites)

theorem CoreState.store_of_results {k k' : CoreState} (h : k'.results = k.results) : k'.store = k.store := congrArg Prod.fst h

@[simp] theorem CoreState.count_results (k : CoreState) (o n : Nat) : (k.count o n).results = k.results := by rfl

@[simp] theorem CoreState.setBits_results (k : CoreState) (o : Nat) (m : Dword) : (k.setBits o m).results = k.results := by rfl

/-- A counter counts, and its flag is set, only where there is something to count. -/
theorem CoreState.tally_results (k : CoreState) (n o f : Nat) (m : Dword) :
    (if n = 0 then k else (k.count o n).setBits f m).results = k.results := by
  split
  · rfl
  · rw [CoreState.setBits_results, CoreState.count_results]

/-- What a write to scratch leaves depends on nothing else that the core holds. -/
theorem CoreState.writeScratch_results {k k' : CoreState} (h : k'.results = k.results) (o : Nat) (bs : List Byte) :
    (k'.writeScratch o bs).results = (k.writeScratch o bs).results :=
  congrArg (fun r : Bytes × List FeltWrite => (bytesWrite r.1 (Win.scratch + o) bs, r.2)) h

theorem CoreState.outScratch_results {k k' : CoreState} (h : k'.results = k.results) (o : Out)
    (rows : List (Nat × List Rounded)) :
    (k'.outScratch o rows).results = (k.outScratch o rows).results := by
  have hvectors := CoreState.writeScratch_results h o.addr (rows.flatMap fun r => outVector o.dfmt r.1 r.2)
  unfold CoreState.outScratch
  dsimp only
  split
  · exact CoreState.writeScratch_results hvectors ..
  · exact hvectors

theorem CoreState.writeScratch_feltWrites (k : CoreState) (o : Nat) (bs : List Byte) :
    (k.writeScratch o bs).feltWrites = k.feltWrites := by rfl

theorem CoreState.outScratch_feltWrites (k : CoreState) (o : Out) (rows : List (Nat × List Rounded)) :
    (k.outScratch o rows).feltWrites = k.feltWrites := by
  unfold CoreState.outScratch
  dsimp only
  split
  · rw [CoreState.writeScratch_feltWrites, CoreState.writeScratch_feltWrites]
  · rw [CoreState.writeScratch_feltWrites]

/-- The rows of a finished tile are all that FE_MMA writes to the storage. -/
theorem CoreState.mmaDone_results (k : CoreState) (m : Mma) (tile : AccTile) (bad : Nat) :
    (k.mmaDone m tile bad).results =
      (tile.zipIdx.foldl (fun k r => k.setAccRow m.acc r.2 (r.1.map fun e => e.acc)) k).results := by
  unfold CoreState.mmaDone
  extract_lets es sats clamps k₁ k₂ k₃
  rw [CoreState.tally_results k₃, CoreState.tally_results k₂, CoreState.tally_results k₁]

/-! ## What every command of the engine does beside its results -/

/-- The watch units only look on (R454, R455). -/
theorem State.watchCmd_results (s : State) (c : Nat) (h : Handle) (acc : Option Nat) (i : Issued) (vs : List Watched) :
    ((s.watchCmd c h acc i vs).core c).results = (s.core c).results := by
  unfold State.watchCmd
  refine List.foldlRecOn (motive := fun t : State => (t.core c).results = (s.core c).results) _ _ rfl fun t ht u _ => ?_
  extract_lets w w' n t'
  have hwatch : (t'.core c).results = (s.core c).results := by
    rw [State.core_modCore_self, CoreState.tally_results]
    exact ht
  split
  · split
    · rw [State.core_of_coresUnits (State.dieEvent_coresUnits ..), hwatch]
    · exact hwatch
  · exact ht

theorem State.finishCmd_results (s : State) (c : Nat) (j : Job) (i : Issued) :
    ((s.finishCmd c j i).core c).results = (s.core c).results := by
  rw [State.finishCmd, State.core_of_coresUnits (State.traceCmd_coresUnits ..), State.core_modCore_self]
  rfl

/-- A command that an engine held leaves it free, and its results as they are. -/
theorem State.finishCmd_done {s t : State} {c op : Nat} {h : Handle} {j : Job} {i : Issued} {r : Bytes × List FeltWrite}
    (hcmd : s.engineCmd c op = some (h, j, i)) (ht : (t.core c).results = r) :
    (((t.finishCmd c j i).core c).engine (cmdEngine op)).cmd = none ∧ ((t.finishCmd c j i).core c).results = r :=
  ⟨State.engineCmd_op hcmd ▸ State.finishCmd_cmd .., (State.finishCmd_results ..).trans ht⟩

theorem State.enterJobFault_results (s : State) (c code detail addr engine : Nat) :
    ((s.enterJobFault c code detail addr engine).core c).results = (s.core c).results := by
  unfold State.enterJobFault
  dsimp only
  split
  · rfl
  · rw [State.core_modCore_self, State.core_of_coresUnits (State.enterError_coresUnits ..)]
    rfl

/-- Felt writes wait behind those that waited, whether or not they conflict (R44); they reach no storage. -/
theorem State.feltWrite_results (s : State) (c : Nat) (ws : List FeltWrite) :
    ((s.feltWrite c ws).core c).results = ((s.core c).store, (s.core c).feltWrites ++ ws) := by
  unfold State.feltWrite
  extract_lets t
  have hwaits : (t.core c).results = ((s.core c).store, (s.core c).feltWrites ++ ws) := by
    rw [State.core_modCore_self]
    rfl
  split
  · rw [State.enterJobFault_results, State.core_modCore_self, CoreState.setBits_results, hwaits]
  · exact hwaits

/-- Felt writes of a command that writes to a plane. -/
theorem State.feltWrite_ite_results (s : State) (c : Nat) (ws : List FeltWrite) (p : Prop) [Decidable p] :
    ((if p then s.feltWrite c ws else s).core c).results =
      ((s.core c).store, (s.core c).feltWrites ++ if p then ws else []) := by
  by_cases hp : p
  · rw [if_pos hp, if_pos hp, State.feltWrite_results]
  · rw [if_neg hp, if_neg hp, List.append_nil, CoreState.results]

/-- With no Whistle sounded, a command makes all its parts (R458). -/
theorem State.partsMade_all {s : State} (hquiet : s.whistle.pending = false) (i : Issued) (n first step : Nat) :
    s.partsMade i n first step = n := by
  have hlast : s.lastCycle = none := if_neg (by simp [hquiet])
  rw [State.partsMade, hlast]

/-! ## What each command leaves -/

/-- The writes of outcomes to a spin plane (R170). -/
def bernPlane (b : Bern) (rows : List (List Bool)) : List FeltWrite :=
  rows.zipIdx.flatMap fun r =>
    feltBytes false (Win.spins + 512 * bitsOf b.addr 0 4 + quadCell (bitsOf b.addr 4 2) r.2 0 / 8) (bytesOf 4 (rowBits r.1))

section
variable (s : State) (c : Nat) (h : Handle) (j : Job) (i : Issued)

/-- The tile as the chunks that an FE_MMA makes leave it. -/
def State.mmaTile : AccTile :=
  ((s.core c).mmaChunks i.mma (s.mmaMade i j) 0 ((s.core c).accTile i.mma.acc i.mma.zero) 0).1

theorem State.feMma_results_none (hn : s.mmaMade i j = 0) : ((s.feMma c h j i).core c).results = (s.core c).results := by
  unfold State.feMma
  dsimp only
  rw [if_pos hn, State.watchCmd_results]

theorem State.feMma_results (hn : s.mmaMade i j ≠ 0) :
    ((s.feMma c h j i).core c).results =
      ((s.mmaTile c j i).zipIdx.foldl (fun k r => k.setAccRow i.mma.acc r.2 (r.1.map fun e => e.acc)) (s.core c)).results := by
  unfold State.feMma
  dsimp only
  rw [if_neg hn, State.watchCmd_results, State.core_modCore_self, CoreState.mmaDone_results, State.mmaTile]

/-- The rows that an FE_OUT writes. -/
def State.outRows : List (Nat × List Rounded) :=
  (List.range (s.partsMade i 32 8 1)).map ((s.core c).outRow i.out ((s.core c).regF Reg.feltExp 0 6))

theorem State.feOut_results :
    ((s.feOut c h i).core c).results =
      ((if i.out.dest = 0 then (s.core c).outScratch i.out (s.outRows c i) else s.core c).store,
        (s.core c).feltWrites ++
          if i.out.dest = 1 then outPlane i.out ((s.core c).regF Reg.feltExp 0 6) (s.outRows c i) else []) := by
  unfold State.feOut
  extract_lets o k₀ ex n rows rs sats t₁ t₂
  have hscratch : (t₁.core c).results = ((if o.dest = 0 then k₀.outScratch o rows else k₀).store, k₀.feltWrites) := by
    rw [State.core_modCore_self]
    extract_lets k₁ k₂ k₃
    have hcounted : k₃.results = k₀.results := by
      dsimp only [k₃, k₂, k₁]
      rw [apply_ite CoreState.results, CoreState.count_results, ite_self, CoreState.count_results, CoreState.tally_results]
    split
    · exact (CoreState.outScratch_results hcounted ..).trans (Prod.ext rfl (CoreState.outScratch_feltWrites ..))
    · exact hcounted
  rw [State.watchCmd_results, State.feltWrite_ite_results]
  exact congrArg (fun r : Bytes × List FeltWrite => (r.1, r.2 ++ _)) hscratch

/-- The outcomes of the rows that an FE_BERN makes. -/
def State.bernRows : List (List Bool) :=
  (List.range (s.partsMade i 32 8 1)).map fun r => (List.range 32).map ((s.core c).bernElem i.bern r)

theorem State.feBern_results :
    ((s.feBern c h i).core c).results =
      ((if i.bern.dest = 0 then (s.core c).writeScratch i.bern.addr (bernBytes i.bern (s.bernRows c i)) else s.core c).store,
        (s.core c).feltWrites ++ if i.bern.dest = 1 then bernPlane i.bern (s.bernRows c i) else []) := by
  unfold State.feBern
  extract_lets b n rows t₁ quad t₂
  have hscratch : (t₁.core c).results =
      ((if b.dest = 0 then (s.core c).writeScratch b.addr (bernBytes b rows) else s.core c).store, (s.core c).feltWrites) := by
    rw [State.core_modCore_self]
    dsimp only
    split
    · exact CoreState.writeScratch_results (CoreState.count_results ..) ..
    · exact CoreState.count_results ..
  rw [State.watchCmd_results, State.feltWrite_ite_results]
  exact congrArg (fun r : Bytes × List FeltWrite => (r.1, r.2 ++ _)) hscratch

theorem State.napFill_results :
    ((s.napFill c i).core c).results = ((s.core c).writeScratch i.fill.addr
      ((List.range (s.partsMade i i.fill.rows 8 1)).flatMap fun r =>
        (List.range 32).flatMap ((s.core c).fillElem i.fill r))).results := by
  unfold State.napFill
  rw [State.core_modCore_self]
  exact CoreState.writeScratch_results (CoreState.count_results ..) ..

end

/-! ## The commands -/

section
variable {core : CoreNum} {s : State} {h : Handle} {j : Job} {i : Issued}

theorem execFeMma_eq (hready : s.readyCmd core.toNat 0x30 = some (h, j, i)) :
    execFeMma core s = .next ((s.feMma core.toNat h j i).finishCmd core.toNat j i) := by
  simp only [execFeMma, hready]

theorem execFeMma_due (hdue : s.operandsDue core.toNat 1 = true) : execFeMma core s = .next s := by
  have hnone : s.readyCmd core.toNat 0x30 = none := State.readyCmd_due hdue
  simp only [execFeMma, hnone]

theorem execFeOut_eq (hcmd : s.engineCmd core.toNat 0x31 = some (h, j, i)) :
    execFeOut core s = .next ((s.feOut core.toNat h i).finishCmd core.toNat j i) := by
  simp only [execFeOut, hcmd]

theorem execFeBern_eq (hcmd : s.engineCmd core.toNat 0x32 = some (h, j, i)) :
    execFeBern core s = .next ((s.feBern core.toNat h i).finishCmd core.toNat j i) := by
  simp only [execFeBern, hcmd]

theorem execNapFill_eq (hcmd : s.engineCmd core.toNat 0x33 = some (h, j, i)) :
    execNapFill core s = .next ((s.napFill core.toNat i).finishCmd core.toNat j i) := by
  simp only [execNapFill, hcmd]

end

/-- Settles O26: each command leaves its engine through `finishCmd`, which keeps the results that the command's own work leaves. -/
theorem fieldEngineWritesItsResults : Obligations.FieldEngineWritesItsResults := by
  unfold Obligations.FieldEngineWritesItsResults
  refine ⟨fun core s h j i hready => ?_, fun core s hdue => execFeMma_due hdue,
    fun s i n first step hquiet => State.partsMade_all hquiet .., fun core s h j i hcmd => ?_, fun core s h j i hcmd => ?_,
    fun core s h j i hcmd => ?_⟩
  · intro k n tile
    refine ⟨_, execFeMma_eq hready, State.finishCmd_frees hready _, fun hquiet => State.partsMade_all hquiet .., fun hn => ?_,
      fun hn => ?_⟩
    · exact CoreState.store_of_results ((State.finishCmd_results ..).trans (s.feMma_results_none _ h j i hn))
    · exact CoreState.store_of_results ((State.finishCmd_results ..).trans (s.feMma_results _ h j i hn))
  · intro k ex rows
    obtain ⟨hfree, hresults⟩ := State.finishCmd_done hcmd (s.feOut_results core.toNat h i)
    obtain ⟨hstore, hfelt⟩ := Prod.ext_iff.1 hresults
    refine ⟨_, execFeOut_eq hcmd, hfree, fun hdest => ⟨?_, ?_⟩, fun hdest => ⟨?_, ?_⟩⟩
    · exact hstore.trans (by rw [if_pos hdest]; rfl)
    · exact hfelt.trans (by simp [hdest, k])
    · exact hstore.trans (by simp [hdest, k])
    · exact hfelt.trans (by rw [if_pos hdest]; rfl)
  · intro k rows
    obtain ⟨hfree, hresults⟩ := State.finishCmd_done hcmd (s.feBern_results core.toNat h i)
    obtain ⟨hstore, hfelt⟩ := Prod.ext_iff.1 hresults
    refine ⟨_, execFeBern_eq hcmd, hfree, fun hdest => ?_, fun hdest => ?_⟩
    · exact hstore.trans (by rw [if_pos hdest]; rfl)
    · exact hfelt.trans (by rw [if_pos hdest]; rfl)
  · intro k
    obtain ⟨hfree, hresults⟩ := State.finishCmd_done hcmd (s.napFill_results core.toNat i)
    exact ⟨_, execNapFill_eq hcmd, hfree, CoreState.store_of_results hresults⟩

end Sys2Proof.Machine
end

section
/-! ACC_LOAD, ACC_RED and the node adders of the slice ports (R186, R190 to R193, R316): a tile is replaced by what was loaded, the
operands of a reduction leave for a node adder, land there and wait, and the adder writes what it makes of two sides. -/

namespace Sys2Proof.Machine

/-! ## A tile is loaded -/

/-- The rows of the tile are all that a load writes to the storage (R186). -/
theorem CoreState.accLoaded_results (k : CoreState) (tile : Nat) (xs : List (Acc × Bool × Bool)) :
    (k.accLoaded tile xs).results =
      ((List.range 32).foldl (fun k r => k.setAccRow tile r (((xs.drop (32 * r)).take 32).map (·.1))) k).results := by
  unfold CoreState.accLoaded
  extract_lets bad inf k₁ k₂
  rw [CoreState.tally_results k₂, CoreState.tally_results k₁]

section
variable {core : CoreNum} {s : State} {h : Handle} {j : Job} {i : Issued}

theorem execAccLoad_eq (hready : s.readyCmd core.toNat 0x28 = some (h, j, i)) :
    execAccLoad core s = .next ((s.modCore core.toNat fun k =>
      k.accLoaded (i.f 0 8 4) (loadedAccs (k.operands 4 0 256) 1024)).finishCmd core.toNat j i) := by
  simp only [execAccLoad, hready]

theorem execAccLoad_due (hdue : s.operandsDue core.toNat 4 = true) : execAccLoad core s = .next s := by
  have hnone : s.readyCmd core.toNat 0x28 = none := State.readyCmd_due hdue
  simp only [execAccLoad, hnone]

theorem execAccRed_eq (hcmd : s.engineCmd core.toNat 0x29 = some (h, j, i)) :
    execAccRed core s = .next (((s.cmdSlots core.toNat j i).zipIdx.foldl
      (fun t x => t.sendOperand core.toNat h j i.red x.1 x.2) s).finishCmd core.toNat j i) := by
  simp only [execAccRed, hcmd]

end

/-! ## Operands leave for a node adder -/

/-- Where operand granule `n` of a reduction comes from: the tile, or the slots at SRC (R191). -/
def AccRed.fill (r : AccRed) (n : Nat) : WriteData :=
  if r.srck = 1 then .copy (granuleOf r.src + 64 * n) else .tile r.tile n

/-- A granule of a tile is not read from memory. -/
theorem AccRed.fill_ne_copy {r : AccRed} (hsrck : r.srck ≠ 1) (n a : Nat) : r.fill n ≠ .copy a := by
  rw [AccRed.fill, if_neg hsrck]
  nofun

/-- Operand granule `n` on its way to the node adder of its destination's slice port (R191). -/
def AccRed.transfer (r : AccRed) (s : State) (c : Nat) (h : Handle) (slot : Nat × Word) (n : Nat) : Transfer :=
  writeTransfer s c h slot (r.dest + 64 * n) 64 (r.fill n) (.node (r.side == 1) (BitVec.ofNat 2 r.op) (r.srck == 1)) 0

/-- A granule of a tile leaves with what its slot finds; one at SRC has no data before its slot has come. -/
theorem State.sendOperand_launches (s : State) (ts : List Transfer) {c n : Nat} (h : Handle) {j : Job} {r : AccRed}
    {slot : Nat × Word} (hmay : s.jobMay j c (r.dest + 64 * n) 64 true = true)
    (hcomes : r.srck = 1 → s.now < s.beat * beatCycles + slot.1) :
    (s.withTransfers ts).sendOperand c h j r slot n = s.withTransfers (ts ++ [launched s (r.transfer s c h slot n)]) := by
  have hfill : (r.transfer s c h slot n).leaves s.now = true → ∀ a, r.fill n ≠ .copy a := fun hleaves =>
    AccRed.fill_ne_copy (fun hsrck => absurd (hcomes hsrck) (not_lt.2 (of_decide_eq_true hleaves))) n
  unfold State.sendOperand
  dsimp only
  rw [s.jobMay_withTransfers, hmay]
  exact s.launch_write (x := r.transfer s c h slot n) ts rfl nofun hfill

/-- The operands of a reduction leave in the order of its slots. -/
theorem State.foldl_sendOperand (s : State) {c : Nat} (h : Handle) {j : Job} {r : AccRed} {slots : List (Nat × Word)}
    (hmay : ∀ n < slots.length, s.jobMay j c (r.dest + 64 * n) 64 true = true)
    (hcomes : r.srck = 1 → ∀ sl ∈ slots, s.now < s.beat * beatCycles + sl.1) :
    slots.zipIdx.foldl (fun t x => t.sendOperand c h j r x.1 x.2) s =
      s.withTransfers (s.transfers ++ (List.range slots.length).map fun n =>
        launched s (r.transfer s c h (slots.getD n (0, 0)) n)) := by
  rw [zipIdx_eq_map_range slots (0, 0), List.foldl_map]
  refine s.foldl_withTransfers (fun n hn ts => ?_) s.transfers
  have hn : n < slots.length := List.mem_range.1 hn
  exact s.sendOperand_launches ts h (hmay n hn) fun hsrck => hcomes hsrck _ (getD_mem _ hn)

/-! ## The write that is taken from those in flight -/

theorem takeFirst_spec {α : Type} {p : α → Bool} {l r : List α} {x : α} (h : takeFirst p l = some (x, r)) : p x = true := by
  induction l generalizing r with
  | nil => cases h
  | cons a l ih =>
    rw [takeFirst] at h
    split at h
    next ha =>
      cases h
      exact ha
    next =>
      obtain ⟨⟨b, r'⟩, hrest, heq⟩ := Option.map_eq_some_iff.1 h
      cases heq
      exact ih hrest

/-- What is due meets the condition that it was chosen by. -/
theorem takeDue_spec {l rest : List Transfer} {p : Transfer → Bool} {key : Transfer → Nat} {x : Transfer}
    (h : takeDue l p key = some (x, rest)) : p x = true := by
  unfold takeDue at h
  split at h
  · cases h
  · have hboth := takeFirst_spec h
    exact (Bool.and_eq_true_iff.1 hboth).1

/-! ## What a node adder holds -/

/-- `s` with `l` the operands that the node adder of port `p` holds. -/
def State.holdOperands (s : State) (p : Nat) (l : List NodeOperand) : State := { s with nodes := tabSet [] s.nodes p l }

section
variable (s : State) (p : Nat) (l : List NodeOperand)

@[simp] theorem State.holdOperands_held : tabGet [] (s.holdOperands p l).nodes p = l := tabGet_tabSet_self ..

@[simp] theorem State.holdOperands_mem : (s.holdOperands p l).mem = s.mem := by rfl

@[simp] theorem State.holdOperands_transfers : (s.holdOperands p l).transfers = s.transfers := by rfl

end

/-! ## A write that meets no error lands -/

/-- A write through a slice port that meets no error, and finds none injected, arrives as it was sent (R307, R478). -/
theorem State.meetErrors_none {s : State} {p : Nat} (hinject : (s.errUnit (UnitNo.slice p)).inject = none) (c e a : Nat)
    (h : Handle) (g : Granule) : s.meetErrors true false p c e a h XferErr.none g = (g, 0, s.noErrors) := by
  have htake : s.takeInject (UnitNo.slice p) = (none, s) := by rw [State.takeInject, hinject]
  have hspoil : s.spoil g 0#8 = (g, s) := by simp [State.spoil, List.range_succ]
  have hrecord : s.recordWords false p c e a h 0#8 0#8 false = s.noErrors := by
    simp [State.recordWords, State.noErrors, popcount]
  simp [State.meetErrors, htake, XferErr.inject, XferErr.none, State.meetWords, hspoil, hrecord]

@[simp] theorem State.logTransfer_nodes (s : State) (x : Transfer) (data : Granule) :
    (s.logTransfer x data).nodes = s.nodes := by
  unfold State.logTransfer State.logPayload
  split
  · split <;> rfl
  · rfl

@[simp] theorem State.logTransfer_transfers (s : State) (x : Transfer) (data : Granule) :
    (s.logTransfer x data).transfers = s.transfers := by
  unfold State.logTransfer State.logPayload
  split
  · split <;> rfl
  · rfl

section
variable {s : State} {x : Transfer}

/-- A write of a slice port that is declared for its address and meets no error does what its target says with the data sent. -/
theorem State.landWrite_none (hslice : x.hbm = false) (hfits : x.mismatch = false)
    (hinject : (s.errUnit (UnitNo.slice x.port)).inject = none) :
    s.landWrite x XferErr.none = (s.noErrors.land x x.data 0).logTransfer x x.data := by
  simp only [State.landWrite, hfits, hslice, Bool.false_eq_true, if_false, State.meetErrors_none hinject]
  rfl

/-- SLICE_WRITE_LAND of such a write. -/
theorem execSliceWriteLand_none {port : PortNum} {rest : List Transfer} (hruns : s.domainRuns = true)
    (hdue : takeDue s.transfers (fun y => y.write && !y.hbm && y.port == port.toNat && decide (y.dueAt ≤ s.now))
      Transfer.dueAt = some (x, rest))
    (hfits : x.mismatch = false) (hinject : (s.errUnit (UnitNo.slice x.port)).inject = none) :
    execSliceWriteLand port XferErr.none s =
      .next (((s.withTransfers rest).noErrors.land x x.data 0).logTransfer x x.data) := by
  have hslice : x.hbm = false := by
    have hmeets := takeDue_spec hdue
    simp only [Bool.and_eq_true, Bool.not_eq_true'] at hmeets
    exact hmeets.1.1.2
  have hwf : (Instr.sliceWriteLand port XferErr.none).wf = true := by rfl
  rw [execSliceWriteLand, whenFormed, if_pos hwf]
  dsimp only
  rw [if_pos hruns, hdue]
  exact congrArg Host.Outcome.next (State.landWrite_none (s := s.withTransfers rest) hslice hfits hinject)

/-- An operand that lands waits behind those that the node adder of its port holds (R316). -/
theorem State.land_node {side fromMem : Bool} {op : BitVec 2} (htarget : x.target = .node side op fromMem) (data : Granule)
    (bad : Byte) :
    s.land x data bad = s.holdOperands x.port
      (tabGet [] s.nodes x.port ++ [⟨granuleOf x.addr, side, op, fromMem, x.core, x.handle, data, bad⟩]) := by
  rw [State.land, htarget]
  rfl

end

/-! ## A node writes its sums -/

/-- Under a mask of all 64 bytes the new ones take the place of the old. -/
theorem maskBytes_full {old new : List Byte} (hold : old.length = 64) (hnew : new.length = 64) :
    maskBytes (firstBytes 64).toNat old new = new := by
  refine List.ext_getElem (by simp [maskBytes, hold, hnew]) fun n _ hn => ?_
  have hbit : (firstBytes 64).toNat.testBit n = true :=
    (Nat.testBit_two_pow_sub_one 64 n).trans (decide_eq_true (hnew ▸ hn))
  simp [maskBytes, hbit, hn]

theorem length_bytesRead (m : Bytes) (a n : Nat) : (bytesRead m a n).length = n := by
  rw [bytesRead, List.length_map, List.length_range]

/-- The bytes that were written are read again. -/
theorem bytesRead_bytesWrite_self (m : Bytes) (a : Nat) (bs : List Byte) :
    bytesRead (bytesWrite m a bs) a bs.length = bs := by
  refine List.ext_getElem (length_bytesRead ..) fun n _ hn => ?_
  simp [bytesRead, byteAt_bytesWrite, hn]

theorem byteAt_bytesWrite_outside {m : Bytes} {a x : Nat} {bs : List Byte} (h : x < a ∨ a + bs.length ≤ x) :
    byteAt (bytesWrite m a bs) x = byteAt m x := by
  rw [byteAt_bytesWrite, if_neg (by omega)]

theorem length_granBytes (g : Granule) : (granBytes g).length = 64 := length_bytesOf 64 _

/-- A granule written whole. -/
theorem State.memWrite_full_mem (s : State) (a : Nat) (g : Granule) (bad : Byte) :
    (s.memWrite a (firstBytes 64) (granBytes g) bad).mem = bytesWrite s.mem (granuleOf a) (granBytes g) :=
  congrArg (bytesWrite s.mem (granuleOf a)) (maskBytes_full (length_bytesRead ..) (length_granBytes g))

/-- The granule of a node of `x` and `y`: what its operation makes of the elements of side 0 and those of side 1 (R193). -/
def nodeGranule (x y : NodeOperand) : Granule :=
  let a := if x.side then y else x
  let b := if x.side then x else y
  BitVec.ofNat 512 (natOf (((a.elems.1.zip b.elems.1).map fun e => nodeElem x.op.toNat e.1 e.2).flatMap fun e => e.acc.slot))

/-- The counters and flags of a node are the cores'; of memory it writes the slot of the operand that came second (R193, R316). -/
theorem State.formNode_mem (s : State) (x y : NodeOperand) :
    (s.formNode x y).mem = bytesWrite s.mem (granuleOf y.dest) (granBytes (nodeGranule x y)) := by
  unfold State.formNode
  extract_lets a b es sats clamps replaced s₁ g
  have hreplaced (t : State) (o : NodeOperand) : (replaced t o).mem = t.mem := by
    dsimp only [replaced]
    split <;> rfl
  have hmem : s₁.mem = s.mem := by rw [State.modCore_mem, hreplaced, hreplaced]
  rw [State.memWrite_full_mem, hmem]
  rfl

/-- NODE_ADD on a port that holds the two sides of one node and nothing else. -/
theorem execNodeAdd_pair {port : PortNum} {s : State} {x y : NodeOperand} (hruns : s.domainRuns = true)
    (hheld : tabGet [] s.nodes port.toNat = [x, y]) (hpair : nodePair x y = true) :
    execNodeAdd port s =
      .next ((s.formNode x y).holdOperands port.toNat []) := by
  have hform : s.formNodes 2 [x, y] [] = ([], s.formNode x y) := by
    simp [State.formNodes, takeFirst, hpair]
  simp only [execNodeAdd, hruns, if_true, hheld, List.length_cons, List.length_nil, hform, State.holdOperands]

/-- Settles O28: the loaded rows are all that ACC_LOAD writes to the storage; operands join the transfers in flight one by one; one
that lands changes the node adder alone; and a node writes one granule whole. -/
theorem accumulatorLoadsAndReductions : Obligations.AccumulatorLoadsAndReductions := by
  unfold Obligations.AccumulatorLoadsAndReductions
  refine ⟨fun core s h j i hready => ?_, fun core s hdue => execAccLoad_due hdue, fun core s h j i hcmd => ?_,
    fun port s x rest side fromMem op hruns hdue htarget hfits hinject => ?_, fun port s x y hruns hheld hpair => ?_⟩
  · intro k xs
    refine ⟨_, execAccLoad_eq hready, State.finishCmd_frees hready _, CoreState.store_of_results ?_⟩
    rw [State.finishCmd_results, State.core_modCore_self, CoreState.accLoaded_results]
  · intro slots r fill _ hmay hcomes
    exact ⟨_, execAccRed_eq hcmd, State.finishCmd_launched hcmd (s.foldl_sendOperand h hmay hcomes)⟩
  · refine ⟨_, execSliceWriteLand_none hruns hdue hfits hinject, ?_⟩
    rw [State.logTransfer_transfers, State.logTransfer_mem, State.logTransfer_nodes, State.land_node htarget]
    exact ⟨State.holdOperands_transfers .., State.holdOperands_mem .., State.holdOperands_held ..⟩
  · intro a b es g
    refine ⟨_, execNodeAdd_pair hruns hheld hpair, State.holdOperands_held .., ?_⟩
    have hmem : (s.formNode x y).mem = bytesWrite s.mem (granuleOf y.dest) (granBytes g) := s.formNode_mem x y
    have hlen : (granBytes g).length = 64 := length_granBytes g
    rw [State.holdOperands_mem, hmem]
    exact ⟨by rw [← hlen, bytesRead_bytesWrite_self], fun c hc => byteAt_bytesWrite_outside (by rwa [hlen])⟩

end Sys2Proof.Machine
end

section
/-! The categorical sampler (R205 to R217): CAT_DRAW waits for its last granule, then leaves the storage as its short rows leave it,
or a long row open until the command that ends the row's draw pass, and its engine. -/

namespace Sys2Proof.Machine

/-! ## Short rows -/

/-- The entries of short rows in scratch, row by row (R212, R214). -/
theorem CoreState.catRead_scratch (k : CoreState) {x : Cat} (hshort : x.long = false) (hsrc : x.src = 0) :
    (k.catRead x).map (catEntry x.fmt) = (List.range x.rows).flatMap fun r => (List.range x.n).map fun n =>
      catEntry x.fmt (k.startNat (Win.scratch + x.entryAddr r n % 2 ^ 18) x.size) := by
  have hcells : x.cells = (List.range x.rows).flatMap fun r => (List.range x.n).map fun n => (r, n) := by
    rw [Cat.cells, hshort]
    rfl
  rw [CoreState.catRead, if_neg (by omega), if_neg (by omega), hcells]
  simp only [List.map_flatMap, List.map_map, Function.comp_def]

/-- With no Whistle sounded, a command of short rows does all its rows (R458). -/
theorem State.catDraw_short {s : State} (hquiet : s.whistle.pending = false) {i : Issued} (hshort : i.cat.long = false)
    (c : Nat) : s.catDraw c i = s.modCore c fun k => k.catShort i.cat i.cat.rows := by
  simp only [State.catDraw, hshort, Bool.false_eq_true, State.partsMade_all hquiet, if_false, if_true]

/-! ## Long rows -/

/-- With no Whistle sounded, a command of a long row does its blocks (R458). -/
theorem State.catDraw_long {s : State} (hquiet : s.whistle.pending = false) {i : Issued} (hlong : i.cat.long = true)
    (c : Nat) : s.catDraw c i = s.catLong c i.cat := by
  simp only [State.catDraw, hlong, State.partsMade_all hquiet, if_true]

/-- CAT_LROW.OPEN as it is written (Table 7-9): the fields above it do not reach it. -/
theorem CoreState.regF_setLrow_open (k : CoreState) (x : Cat) (isOpen : Bool) :
    (k.setLrow x isOpen).regF Reg.catLrow 0 1 = bit isOpen := by
  have hbit : bit isOpen < 2 := by cases isOpen <;> decide
  rw [CoreState.setLrow, CoreState.regF, CoreState.reg_setReg_self, bitsOf_ofNat _ (by decide), bitsOf]
  omega

theorem CoreState.setLrow_closed_iff (k : CoreState) (x : Cat) (isOpen : Bool) :
    (k.setLrow x isOpen).regF Reg.catLrow 0 1 = 0 ↔ isOpen = false := by
  rw [CoreState.regF_setLrow_open]
  cases isOpen <;> decide

/-- A load or select pass leaves the row open; a draw pass closes it with its last blocks (R215, R217). -/
theorem State.catLong_closed_iff (s : State) (c : Nat) (x : Cat) :
    ((s.catLong c x).core c).regF Reg.catLrow 0 1 = 0 ↔ x.pass ≠ 0 ∧ x.pass ≠ 1 ∧ x.lastBlocks = true := by
  rw [State.catLong, State.core_modCore_self]
  dsimp only
  by_cases hload : x.pass = 0
  · simp [hload, CoreState.setLrow_closed_iff]
  · by_cases hselect : x.pass = 1
    · simp [hselect, CoreState.setLrow_closed_iff]
    · simp [hload, hselect, CoreState.setLrow_closed_iff]

/-! ## The command -/

section
variable {core : CoreNum} {s : State} {h : Handle} {j : Job} {i : Issued}

theorem execCatDraw_eq (hready : s.readyCmd core.toNat 0x40 = some (h, j, i)) :
    execCatDraw core s = .next ((s.catDraw core.toNat i).finishCmd core.toNat j i) := by
  simp only [execCatDraw, hready]

theorem execCatDraw_due (hdue : s.operandsDue core.toNat 3 = true) : execCatDraw core s = .next s := by
  have hnone : s.readyCmd core.toNat 0x40 = none := State.readyCmd_due hdue
  simp only [execCatDraw, hnone]

end

/-- Settles O27: the command leaves its engine through `finishCmd`, which keeps the storage that its short rows leave and the
CAT_LROW that its long row does. -/
theorem samplerWritesItsWordsOrKeepsTheRowOpen : Obligations.SamplerWritesItsWordsOrKeepsTheRowOpen := by
  unfold Obligations.SamplerWritesItsWordsOrKeepsTheRowOpen
  refine ⟨fun core s h j i hready => ?_, fun core s hdue => execCatDraw_due hdue⟩
  intro k x es
  refine ⟨_, execCatDraw_eq hready, State.finishCmd_frees hready _, fun hquiet hshort hsrc => ?_, fun hquiet hlong => ?_⟩
  · have hentries : (k.catRead x).map (catEntry x.fmt) = es := k.catRead_scratch hshort hsrc
    rw [CoreState.store_of_results (State.finishCmd_results ..), State.catDraw_short hquiet hshort, State.core_modCore_self,
      CoreState.catShort, hentries]
  · rw [CoreState.regF_of_regs (State.finishCmd_regs ..), State.catDraw_long hquiet hlong]
    exact s.catLong_closed_iff core.toNat x

end Sys2Proof.Machine
end

section
/-! Mailbox commands that read and answer at once (R242, R332, R439): NAP_EVAL, DIST_READ and SEC_CTRREAD. Each is carried out on the
command that the CP took, and reaches the mailbox alone. -/

namespace Sys2Proof.Machine

/-! ## A byte of a number and of a response word -/

theorem bitsOf_eq_div (x lo n : Nat) : bitsOf x lo n = x / 2 ^ lo % 2 ^ n := by rw [bitsOf, Nat.shiftRight_eq_div_pow]

/-- A byte of the number that bytes spell; past the last it is 0. -/
theorem bitsOf_natOf (bs : List Byte) (j : Nat) : bitsOf (natOf bs) (8 * j) 8 = (bs.getD j 0).toNat := by
  induction bs generalizing j with
  | nil => simp [natOf, bitsOf]
  | cons b bs ih =>
    have hnat : natOf (b :: bs) = b.toNat + 256 * natOf bs := rfl
    have hb : b.toNat < 2 ^ 8 := b.isLt
    cases j with
    | zero =>
      rw [hnat, bitsOf_eq_div, List.getD_cons_zero]
      omega
    | succ j =>
      have hrest : (b.toNat + 256 * natOf bs) >>> 8 = natOf bs := by
        rw [Nat.shiftRight_eq_div_pow]
        omega
      rw [hnat, bitsOf, Nat.mul_succ, Nat.add_comm (8 * j), Nat.shiftRight_add, hrest, List.getD_cons_succ, ← ih j, bitsOf]

theorem getD_octets {n j : Nat} (bs : List Byte) (o : Nat) (h : j < n) : (octets bs o n).getD j 0 = bs.getD (o + j) 0 := by
  simp [octets, h]

/-- Byte `i` of the bytes stands in response word `i / 4` at its place. -/
theorem byte_of_wordsOfBytes {bs : List Byte} {i : Nat} (h : i < bs.length) :
    bitsOf ((wordsOfBytes bs).getD (i / 4) 0).toNat (8 * (i % 4)) 8 = (bs.getD i 0).toNat := by
  have hplace : i % 4 < 4 := Nat.mod_lt i (by decide)
  have hword : (wordsOfBytes bs).getD (i / 4) 0 = BitVec.ofNat 32 (natOf (octets bs (4 * (i / 4)) 4)) := by
    simp [wordsOfBytes, show i / 4 < (bs.length + 3) / 4 by omega]
  rw [hword, BitVec.toNat_ofNat, bitsOf_mod _ (by omega), bitsOf_natOf, getD_octets bs _ hplace, Nat.div_add_mod]

/-! ## The distances (R332, Table 11-10) -/

/-- The bytes that DIST_READ returns for `n` slice ports from `p` on: 64, with zeros behind the distances. -/
def distanceBytes (c p n : Nat) : List Byte :=
  (List.range 64).map fun i => if i < n then BitVec.ofNat 8 (readDistance c (p + i)) else 0

theorem length_distanceBytes (c p n : Nat) : (distanceBytes c p n).length = 64 := by simp [distanceBytes]

theorem toNat_distanceBytes {n i : Nat} (c p : Nat) (hn : n ≤ 64) (hi : i < n) :
    ((distanceBytes c p n).getD i 0).toNat = readDistance c (p + i) % 256 := by
  simp [distanceBytes, hi, show i < 64 by omega]

theorem length_distanceWords (c p n : Nat) : (wordsOfBytes (distanceBytes c p n)).length = 16 := by
  simp [wordsOfBytes, length_distanceBytes]

theorem byte_of_distanceWords {n i : Nat} (c p : Nat) (hn : n ≤ 64) (hi : i < n) :
    ((wordsOfBytes (distanceBytes c p n)).getD (i / 4) 0).toNat / 2 ^ (8 * (i % 4)) % 256 = readDistance c (p + i) % 256 := by
  have hlen : i < (distanceBytes c p n).length := by
    rw [length_distanceBytes]
    omega
  have hbyte := byte_of_wordsOfBytes hlen
  rwa [bitsOf_eq_div, toNat_distanceBytes c p hn hi] at hbyte

/-! ## The commands -/

section

variable {mb : MailboxNum} {s : State} {x : TakenCmd}

theorem execNapEval_free (hheld : holds s mb 0x22 x) (hocc : s.occupied mb.toNat = false) {y : Nat}
    (hy : nap6 (x.arg64 0 + x.arg64 2 * 2 ^ 64) (x.arg64 4 + x.arg64 6 * 2 ^ 64) = y) :
    execNapEval mb s = .next (s.answer mb.toNat x Status.ok (wordsOf y ++ wordsOf (y / 2 ^ 64))) := by
  unfold execNapEval
  dsimp only
  rw [State.onTaken_of_holds hheld, if_neg (by simp [hocc]), hy, Nat.shiftRight_eq_div_pow]

theorem execDistRead_free (hheld : holds s mb 0x31 x) (hocc : s.occupied mb.toNat = false) {c p n : Nat} (hc : c < 1024)
    (hn : 1 ≤ n) (hn64 : n ≤ 64) (hp : p + n ≤ 1024) (hports : x.arg 0 = c + 65536 * p) (hcount : x.arg 1 = n) :
    execDistRead mb s = .next (s.answer mb.toNat x Status.ok (wordsOfBytes (distanceBytes c p n))) := by
  have hcore : bitsOf (x.arg 0) 0 10 = c := by rw [hports, bitsOf_eq_div]; omega
  have hlow : bitsOf (x.arg 0) 10 6 = 0 := by rw [hports, bitsOf_eq_div]; omega
  have hport : bitsOf (x.arg 0) 16 10 = p := by rw [hports, bitsOf_eq_div]; omega
  have hhigh : bitsOf (x.arg 0) 26 6 = 0 := by rw [hports, bitsOf_eq_div]; omega
  have hnum : bitsOf (x.arg 1) 0 7 = n := by rw [hcount, bitsOf_eq_div]; omega
  have hrest : bitsOf (x.arg 1) 7 25 = 0 := by rw [hcount, bitsOf_eq_div]; omega
  unfold execDistRead
  dsimp only
  rw [State.onTaken_of_holds hheld, hcore, hlow, hport, hhigh, hnum, hrest, if_neg (by omega), if_neg (by simp [hocc]),
    distanceBytes]

theorem execSecCtrread_counter (hheld : holds s mb 0x62 x) (hocc : s.occupied mb.toNat = false) {o : Nat}
    (haddr : x.arg64 0 = dcbBase + o) (hglobal : globalCounter o = true) :
    execSecCtrread mb s = .next (s.answer mb.toNat x Status.ok (wordsOf (s.dcbReg o).toNat)) := by
  unfold execSecCtrread
  dsimp only
  rw [State.onTaken_of_holds hheld, haddr, Nat.add_sub_cancel_left, if_neg (by simp [hglobal]), if_neg (by simp [hocc])]

/-- The arguments are judged before the mailbox (R32). -/
theorem execSecCtrread_other (hheld : holds s mb 0x62 x) (hother : ∀ o : Nat, x.arg64 0 = dcbBase + o → globalCounter o = false) :
    execSecCtrread mb s = .next (s.answer mb.toNat x Status.badArg []) := by
  have hbad : x.arg64 0 < dcbBase ∨ (!globalCounter (x.arg64 0 - dcbBase)) = true := by
    rcases Nat.lt_or_ge (x.arg64 0) dcbBase with hbelow | hfrom
    · exact .inl hbelow
    · exact .inr (by simp [hother _ (Nat.add_sub_of_le hfrom).symm])
  unfold execSecCtrread
  dsimp only
  rw [State.onTaken_of_holds hheld, if_pos hbad]

end

/-- A command that only answers leaves everything but the mailboxes. -/
theorem State.answer_eq (s : State) (m : Nat) (x : TakenCmd) (status : Nat) (words : List Word) :
    s.answer m x status words = { s with mbs := (s.answer m x status words).mbs } := rfl

/-- Settles O42: each of the three commands only answers; the words of DIST_READ hold the distances byte by byte. -/
theorem readingCommandsAnswerAtOnce : Obligations.ReadingCommandsAnswerAtOnce := by
  unfold Obligations.ReadingCommandsAnswerAtOnce
  refine fun mb s x hocc => ⟨fun hheld => ?_, fun c p n hheld hc hn hn64 hp hports hcount => ?_,
    fun hheld => ⟨fun o haddr hglobal => ?_, fun hother => ?_⟩⟩
  · exact ⟨_, execNapEval_free hheld hocc rfl, answered_answer _ _ _ rfl, s.answer_eq ..⟩
  · exact ⟨_, _, execDistRead_free hheld hocc hc hn hn64 hp hports hcount, answered_answer _ _ _ rfl, length_distanceWords c p n,
      s.answer_eq .., fun i hi => byte_of_distanceWords c p hn64 hi⟩
  · exact ⟨_, execSecCtrread_counter hheld hocc haddr hglobal, answered_answer _ _ _ rfl, s.answer_eq ..⟩
  · exact ⟨_, execSecCtrread_other hheld hother, answered_answer _ _ _ rfl⟩

end Sys2Proof.Machine
end

section
/-! What the entropy source leaves where it ends the requests that wait for it (R250, R262, R265, R270): reads and wires get their
status, jobs are withdrawn, and what the source holds besides its requests stands. -/

namespace Sys2Proof.Machine

/-! ## The parts that a completed command and an ended job leave -/

@[simp] theorem State.complete_ent (s : State) (m status : Nat) (words : List Word) (record : Word) :
    (s.complete m status words record).ent = s.ent := by rw [s.complete_eq m status words record]

@[simp] theorem State.complete_dcb (s : State) (m status : Nat) (words : List Word) (record : Word) :
    (s.complete m status words record).dcb = s.dcb := by rw [s.complete_eq m status words record]

theorem State.dcbReg_countDcb32 (s : State) (o x n : Nat) :
    (s.countDcb32 o n).dcbReg x = if x = o then BitVec.ofNat 64 (satAdd 32 (s.dcbReg o).toNat n) else s.dcbReg x :=
  State.dcbReg_setDcb ..

/-- A level of a latch up to its limit is not lost when an event is raised. -/
theorem State.le_latchCount_dieEvent {s : State} {x c : Nat} (n : Nat) (hc : c ≤ 255) (h : c ≤ s.latchCount x) :
    c ≤ (s.dieEvent n).latchCount x := by
  by_cases hx : x = n
  · subst hx
    rw [State.latchCount_dieEvent_self]
    omega
  · rwa [State.latchCount_dieEvent_ne s hx]

/-- A request of the key block (false) or the link cipher (true) receives error status (R262). -/
def State.wireError (s : State) (link : Bool) : State :=
  if link then { s with ent := { s.ent with wireLink := s.ent.wireLink ++ [none] } }
  else { s with ent := { s.ent with wireKey := s.ent.wireKey ++ [none] } }

theorem State.wireErrors_eq (s : State) :
    s.wireErrors = s.ent.wires.foldl State.wireError { s with ent := { s.ent with wires := [] } } := rfl

/-! ## The relation -/

/-- From `s` to `t` requests to the source have ended and jobs may have been withdrawn: of the source only the requests have changed, of
the registers only LOCKSTEP_STAT, and no latch has fallen below a level up to its limit. -/
structure State.RequestsEnded (s t : State) : Prop where
  ent : t.ent = { s.ent with
    reads := t.ent.reads, wires := t.ent.wires, wireKey := t.ent.wireKey, wireLink := t.ent.wireLink }
  reg : ∀ o, o ≠ Dcb.lockstepStat → t.dcbReg o = s.dcbReg o
  latch : ∀ n c, c ≤ 255 → c ≤ s.latchCount n → c ≤ t.latchCount n

namespace State.RequestsEnded

variable {s t u : State}

theorem refl (s : State) : RequestsEnded s s := ⟨rfl, fun _ _ => rfl, fun _ _ _ => id⟩

theorem trans (h : RequestsEnded s t) (h' : RequestsEnded t u) : RequestsEnded s u where
  ent := by rw [h'.ent, h.ent]
  reg o ho := (h'.reg o ho).trans (h.reg o ho)
  latch n c hc := h'.latch n c hc ∘ h.latch n c hc

theorem ite {p : Prop} [Decidable p] (h : RequestsEnded s t) (h' : RequestsEnded s u) : RequestsEnded s (if p then t else u) := by
  split
  · exact h
  · exact h'

theorem foldl {α : Type} {f : State → α → State} (h : ∀ (t : State) (a : α), RequestsEnded t (f t a)) (l : List α) (s : State) :
    RequestsEnded s (l.foldl f s) :=
  List.foldlRecOn (motive := fun t : State => RequestsEnded s t) l f (refl s) fun _ ht a _ => ht.trans (h _ a)

/-- The source, the registers and the latches are the same. -/
theorem of_eq (hent : t.ent = s.ent) (hdcb : t.dcb = s.dcb) (hic : t.ic = s.ic) : RequestsEnded s t where
  ent := by rw [hent]
  reg o _ := State.dcbReg_of_dcb hdcb o
  latch n c _ h := by rwa [State.latchCount_of_ic hic]

theorem complete (s : State) (m status : Nat) (words : List Word) (record : Word) :
    RequestsEnded s (s.complete m status words record) := of_eq (by simp) (by simp) (by simp)

theorem dieEvent (s : State) (n : Nat) : RequestsEnded s (s.dieEvent n) where
  ent := rfl
  reg o _ := State.dcbReg_of_dcb (State.dieEvent_dcb ..) o
  latch _ _ hc h := State.le_latchCount_dieEvent n hc h

theorem endReads (s : State) (status : Nat) (record : Word) : RequestsEnded s (s.endReads status record) := by
  refine trans (t := { s with ent := { s.ent with reads := s.ent.reads.filter EntWait.full } }) ?_
    (foldl (fun t w => ite (refl t) (complete ..)) _ _)
  exact ⟨rfl, fun _ _ => rfl, fun _ _ _ => id⟩

theorem wireError (s : State) (link : Bool) : RequestsEnded s (s.wireError link) :=
  ite ⟨rfl, fun _ _ => rfl, fun _ _ _ => id⟩ ⟨rfl, fun _ _ => rfl, fun _ _ _ => id⟩

theorem wireErrors (s : State) : RequestsEnded s s.wireErrors := by
  refine trans (t := { s with ent := { s.ent with wires := [] } }) ?_ (foldl wireError _ _)
  exact ⟨rfl, fun _ _ => rfl, fun _ _ _ => id⟩

/-! ## Jobs are withdrawn -/

theorem setJob (s : State) (h : Handle) (j : Job) : RequestsEnded s (s.setJob h j) := of_eq (by simp) (by simp) (by simp)

theorem traceJob (s : State) (h : Handle) (j : Job) (beat : Nat) : RequestsEnded s (s.traceJob h j beat) := by
  rw [State.traceJob_eq]
  exact of_eq rfl rfl rfl

theorem unbindKeySet (s : State) (h : Handle) : RequestsEnded s (s.unbindKeySet h) := of_eq rfl rfl rfl

theorem jobLeft (s : State) (h : Handle) (j : Job) : RequestsEnded s (s.jobLeft h j) := by
  have hslot : RequestsEnded s (s.releaseKeySlot j.keySlot) := by
    cases j.keySlot <;> exact of_eq rfl rfl rfl
  have hcores := State.CoresOnly.leaveCores (s.releaseKeySlot j.keySlot) h j
  have hleft : RequestsEnded s ((s.releaseKeySlot j.keySlot).leaveCores h j) :=
    hslot.trans (of_eq (by rw [hcores.eq]) (by rw [hcores.eq]) (by rw [hcores.eq]))
  refine ite (hleft.trans ⟨rfl, fun o ho => ?_, fun _ _ _ => id⟩) hleft
  rw [State.dcbReg_setDcbF, if_neg ho]

theorem finishJob (s : State) (h : Handle) (st : JobSt) (record : Word) : RequestsEnded s (s.finishJob h st record) := by
  unfold State.finishJob
  cases hj : s.job h with
  | none =>
    rw [State.finishAt, hj]
    exact refl s
  | some j =>
    rw [State.finishAt_eq st record s.beat hj]
    exact (((jobLeft s h j).trans (setJob ..)).trans (dieEvent ..)).trans (traceJob ..)

/-- The answer to a waiting command ends a session with status FAULT alone. -/
theorem answerAdmit (s : State) (j : Job) {status : Nat} (record : Word) (hne : status ≠ Status.fault) :
    RequestsEnded s (s.answerAdmit j status record) := by
  have hdone := complete s j.mailbox status [] record
  unfold State.answerAdmit
  refine ite ?_ (refl s)
  dsimp only
  split
  · rwa [if_neg (fun hfault => hne hfault.1)]
  · exact hdone

theorem withdraw (s : State) (h : Handle) {status : Nat} (hne : status ≠ Status.fault) :
    RequestsEnded s (s.withdraw h status) := by
  unfold State.withdraw
  split
  · exact refl s
  · exact ((ite (refl s) (unbindKeySet s h)).trans (answerAdmit _ _ 0 hne)).trans (finishJob ..)

theorem entWithdraw (s : State) (startup : Bool) : RequestsEnded s (s.entWithdraw startup) :=
  foldl (fun t _ => withdraw t _ (by decide)) _ _

theorem dcbF (h : RequestsEnded s t) {o : Nat} (ho : o ≠ Dcb.lockstepStat) (lo n : Nat) : t.dcbF o lo n = s.dcbF o lo n :=
  State.dcbF_of_dcbReg (h.reg o ho) lo n

theorem entState (h : RequestsEnded s t) : t.entState = s.entState := h.dcbF (by decide) 0 2

theorem drbgUp (h : RequestsEnded s t) : t.drbgUp = s.drbgUp := by rw [State.drbgUp, h.dcbF (by decide), State.drbgUp]

theorem prev (h : RequestsEnded s t) : t.ent.prev = s.ent.prev := by rw [h.ent]

/-- The DRBG, the conditioners and the restart that is due stand. -/
theorem held (h : RequestsEnded s t) : t.ent.key = s.ent.key ∧ t.ent.v = s.ent.v ∧ t.ent.block = s.ent.block ∧
    t.ent.buffer = s.ent.buffer ∧ t.ent.restart = s.ent.restart := by
  rw [h.ent]
  exact ⟨rfl, rfl, rfl, rfl, rfl⟩

end State.RequestsEnded

/-! ## The DRBG is uninstantiated and the conditioners are cleared (R260) -/

theorem State.entClear_ent (s : State) :
    s.entClear.ent = { s.ent with key := 0, v := 0, block := [], buffer := [], fsr := 0, fsrOdd := false } := rfl

theorem State.entClear_dcbReg (s : State) {o : Nat} (ho : o ≠ Dcb.entStat) : s.entClear.dcbReg o = s.dcbReg o := by
  rw [State.entClear, State.dcbReg_setDcbF, if_neg ho]
  rfl

theorem State.entClear_drbgUp (s : State) : s.entClear.drbgUp = false := by
  rw [State.drbgUp, State.entClear, State.dcbF_setDcbF_self _ _ _ (by decide)]
  rfl

theorem State.entSetRestart_dcbReg (s : State) {o : Nat} (ho : o ≠ Dcb.entStat) : s.entSetRestart.dcbReg o = s.dcbReg o :=
  State.entClear_dcbReg _ ho

theorem State.entSetRestart_drbgUp (s : State) : s.entSetRestart.drbgUp = false := State.entClear_drbgUp _

end Sys2Proof.Machine
end

section
/-! Reads of the entropy source (R258, R263, R264, R266, R270): an accepted ENT_READ waits, its completion answers the bits, and
ENT_RESTART ends the reads of other mailboxes and clears the source. -/

namespace Sys2Proof.Machine

/-! ## ENT_READ -/

section

variable {mb : MailboxNum} {s : State} {x : TakenCmd} {form len : Nat}

/-- An accepted read of `len` units of a form waits for its bits. -/
def State.readAccepted (s : State) (m : Nat) (x : TakenCmd) (form len : Nat) : State :=
  let t := s.accept m x
  { t with ent := { t.ent with reads := t.ent.reads ++ [⟨m, form, len, false, [], none⟩] } }

/-- A well-formed ENT_READ of a form that is allowed: what is left of the checks of R264. -/
theorem execEntRead_wellFormed (hheld : holds s mb 0x20 x) (hform : form ≤ 2) (hlen : 1 ≤ len) (hlen8 : len ≤ 8)
    (harg : x.arg 0 = form + 256 * len) (hconf : form = 2 → s.anyConf = false) :
    execEntRead mb s = .next (
      if s.entState = 1 then s.answer mb.toNat x Status.notReady []
      else if s.occupied mb.toNat then s.answer mb.toNat x Status.busy []
      else if s.entState = 3 ∨ (form = 0 ∧ s.entMode ≠ 0) then s.answer mb.toNat x Status.refused []
      else s.readAccepted mb.toNat x form len) := by
  have hf : bitsOf (x.arg 0) 0 2 = form := by rw [harg, bitsOf_eq_div]; omega
  have hl : bitsOf (x.arg 0) 8 4 = len := by rw [harg, bitsOf_eq_div]; omega
  have hlow : bitsOf (x.arg 0) 3 5 = 0 := by rw [harg, bitsOf_eq_div]; omega
  have hhigh : bitsOf (x.arg 0) 12 20 = 0 := by rw [harg, bitsOf_eq_div]; omega
  have hpr : (x.arg 0).testBit 2 = false := by
    rw [harg, Nat.testBit_eq_decide_div_mod_eq, decide_eq_false_iff_not]
    omega
  have hallowed : ¬(form = 2 ∧ s.anyConf = true) := by
    rintro ⟨htwo, hany⟩
    simp [hconf htwo] at hany
  have hgood : ¬(form = 3 ∨ len = 0 ∨ 8 < len ∨ (false = true ∧ form ≠ 0) ∨ (0 : Nat) ≠ 0 ∨ (0 : Nat) ≠ 0) := by
    simp only [Bool.false_eq_true, false_and, ne_eq, not_true_eq_false, or_false]
    omega
  unfold execEntRead
  dsimp only
  rw [State.onTaken_of_holds hheld, hf, hl, hlow, hhigh, hpr, if_neg hallowed, if_neg hgood]
  rfl

end

/-! ## ENT_READ_COMPLETE -/

section

variable {mb : MailboxNum} {s : State} {w : EntWait} {x : TakenCmd}

/-- The read of a mailbox is answered with its bits. -/
def State.readDone (s : State) (m : Nat) (ws : List Word) : State :=
  State.complete { s with ent := { s.ent with reads := s.ent.reads.filter fun y => y.mb != m || y.job.isSome } } m Status.ok ws 0

theorem State.completed_readDone {t : State} {m : Nat} (ws : List Word) (ht : t.mbs = s.mbs) (hx : (s.mb m).waiting = some x) :
    completed s (t.readDone m ws) m x Status.ok ws 0 := by
  have hmb : t.mb m = s.mb m := State.mb_of_mbs ht m
  exact completed_of_mb (congrArg Mailbox.ready hmb) rfl
    (State.completed_complete Status.ok ws 0 ((congrArg Mailbox.waiting hmb).trans hx))

/-- A request moves the DRBG's key and V on. -/
theorem State.generate_ent (s : State) (n : Nat) :
    (s.generate n).2.ent = { s.ent with
      key := (drbgUpdate s.ent.key (s.ent.v + BitVec.ofNat 128 n) (List.replicate 48 0)).1
      v := (drbgUpdate s.ent.key (s.ent.v + BitVec.ofNat 128 n) (List.replicate 48 0)).2 } := by
  rw [State.generate, State.countDcb_ent]

theorem State.generate_mbs (s : State) (n : Nat) : (s.generate n).2.mbs = s.mbs := by
  rw [State.generate, State.countDcb_mbs]

theorem State.readDone_ent (s : State) (m : Nat) (ws : List Word) :
    (s.readDone m ws).ent = { s.ent with reads := s.ent.reads.filter fun y => y.mb != m || y.job.isSome } := by
  rw [State.readDone, State.complete_ent]

theorem execEntReadComplete_drbg (hw : s.ent.reads.find? (fun w => w.mb == mb.toNat && w.job.isNone) = some w) (hform : w.form = 0)
    (hnext : s.nextDraw = some w) (hup : s.drbgUp = true) (hseed : s.mustReseed w.pr = false) :
    execEntReadComplete mb s =
      .next ((s.generate w.len).2.readDone mb.toNat (wordsOfBytes (drbgBlocks s.ent.key s.ent.v w.len))) := by
  have hrequest : s.drbgRequest w.pr w.len = some (s.generate w.len) := by simp [State.drbgRequest, hup, hseed]
  unfold execEntReadComplete
  simp only [hw, hform, hnext, hrequest, if_true]
  rfl

theorem execEntReadComplete_direct (hw : s.ent.reads.find? (fun w => w.mb == mb.toNat && w.job.isNone) = some w)
    (hform : w.form ≠ 0) (hfull : w.full = true) :
    execEntReadComplete mb s = .next (s.readDone mb.toNat (w.got.flatMap fun d => wordsOf d.toNat)) := by
  unfold execEntReadComplete
  simp only [hw, if_neg hform, if_pos hfull]
  rfl

end

/-! ## ENT_RESTART -/

/-- Reads that end leave a mailbox with no read of its own as it is. -/
theorem State.mb_endReads {s : State} {m : Nat} (status : Nat) (record : Word) (h : ∀ w ∈ s.ent.reads, w.mb ≠ m) :
    (s.endReads status record).mb m = s.mb m := by
  unfold State.endReads
  refine List.foldlRecOn (motive := fun t : State => t.mb m = s.mb m) _ _ rfl fun t ht w hw => ?_
  have hne : m ≠ w.mb := (h w (List.mem_filter.1 hw).1).symm
  split
  · exact ht
  · exact (State.mb_complete_ne t status [] record hne).trans ht

theorem execEntRestart_eq {mb : MailboxNum} {s : State} {x : TakenCmd} (hheld : holds s mb 0x21 x) :
    execEntRestart mb s = .next (
      if s.occupied mb.toNat then s.answer mb.toNat x Status.busy []
      else (s.entSetRestart.endReads Status.notReady 0).answer mb.toNat x Status.ok []) := by
  unfold execEntRestart
  dsimp only
  rw [State.onTaken_of_holds hheld]

/-- Settles O41: the checks that are left of a good ENT_READ, the answer of a read whose bits are there, and a restart that ends reads
before it answers. -/
theorem entropyReadsReturnTheirBits : Obligations.EntropyReadsReturnTheirBits := by
  unfold Obligations.EntropyReadsReturnTheirBits
  refine ⟨fun mb s x form len hheld hform hlen hlen8 harg hconf => ?_, fun mb s w x hw hx => ⟨?_, ?_⟩, fun mb s x hheld => ⟨?_, ?_⟩⟩
  · have hread := execEntRead_wellFormed hheld hform hlen hlen8 harg hconf
    refine ⟨fun hready hocc hmode => ⟨_, hread, ?_⟩, fun hstartup => ⟨_, hread, ?_⟩⟩
    · have hserves : ¬(s.entState = 3 ∨ (form = 0 ∧ s.entMode ≠ 0)) := by
        rintro (hfailed | ⟨hdrbg, hpattern⟩)
        · omega
        · exact hpattern (hmode hdrbg)
      rw [if_neg (by omega), if_neg (by simp [hocc]), if_neg hserves]
      have hmb : (s.readAccepted mb.toNat x form len).mb mb.toNat = (s.accept mb.toNat x).mb mb.toNat := rfl
      rw [hmb, State.accept, State.mb_modMb_self]
      exact ⟨rfl, rfl, rfl⟩
    · rw [if_pos hstartup]
      exact answered_answer x _ _ rfl
  · intro hform hnext hup hseed
    refine ⟨_, execEntReadComplete_drbg hw hform hnext hup hseed, State.completed_readDone _ (s.generate_mbs _) hx, ?_⟩
    rw [State.readDone_ent, State.generate_ent]
    exact ⟨rfl, rfl⟩
  · intro hform hfull
    exact ⟨_, execEntReadComplete_direct hw hform hfull, State.completed_readDone _ rfl hx⟩
  · intro hocc
    refine ⟨_, execEntRestart_eq hheld, ?_⟩
    rw [if_pos hocc]
    exact answered_answer x _ _ rfl
  · intro hocc hothers
    have hended := State.RequestsEnded.endReads s.entSetRestart Status.notReady 0
    obtain ⟨hkey, hv, hblock, hbuffer, hrestart⟩ := hended.held
    refine ⟨_, execEntRestart_eq hheld, ?_⟩
    rw [if_neg (by simp [hocc])]
    exact ⟨answered_answer x _ _ (State.mb_endReads _ _ hothers), hended.drbgUp.trans s.entSetRestart_drbgUp, hkey, hv, hblock,
      hbuffer, hrestart⟩

end Sys2Proof.Machine
end

section
/-! The tests of the entropy source (R245, R249 to R252, R257, R268): a sample is counted and kept, a failing test leaves the source
FAILED, two blocks instantiate the DRBG, and a window of the estimator closes. -/

namespace Sys2Proof.Machine

/-! ## A failing test (R250, R267) -/

/-- The failing test is on record, source 131 is raised, the error is entered and the DRBG is zeroed. -/
def State.failNoted (s : State) (cause osc : Nat) (info : ErrInfo) : State :=
  (((s.entRecord cause osc).dieEvent 131).enterError UnitNo.entropy 0x18 info).entClear

/-- STATE and TESTPAT of ENT_STAT are written. -/
def State.setEntState (s : State) (state testpat : Nat) : State :=
  (s.setDcbF Dcb.entStat 0 2 state).setDcbF Dcb.entStat 3 1 testpat

theorem State.setEntState_entState (s : State) (state testpat : Nat) : (s.setEntState state testpat).entState = state % 2 ^ 2 := by
  rw [State.entState, State.setEntState, State.dcbF_setDcbF_beside _ _ _ (by decide) (.inl (by decide)),
    State.dcbF_setDcbF_self _ _ _ (by decide)]

theorem State.setEntState_drbgUp (s : State) (state testpat : Nat) : (s.setEntState state testpat).drbgUp = s.drbgUp := by
  rw [State.drbgUp, State.setEntState, State.dcbF_setDcbF_beside _ _ _ (by decide) (.inl (by decide)),
    State.dcbF_setDcbF_beside _ _ _ (by decide) (.inr (by decide)), State.drbgUp]

theorem State.setEntState_dcbReg (s : State) (state testpat : Nat) {o : Nat} (ho : o ≠ Dcb.entStat) :
    (s.setEntState state testpat).dcbReg o = s.dcbReg o := by
  rw [State.setEntState, State.dcbReg_setDcbF, if_neg ho, State.dcbReg_setDcbF, if_neg ho]

/-- The requests have ended, and the source is FAILED. -/
def State.failedAfter (s : State) (record : Word) : State :=
  let s := s.wireErrors.endReads Status.fault record
  State.setEntState { s with ent := { s.ent with lost := true } } 3 0

theorem State.entFail_eq (s : State) (cause osc : Nat) :
    ∃ info record, s.entFail cause osc = ((s.failNoted cause osc info).failedAfter record).entWithdraw (s.entState == 1) :=
  ⟨_, _, rfl⟩

theorem State.entRecord_ent (s : State) (cause osc : Nat) : (s.entRecord cause osc).ent = s.ent := by
  unfold State.entRecord
  dsimp only
  split <;> simp

theorem State.entRecord_ic (s : State) (cause osc : Nat) : (s.entRecord cause osc).ic = s.ic := by
  unfold State.entRecord
  dsimp only
  split <;> simp

theorem State.entRecord_dcbReg (s : State) (cause osc : Nat) {o : Nat} (hstat : o ≠ Dcb.entStat) (hfails : o ≠ Dcb.entFails)
    (hflags : o ≠ Dcb.entFlags) : (s.entRecord cause osc).dcbReg o = s.dcbReg o := by
  unfold State.entRecord
  dsimp only
  rw [State.dcbReg_setDcbBits, if_neg hflags, State.dcbReg_countDcb32, if_neg hfails]
  split
  · rw [State.dcbReg_setDcbF, if_neg hstat]
  · rw [State.dcbReg_setDcbF, if_neg hstat, State.dcbReg_setDcbF, if_neg hstat]

theorem State.Reported.ent {s t : State} (h : s.Reported t) : t.ent = s.ent := congrArg (fun x => x.2.2.1) h.coresUnits

theorem State.failNoted_ent (s : State) (cause osc : Nat) (info : ErrInfo) :
    (s.failNoted cause osc info).ent =
      { s.ent with key := 0, v := 0, block := [], buffer := [], fsr := 0, fsrOdd := false } := by
  rw [State.failNoted, State.entClear_ent, (State.Reported.enterError ..).ent, State.dieEvent_ent, State.entRecord_ent]

theorem State.failNoted_drbgUp (s : State) (cause osc : Nat) (info : ErrInfo) : (s.failNoted cause osc info).drbgUp = false :=
  State.entClear_drbgUp _

theorem State.failNoted_dcbReg (s : State) (cause osc : Nat) (info : ErrInfo) {o : Nat} (hstat : o ≠ Dcb.entStat)
    (hfails : o ≠ Dcb.entFails) (hflags : o ≠ Dcb.entFlags) (ho : o < Dcb.traceCtrl) :
    (s.failNoted cause osc info).dcbReg o = s.dcbReg o := by
  rw [State.failNoted, State.entClear_dcbReg _ hstat, (State.Reported.enterError ..).reg o ho,
    State.dcbReg_of_dcb (State.dieEvent_dcb ..), State.entRecord_dcbReg s cause osc hstat hfails hflags]

theorem State.failNoted_latchCount (s : State) (cause osc : Nat) (info : ErrInfo) :
    (s.failNoted cause osc info).latchCount 131 = min (s.latchCount 131 + 1) 255 := by
  rw [State.failNoted, State.entClear, State.latchCount_of_ic (State.setDcbF_ic ..)]
  refine ((State.Reported.enterError ..).latch 131 (by decide)).trans ?_
  rw [State.latchCount_dieEvent_self, State.latchCount_of_ic (s.entRecord_ic cause osc)]

theorem State.failedAfter_spec (s : State) (record : Word) :
    (s.failedAfter record).entState = 3 ∧ (s.failedAfter record).drbgUp = s.drbgUp ∧
      (s.failedAfter record).ent.key = s.ent.key ∧ (s.failedAfter record).ent.v = s.ent.v ∧
      ∀ n c, c ≤ 255 → c ≤ s.latchCount n → c ≤ (s.failedAfter record).latchCount n := by
  have hended := (State.RequestsEnded.wireErrors s).trans (.endReads _ Status.fault record)
  obtain ⟨hkey, hv, -⟩ := hended.held
  exact ⟨State.setEntState_entState .., (State.setEntState_drbgUp ..).trans hended.drbgUp, hkey, hv, hended.latch⟩

/-- A health failure leaves the source FAILED with the DRBG zeroed, and source 131 raised. -/
theorem State.entFail_spec (s : State) (cause osc : Nat) :
    (s.entFail cause osc).entState = 3 ∧ (s.entFail cause osc).drbgUp = false ∧ (s.entFail cause osc).ent.key = 0 ∧
      (s.entFail cause osc).ent.v = 0 ∧ min (s.latchCount 131 + 1) 255 ≤ (s.entFail cause osc).latchCount 131 := by
  obtain ⟨info, record, hfail⟩ := s.entFail_eq cause osc
  rw [hfail]
  obtain ⟨hstate, hdrbg, hkey, hv, hlatch⟩ := (s.failNoted cause osc info).failedAfter_spec record
  have hended := State.RequestsEnded.entWithdraw ((s.failNoted cause osc info).failedAfter record) (s.entState == 1)
  obtain ⟨hkey', hv', -⟩ := hended.held
  refine ⟨hended.entState.trans hstate, hended.drbgUp.trans (hdrbg.trans (State.failNoted_drbgUp ..)), ?_, ?_, ?_⟩
  · rw [hkey', hkey, State.failNoted_ent]
  · rw [hv', hv, State.failNoted_ent]
  · have hlimit : min (s.latchCount 131 + 1) 255 ≤ 255 := Nat.min_le_right ..
    exact hended.latch 131 _ hlimit (hlatch 131 _ hlimit (State.failNoted_latchCount ..).ge)

/-! ## A window of the estimator (R252) -/

/-- Entries of a table are changed one after the other, each once. -/
theorem tabGet_foldl_tabSet {β : Type} [DecidableEq β] (d : β) (f : β → β) {l : List Nat} (hl : l.Nodup) (t : Tab β) (k : Nat) :
    tabGet d (l.foldl (fun t n => tabSet d t n (f (tabGet d t n))) t) k = if k ∈ l then f (tabGet d t k) else tabGet d t k := by
  induction l generalizing t with
  | nil => rfl
  | cons n l ih =>
    obtain ⟨hn, hl⟩ := List.nodup_cons.1 hl
    rw [List.foldl_cons, ih hl]
    by_cases hk : k = n
    · subst hk
      rw [if_neg hn, if_pos List.mem_cons_self, tabGet_tabSet_self]
    · simp [hk, tabGet_tabSet_ne]

/-- An oscillator shows the counts of the window that has ended, and counts anew. -/
def Osc.windowClosed (o : Osc) : Osc :=
  { o with ones := o.winOnes, same := o.winSame, pair := o.winPair, winOnes := 0, winSame := 0, winPair := 0 }

/-- The source with the window of every oscillator closed. -/
def Entropy.windowClosed (e : Entropy) : Entropy :=
  { e with
    estCount := 0
    oscs := (List.range 64).foldl (fun t k => tabSet Osc.reset t k (tabGet Osc.reset t k).windowClosed) e.oscs }

theorem State.dcbReg_withEnt (s : State) (e : Entropy) (o : Nat) : State.dcbReg { s with ent := e } o = s.dcbReg o := rfl

theorem State.closeWindow_eq (s : State) :
    s.closeWindow = State.countDcb32 { s with ent := s.ent.windowClosed } Dcb.entEstWin 1 := rfl

theorem State.closeWindow_ent (s : State) : s.closeWindow.ent = s.ent.windowClosed := by
  rw [State.closeWindow_eq, State.countDcb32_ent]

theorem Entropy.windowClosed_osc (e : Entropy) {k : Nat} (hk : k < 64) :
    tabGet Osc.reset e.windowClosed.oscs k = (tabGet Osc.reset e.oscs k).windowClosed := by
  rw [Entropy.windowClosed, tabGet_foldl_tabSet Osc.reset Osc.windowClosed List.nodup_range, if_pos (List.mem_range.2 hk)]

theorem State.closeWindow_dcbReg (s : State) (o : Nat) :
    s.closeWindow.dcbReg o =
      if o = Dcb.entEstWin then BitVec.ofNat 64 (min ((s.dcbReg Dcb.entEstWin).toNat + 1) (2 ^ 32 - 1)) else s.dcbReg o := by
  have hreg := s.dcbReg_withEnt s.ent.windowClosed
  rw [State.closeWindow_eq, State.dcbReg_countDcb32, hreg, hreg, satAdd]

/-! ## A sample -/

/-- From `s` to `t` the count of samples, the test mode and the previous sample stand. -/
structure State.SampleKept (s t : State) : Prop where
  samples : t.dcbReg Dcb.entSamples = s.dcbReg Dcb.entSamples
  test : t.dcbReg Dcb.entTest = s.dcbReg Dcb.entTest
  prev : t.ent.prev = s.ent.prev

namespace State.SampleKept

variable {s t u : State}

theorem refl (s : State) : SampleKept s s := ⟨rfl, rfl, rfl⟩

theorem trans (h : SampleKept s t) (h' : SampleKept t u) : SampleKept s u :=
  ⟨h'.samples.trans h.samples, h'.test.trans h.test, h'.prev.trans h.prev⟩

theorem ite {p : Prop} [Decidable p] (h : SampleKept s t) (h' : SampleKept s u) : SampleKept s (if p then t else u) := by
  split
  · exact h
  · exact h'

theorem setEntState (s : State) (state testpat : Nat) : SampleKept s (s.setEntState state testpat) :=
  ⟨s.setEntState_dcbReg state testpat (by decide), s.setEntState_dcbReg state testpat (by decide), rfl⟩

theorem requestsEnded (h : s.RequestsEnded t) : SampleKept s t := ⟨h.reg _ (by decide), h.reg _ (by decide), h.prev⟩

theorem entClear (s : State) : SampleKept s s.entClear := ⟨s.entClear_dcbReg (by decide), s.entClear_dcbReg (by decide), rfl⟩

theorem entRecord (s : State) (cause osc : Nat) : SampleKept s (s.entRecord cause osc) where
  samples := s.entRecord_dcbReg cause osc (by decide) (by decide) (by decide)
  test := s.entRecord_dcbReg cause osc (by decide) (by decide) (by decide)
  prev := by rw [s.entRecord_ent]

theorem failNoted (s : State) (cause osc : Nat) (info : ErrInfo) : SampleKept s (s.failNoted cause osc info) where
  samples := s.failNoted_dcbReg cause osc info (by decide) (by decide) (by decide) (by decide)
  test := s.failNoted_dcbReg cause osc info (by decide) (by decide) (by decide) (by decide)
  prev := by rw [s.failNoted_ent]

theorem failedAfter (s : State) (record : Word) : SampleKept s (s.failedAfter record) := by
  unfold State.failedAfter
  extract_lets u
  have hended : SampleKept s u := (requestsEnded (.wireErrors s)).trans (requestsEnded (.endReads ..))
  have hlost : SampleKept u { u with ent := { u.ent with lost := true } } := ⟨rfl, rfl, rfl⟩
  exact (hended.trans hlost).trans (setEntState _ 3 0)

theorem entFail (s : State) (cause osc : Nat) : SampleKept s (s.entFail cause osc) := by
  obtain ⟨info, record, hfail⟩ := s.entFail_eq cause osc
  rw [hfail]
  exact ((failNoted s cause osc info).trans (failedAfter _ record)).trans (requestsEnded (.entWithdraw ..))

theorem entResult (s : State) (cause osc : Nat) : SampleKept s (s.entResult cause osc) := by
  have hnoted : SampleKept s { s with ent := { s.ent with recorded := true } } := ⟨rfl, rfl, rfl⟩
  exact ite (ite (refl s) (entFail ..)) (ite (refl s) (hnoted.trans (entRecord ..)))

theorem entTakeRestart (s : State) : SampleKept s s.entTakeRestart := by
  unfold State.entTakeRestart
  refine ite ?_ (refl s)
  extract_lets u v w
  have hcleared : SampleKept s u := (entClear s).trans (requestsEnded (.endReads ..))
  have hwires : SampleKept s v := ite hcleared (hcleared.trans (requestsEnded (.wireErrors u)))
  have hstate : SampleKept s w := hwires.trans (setEntState v 1 0)
  exact hstate.trans ⟨rfl, rfl, rfl⟩

theorem closeWindow (s : State) : SampleKept s s.closeWindow where
  samples := (s.closeWindow_dcbReg _).trans (if_neg (by decide))
  test := (s.closeWindow_dcbReg _).trans (if_neg (by decide))
  prev := by rw [s.closeWindow_ent, Entropy.windowClosed]

theorem countDivert (s : State) : SampleKept s (s.countDcb Dcb.entDivert 1) :=
  ⟨(s.dcbReg_countDcb ..).trans (if_neg (by decide)), (s.dcbReg_countDcb ..).trans (if_neg (by decide)), rfl⟩

theorem cardSample (s : State) (x : Dword) : SampleKept s (s.cardSample x) := by
  unfold State.cardSample
  extract_lets e waits b f
  have hdiverted (e : Entropy) (he : e.prev = s.ent.prev) : SampleKept s (State.countDcb { s with ent := e } Dcb.entDivert 1) :=
    trans (t := { s with ent := e }) ⟨rfl, rfl, he⟩ (countDivert _)
  exact ite (ite ⟨rfl, rfl, rfl⟩ ⟨rfl, rfl, rfl⟩) (ite (hdiverted _ rfl) (ite ⟨rfl, rfl, rfl⟩ (refl s)))

theorem entMode (h : SampleKept s t) : t.entMode = s.entMode := State.dcbF_of_dcbReg h.test 0 2

end State.SampleKept

/-- What ENT_SAMPLE finds: a pending restart has taken effect, and a window that was full is closed. -/
def State.sampleReady (s : State) : State :=
  let s := s.entTakeRestart
  if s.ent.estCount = 2 ^ 20 then s.closeWindow else s

/-- The sample is tested and counted. -/
def State.sampleCounted (s : State) (x : Dword) : State :=
  let n := (s.dcbReg Dcb.entSamples).toNat
  State.countDcb { s with ent := (s.ent.test x (n == s.ent.started) (n != 0)).1 } Dcb.entSamples 1

theorem State.SampleKept.sampleReady (s : State) : s.SampleKept s.sampleReady :=
  (entTakeRestart s).trans (ite (closeWindow _) (refl _))

theorem State.sampleCounted_samples (s : State) (x : Dword) :
    (s.sampleCounted x).dcbReg Dcb.entSamples =
      BitVec.ofNat 64 (min ((s.dcbReg Dcb.entSamples).toNat + 1) (2 ^ 64 - 1)) := by
  rw [State.sampleCounted, State.dcbReg_countDcb, if_pos rfl]
  rfl

theorem State.sampleCounted_prev (s : State) (x : Dword) : (s.sampleCounted x).ent.prev = x := by
  rw [State.sampleCounted, State.countDcb_ent]
  rfl

/-- After the count the result of the tests and the sample's destination follow. -/
theorem execEntSample_spec {sample : Dword} {s : State} (hreset : s.power.coldReset = false) :
    ∃ t, execEntSample sample s = .next t ∧ (s.sampleReady.sampleCounted (s.sampleReady.patterned sample)).SampleKept t := by
  unfold execEntSample
  rw [if_neg (by simp [hreset])]
  extract_lets s₁ s₂ x n r s₃ fails s₄ m s₅
  refine ⟨_, rfl, ?_⟩
  have hresult : s₃.SampleKept s₄ := by
    dsimp only [s₄]
    split
    · exact .entResult ..
    · exact .refl _
  have hcarded : s₃.SampleKept s₅ := hresult.trans (.ite (.refl _) (.cardSample ..))
  exact hcarded.trans (.ite ⟨rfl, rfl, rfl⟩ (.refl _))

/-! ## The startup tests and the DRBG -/

section

variable {s : State}

theorem execStartupTestEnd_failed (hended : s.ent.windowEnded = true) (hstate : s.entState = 1) (hkat : s.ent.katPassed = false)
    (hreset : s.power.coldReset = false) : execStartupTestEnd false s = .next (s.entFail 3 0) := by
  simp [execStartupTestEnd, hended, hstate, hkat, hreset]

/-- The known-answer tests have passed; under a test pattern the source is READY at once. -/
def State.testsPassed (s : State) : State :=
  let s : State := { s with ent := { s.ent with katPassed := true } }
  if s.entMode = 0 then s else s.setEntState 2 1

theorem execStartupTestEnd_passed (hended : s.ent.windowEnded = true) (hstate : s.entState = 1) (hkat : s.ent.katPassed = false)
    (hreset : s.power.coldReset = false) : execStartupTestEnd true s = .next s.testsPassed := by
  simp [execStartupTestEnd, hended, hstate, hkat, hreset, State.testsPassed, State.setEntState]

theorem State.testsPassed_spec (hstate : s.entState = 1) :
    s.testsPassed.ent.katPassed = true ∧ s.testsPassed.entState = if s.entMode = 0 then 1 else 2 := by
  unfold State.testsPassed
  extract_lets e u
  have hmode : u.entMode = s.entMode := rfl
  rw [hmode]
  split
  · exact ⟨rfl, hstate⟩
  · exact ⟨rfl, State.setEntState_entState ..⟩

/-- Key and V are taken from two blocks, and the DRBG is instantiated. -/
def State.instantiated (s : State) (a b : BitVec 256) (rest : List (BitVec 256)) : State :=
  let kv := drbgUpdate 0 0 (drbgSeed a b)
  let s : State := { s with ent := { s.ent with key := kv.1, v := kv.2, buffer := rest, lost := false } }
  (((s.setDcb Dcb.entReqs 0).setDcbF Dcb.entStat 2 1 1).setDcbF Dcb.entStat 0 2 2).dieEvent 130

theorem execDrbgInstantiate_eq {a b : BitVec 256} {rest : List (BitVec 256)} (hkat : s.ent.katPassed = true)
    (hstate : s.entState = 1) (hmode : s.entMode = 0) (hrestart : s.ent.restart = false) (hreset : s.power.coldReset = false)
    (hbuffer : s.ent.buffer = a :: b :: rest) : execDrbgInstantiate s = .next (s.instantiated a b rest) := by
  unfold execDrbgInstantiate
  rw [if_pos (by simp [hkat, hstate, hmode, hrestart, hreset])]
  simp only [hbuffer]
  rfl

theorem State.instantiated_ent (s : State) (a b : BitVec 256) (rest : List (BitVec 256)) :
    (s.instantiated a b rest).ent = { s.ent with
      key := (drbgUpdate 0 0 (drbgSeed a b)).1, v := (drbgUpdate 0 0 (drbgSeed a b)).2, buffer := rest, lost := false } := by
  rw [State.instantiated, State.dieEvent_ent, State.setDcbF_ent, State.setDcbF_ent, State.setDcb_ent]

theorem State.instantiated_regs (s : State) (a b : BitVec 256) (rest : List (BitVec 256)) :
    (s.instantiated a b rest).dcbReg Dcb.entReqs = 0 ∧ (s.instantiated a b rest).drbgUp = true ∧
      (s.instantiated a b rest).entState = 2 := by
  have hreg (t : State) (o : Nat) : (t.dieEvent 130).dcbReg o = t.dcbReg o := State.dcbReg_of_dcb (State.dieEvent_dcb ..) o
  unfold State.instantiated
  extract_lets kv e u
  refine ⟨?_, ?_, ?_⟩
  · rw [hreg, State.dcbReg_setDcbF, if_neg (by decide), State.dcbReg_setDcbF, if_neg (by decide), State.dcbReg_setDcb_self]
  · rw [State.drbgUp, State.dcbF_of_dcbReg (hreg ..), State.dcbF_setDcbF_beside _ _ _ (by decide) (.inr (by decide)),
      State.dcbF_setDcbF_self _ _ _ (by decide)]
    rfl
  · rw [State.entState, State.dcbF_of_dcbReg (hreg ..)]
    exact State.dcbF_setDcbF_self _ _ 2 (by decide)

theorem State.instantiated_latchCount (s : State) (a b : BitVec 256) (rest : List (BitVec 256)) :
    (s.instantiated a b rest).latchCount 130 = min (s.latchCount 130 + 1) 255 := by
  rw [State.instantiated, State.latchCount_dieEvent_self, State.latchCount, State.setDcbF_ic, State.setDcbF_ic, State.setDcb_ic]
  rfl

end

/-! ## EST_WINDOW -/

theorem execEstWindow_full {s : State} (h : s.ent.estCount = 2 ^ 20) : execEstWindow s = .next s.closeWindow := by
  rw [execEstWindow, if_pos h]

/-- Settles O43: what follows the count of a sample leaves the count and the previous sample, a failure of the startup tests is a health
failure, and every oscillator's window closes once. -/
theorem theSourceRunsItsTests : Obligations.TheSourceRunsItsTests := by
  unfold Obligations.TheSourceRunsItsTests
  refine ⟨fun sample s hreset => ?_, fun s hended hstate hkat hreset => ⟨?_, ?_⟩,
    fun s a b rest hkat hstate hmode hrestart hreset hbuffer => ?_, fun s hfull => ?_⟩
  · obtain ⟨t, ht, hkept⟩ := execEntSample_spec (sample := sample) hreset
    have hready := State.SampleKept.sampleReady s
    refine ⟨t, ht, ?_, fun hmode => ?_⟩
    · rw [hkept.samples, State.sampleCounted_samples, hready.samples]
    · rw [hkept.prev, State.sampleCounted_prev, State.patterned, hready.entMode, hmode]
      rfl
  · exact ⟨_, execStartupTestEnd_passed hended hstate hkat hreset, State.testsPassed_spec hstate⟩
  · exact ⟨_, execStartupTestEnd_failed hended hstate hkat hreset, s.entFail_spec 3 0⟩
  · obtain ⟨hreqs, hup, hready⟩ := s.instantiated_regs a b rest
    refine ⟨_, execDrbgInstantiate_eq hkat hstate hmode hrestart hreset hbuffer, ?_, ?_, hreqs, hup, hready,
      s.instantiated_latchCount a b rest⟩
    · rw [State.instantiated_ent]
    · rw [State.instantiated_ent]
  · refine ⟨_, execEstWindow_full hfull, ?_⟩
    rw [s.closeWindow_ent, s.closeWindow_dcbReg, if_pos rfl]
    refine ⟨rfl, rfl, fun k hk => ?_⟩
    rw [s.ent.windowClosed_osc hk]
    exact ⟨rfl, rfl, rfl, rfl⟩

end Sys2Proof.Machine
end

section
/-! The wires to the key block and the link cipher, and the controls of the entropy source (R246, R251, R254, R260 to
R262, R271): who is served, and what a write of ENT_TRIMn and of ENT_TEST leaves. -/

namespace Sys2Proof.Machine

/-! ## Wires (R262) -/

section

variable {s : State}

theorem State.wireError_wires (s : State) (link : Bool) : (s.wireError link).ent.wires = s.ent.wires := by
  cases link <;> rfl

theorem State.wireErrors_wires (s : State) : s.wireErrors.ent.wires = [] := by
  rw [State.wireErrors_eq]
  exact List.foldlRecOn (motive := fun t : State => t.ent.wires = []) _ _ rfl fun t ht link _ => (t.wireError_wires link).trans ht

/-- What the key block or the link cipher has received over its wire. -/
def Entropy.received (e : Entropy) (link : Bool) : List (Option (BitVec 256)) := if link then e.wireLink else e.wireKey

theorem State.wireError_received (s : State) (link : Bool) :
    (s.wireError link).ent.received link = s.ent.received link ++ [none] := by
  cases link <;> rfl

/-- The last of the waiting requests has its error status last. -/
theorem State.wireErrors_received {ws : List Bool} {link : Bool} (h : s.ent.wires = ws ++ [link]) :
    (s.wireErrors.ent.received link).getLast? = some none := by
  rw [State.wireErrors_eq, h, List.foldl_append, List.foldl_cons, List.foldl_nil, State.wireError_received, List.getLast?_concat]

/-- A request joins those that wait. -/
def State.wireRequested (s : State) (link : Bool) : State := { s with ent := { s.ent with wires := s.ent.wires ++ [link] } }

theorem execPrivateWireRequest_eq {link : Bool} (hreset : s.power.coldReset = false) :
    execPrivateWireRequest link s =
      .next (if s.entState = 3 ∨ s.entMode ≠ 0 then (s.wireRequested link).wireErrors else s.wireRequested link) :=
  if_neg (by simp [hreset])

theorem execPrivateWireServe_key {b : BitVec 256} {rest : List (BitVec 256)} {w : Bool} {ws : List Bool}
    (hbuffer : s.ent.buffer = b :: rest) (hwires : s.ent.wires = w :: ws) (hready : s.entState = 2) (hmode : s.entMode = 0)
    (hseed : s.reseedWaits = false) (hkey : false ∈ w :: ws) :
    execPrivateWireServe s = .next { s with ent := { s.ent with
      buffer := rest, wires := (w :: ws).erase false, wireKey := s.ent.wireKey ++ [some b] } } := by
  unfold execPrivateWireServe
  simp only [hbuffer, hwires]
  rw [if_neg (by simp [hready, hmode, hseed]), if_pos (List.contains_iff_mem.2 hkey)]

theorem execPrivateWireServe_link {b : BitVec 256} {rest : List (BitVec 256)} {w : Bool} {ws : List Bool}
    (hbuffer : s.ent.buffer = b :: rest) (hwires : s.ent.wires = w :: ws) (hready : s.entState = 2) (hmode : s.entMode = 0)
    (hseed : s.reseedWaits = false) (hkey : false ∉ w :: ws) :
    execPrivateWireServe s = .next { s with ent := { s.ent with
      buffer := rest, wires := ws, wireLink := s.ent.wireLink ++ [some b] } } := by
  unfold execPrivateWireServe
  simp only [hbuffer, hwires]
  rw [if_neg (by simp [hready, hmode, hseed]), if_neg (fun hmem => hkey (List.contains_iff_mem.1 hmem))]

end

/-! ## Trims and test patterns -/

theorem State.outOfReset_eq {s : State} (hreset : s.power.coldReset = false) (f : State → State) : s.outOfReset f = f s :=
  if_neg (by simp [hreset])

theorem Dcb.entTrim_ne_entStat (n : Nat) : Dcb.entTrim n ≠ Dcb.entStat := by
  simp only [Dcb.entTrim, Dcb.entStat]
  omega

theorem Dcb.entTrim_ne_entFlags (n : Nat) : Dcb.entTrim n ≠ Dcb.entFlags := by
  simp only [Dcb.entTrim, Dcb.entFlags]
  omega

/-- A mode that is written is the mode; where it changes, the source restarts. -/
theorem State.entSetMode_spec (s : State) {m : Nat} (hm : m < 4) :
    (s.entSetMode m).entMode = m ∧
      (m ≠ s.entMode → (s.entSetMode m).ent.restart = true ∧ (s.entSetMode m).drbgUp = false ∧ (s.entSetMode m).ent.key = 0 ∧
        (s.entSetMode m).ent.v = 0) ∧
      ∀ o, o ≠ Dcb.entStat → o ≠ Dcb.entTest → (s.entSetMode m).dcbReg o = s.dcbReg o := by
  unfold State.entSetMode
  by_cases hsame : m = s.entMode
  · rw [if_pos hsame]
    exact ⟨hsame.symm, fun hne => absurd hsame hne, fun _ _ _ => rfl⟩
  · rw [if_neg hsame]
    refine ⟨?_, fun _ => ⟨rfl, State.entSetRestart_drbgUp _, rfl, rfl⟩, fun o hstat htest => ?_⟩
    · rw [State.entMode, State.dcbF, State.entSetRestart_dcbReg _ (by decide), State.dcbReg_setDcb_self, bitsOf_ofNat _ (by decide),
        bitsOf_eq_div]
      omega
    · rw [State.entSetRestart_dcbReg _ hstat, State.dcbReg_setDcb, if_neg htest]

/-- An undefined field value is counted in MEM_UNDEF and flagged, and no other register changes (R27). -/
theorem State.undefCount_dcbReg (s : State) {o : Nat} (hflags : o ≠ Dcb.memFlags) :
    s.undefCount.dcbReg o =
      if o = Dcb.memUndef then BitVec.ofNat 64 (min ((s.dcbReg Dcb.memUndef).toNat + 1) (2 ^ 64 - 1)) else s.dcbReg o := by
  rw [State.undefCount, State.dcbReg_setDcbBits, if_neg hflags, State.dcbReg_countDcb, satAdd]

theorem State.undefCount_entMode (s : State) : s.undefCount.entMode = s.entMode :=
  State.dcbF_of_dcbReg ((s.undefCount_dcbReg (by decide)).trans (if_neg (by decide))) 0 2

theorem State.entTestSet_refused {s : State} (v : Nat) (hlcs : s.dcbF Dcb.secLcs 0 2 ≠ 0) :
    s.entTestSet v = s.setDcbBits Dcb.entFlags 0x4 := if_pos hlcs

theorem State.entTestSet_undefined {s : State} {v : Nat} (hlcs : s.dcbF Dcb.secLcs 0 2 = 0) (hv : v % 4 = 3) :
    s.entTestSet v = s.undefCount.entSetMode 0 := by
  rw [State.entTestSet, if_neg (by simp [hlcs]), if_pos hv]

theorem State.entTestSet_defined {s : State} {v : Nat} (hlcs : s.dcbF Dcb.secLcs 0 2 = 0) (hv : v % 4 ≠ 3) :
    s.entTestSet v = s.entSetMode (v % 4) := by
  rw [State.entTestSet, if_neg (by simp [hlcs]), if_neg hv]

/-- Settles O44: the last request gets its error last, the key block's waiting request decides who is served, and a mode that changes
restarts the source as a trim of the CP does. -/
theorem privateWiresAndEntropyControls : Obligations.PrivateWiresAndEntropyControls := by
  unfold Obligations.PrivateWiresAndEntropyControls
  refine ⟨fun link s hreset => ⟨fun hstate hmode => ?_, fun hout => ?_⟩, fun s b rest w ws hbuffer hwires hready hmode hseed => ?_,
    fun n value s hreset => ⟨?_, ?_⟩, fun value s hreset => ⟨fun hlcs => ?_, fun hlcs => ?_⟩⟩
  · refine ⟨_, execPrivateWireRequest_eq hreset, ?_⟩
    rw [if_neg (by simp [hstate, hmode]), State.wireRequested]
  · refine ⟨_, execPrivateWireRequest_eq hreset, ?_⟩
    rw [if_pos hout]
    exact ⟨State.wireErrors_wires _, State.wireErrors_received rfl⟩
  · by_cases hkey : false ∈ w :: ws
    · exact ⟨_, execPrivateWireServe_key hbuffer hwires hready hmode hseed hkey, rfl, fun _ => ⟨rfl, rfl, rfl⟩,
        fun hnone => absurd hkey hnone⟩
    · exact ⟨_, execPrivateWireServe_link hbuffer hwires hready hmode hseed hkey, rfl, fun hwaits => absurd hwaits hkey,
        fun _ => ⟨rfl, rfl, rfl⟩⟩
  · have hset : execEntTrimWrite true n value s = .next ((s.setDcb (Dcb.entTrim n.toNat) value).entSetRestart) :=
      congrArg _ (State.outOfReset_eq hreset _)
    refine ⟨_, hset, ?_, rfl, State.entSetRestart_drbgUp _, rfl, rfl⟩
    rw [State.entSetRestart_dcbReg _ (Dcb.entTrim_ne_entStat _), State.dcbReg_setDcb_self]
  · have hflag : execEntTrimWrite false n value s = .next (s.setDcbBits Dcb.entFlags 0x2) :=
      congrArg _ (State.outOfReset_eq hreset _)
    refine ⟨_, hflag, ?_, State.dcbF_setDcbBits_self _ _ (by decide), State.setDcbBits_ent ..⟩
    rw [State.dcbReg_setDcbBits, if_neg (Dcb.entTrim_ne_entFlags _)]
  · have hflag : execEntTestWrite value s = .next (s.setDcbBits Dcb.entFlags 0x4) :=
      congrArg _ ((State.outOfReset_eq hreset _).trans (State.entTestSet_refused _ hlcs))
    refine ⟨_, hflag, ?_, State.dcbF_setDcbBits_self _ _ (by decide)⟩
    rw [State.dcbReg_setDcbBits, if_neg (by decide)]
  · by_cases hv : value.toNat % 4 = 3
    · have hset : execEntTestWrite value s = .next (s.undefCount.entSetMode 0) :=
        congrArg _ ((State.outOfReset_eq hreset _).trans (State.entTestSet_undefined hlcs hv))
      obtain ⟨hmode, hchange, hreg⟩ := s.undefCount.entSetMode_spec (m := 0) (by decide)
      rw [State.undefCount_entMode] at hchange
      rw [if_pos hv]
      refine ⟨_, hset, hmode, hchange, fun _ => ?_⟩
      rw [hreg _ (by decide) (by decide), s.undefCount_dcbReg (by decide), if_pos rfl]
    · have hset : execEntTestWrite value s = .next (s.entSetMode (value.toNat % 4)) :=
        congrArg _ ((State.outOfReset_eq hreset _).trans (State.entTestSet_defined hlcs hv))
      obtain ⟨hmode, hchange, -⟩ := s.entSetMode_spec (m := value.toNat % 4) (Nat.mod_lt _ (by decide))
      rw [if_neg hv]
      exact ⟨_, hset, hmode, hchange, fun hundefined => absurd hundefined hv⟩

end Sys2Proof.Machine
end

section
/-! The fields of a core's register after a write, and the queue patch of a command word (R282). -/

namespace Sys2Proof.Machine

/-! ## Fields of a register -/

namespace CoreState

variable (k : CoreState)

theorem reg_setRegF_ne {o x : Nat} (lo n v : Nat) (h : x ≠ o) : (k.setRegF o lo n v).reg x = k.reg x :=
  (k.reg_setReg o x _).trans (if_neg h)

theorem regF_setRegF_self (o v : Nat) {lo n : Nat} (h : lo + n ≤ 64) : (k.setRegF o lo n v).regF o lo n = v % 2 ^ n := by
  rw [regF, setRegF, reg_setReg_self, bitsOf_putF_self _ _ h]

theorem regF_setRegF_beside (o v : Nat) {lo n lo' n' : Nat} (hw : lo' + n' ≤ 64) (h : lo' + n' ≤ lo ∨ lo + n ≤ lo') :
    (k.setRegF o lo n v).regF o lo' n' = k.regF o lo' n' := by
  rw [regF, setRegF, reg_setReg_self, bitsOf_putF_ne _ _ hw h, regF]

variable {k} in
theorem regF_of_reg {k' : CoreState} {o : Nat} (h : k'.reg o = k.reg o) (lo n : Nat) : k'.regF o lo n = k.regF o lo n := by
  rw [regF, h, regF]

/-- Bits set in a register are set in the field that they fill. -/
theorem regF_setBits_self (o : Nat) {lo n : Nat} {m : Dword} (h : m.extractLsb' lo n = BitVec.allOnes n) :
    (k.setBits o m).regF o lo n = 2 ^ n - 1 := by
  have hreg : (k.setBits o m).reg o = k.reg o ||| m := k.reg_setReg_self ..
  rw [regF, hreg, bitsOf_eq_extract, BitVec.extractLsb'_or, h]
  simp

end CoreState

/-! ## A queue's patch (R282) -/

theorem bitsOf_zero (x n : Nat) : bitsOf x 0 n = x % 2 ^ n := by rw [bitsOf, Nat.shiftRight_zero]

/-- The patched word: the sum in the address field. -/
theorem patchWord_mod (w off : Nat) : patchWord w off % 2 ^ 44 = (w % 2 ^ 44 + off) % 2 ^ 44 := by
  rw [patchWord, ← bitsOf_zero, bitsOf_putBits_self, bitsOf_zero]

/-- The patched word: the bits above the address field. -/
theorem patchWord_div (w off : Nat) : patchWord w off / 2 ^ 44 = w / 2 ^ 44 := by
  refine Nat.eq_of_testBit_eq fun i => ?_
  rw [Nat.testBit_div_two_pow, Nat.testBit_div_two_pow, patchWord, testBit_putBits, if_neg (by omega)]

theorem queueOffset_of_pos {cfg : Nat} (n : Nat) (h : 0 < bitsOf cfg 32 16) :
    queueOffset cfg n = bitsOf cfg 0 18 + n % bitsOf cfg 32 16 * bitsOf cfg 20 12 * 64 := by
  rw [queueOffset, Nat.max_eq_left h]

/-- The queue patch leaves every word that it does not name. -/
theorem CoreState.patch_other (k : CoreState) {w i : Nat} (ws : List Dword) (h : i ≠ insQword w ∨ insQuse w = false) :
    (k.patch w ws).1[i]? = ws[i]? := by
  unfold CoreState.patch
  split
  · next huse =>
    have hi : i ≠ insQword w := h.resolve_right (by simp [huse])
    simp [List.getElem?_mapIdx, hi]
  · rfl

/-- Settles O14: the patch adds the queue's buffer address in the address field of QWORD alone. -/
theorem queuePatchAddsToTheAddressField : Obligations.QueuePatchAddsToTheAddressField := by
  unfold Obligations.QueuePatchAddsToTheAddressField
  refine ⟨fun w cfg n hbufs => ?_, fun k w ws i h => k.patch_other ws h⟩
  rw [queueOffset_of_pos n hbufs]
  exact ⟨patchWord_mod .., patchWord_div ..⟩

end Sys2Proof.Machine
end

section
/-! The threads of the sequencer (R276 to R279, R287, R288): what an instruction that executes, retires, blocks or is released leaves
of its core, and WAIT. -/

namespace Sys2Proof.Machine

/-! ## An instruction executes, retires or blocks -/

namespace CoreState

variable (k : CoreState) (now t : Nat)

/-- What the threads share beside the registers: the increments that are due, and the Rally units' arrivals, departures and phases. -/
def syncs (k : CoreState) : List Inc × Tab Nat × Tab Nat × Tab Nat × Tab Nat :=
  (k.incs, k.arrivals, k.departures, k.phases, k.phaseAt)

section

variable {k} {k' : CoreState}

theorem incs_of_syncs (h : k'.syncs = k.syncs) : k'.incs = k.incs := congrArg Prod.fst h

theorem arrivals_of_syncs (h : k'.syncs = k.syncs) : k'.arrivals = k.arrivals := congrArg (fun x => x.2.1) h

theorem departures_of_syncs (h : k'.syncs = k.syncs) : k'.departures = k.departures := congrArg (fun x => x.2.2.1) h

theorem arrived_of_syncs (h : k'.syncs = k.syncs) (r m : Nat) : k'.arrived r m = k.arrived r m := by
  rw [arrived, arrivals_of_syncs h, arrived]

theorem left_of_syncs (h : k'.syncs = k.syncs) (r m : Nat) : k'.left r m = k.left r m := by
  rw [left, departures_of_syncs h, left]

theorem phaseAtStart_of_syncs (h : k'.syncs = k.syncs) (now r : Nat) : k'.phaseAtStart now r = k.phaseAtStart now r := by
  have hphases : k'.phases = k.phases := congrArg (fun x => x.2.2.2.1) h
  have hphaseAt : k'.phaseAt = k.phaseAt := congrArg (fun x => x.2.2.2.2) h
  rw [phaseAtStart, phase, hphases, hphaseAt, phaseAtStart, phase]

end

@[simp] theorem setRegF_syncs (o lo n v : Nat) : (k.setRegF o lo n v).syncs = k.syncs := by rfl

@[simp] theorem setBits_syncs (o : Nat) (m : Dword) : (k.setBits o m).syncs = k.syncs := by rfl

/-- The execution of an instruction touches THR_STATE of its thread and CORE_STAT. -/
theorem executed_reg (late : Bool) {o : Nat} (hthr : o ≠ Reg.thrState t) (hstat : o ≠ Reg.coreStat) :
    (k.executed t late).reg o = k.reg o := by
  have hran (k : CoreState) : ({ k with ranInstr := true } : CoreState).reg o = k.reg o := rfl
  cases late
  · exact (hran _).trans (k.reg_setRegF_ne _ _ _ hthr)
  · exact (reg_setBits_ne _ _ hstat).trans ((hran _).trans (k.reg_setRegF_ne _ _ _ hthr))

theorem executed_syncs (late : Bool) : (k.executed t late).syncs = k.syncs := by
  have hran (k : CoreState) : ({ k with ranInstr := true } : CoreState).syncs = k.syncs := rfl
  cases late
  · exact (hran _).trans (k.setRegF_syncs ..)
  · exact (setBits_syncs ..).trans ((hran _).trans (k.setRegF_syncs ..))

/-- A retiring instruction touches THR_STATE of its thread, which then runs or waits for its next period. -/
theorem retire_regs (len iter : Nat) : ∃ pc st, st < 2 ∧ (k.retire now t len iter).regs =
    ((((k.setRegF (Reg.thrState t) 0 14 pc).setRegF (Reg.thrState t) 16 7 0).setRegF (Reg.thrState t) 32 32 0).setRegF
      (Reg.thrState t) 14 2 st).regs := by
  rw [retire]
  dsimp only
  refine ⟨_, _, ?_, rfl⟩
  split_ifs <;> decide

theorem retire_reg (len iter : Nat) {o : Nat} (h : o ≠ Reg.thrState t) : (k.retire now t len iter).reg o = k.reg o := by
  obtain ⟨pc, st, -, hregs⟩ := k.retire_regs now t len iter
  rw [reg_of_regs hregs, reg_setRegF_ne _ _ _ _ h, reg_setRegF_ne _ _ _ _ h, reg_setRegF_ne _ _ _ _ h, reg_setRegF_ne _ _ _ _ h]

theorem retire_thrSt_lt (len iter : Nat) : (k.retire now t len iter).thrSt t < 2 := by
  obtain ⟨pc, st, hst, hregs⟩ := k.retire_regs now t len iter
  rw [thrSt, regF_of_regs hregs, regF_setRegF_self _ _ _ (by decide)]
  omega

theorem retire_syncs (len iter : Nat) : (k.retire now t len iter).syncs = k.syncs := by
  have htimes (k : CoreState) (a b c : Tab Nat) :
      ({ k with threadIter := a, readyAt := b, releaseAt := c } : CoreState).syncs = k.syncs := rfl
  rw [retire]
  simp only [htimes, setRegF_syncs]

/-- The next instruction of the thread may execute in the next cycle. -/
theorem retire_readyAt (len iter : Nat) : tabGet 0 (k.retire now t len iter).readyAt t = now + 1 := by
  rw [retire]
  simp only [tabGet_tabSet_self]

section

variable {st obj wthr : Nat} (ctr : Bool)

theorem block_thrSt (h : st < 4) : (k.block t st obj ctr wthr).thrSt t = st := by
  rw [block, thrSt, regF_setRegF_beside _ _ _ (by decide) (by decide), regF_setRegF_beside _ _ _ (by decide) (by decide),
    regF_setRegF_beside _ _ _ (by decide) (by decide), regF_setRegF_self _ _ _ (by decide), Nat.mod_eq_of_lt (by omega)]

theorem block_thrObj (h : obj < 64) : (k.block t st obj ctr wthr).thrObj t = obj := by
  rw [block, thrObj, regF_setRegF_beside _ _ _ (by decide) (by decide), regF_setRegF_beside _ _ _ (by decide) (by decide),
    regF_setRegF_self _ _ _ (by decide), Nat.mod_eq_of_lt (by omega)]

theorem block_thrCtr : (k.block t st obj ctr wthr).thrCtr t = ctr := by
  rw [block, thrCtr, regF_setRegF_beside _ _ _ (by decide) (by decide), regF_setRegF_self _ _ _ (by decide)]
  cases ctr <;> rfl

theorem block_thrWthr (h : wthr < 2 ^ 32) : (k.block t st obj ctr wthr).thrWthr t = wthr := by
  rw [block, thrWthr, regF_setRegF_self _ _ _ (by decide), Nat.mod_eq_of_lt (by omega)]

end

/-- The release of the threads that wait on a count notes their cycles alone. -/
theorem releaseWaits_eq (sb : Nat) (cons : Bool) :
    k.releaseWaits now sb cons = { k with releaseAt := (k.releaseWaits now sb cons).releaseAt } := by
  refine List.foldlRecOn (motive := fun x : CoreState => x = { k with releaseAt := x.releaseAt }) _ _ rfl fun x hx m _ => ?_
  split
  · rw [hx]
  · exact hx

theorem releaseWaits_regs (sb : Nat) (cons : Bool) : (k.releaseWaits now sb cons).regs = k.regs := by
  rw [k.releaseWaits_eq now sb cons]

end CoreState

/-! ## WAIT (R287, R288) -/

theorem waitThreshold_lt (w1 iter : Nat) : waitThreshold w1 iter < 2 ^ 32 := by
  rw [waitThreshold]
  omega

/-- WAIT retires where its count has come, as it stood at the start of the cycle, and blocks otherwise. -/
theorem execWait_eq {core : CoreNum} {thread : ThreadNum} {s : State} {h : Handle} {j : Job} {w : Nat} {late : Bool}
    (hready : s.threadReady core.toNat thread.toNat 2 = some (h, j, w, late)) {k : CoreState}
    (hk : k = (s.core core.toNat).executed thread.toNat late) {th : Nat}
    (hth : th = waitThreshold (k.insWord (k.thrPc thread.toNat + 1)) (s.jobIter j)) :
    execWait core thread s =
      if th ≤ k.sbAtStart s.now (insSb w) (insCtr w) then
        .next (s.setCore core.toNat (k.retire s.now thread.toNat 2 (s.jobIter j)))
      else
        .next (s.setCore core.toNat
          ((k.block thread.toNat 2 (insSb w) (insCtr w) th).releaseWaits s.now (insSb w) (insCtr w))) := by
  subst hth hk
  unfold execWait
  dsimp only
  rw [hready]

theorem execWaitRelease_eq {core : CoreNum} {thread : ThreadNum} {s : State} {h : Handle} {j : Job}
    (hjob : s.coreJob core.toNat = some (h, j)) (hst : (s.core core.toNat).thrSt thread.toNat = 2)
    (hrelease : tabGet 0 (s.core core.toNat).releaseAt thread.toNat ≠ 0)
    (hcome : tabGet 0 (s.core core.toNat).releaseAt thread.toNat ≤ s.now) :
    execWaitRelease core thread s =
      .next (s.setCore core.toNat ((s.core core.toNat).retire s.now thread.toNat 2 (s.jobIter j))) := by
  unfold execWaitRelease
  dsimp only
  rw [hjob]
  exact if_pos ⟨hst, hrelease, hcome⟩

theorem execWaitRelease_idle {core : CoreNum} {thread : ThreadNum} {s : State} (hst : (s.core core.toNat).thrSt thread.toNat ≠ 2) :
    execWaitRelease core thread s = .next s := by
  unfold execWaitRelease
  dsimp only
  split
  · rfl
  · exact if_neg fun h => hst h.1

/-- Settles O15: a WAIT whose count has come retires; another blocks, and its release afterwards touches no register. -/
theorem waitBlocksUntilItsThreshold : Obligations.WaitBlocksUntilItsThreshold := by
  unfold Obligations.WaitBlocksUntilItsThreshold
  refine ⟨fun core thread s h j w late hready => ?_, fun core thread s h j hjob hst hrelease hcome => ?_, fun core thread s =>
    ⟨fun hnone => ?_, execWaitRelease_idle⟩⟩
  · intro k w1 th
    have hwait : exec (.wait core thread) s = _ := execWait_eq hready (k := k) rfl (th := th) rfl
    rw [hwait]
    refine ⟨?_, fun hle => ?_, fun hlt => ?_⟩
    · split <;> exact ⟨_, rfl⟩
    · rw [if_pos hle]
      exact ⟨rfl, k.retire_readyAt ..⟩
    · rw [if_neg (Nat.not_le.2 hlt)]
      have hregs := (k.block thread.toNat 2 (insSb w) (insCtr w) th).releaseWaits_regs s.now (insSb w) (insCtr w)
      refine ⟨_, rfl, ?_⟩
      rw [State.core_setCore_self, CoreState.thrSt, CoreState.thrObj, CoreState.thrCtr, CoreState.thrWthr]
      simp only [CoreState.regF_of_regs hregs]
      exact ⟨k.block_thrSt _ _ (by decide), k.block_thrObj _ _ (Nat.mod_lt _ (by decide)), k.block_thrCtr ..,
        k.block_thrWthr _ _ (waitThreshold_lt ..)⟩
  · refine ⟨_, execWaitRelease_eq hjob hst hrelease hcome, rfl, ?_, ?_⟩
    · rw [State.core_setCore_self, CoreState.retire_readyAt]
    · rw [State.core_setCore_self]
      exact (CoreState.retire_thrSt_lt ..).ne
  · show execWait core thread s = _
    unfold execWait
    dsimp only
    rw [hnone]

end Sys2Proof.Machine
end

section
/-! Scoreboards (R283 to R288): SIG leaves an increment due, and the increments that are due come into force on their counts. -/

namespace Sys2Proof.Machine

/-! ## The registers of a scoreboard -/

theorem bit_lt_two (p : Bool) : bit p < 2 := by cases p <;> decide

theorem bit_injective : Function.Injective bit := by
  intro p q
  revert p q
  decide

/-- PROD and CONS of a scoreboard lie side by side in its 16 bytes. -/
theorem sbReg_eq (sb : Nat) (cons : Bool) : sbReg sb cons = 0xF06000 + 16 * sb + 4 * bit cons := by
  cases cons
  · rfl
  · show 0xF06004 + 16 * sb = 0xF06000 + 16 * sb + 4
    omega

theorem sbReg_lower (sb : Nat) (cons : Bool) : Reg.coreErrcnt < sbReg sb cons := by
  rw [sbReg_eq, Reg.coreErrcnt]
  omega

theorem sbReg_ne_coreStat (sb : Nat) (cons : Bool) : sbReg sb cons ≠ Reg.coreStat :=
  (lt_trans (by decide) (sbReg_lower sb cons)).ne'

theorem sbReg_ne_flags (sb sb' : Nat) (cons : Bool) : sbReg sb cons ≠ Reg.sbFlags sb' := by
  have hbit := bit_lt_two cons
  rw [sbReg_eq, Reg.sbFlags]
  omega

theorem sbReg_ne_thrState (sb : Nat) (cons : Bool) (thread : ThreadNum) : sbReg sb cons ≠ Reg.thrState thread.toNat := by
  have ht := thread.isLt
  rw [sbReg_eq, Reg.thrState]
  omega

/-- Each count has a register of its own. -/
theorem sbReg_ne_sbReg {sb sb' : Nat} {cons cons' : Bool} (h : sb ≠ sb' ∨ cons ≠ cons') : sbReg sb cons ≠ sbReg sb' cons' := by
  intro heq
  have hbit := bit_lt_two cons
  have hbit' := bit_lt_two cons'
  rw [sbReg_eq, sbReg_eq] at heq
  rcases h with hsb | hcons
  · omega
  · exact hcons (bit_injective (by omega))

namespace CoreState

variable {k k' : CoreState}

theorem sbCount_of_reg {sb : Nat} {cons : Bool} (h : k'.reg (sbReg sb cons) = k.reg (sbReg sb cons)) :
    k'.sbCount sb cons = k.sbCount sb cons := regF_of_reg h _ _

theorem sbCount_lt (k : CoreState) (sb : Nat) (cons : Bool) : k.sbCount sb cons < 2 ^ 32 := k.regF_lt ..

/-! ## Increments on one scoreboard (R286) -/

/-- A count after the increments of one cycle: PROD saturates, and CONS keeps its value where it would exceed PROD. -/
def sbNext (k : CoreState) (sb p c : Nat) (cons : Bool) : Nat :=
  let prod := min (k.sbCount sb false + p) 0xFFFFFFFF
  let next := min (k.sbCount sb true + c) 0xFFFFFFFF
  if cons then (if prod < next then k.sbCount sb true else next) else prod

/-- Without increments a count stands. -/
theorem sbNext_zero (k : CoreState) (sb : Nat) (cons : Bool) : k.sbNext sb 0 0 cons = k.sbCount sb cons := by
  have hp := k.sbCount_lt sb false
  have hc := k.sbCount_lt sb true
  cases cons <;> simp only [sbNext, Nat.add_zero, if_true, if_false, Bool.false_eq_true]
  · omega
  · split <;> omega

/-- From `k` to `k'` the counts and what the threads share beside the registers stand. -/
structure CountsKept (k k' : CoreState) : Prop where
  syncs : k'.syncs = k.syncs
  count : ∀ sb cons, k'.sbCount sb cons = k.sbCount sb cons

namespace CountsKept

theorem refl (k : CoreState) : CountsKept k k := ⟨rfl, fun _ _ => rfl⟩

theorem trans {k'' : CoreState} (h : CountsKept k k') (h' : CountsKept k' k'') : CountsKept k k'' :=
  ⟨h'.syncs.trans h.syncs, fun sb cons => (h'.count sb cons).trans (h.count sb cons)⟩

theorem ite {p : Prop} [Decidable p] {k'' : CoreState} (h : CountsKept k k') (h' : CountsKept k k'') :
    CountsKept k (if p then k' else k'') := by
  split
  · exact h
  · exact h'

theorem of_regs (hsyncs : k'.syncs = k.syncs) (hregs : k'.regs = k.regs) : CountsKept k k' :=
  ⟨hsyncs, fun _ _ => regF_of_regs hregs ..⟩

theorem setBits (k : CoreState) {o : Nat} (m : Dword) (ho : ∀ sb cons, sbReg sb cons ≠ o) : CountsKept k (k.setBits o m) :=
  ⟨k.setBits_syncs o m, fun sb cons => sbCount_of_reg (reg_setBits_ne k m (ho sb cons))⟩

theorem errCount (k : CoreState) : CountsKept k k.errCount :=
  ⟨by rfl, fun sb cons => sbCount_of_reg ((k.reg_setReg ..).trans (if_neg (sbReg_lower sb cons).ne'))⟩

theorem releaseWaits (k : CoreState) (now n : Nat) (ctr : Bool) : CountsKept k (k.releaseWaits now n ctr) :=
  of_regs (by rw [k.releaseWaits_eq now n ctr]; rfl) (k.releaseWaits_regs ..)

theorem executed (k : CoreState) (thread : ThreadNum) (late : Bool) : CountsKept k (k.executed thread.toNat late) :=
  ⟨k.executed_syncs .., fun sb cons =>
    sbCount_of_reg (k.executed_reg _ _ (sbReg_ne_thrState sb cons thread) (sbReg_ne_coreStat sb cons))⟩

theorem retire (k : CoreState) (now : Nat) (thread : ThreadNum) (len iter : Nat) :
    CountsKept k (k.retire now thread.toNat len iter) :=
  ⟨k.retire_syncs .., fun sb cons => sbCount_of_reg (k.retire_reg _ _ _ _ (sbReg_ne_thrState sb cons thread))⟩

end CountsKept

/-- Both counts of a scoreboard are written. -/
theorem setCounts_sbCount (k : CoreState) (sb : Nat) {p c : Nat} (hp : p < 2 ^ 32) (hc : c < 2 ^ 32) (n : Nat) (cons : Bool) :
    ((k.setRegF (Reg.sbProd sb) 0 32 p).setRegF (Reg.sbCons sb) 0 32 c).sbCount n cons =
      if n = sb then (if cons then c else p) else k.sbCount n cons := by
  by_cases hn : n = sb
  · subst hn
    rw [if_pos rfl]
    cases cons
    · have hne : sbReg n false ≠ sbReg n true := sbReg_ne_sbReg (.inr (by decide))
      exact (sbCount_of_reg (reg_setRegF_ne _ _ _ _ hne)).trans
        ((regF_setRegF_self _ _ _ (by decide)).trans (Nat.mod_eq_of_lt hp))
    · exact (regF_setRegF_self _ _ _ (by decide)).trans (Nat.mod_eq_of_lt hc)
  · rw [if_neg hn]
    have hne (ctr : Bool) : sbReg n cons ≠ sbReg sb ctr := sbReg_ne_sbReg (.inl hn)
    exact sbCount_of_reg ((reg_setRegF_ne _ _ _ _ (hne true)).trans (reg_setRegF_ne _ _ _ _ (hne false)))

/-- The increments `p` and `c` change the two counts of their scoreboard, and nothing that the threads share beside registers. -/
theorem sbApply_spec (k : CoreState) (now sb p c : Nat) :
    (k.sbApply now sb p c).1.syncs = k.syncs ∧
      ∀ n cons, (k.sbApply now sb p c).1.sbCount n cons = if n = sb then k.sbNext sb p c cons else k.sbCount n cons := by
  unfold sbApply
  extract_lets p0 c0 p1 c1 sat under c2 bufs bound k₁ k₂ k₃ k₄ k₅
  have hp1 : p1 = min (p0 + p) 0xFFFFFFFF := rfl
  have hc1 : c1 = min (c0 + c) 0xFFFFFFFF := rfl
  have hc2 : c2 = if p1 < c1 then c0 else c1 := by simp only [c2, under, decide_eq_true_eq, gt_iff_lt]
  have hc0 : c0 < 2 ^ 32 := k.sbCount_lt sb true
  have hlt : c2 < 2 ^ 32 := by
    rw [hc2]
    split <;> omega
  have hlast : CountsKept k₂ ((k₅.releaseWaits now sb false).releaseWaits now sb true) :=
    ((((CountsKept.setBits k₂ _ fun n cons => sbReg_ne_flags n sb cons).trans
      (.ite (.errCount k₃) (.refl k₃))).trans (.ite (.setBits k₄ _ sbReg_ne_coreStat) (.refl k₄))).trans
        (.releaseWaits ..)).trans (.releaseWaits ..)
  refine ⟨?_, fun n cons => ?_⟩
  · rw [hlast.syncs, setRegF_syncs, setRegF_syncs]
    rfl
  · have hnoted : k₁.sbCount n cons = k.sbCount n cons := rfl
    rw [hlast.count, setCounts_sbCount _ _ (by omega) hlt, hnoted, hc2, hp1, hc1]
    rfl

/-- What a scoreboard counts next depends on its own counts alone. -/
theorem sbNext_congr {sb : Nat} (h : ∀ cons, k'.sbCount sb cons = k.sbCount sb cons) (p c : Nat) (cons : Bool) :
    k'.sbNext sb p c cons = k.sbNext sb p c cons := by
  simp only [sbNext, h]

end CoreState

/-! ## The increments that are due -/

/-- A record of a job fault keeps the counts of its core. -/
theorem State.enterJobFault_countsKept (s : State) (c code detail addr engine : Nat) :
    (s.core c).CountsKept ((s.enterJobFault c code detail addr engine).core c) := by
  unfold State.enterJobFault
  dsimp only
  split
  · exact .refl _
  · rw [State.core_modCore_self, State.core_of_coresUnits (State.enterError_coresUnits ..)]
    exact .of_regs rfl rfl

theorem incSum_eq_zero {is : List Inc} {sb : Nat} (h : (is.any fun i => i.sb == sb) = false) (cons : Bool) :
    incSum is sb cons = 0 := by
  refine List.foldlRecOn (motive := fun n : Nat => n = 0) is _ rfl fun n hn i hi => ?_
  have hne : i.sb ≠ sb := by simpa using List.any_eq_false.1 h i hi
  rw [if_neg fun hboth => hne hboth.1]
  exact hn

/-- The increments of `due` on one scoreboard of core `c` come into force. -/
def State.applyDue (s : State) (c : Nat) (due : List Inc) (sb : Nat) : State :=
  if due.any fun i => i.sb == sb then
    let r := (s.core c).sbApply s.now sb (incSum due sb false) (incSum due sb true)
    let s := s.setCore c r.1
    if r.2 then s.enterJobFault c 0x0C 2 0 0 else s
  else s

theorem State.applyIncs_eq {s : State} {c : Nat} (h : ((s.core c).incsDue s.now).1 ≠ []) :
    s.applyIncs c = (List.range 48).foldl (fun t sb => t.applyDue c ((s.core c).incsDue s.now).1 sb)
      (s.setCore c { s.core c with incs := ((s.core c).incsDue s.now).2 }) := by
  unfold State.applyIncs
  dsimp only
  rw [if_neg (by simpa using h)]
  rfl

/-- A count of core `c` after the increments of `due`. -/
def CoreState.sbAfter (k : CoreState) (due : List Inc) (sb : Nat) (cons : Bool) : Nat :=
  k.sbNext sb (incSum due sb false) (incSum due sb true) cons

theorem State.applyDue_spec (s : State) (c : Nat) (due : List Inc) (sb : Nat) :
    ((s.applyDue c due sb).core c).syncs = (s.core c).syncs ∧
      ∀ n cons, ((s.applyDue c due sb).core c).sbCount n cons =
        if n = sb then (s.core c).sbAfter due sb cons else (s.core c).sbCount n cons := by
  unfold State.applyDue
  split
  · extract_lets r t
    have hkept : r.1.CountsKept ((if r.2 then t.enterJobFault c 0x0C 2 0 0 else t).core c) := by
      have hr : t.core c = r.1 := s.core_setCore_self ..
      rw [← hr]
      split
      · exact t.enterJobFault_countsKept ..
      · exact .refl _
    obtain ⟨hsyncs, hcount⟩ := (s.core c).sbApply_spec s.now sb (incSum due sb false) (incSum due sb true)
    exact ⟨hkept.syncs.trans hsyncs, fun n cons => (hkept.count n cons).trans (hcount n cons)⟩
  · next hnone =>
    refine ⟨rfl, fun n cons => ?_⟩
    split
    · next hn =>
      have hzero := incSum_eq_zero (Bool.eq_false_iff.2 hnone)
      rw [CoreState.sbAfter, hzero, hzero, CoreState.sbNext_zero, hn]
    · rfl

/-- The increments come into force one scoreboard after the other, each listed once. -/
theorem State.foldl_applyDue (s : State) (c : Nat) (due : List Inc) {sbs : List Nat} (hnodup : sbs.Nodup) :
    ((sbs.foldl (fun t sb => t.applyDue c due sb) s).core c).syncs = (s.core c).syncs ∧
      ∀ n cons, ((sbs.foldl (fun t sb => t.applyDue c due sb) s).core c).sbCount n cons =
        if n ∈ sbs then (s.core c).sbAfter due n cons else (s.core c).sbCount n cons := by
  induction sbs generalizing s with
  | nil => exact ⟨rfl, fun n cons => by simp⟩
  | cons sb sbs ih =>
    obtain ⟨hsb, hnodup'⟩ := List.nodup_cons.1 hnodup
    obtain ⟨hsyncs, hcount⟩ := s.applyDue_spec c due sb
    obtain ⟨hsyncs', hcount'⟩ := ih (s.applyDue c due sb) hnodup'
    refine ⟨hsyncs'.trans hsyncs, fun n cons => (hcount' n cons).trans ?_⟩
    by_cases hn : n = sb
    · subst hn
      rw [if_neg hsb, hcount, if_pos rfl, if_pos List.mem_cons_self]
    · have hsame (ctr : Bool) : ((s.applyDue c due sb).core c).sbCount n ctr = (s.core c).sbCount n ctr := by rw [hcount, if_neg hn]
      simp only [CoreState.sbAfter, CoreState.sbNext_congr hsame, hsame, List.mem_cons, hn, false_or]

/-- What the increments that are due leave of their core: the others, and the counts of all 48 scoreboards. -/
theorem State.applyIncs_spec (s : State) (c : Nat) :
    ((s.applyIncs c).core c).incs = ((s.core c).incsDue s.now).2 ∧
      ∀ sb < 48, ∀ cons, ((s.applyIncs c).core c).sbCount sb cons = (s.core c).sbAfter ((s.core c).incsDue s.now).1 sb cons := by
  by_cases hdue : ((s.core c).incsDue s.now).1 = []
  · have hnone : s.applyIncs c = s := if_pos (by rw [hdue]; rfl)
    rw [hnone]
    refine ⟨?_, fun sb _ cons => ?_⟩
    · rw [CoreState.incsDue, List.partition_eq_filter_filter] at hdue ⊢
      refine (List.filter_eq_self.2 fun i hi => ?_).symm
      simpa using List.filter_eq_nil_iff.1 hdue i hi
    · rw [hdue]
      exact (CoreState.sbNext_zero ..).symm
  · rw [State.applyIncs_eq hdue]
    obtain ⟨hsyncs, hcount⟩ := (s.setCore c { s.core c with incs := ((s.core c).incsDue s.now).2 }).foldl_applyDue c
      ((s.core c).incsDue s.now).1 (List.nodup_range (n := 48))
    rw [State.core_setCore_self] at hsyncs hcount
    refine ⟨CoreState.incs_of_syncs hsyncs, fun sb hsb cons => ?_⟩
    rw [hcount, if_pos (List.mem_range.2 hsb)]
    rfl

/-! ## SIG and SCOREBOARD_INCREMENT -/

theorem execSig_eq {core : CoreNum} {thread : ThreadNum} {s : State} {h : Handle} {j : Job} {w : Nat} {late : Bool}
    (hready : s.threadReady core.toNat thread.toNat 3 = some (h, j, w, late)) {k : CoreState}
    (hk : k = ((s.core core.toNat).executed thread.toNat late).retire s.now thread.toNat 1 (s.jobIter j)) :
    execSig core thread s =
      .next (s.setCore core.toNat { k with incs := k.incs ++ [⟨insSb w, insCtr w, insN w, s.beat, s.cycle + 1⟩] }) := by
  subst hk
  unfold execSig
  dsimp only
  rw [hready]

/-- Settles O16: the thread's instruction keeps the counts and adds its increment; what is due is applied scoreboard by scoreboard. -/
theorem sigAndIncrementsAddToTheCounts : Obligations.SigAndIncrementsAddToTheCounts := by
  unfold Obligations.SigAndIncrementsAddToTheCounts
  refine ⟨fun core thread s h j w late hready => ?_, fun core s x hjob => ?_⟩
  · obtain ⟨hsyncs, hcount⟩ := (CoreState.CountsKept.executed (s.core core.toNat) thread late).trans
      (.retire _ s.now thread 1 (s.jobIter j))
    refine ⟨_, execSig_eq hready rfl, ?_, fun sb _ cons => ?_⟩
    · rw [State.core_setCore_self, CoreState.incs_of_syncs hsyncs]
    · have hadd (k : CoreState) (is : List Inc) : ({ k with incs := is } : CoreState).sbCount sb cons = k.sbCount sb cons := rfl
      rw [State.core_setCore_self, hadd, hcount]
  · intro k due
    have hexec : exec (.scoreboardIncrement core) s = .next (s.applyIncs core.toNat) := by
      show execScoreboardIncrement core s = _
      unfold execScoreboardIncrement
      rw [hjob]
    obtain ⟨hincs, hcount⟩ := s.applyIncs_spec core.toNat
    exact ⟨_, hexec, hincs, fun sb hsb => ⟨hcount sb hsb false, hcount sb hsb true⟩⟩

end Sys2Proof.Machine
end

section
/-! Rally (R290 to R293): an arrival or its refusal as an overrun, the ways out of RWAIT, and the instructions ARRIVE, RWAIT and
RALLY. -/

namespace Sys2Proof.Machine

theorem rlyFlags_ne_thrState (r : Nat) (thread : ThreadNum) : Reg.rlyFlags r ≠ Reg.thrState thread.toNat := by
  have ht := thread.isLt
  simp only [Reg.rlyFlags, Reg.thrState]
  omega

namespace CoreState

variable (k : CoreState) (now : Nat)

/-! ## The operations on one unit -/

/-- A member that leaves has one departure more. -/
theorem leave_left (r m : Nat) : (k.leave r m).left r m = k.left r m + 1 := by
  simp only [left, leave, tabGet_tabSet_self]

/-- One arrival more of a member. -/
def arriveOnce (r m : Nat) : CoreState := { k with arrivals := tabSet 0 k.arrivals (rallyKey r m) (k.arrived r m + 1) }

theorem arriveOnce_arrived (r m : Nat) : (k.arriveOnce r m).arrived r m = k.arrived r m + 1 := by
  simp only [arrived, arriveOnce, tabGet_tabSet_self]

theorem arriveOnce_left (r m n l : Nat) : (k.arriveOnce r m).left n l = k.left n l := rfl

/-- The completion of a phase changes the unit's phase and the times of the threads that it releases. -/
theorem completePhase_eq (r : Nat) : k.completePhase now r = { k with
    phases := (k.completePhase now r).phases, phaseAt := (k.completePhase now r).phaseAt,
    releaseAt := (k.completePhase now r).releaseAt } := by
  unfold completePhase
  split
  · extract_lets k₁
    refine List.foldlRecOn (motive := fun x : CoreState =>
      x = { k with phases := x.phases, phaseAt := x.phaseAt, releaseAt := x.releaseAt }) _ _ rfl fun x hx m _ => ?_
    split
    · rw [hx]
    · exact hx
  · rfl

theorem completePhase_arrived (r n m : Nat) : (k.completePhase now r).arrived n m = k.arrived n m := by
  rw [arrived, k.completePhase_eq now r, arrived]

theorem completePhase_left (r n m : Nat) : (k.completePhase now r).left n m = k.left n m := by
  rw [left, k.completePhase_eq now r, left]

/-! ## RWAIT (R292) -/

section

variable {k now} {t r : Nat} (iter : Nat)

theorem rwait_empty (h : k.left r t = k.arrived r t) :
    k.rwait now t r iter = (k.setBits (Reg.rlyFlags r) 2).retire now t 1 iter := if_pos h

theorem rwait_leaves (hne : k.left r t ≠ k.arrived r t) (hphase : k.left r t + 1 ≤ k.phaseAtStart now r) :
    k.rwait now t r iter = (k.leave r t).retire now t 1 iter := (if_neg hne).trans (if_pos hphase)

theorem block_syncs (k : CoreState) (t st obj : Nat) (ctr : Bool) (wthr : Nat) : (k.block t st obj ctr wthr).syncs = k.syncs := by
  rw [block, setRegF_syncs, setRegF_syncs, setRegF_syncs, setRegF_syncs]

/-- A release that may be noted changes times alone. -/
theorem ite_release (k : CoreState) (p : Prop) [Decidable p] (times : Tab Nat) :
    (if p then { k with releaseAt := times } else k).regs = k.regs ∧
      (if p then { k with releaseAt := times } else k).syncs = k.syncs := by
  split
  · exact ⟨rfl, rfl⟩
  · exact ⟨rfl, rfl⟩

/-- A thread that blocks on its unit may have its release noted at once; no count changes. -/
theorem rwait_blocks (hne : k.left r t ≠ k.arrived r t) (hphase : k.phaseAtStart now r < k.left r t + 1) :
    (k.rwait now t r iter).regs = (k.block t 3 r false 0).regs ∧ (k.rwait now t r iter).syncs = k.syncs := by
  rw [rwait, if_neg hne, if_neg (Nat.not_le.2 hphase)]
  rw [← k.block_syncs t 3 r false 0]
  exact (k.block t 3 r false 0).ite_release ..

/-- The three ways out of an RWAIT: nothing to wait for, a phase that was complete at the start of the cycle, or a wait. -/
theorem rwait_spec (k : CoreState) (now : Nat) (thread : ThreadNum) {r : Nat} (hr : r < 64) (iter : Nat) :
    (k.left r thread.toNat = k.arrived r thread.toNat →
      (k.rwait now thread.toNat r iter).regF (Reg.rlyFlags r) 1 1 = 1 ∧
        tabGet 0 (k.rwait now thread.toNat r iter).readyAt thread.toNat = now + 1) ∧
    (k.left r thread.toNat ≠ k.arrived r thread.toNat → k.left r thread.toNat + 1 ≤ k.phaseAtStart now r →
      (k.rwait now thread.toNat r iter).left r thread.toNat = k.left r thread.toNat + 1 ∧
        tabGet 0 (k.rwait now thread.toNat r iter).readyAt thread.toNat = now + 1) ∧
    (k.left r thread.toNat ≠ k.arrived r thread.toNat → k.phaseAtStart now r < k.left r thread.toNat + 1 →
      (k.rwait now thread.toNat r iter).thrSt thread.toNat = 3 ∧ (k.rwait now thread.toNat r iter).thrObj thread.toNat = r ∧
        (k.rwait now thread.toNat r iter).departures = k.departures) := by
  refine ⟨fun heq => ?_, fun hne hle => ?_, fun hne hlt => ?_⟩
  · rw [rwait_empty iter heq, regF_of_reg (retire_reg _ _ _ _ _ (rlyFlags_ne_thrState r thread)),
      regF_setBits_self _ _ (by decide)]
    exact ⟨rfl, retire_readyAt ..⟩
  · rw [rwait_leaves iter hne hle, left_of_syncs (retire_syncs ..), leave_left]
    exact ⟨rfl, retire_readyAt ..⟩
  · obtain ⟨hregs, hsyncs⟩ := rwait_blocks iter hne hlt
    rw [thrSt, thrObj, regF_of_regs hregs, regF_of_regs hregs]
    exact ⟨k.block_thrSt _ false (by decide), k.block_thrObj _ false hr, departures_of_syncs hsyncs⟩

/-- A member that owes a departure leaves, or is blocked; its arrivals stand. -/
theorem rwait_owing (hne : k.left r t ≠ k.arrived r t) :
    (k.rwait now t r iter).arrived r t = k.arrived r t ∧
      ((k.rwait now t r iter).left r t = k.left r t + 1 ∨ (k.rwait now t r iter).thrSt t = 3) := by
  by_cases hphase : k.left r t + 1 ≤ k.phaseAtStart now r
  · rw [rwait_leaves iter hne hphase]
    have hretire := (k.leave r t).retire_syncs now t 1 iter
    exact ⟨arrived_of_syncs hretire r t, .inl ((left_of_syncs hretire r t).trans (k.leave_left r t))⟩
  · obtain ⟨hregs, hsyncs⟩ := rwait_blocks iter hne (Nat.not_le.1 hphase)
    refine ⟨arrived_of_syncs hsyncs r t, .inr ?_⟩
    rw [thrSt, regF_of_regs hregs]
    exact k.block_thrSt t false (by decide)

end

end CoreState

/-! ## ARRIVE (R291) -/

section

variable {s : State} {c t r : Nat}

/-- An arrival that is no overrun may complete the phase. -/
theorem State.arrive_accepted (h : (s.core c).arrived r t + 1 - s.minLeftNow c t r ≤ 2) :
    s.arrive c t r = (s.setCore c (((s.core c).arriveOnce r t).completePhase s.now r), true) :=
  if_neg (Nat.not_lt.2 h)

theorem State.arrive_overrun (h : 2 < (s.core c).arrived r t + 1 - s.minLeftNow c t r) :
    s.arrive c t r = ((s.setCore c ((((s.core c).setBits (Reg.rlyFlags r) 1).setBits Reg.coreStat 0x8).stop t)).enterJobFault
      c 0x0C 3 0 0, false) := if_pos h

/-- An accepted arrival counts, and no departure changes. -/
theorem State.arrive_accepted_spec (h : (s.core c).arrived r t + 1 - s.minLeftNow c t r ≤ 2) :
    (s.arrive c t r).2 = true ∧ ((s.arrive c t r).1.core c).arrived r t = (s.core c).arrived r t + 1 ∧
      ((s.arrive c t r).1.core c).left r t = (s.core c).left r t := by
  rw [State.arrive_accepted h, State.core_setCore_self, CoreState.completePhase_arrived, CoreState.completePhase_left,
    CoreState.arriveOnce_arrived, CoreState.arriveOnce_left]
  exact ⟨rfl, rfl, rfl⟩

/-- A record of a job fault changes its core's list of codes alone. -/
theorem State.enterJobFault_core (s : State) (c code detail addr engine : Nat) :
    (s.enterJobFault c code detail addr engine).core c =
      { s.core c with jobCodes := ((s.enterJobFault c code detail addr engine).core c).jobCodes } := by
  unfold State.enterJobFault
  dsimp only
  split
  · rfl
  · rw [State.core_modCore_self, State.core_of_coresUnits (State.enterError_coresUnits ..)]

theorem State.enterJobFault_regs (s : State) (c code detail addr engine : Nat) :
    ((s.enterJobFault c code detail addr engine).core c).regs = (s.core c).regs := by rw [State.enterJobFault_core]

theorem State.enterJobFault_stopped (s : State) (c code detail addr engine : Nat) :
    ((s.enterJobFault c code detail addr engine).core c).stopped = (s.core c).stopped := by rw [State.enterJobFault_core]

theorem CoreState.stop_regs (k : CoreState) (t : Nat) : (k.stop t).regs = k.regs := rfl

theorem CoreState.stop_syncs (k : CoreState) (t : Nat) : (k.stop t).syncs = k.syncs := rfl

theorem CoreState.stop_stopped (k : CoreState) (t : Nat) : tabGet false (k.stop t).stopped t = true :=
  tabGet_tabSet_self false k.stopped t true

/-- An overrun leaves the counts, sets its flags and stops the thread. -/
theorem State.arrive_overrun_spec (h : 2 < (s.core c).arrived r t + 1 - s.minLeftNow c t r) :
    (s.arrive c t r).2 = false ∧ ((s.arrive c t r).1.core c).arrivals = (s.core c).arrivals ∧
      ((s.arrive c t r).1.core c).regF (Reg.rlyFlags r) 0 1 = 1 ∧ ((s.arrive c t r).1.core c).regF Reg.coreStat 3 1 = 1 ∧
      tabGet false ((s.arrive c t r).1.core c).stopped t = true := by
  have hne : Reg.rlyFlags r ≠ Reg.coreStat := by
    simp only [Reg.rlyFlags, Reg.coreStat]
    omega
  rw [State.arrive_overrun h]
  dsimp only
  have hregs := State.enterJobFault_regs (s.setCore c ((((s.core c).setBits (Reg.rlyFlags r) 1).setBits Reg.coreStat 0x8).stop t))
    c 0x0C 3 0 0
  rw [State.core_setCore_self, CoreState.stop_regs] at hregs
  rw [CoreState.regF_of_regs hregs, CoreState.regF_of_regs hregs, State.enterJobFault_stopped, State.core_setCore_self,
    CoreState.regF_of_reg (CoreState.reg_setBits_ne _ _ hne), CoreState.regF_setBits_self _ _ (by decide),
    CoreState.regF_setBits_self _ _ (by decide), CoreState.stop_stopped,
    CoreState.arrivals_of_syncs (State.enterJobFault_countsKept ..).syncs, State.core_setCore_self,
    CoreState.arrivals_of_syncs (CoreState.stop_syncs ..), CoreState.arrivals_of_syncs (CoreState.setBits_syncs ..),
    CoreState.arrivals_of_syncs (CoreState.setBits_syncs ..)]
  exact ⟨rfl, rfl, rfl, rfl, rfl⟩

end

/-! ## The instructions -/

section

variable {core : CoreNum} {thread : ThreadNum} {s : State} {h : Handle} {j : Job} {w : Nat} {late : Bool}

theorem execArrive_eq (hready : s.threadReady core.toNat thread.toNat 4 = some (h, j, w, late)) {x : State × Bool}
    (hx : x = (s.setCore core.toNat ((s.core core.toNat).executed thread.toNat late)).arrive core.toNat thread.toNat (insRly w)) :
    execArrive core thread s =
      if x.2 then .next (x.1.modCore core.toNat fun k => k.retire s.now thread.toNat 1 (s.jobIter j)) else .next x.1 := by
  subst hx
  unfold execArrive
  dsimp only
  rw [hready]

theorem execRally_eq (hready : s.threadReady core.toNat thread.toNat 6 = some (h, j, w, late)) {x : State × Bool}
    (hx : x = (s.setCore core.toNat ((s.core core.toNat).executed thread.toNat late)).arrive core.toNat thread.toNat (insRly w)) :
    execRally core thread s =
      if x.2 then .next (x.1.modCore core.toNat fun k => k.rwait s.now thread.toNat (insRly w) (s.jobIter j)) else .next x.1 := by
  subst hx
  unfold execRally
  dsimp only
  rw [hready]

theorem execRwait_eq (hready : s.threadReady core.toNat thread.toNat 5 = some (h, j, w, late)) :
    execRwait core thread s = .next (s.setCore core.toNat
      (((s.core core.toNat).executed thread.toNat late).rwait s.now thread.toNat (insRly w) (s.jobIter j))) := by
  unfold execRwait
  dsimp only
  rw [hready]

theorem execRwaitRelease_eq {x : Handle × Job} (hjob : s.coreJob core.toNat = some x)
    (hst : (s.core core.toNat).thrSt thread.toNat = 3) (hrelease : tabGet 0 (s.core core.toNat).releaseAt thread.toNat ≠ 0)
    (hcome : tabGet 0 (s.core core.toNat).releaseAt thread.toNat ≤ s.now) :
    execRwaitRelease core thread s = .next (s.setCore core.toNat
      (((s.core core.toNat).leave ((s.core core.toNat).thrObj thread.toNat) thread.toNat).retire s.now thread.toNat 1
        (s.jobIter x.2))) := by
  unfold execRwaitRelease
  dsimp only
  rw [hjob]
  exact if_pos ⟨hst, hrelease, hcome⟩

end

/-- Settles O17: an arrival counts unless it is an overrun, and RWAIT and RALLY end in one of the ways out of R292. -/
theorem rallyCountsArrivalsAndDepartures : Obligations.RallyCountsArrivalsAndDepartures := by
  unfold Obligations.RallyCountsArrivalsAndDepartures
  refine ⟨fun core thread s h j w late hready => ?_, fun core thread s h j w late hready => ?_, fun core thread s x hjob => ?_,
    fun core thread s h j w late hready => ?_⟩
  · intro k r least
    have hexec : exec (.arrive core thread) s = _ := execArrive_eq hready rfl
    have hsyncs := k.executed_syncs thread.toNat late
    have harrived := CoreState.arrived_of_syncs hsyncs r thread.toNat
    have hcore := s.core_setCore_self core.toNat (k.executed thread.toNat late)
    refine ⟨fun hle => ?_, fun hlt => ?_⟩
    · rw [← harrived, ← hcore] at hle
      obtain ⟨htrue, hcount, -⟩ := State.arrive_accepted_spec hle
      rw [if_pos htrue] at hexec
      refine ⟨_, hexec, ?_, ?_⟩
      · rw [State.core_modCore_self, CoreState.arrived_of_syncs (CoreState.retire_syncs ..), hcount, hcore, harrived]
      · rw [State.core_modCore_self, CoreState.retire_readyAt]
    · rw [← harrived, ← hcore] at hlt
      obtain ⟨hfalse, hcount, hflags⟩ := State.arrive_overrun_spec hlt
      rw [if_neg (by rw [hfalse]; decide)] at hexec
      refine ⟨_, hexec, ?_, hflags⟩
      rw [hcount, hcore, CoreState.arrivals_of_syncs hsyncs]
  · intro k r
    have hsyncs := k.executed_syncs thread.toNat late
    have hspec := (k.executed thread.toNat late).rwait_spec s.now thread (r := r) ((Nat.mod_lt _ (by decide)).trans (by decide))
      (s.jobIter j)
    rw [CoreState.left_of_syncs hsyncs, CoreState.arrived_of_syncs hsyncs, CoreState.phaseAtStart_of_syncs hsyncs,
      CoreState.departures_of_syncs hsyncs] at hspec
    refine ⟨_, execRwait_eq hready, ?_⟩
    rw [State.core_setCore_self]
    exact hspec
  · intro k hst hrelease hcome
    refine ⟨_, execRwaitRelease_eq hjob hst hrelease hcome, ?_⟩
    rw [State.core_setCore_self]
    refine ⟨?_, (lt_trans (CoreState.retire_thrSt_lt ..) (by decide)).ne⟩
    rw [CoreState.left_of_syncs (CoreState.retire_syncs ..), CoreState.leave_left]
  · intro k r least hle howes
    have hexec : exec (.rally core thread) s = _ := execRally_eq hready rfl
    have hsyncs := k.executed_syncs thread.toNat late
    have harrived := CoreState.arrived_of_syncs hsyncs r thread.toNat
    have hcore := s.core_setCore_self core.toNat (k.executed thread.toNat late)
    rw [← harrived, ← hcore] at hle
    obtain ⟨htrue, hcount, hleft⟩ := State.arrive_accepted_spec hle
    rw [hcore, harrived] at hcount
    rw [hcore, CoreState.left_of_syncs hsyncs] at hleft
    obtain ⟨hstays, hout⟩ := CoreState.rwait_owing (now := s.now) (s.jobIter j) (Nat.ne_of_lt (by rw [hcount, hleft]; omega))
    rw [if_pos htrue] at hexec
    refine ⟨_, hexec, ?_⟩
    rw [State.core_modCore_self]
    exact ⟨hstays.trans hcount, hout.imp_left fun hone => hone.trans (by rw [hleft])⟩

end Sys2Proof.Machine
end

section
/-! The deadlock detector (R295, R462, R472): the record that it enters marks the job for its end, which is due at this boundary. -/

namespace Sys2Proof.Machine

/-! ## The class of a record (R470) -/

/-- The class field of a record is its code's class, one higher where the code recurs in its beat. -/
theorem State.makeRecord_cls (s : State) (unit code : Nat) (i : ErrInfo) :
    (s.makeRecord unit code i).cls =
      if tabGet none (s.errUnit unit).entered code == some s.beat then min (errBase code + 1) 2 else errBase code := by
  unfold State.makeRecord
  extract_lets u esc cls sec part flags id
  have hcls : cls < 4 := by
    have hbase : errBase code ≤ 2 := by
      unfold errBase
      split_ifs <;> decide
    dsimp only [cls]
    split <;> omega
  have hflags : bitsOf (BitVec.ofNat 8 flags).toNat 0 2 = cls := by
    rw [bitsOf_zero, BitVec.toNat_ofNat]
    dsimp only [flags]
    omega
  split
  · exact hflags
  · exact hflags

/-- A code whose class is not corrected makes no corrected record. -/
theorem State.makeRecord_cls_ne (s : State) (unit : Nat) {code : Nat} (i : ErrInfo) (h : errBase code ≠ 0) :
    (s.makeRecord unit code i).cls ≠ 0 := by
  rw [State.makeRecord_cls]
  split <;> omega

/-! ## The end that a record marks (R475) -/

theorem State.soundWhistle_jobs (s : State) (src : Nat) : (s.soundWhistle src).jobs = s.jobs := by
  unfold State.soundWhistle
  split
  · rfl
  · split
    · split
      · exact State.setDcbF_jobs ..
      · rfl
    · rw [State.setDcb_jobs, State.setDcbF_jobs, State.setDcbF_jobs, State.setDcbF_jobs]

/-- A mark on a job without an end leaves one that is due at the next boundary. -/
theorem State.job_markEnd {s : State} {h : Handle} {j : Job} (st : JobSt) (record : Word) (hj : s.job h = some j)
    (hend : s.canEnd j = true) (hnone : j.pendingEnd = none) :
    (s.markEnd h st record).job h = some { j with pendingEnd := some (st, record, s.beat + 1) } := by
  rw [State.markEnd_eq, State.job_modJob, if_pos rfl, hj, Option.map_some, State.marked, if_pos hend, hnone]

/-- A record that is not corrected leaves its job an end that is due at the next boundary. -/
theorem State.enterError_ends {s : State} {unit code : Nat} {i : ErrInfo} {j : Job} (hbase : errBase code ≠ 0)
    (hj : s.job i.handle = some j) (hend : s.canEnd j = true) (hnone : j.pendingEnd = none) :
    ∃ st record, (s.enterError unit code i).job i.handle = some { j with pendingEnd := some (st, record, s.beat + 1) } := by
  have hcls := s.makeRecord_cls_ne unit i hbase
  unfold State.enterError
  extract_lets r u pushed u' s₁ s₂ e s₃
  rw [if_neg hcls]
  have hbeat : s₁.beat = s.beat := rfl
  have hj₁ : s₁.job i.handle = some j := (State.job_of_jobs (t := s₁) (s := s) rfl _).trans hj
  have hend₁ : s₁.canEnd j = true := (State.canEnd_of_marked hbeat (.refl j)).trans hend
  rw [← hbeat]
  clear_value s₁
  split
  · exact ⟨_, _, State.job_markEnd _ _ hj₁ hend₁ hnone⟩
  · have hj₃ : s₃.job i.handle = some { j with pendingEnd := some (.ended, r.id, s₁.beat + 1) } :=
      State.job_markEnd (s := s₁.setDcbF Dcb.errGlobal 0 1 1) .ended r.id hj₁ hend₁ hnone
    refine ⟨.ended, r.id, Eq.trans ?_ hj₃⟩
    clear_value s₃
    split
    · exact State.job_of_jobs (State.soundWhistle_jobs ..) _
    · rfl

/-- The first record of a code of the codes 0x0A to 0x0D of a core, for its job. -/
theorem State.enterJobFault_ends {s : State} {c code : Nat} {h : Handle} {j : Job} (detail addr engine : Nat)
    (hfirst : (s.core c).jobCodes.contains (BitVec.ofNat 8 code) = false) (hcore : (s.core c).job = some h)
    (hbase : errBase code ≠ 0) (hj : s.job h = some j) (hend : s.canEnd j = true) (hnone : j.pendingEnd = none) :
    ∃ st record, (s.enterJobFault c code detail addr engine).job h =
      some { j with pendingEnd := some (st, record, s.beat + 1) } := by
  unfold State.enterJobFault
  dsimp only
  rw [if_neg (by rw [hfirst]; decide), hcore]
  exact State.enterError_ends (i := { handle := h, detail, core := c, addr, engine }) hbase hj hend hnone

theorem State.enterJobFault_latchCount (s : State) (c code detail addr engine : Nat) {n : Nat} (hn : n < 169) :
    (s.enterJobFault c code detail addr engine).latchCount n = s.latchCount n := by
  unfold State.enterJobFault
  dsimp only
  split
  · rfl
  · exact (State.Reported.enterError s _ _ _).latch n hn

/-! ## A job that runs on a core -/

theorem State.coreJob_some {s : State} {c : Nat} {h : Handle} {j : Job} (hjob : s.coreJob c = some (h, j)) :
    (s.core c).job = some h ∧ s.job h = some j ∧ s.jobRuns j = true := by
  unfold State.coreJob at hjob
  split at hjob
  · cases hjob
  · next x hcore =>
    split at hjob
    · cases hjob
    · next k hk =>
      split at hjob
      · next hruns =>
        cases hjob
        exact ⟨hcore, hk, (Bool.and_eq_true_iff.1 hruns).1⟩
      · cases hjob

theorem State.canEnd_of_jobRuns {s : State} {j : Job} (h : s.jobRuns j = true) : s.canEnd j = true := by
  simp only [State.jobRuns, Bool.and_eq_true, beq_iff_eq] at h
  obtain ⟨⟨⟨hst, hbeat⟩, -⟩, -⟩ := h
  rw [State.canEnd, hst]
  exact hbeat

/-! ## DEADLOCK_DETECT -/

/-- The job with an end that was to come at the next boundary brought to this one. -/
def State.endsNow (s : State) (j : Job) : Job :=
  { j with pendingEnd := j.pendingEnd.map fun e => (e.1, e.2.1, if e.2.2 = s.beat + 1 then s.beat else e.2.2) }

theorem State.endsNow_marked (s : State) (j : Job) : j.Marked (s.endsNow j) := ⟨rfl, by simp [State.endsNow]⟩

/-- The state in which the detector has set DLK, taken the snapshot and raised its source. -/
def State.detected (s : State) (c : Nat) : State :=
  ((s.modCore c fun k => k.setBits Reg.coreStat 0x20).takeSnapshot c 1).dieEvent 133

theorem State.detected_core (s : State) (c : Nat) : ∃ store, (s.detected c).core c =
    ({ (s.core c).setBits Reg.coreStat 0x20 with store := store } : CoreState).setReg Reg.dbgSnapstat 3 := by
  have hcore : (s.detected c).core c = ((s.modCore c fun k => k.setBits Reg.coreStat 0x20).takeSnapshot c 1).core c :=
    State.core_of_coresUnits (State.dieEvent_coresUnits ..) c
  rw [hcore, State.takeSnapshot, State.putSnapshot, State.core_modCore_self, State.core_modCore_self]
  exact ⟨_, rfl⟩

theorem State.detected_regs (s : State) (c : Nat) :
    ((s.detected c).core c).regF Reg.coreStat 5 1 = 1 ∧ ((s.detected c).core c).reg Reg.dbgSnapstat = 3 := by
  obtain ⟨store, hcore⟩ := s.detected_core c
  rw [hcore]
  refine ⟨?_, CoreState.reg_setReg_self ..⟩
  have hstore : ({ (s.core c).setBits Reg.coreStat 0x20 with store := store } : CoreState).reg Reg.coreStat =
    ((s.core c).setBits Reg.coreStat 0x20).reg Reg.coreStat := rfl
  rw [CoreState.regF_of_reg (((CoreState.reg_setReg ..).trans (if_neg (by decide))).trans hstore),
    CoreState.regF_setBits_self _ _ (by decide)]
  rfl

theorem State.detected_job (s : State) (c : Nat) :
    ((s.detected c).core c).job = (s.core c).job ∧ ((s.detected c).core c).jobCodes = (s.core c).jobCodes := by
  obtain ⟨store, hcore⟩ := s.detected_core c
  rw [hcore]
  exact ⟨rfl, rfl⟩

/-- Neither the jobs nor the clock change. -/
theorem State.detected_jobs_beat (s : State) (c : Nat) : (s.detected c).jobs = s.jobs ∧ (s.detected c).beat = s.beat := by
  rw [State.detected, State.dieEvent_jobs, State.dieEvent_beat, State.takeSnapshot, State.putSnapshot, State.modCore_jobs,
    State.modCore_jobs, State.modCore_beat, State.modCore_beat]
  exact ⟨rfl, rfl⟩

theorem State.detected_latchCount (s : State) (c : Nat) : (s.detected c).latchCount 133 = min (s.latchCount 133 + 1) 255 := by
  rw [State.detected, State.latchCount_dieEvent_self, State.takeSnapshot, State.putSnapshot,
    State.latchCount_of_ic (State.modCore_ic ..), State.latchCount_of_ic (State.modCore_ic ..)]

theorem execDeadlockDetect_eq {core : CoreNum} {s : State} {h : Handle} {j : Job} (hjob : s.coreJob core.toNat = some (h, j))
    (hcount : (s.core core.toNat).regF Reg.dlkCount 0 3 = 4) (hdlk : (s.core core.toNat).regF Reg.coreStat 5 1 = 0)
    (hcycle : s.cycle = 0) :
    execDeadlockDetect core s = .next (((s.detected core.toNat).enterJobFault core.toNat 0x0C 4 0 0).modJob h s.endsNow) := by
  unfold execDeadlockDetect
  dsimp only
  rw [hjob]
  exact if_pos ⟨hcount, hdlk, hcycle⟩

/-- Settles O19: DLK and the snapshot stand, source 133 is raised once, and the end that the record marks is brought to this beat. -/
theorem deadlockDetectorEndsTheJob : Obligations.DeadlockDetectorEndsTheJob := by
  intro core s h j hjob hcount hdlk hcycle
  obtain ⟨hcore, hj, hruns⟩ := State.coreJob_some hjob
  obtain ⟨hstat, hsnap⟩ := s.detected_regs core.toNat
  obtain ⟨hcore', hcodes⟩ := s.detected_job core.toNat
  have hregs := (s.detected core.toNat).enterJobFault_regs core.toNat 0x0C 4 0 0
  refine ⟨_, execDeadlockDetect_eq hjob hcount hdlk hcycle, ?_, ?_, ?_, fun hnone hfirst => ?_⟩
  · rw [State.core_of_coresUnits (State.modJob_coresUnits ..), CoreState.regF_of_regs hregs, hstat]
  · rw [State.core_of_coresUnits (State.modJob_coresUnits ..), CoreState.reg_of_regs hregs, hsnap]
  · have hmod := (State.Reported.modJob (s := (s.detected core.toNat).enterJobFault core.toNat 0x0C 4 0 0) h s.endsNow_marked).latch
      133 (by decide)
    exact hmod.trans ((State.enterJobFault_latchCount _ _ _ _ _ _ (by decide)).trans (s.detected_latchCount _))
  · obtain ⟨hjobs, hbeat⟩ := s.detected_jobs_beat core.toNat
    have hend : (s.detected core.toNat).canEnd j = true :=
      (State.canEnd_of_marked hbeat (.refl j)).trans (State.canEnd_of_jobRuns hruns)
    obtain ⟨st, record, hmarked⟩ := State.enterJobFault_ends (code := 0x0C) 4 0 0 ((congrArg _ hcodes).trans hfirst)
      (hcore'.trans hcore) (by decide) ((State.job_of_jobs hjobs h).trans hj) hend hnone
    refine ⟨_, (st, record, s.beat), (State.job_modJob ..).trans ((if_pos rfl).trans (congrArg _ hmarked)), ?_, rfl⟩
    rw [State.endsNow, hbeat, Option.map_some, if_pos rfl]

end Sys2Proof.Machine
end

section
/-! Contexts (R296, R299, R300, R380, R381): a save is held, suspends its job with the records of its cores, writes them and frees the
cores; a restore that passes its checks is held as a job that waits. -/

namespace Sys2Proof.Machine

/-! ## The save is held and suspends its job -/

/-- A save that passes its checks is held with its job. -/
theorem execCtxSave_held {mb : MailboxNum} {s : State} {x : TakenCmd} {j : Job} (hheld : holds s mb 0x05 x)
    (hj : s.job x.jobHandle = some j) (hdest : x.arg64 1 % 2 ^ 44 % 4096 = 0) (hstride : x.arg 3 % 4096 = 0)
    (hspan : recordBytes ≤ x.arg 3)
    (hrange : s.rangeIn j.parts (x.arg64 1 % 2 ^ 44) (recordsSpan j.image.e (x.arg 3)) = true) (hocc : s.occupied mb.toNat = false)
    (hsave : j.save = none) (hst : j.st = .running) (hbeat : s.beat ≤ j.compBeat) (hnone : j.pendingEnd = none) :
    execCtxSave mb s = .next ((s.accept mb.toNat x).modJob x.jobHandle fun j =>
      { j with save := some ⟨mb.toNat, s.beat, (x.arg 0).testBit 16, x.arg64 1 % 2 ^ 44, x.arg 3, false, 0, []⟩ }) := by
  unfold execCtxSave
  dsimp only
  rw [State.onTaken_of_holds hheld, hj]
  dsimp only
  rw [if_neg (by rw [hdest, hrange]; simp [hstride, hspan]), if_neg (by simp [hocc, hsave]), if_neg (by simp [hst, hnone, hbeat])]

theorem State.accept_jobs (s : State) (m : Nat) (x : TakenCmd) : (s.accept m x).jobs = s.jobs := rfl

/-- The state in which the increments that are due have come into force on every core of the job. -/
def State.settled (s : State) (j : Job) : State := j.engines.foldl (fun t x => t.applyIncs x.2) s

/-- A job that is suspended in this beat under the native save `r`. -/
def State.suspend (s : State) (j : Job) (r : SaveReq) : Job :=
  { j with
    st := .suspended, endBeat := s.beat, pendingEnd := none
    save := some { r with
      suspended := true, k0 := s.jobBeat j
      records := j.engines.map fun x => (x.1, cellsOf 0 ((s.settled j).contextRecord x.2 x.1 j r.portable (s.jobBeat j))) } }

theorem execCtxSuspend_native {handle : Handle} {s : State} {j : Job} {r : SaveReq} (hj : s.job handle = some j)
    (hsave : j.save = some r) (hst : j.st = .running) (hfresh : r.suspended = false) (hnative : r.portable = false)
    (hsince : r.since < s.beat) (hcycle : s.cycle = 0) (hdue : s.endDue j = false) (hrun : s.halted = false)
    (hbeat : s.beat ≤ j.compBeat) :
    execCtxSuspend handle s = .next ((((s.settled j).setJob handle (s.suspend j r)).dieEvent (65 + j.mailbox)).traceJob handle
      (s.suspend j r) s.beat) := by
  unfold execCtxSuspend
  rw [hj]
  dsimp only
  rw [hsave]
  dsimp only
  rw [if_neg (by simp [hst, hfresh, hsince, hcycle, hdue, hrun]), if_neg (Nat.not_lt.2 hbeat), if_neg (by simp [hnative]),
    if_neg (by simp [hnative])]
  rfl

/-! ## The records are written -/

/-- The records of a save as they lie in memory. -/
def State.putRecords (s : State) (r : SaveReq) (rs : List (Nat × Bytes)) : State :=
  rs.foldl (fun t x => t.putBytes (r.dest + x.1 * r.stride) (bytesRead x.2 0 recordBytes)) s

theorem State.putRecords_cons (s : State) (r : SaveReq) (x : Nat × Bytes) (rs : List (Nat × Bytes)) :
    s.putRecords r (x :: rs) = (s.putBytes (r.dest + x.1 * r.stride) (bytesRead x.2 0 recordBytes)).putRecords r rs := rfl

/-- Only memory and its codes change. -/
theorem State.putRecords_eq (s : State) (r : SaveReq) (rs : List (Nat × Bytes)) :
    s.putRecords r rs = { s with mem := (s.putRecords r rs).mem, badWords := (s.putRecords r rs).badWords } := by
  induction rs generalizing s with
  | nil => rfl
  | cons x rs ih =>
    rw [State.putRecords_cons]
    exact ih _

/-- Records of different engines do not overlap. -/
theorem records_disjoint {e e' dest stride i : Nat} (hstride : recordBytes ≤ stride) (hi : i < recordBytes) (hne : e ≠ e') :
    ¬ (dest + e' * stride ≤ dest + e * stride + i ∧ dest + e * stride + i < dest + e' * stride + recordBytes) := by
  rcases Nat.lt_or_gt_of_ne hne with h | h
  · have := Nat.mul_le_mul_right stride h
    rw [Nat.succ_mul] at this
    omega
  · have := Nat.mul_le_mul_right stride h
    rw [Nat.succ_mul] at this
    omega

theorem bytesRead_congr {m m' : Bytes} {a a' n : Nat} (h : ∀ i < n, byteAt m (a + i) = byteAt m' (a' + i)) :
    bytesRead m a n = bytesRead m' a' n := List.map_congr_left fun i hi => h i (List.mem_range.1 hi)

/-- Where no record of engine `e` is written, its place stands. -/
theorem State.putRecords_absent (s : State) {r : SaveReq} {rs : List (Nat × Bytes)} {e : Nat} (hstride : recordBytes ≤ r.stride)
    (he : e ∉ rs.map (·.1)) :
    bytesRead (s.putRecords r rs).mem (r.dest + e * r.stride) recordBytes = bytesRead s.mem (r.dest + e * r.stride) recordBytes := by
  induction rs generalizing s with
  | nil => rfl
  | cons x rs ih =>
    obtain ⟨hne, habsent⟩ := not_or.1 (List.mem_cons.not.1 he)
    rw [State.putRecords_cons, ih _ habsent]
    refine bytesRead_congr fun i hi => ?_
    rw [State.putBytes, byteAt_bytesWrite, length_bytesRead, if_neg (records_disjoint hstride hi hne)]

/-- Every record lies at its place. -/
theorem State.putRecords_present (s : State) {r : SaveReq} {rs : List (Nat × Bytes)} (hstride : recordBytes ≤ r.stride)
    (hnodup : (rs.map (·.1)).Nodup) {x : Nat × Bytes} (hx : x ∈ rs) :
    bytesRead (s.putRecords r rs).mem (r.dest + x.1 * r.stride) recordBytes = bytesRead x.2 0 recordBytes := by
  induction rs generalizing s with
  | nil => cases hx
  | cons y rs ih =>
    obtain ⟨hy, hnodup'⟩ := List.nodup_cons.1 hnodup
    rw [State.putRecords_cons]
    rcases List.mem_cons.1 hx with rfl | hx
    · rw [State.putRecords_absent _ hstride hy, State.putBytes]
      have hself := bytesRead_bytesWrite_self s.mem (r.dest + x.1 * r.stride) (bytesRead x.2 0 recordBytes)
      rwa [length_bytesRead] at hself
    · exact ih _ hnodup' hx

/-! ## The cores leave the job -/

theorem State.declareFor_job (s : State) (h : Handle) (c x : Nat) : ((s.declareFor h c).core x).job = (s.core x).job := by
  unfold State.declareFor
  split
  · rfl
  · split
    · rw [State.core_modCore]
      split
      · next hx => rw [CoreState.declare_job, hx]
      · rfl
    · rfl

/-- The core that leaves has no job; the others keep theirs. -/
theorem State.leaveCore_job (s : State) (c x : Nat) : ((s.leaveCore c).core x).job = if x = c then none else (s.core x).job := by
  have hended : ((s.modCore c CoreState.endJob).core x).job = if x = c then none else (s.core x).job := by
    rw [State.core_modCore]
    split
    · rfl
    · rfl
  unfold State.leaveCore
  dsimp only
  split
  · rw [State.declareFor_job, hended]
  · exact hended

/-- No core of the job's engines belongs to it any more. -/
theorem State.leaveCores_job_ne (s : State) (h : Handle) (j : Job) :
    ∀ x ∈ j.engines, ((s.leaveCores h j).core x.2).job ≠ some h := by
  have hkeep (t : State) (x : Nat × Nat) (c : Nat) (hc : (t.core c).job ≠ some h) :
      ((if (t.core x.2).job = some h then t.leaveCore x.2 else t).core c).job ≠ some h := by
    split
    · rw [State.leaveCore_job]
      split
      · nofun
      · exact hc
    · exact hc
  have hleave (t : State) (x : Nat × Nat) :
      ((if (t.core x.2).job = some h then t.leaveCore x.2 else t).core x.2).job ≠ some h := by
    split
    · rw [State.leaveCore_job, if_pos rfl]
      nofun
    · next hc => exact hc
  have hstay (l : List (Nat × Nat)) (t : State) (c : Nat) (hc : (t.core c).job ≠ some h) :
      ((l.foldl (fun t x => if (t.core x.2).job = some h then t.leaveCore x.2 else t) t).core c).job ≠ some h :=
    List.foldlRecOn (motive := fun t : State => (t.core c).job ≠ some h) l _ hc fun t ht x _ => hkeep t x c ht
  unfold State.leaveCores
  induction j.engines generalizing s with
  | nil => nofun
  | cons a l ih =>
    intro x hx
    rw [List.foldl_cons]
    rcases List.mem_cons.1 hx with rfl | hx
    · exact hstay l _ _ (hleave s x)
    · exact ih _ x hx

/-! ## The save is answered -/

/-- A job whose save has been answered holds no save and no key of its links. -/
def Job.saveAnswered (j : Job) : Job := { j with save := none, linkKey := 0, keySlot := none }

/-- The state in which the records are written and the cores have left the job. -/
def State.savedState (s : State) (h : Handle) (j : Job) (r : SaveReq) : State :=
  ((s.putRecords r r.records).releaseKeySlot j.keySlot).leaveCores h j

theorem State.savedState_mbs_jobs (s : State) (h : Handle) (j : Job) (r : SaveReq) :
    (s.savedState h j r).mbs = s.mbs ∧ (s.savedState h j r).jobs = s.jobs := by
  have hleft := State.CoresOnly.leaveCores ((s.putRecords r r.records).releaseKeySlot j.keySlot) h j
  have hjobs : ((s.putRecords r r.records).releaseKeySlot j.keySlot).jobs = (s.putRecords r r.records).jobs := by
    cases j.keySlot <;> rfl
  have hmbs := hleft.mbs.trans (State.releaseKeySlot_mbs ..)
  exact ⟨hmbs.trans (by rw [s.putRecords_eq]), (hleft.jobs.trans hjobs).trans (by rw [s.putRecords_eq])⟩

theorem State.savedState_mem (s : State) (h : Handle) (j : Job) (r : SaveReq) :
    (s.savedState h j r).mem = (s.putRecords r r.records).mem := by
  rw [State.savedState, State.leaveCores_mem, State.releaseKeySlot_mem]

theorem execCtxSaveDone_eq {handle : Handle} {s : State} {j : Job} {r : SaveReq} (hj : s.job handle = some j)
    (hsave : j.save = some r) (hsuspended : r.suspended = true) :
    execCtxSaveDone handle s =
      .next (((s.savedState handle j r).modJob handle Job.saveAnswered).complete r.mb Status.ok (wordsOf r.k0) 0) := by
  unfold execCtxSaveDone
  rw [hj]
  dsimp only
  rw [hsave]
  exact if_pos hsuspended

/-! ## The restore is held -/

/-- A restore that passes every check is held. -/
theorem State.admitCmd_restore {s : State} {m : Nat} {x : TakenCmd} {im : Image} {r : RestoreReq} {j : Job}
    (him : readImage s.mem x.admitReq.image (s.dcbF Dcb.abiId 0 16) s.moduleId = some im)
    (hj : j = s.newJob m x x.admitReq im (some r)) (hargs : s.admitArgsBad m x x.admitReq = false)
    (himage : s.admitImageBad x.admitReq j = false) (hready : s.admitNotReady j = false) (hocc : s.occupied m = false)
    (href : s.admitRefused j = false) (hrestore : j.needsBase = false → s.restoreStatus j = none) :
    s.admitCmd m x (some r) = s.holdJob m x j := by
  have hpass : (if j.needsBase then none else s.restoreStatus j) = none := by
    split
    · rfl
    · next hbase => exact hrestore (Bool.eq_false_iff.2 hbase)
  subst hj
  unfold State.admitCmd
  dsimp only
  rw [him]
  simp only [hargs, himage, hready, hocc, href, hpass, Bool.false_eq_true, or_self, if_false]

/-- Settles O38: a save is held, suspends its job, and writes the records at places that do not overlap; a restore is held. -/
theorem contextsAreSavedAndRestored : Obligations.ContextsAreSavedAndRestored := by
  unfold Obligations.ContextsAreSavedAndRestored
  refine ⟨fun mb s x j hheld hj => ?_, fun handle s j r hj hsave hst hfresh hnative hsince hcycle hdue hrun hbeat => ?_,
    fun handle s j r w hj hsave hsuspended hwait => ?_, fun mb s x im hheld him => ?_⟩
  · intro dest hdest hstride hspan hrange hocc hsave hst hbeat hnone
    refine ⟨_, execCtxSave_held hheld hj hdest hstride hspan hrange hocc hsave hst hbeat hnone, ?_, ?_, ?_⟩
    · rw [State.mb_of_mbs (State.modJob_mbs ..), State.accept, State.mb_modMb_self]
    · rw [State.mb_of_mbs (State.modJob_mbs ..), State.accept, State.mb_modMb_self]
    · rw [State.job_modJob, if_pos rfl, State.job_of_jobs (s.accept_jobs ..), hj]
      rfl
  · refine ⟨_, s.suspend j r, execCtxSuspend_native hj hsave hst hfresh hnative hsince hcycle hdue hrun hbeat, ?_, rfl, rfl, ?_⟩
    · rw [State.job_of_jobs (State.traceJob_jobs ..), State.job_of_jobs (State.dieEvent_jobs ..)]
      exact State.job_setJob_self ..
    · rw [State.suspend, hnative]
      rfl
  · obtain ⟨hmbs, hjobs⟩ := s.savedState_mbs_jobs handle j r
    have hmb (m : Nat) : ((s.savedState handle j r).modJob handle Job.saveAnswered).mb m = s.mb m :=
      State.mb_of_mbs ((State.modJob_mbs ..).trans hmbs) m
    refine ⟨_, execCtxSaveDone_eq hj hsave hsuspended, ?_, ⟨j.saveAnswered, ?_, rfl, rfl⟩, fun x hx => ?_,
      fun hstride hnodup x hx => ?_⟩
    · exact completed_of_mb (congrArg Mailbox.ready (hmb _)) rfl
        (State.completed_complete _ _ _ ((congrArg Mailbox.waiting (hmb _)).trans hwait))
    · rw [State.job_of_jobs (State.complete_jobs ..), State.job_modJob, if_pos rfl, State.job_of_jobs hjobs, hj]
      rfl
    · rw [State.complete_eq]
      have hcore := State.core_of_coresUnits ((s.savedState handle j r).modJob_coresUnits handle Job.saveAnswered) x.2
      exact fun hjob => State.leaveCores_job_ne _ handle j x hx ((congrArg CoreState.job hcore).symm.trans hjob)
    · rw [State.complete_mem, State.modJob_mem, State.savedState_mem, s.putRecords_present hstride hnodup hx]
  · intro r u j hargs himage hready hocc href hrestore hhandle
    obtain ⟨hjob, hmb, -⟩ := u.holdJob_spec mb.toNat x j hhandle
    have hheldJob : execCtxRestore mb s = .next (u.holdJob mb.toNat x j) := by
      rw [execCtxRestore, State.onTaken_of_holds hheld]
      exact congrArg _ (State.admitCmd_restore him rfl hargs himage hready hocc href hrestore)
    refine ⟨_, hheldJob, hjob, rfl, ?_, ?_⟩
    all_goals rw [hmb]

end Sys2Proof.Machine
end

section
/-! The queue and memory under every command: the commands that move the clock leave the queue too, and the two of them that store
nothing leave memory. -/

namespace Sys2Proof.Machine

section Clock

variable (s : State)

/-- If the command answers a state, the same commands wait in it. -/
abbrev KeepsQueue (o : Host.Outcome State Fault Refusal) : Prop := Answers (fun t => t.pending = s.pending) o

theorem State.pmbus_pending {f : State → State} (h : ∀ t : State, (f t).pending = t.pending) : (s.pmbus f).pending = s.pending := by
  unfold State.pmbus
  split
  · exact h _
  · rfl

theorem execBeatBoundary_keepsQueue : KeepsQueue s (execBeatBoundary s) := by
  refine .ite (.next rfl) (.next ?_)
  rw [State.boundary_pending, State.cycleEnd_pending, (State.queueClock_eq (State.elapse_queueClock _ s)).1]

theorem execBeatLock_keepsQueue (align : BitVec 8) : KeepsQueue s (execBeatLock align s) := by
  refine .whenFormed ?_
  split
  · exact .next rfl
  · refine .ite (.next rfl) (.next ?_)
    split
    · simp
    · rw [State.takeLock_pending, State.setDcbF_pending]

theorem execCounterLoad_keepsQueue : KeepsQueue s (execCounterLoad s) := by
  unfold execCounterLoad
  split
  · exact .ite (.next rfl) (.next rfl)
  · exact .next rfl

theorem execWhistleStop_keepsQueue : KeepsQueue s (execWhistleStop s) := by
  refine .ite (.next ?_) (.next rfl)
  rw [State.pending_of_queueClock (State.haltNow_queueClock _), State.runToStop_pending]

theorem execColdResetAssert_keepsQueue (cause : BitVec 3) : KeepsQueue s (execColdResetAssert cause s) := by
  refine .whenFormed (.next ?_)
  split
  · rfl
  · split <;> rfl

theorem execMfrColdReset_keepsQueue (value : Byte) : KeepsQueue s (execMfrColdReset value s) := by
  refine .next (s.pmbus_pending fun t => ?_)
  split <;> rfl

theorem execShutdown_keepsQueue (index : Byte) : KeepsQueue s (execShutdown index s) := .next (s.shutDown_pending _)

theorem State.tryPowerOn_pending : s.tryPowerOn.pending = s.pending := State.pending_of_queueClock (by simp)

theorem execOperation_keepsQueue (value : Byte) : KeepsQueue s (execOperation value s) := by
  refine .next (s.pmbus_pending fun t => ?_)
  split
  · rw [State.tryPowerOn_pending]
    rfl
  · split
    · dsimp only
      split <;> rfl
    · rfl

/-- A reading that shuts the module down has stored, warned and tripped before. -/
theorem State.thermReading_pending (i : Nat) (temp : BitVec 12) : (s.thermReading i temp).pending = s.pending := by
  unfold State.thermReading
  extract_lets before s₁ s₂ s₃
  have hread : s₃.pending = s.pending := State.pending_of_queueClock (by simp [s₃, s₂, s₁])
  split
  · rw [State.shutDown_pending, hread]
  · exact hread

theorem execThermalThreshold_keepsQueue (sensor : Byte) (temp : BitVec 12) :
    KeepsQueue s (execThermalThreshold sensor temp s) := by
  refine .whenFormed (.next ?_)
  split
  · rw [State.tryPowerOn_pending]
    rfl
  · rw [State.thermReading_pending]
    rfl

/-- Every command leaves the commands that wait. -/
theorem exec_keepsQueue (c : Instr) : KeepsQueue s (exec c s) := by
  by_cases hclock : movesClock c = false
  · exact (exec_stores s hclock).mono fun _ h => State.pending_of_queueClock h.clock
  · unfold movesClock at hclock
    split at hclock
    exacts [execBeatBoundary_keepsQueue s, execBeatLock_keepsQueue s _, execCounterLoad_keepsQueue s, execWhistleStop_keepsQueue s,
      execColdResetAssert_keepsQueue s _, .next rfl, .next rfl, execShutdown_keepsQueue s _, execOperation_keepsQueue s _,
      execMfrColdReset_keepsQueue s _, execThermalThreshold_keepsQueue s _ _, absurd rfl hclock]

end Clock

/-! ## The beat lock and memory -/

section Memory

variable (s : State)

/-- If the command answers a state, memory stands in it. -/
abbrev KeepsMem (o : Host.Outcome State Fault Refusal) : Prop := Answers (fun t => t.mem = s.mem) o

theorem execBeatLock_keepsMem (align : BitVec 8) : KeepsMem s (execBeatLock align s) := by
  refine .whenFormed ?_
  split
  · exact .next rfl
  · refine .ite (.next rfl) (.next ?_)
    split
    · simp
    · rw [State.takeLock_mem, State.setDcbF_mem]

theorem execCounterLoad_keepsMem : KeepsMem s (execCounterLoad s) := by
  unfold execCounterLoad
  split
  · exact .ite (.next (State.takeLock_mem ..)) (.next rfl)
  · exact .next rfl

/-- Of the commands that store nothing, only the beat lock and the load of the counter move the clock. -/
theorem exec_keepsMem {c : Instr} (hmem : storesMemory c = false) : KeepsMem s (exec c s) := by
  by_cases hclock : movesClock c = false
  · exact (exec_quiet s hclock hmem).mono fun _ h => h.mem
  · unfold movesClock at hclock
    split at hclock
    case h_2 => exact execBeatLock_keepsMem s _
    case h_3 => exact execCounterLoad_keepsMem s
    case h_12 => exact absurd rfl hclock
    all_goals cases hmem

end Memory

end Sys2Proof.Machine
end

section

namespace Sys2Proof.Machine

/-- Settles O7: no command but those that store leaves another memory. -/
theorem otherCommandsLeaveEveryByteOfMemory : Obligations.OtherCommandsLeaveEveryByteOfMemory := by
  intro c s t hmem h a
  rw [exec_keepsMem s hmem t h]

/-- Settles O5: every command answers with the queue as it was. -/
theorem everyCommandLeavesTheQueue : Obligations.EveryCommandLeavesTheQueue := fun c s t h => exec_keepsQueue s c t h

/-- Settles O1: the step is defined by the queue's front. -/
theorem stepRunsTheFrontCommand : Obligations.StepRunsTheFrontCommand :=
  ⟨fun _ _ _ => rfl, fun s h => by rw [step, h]⟩

end Sys2Proof.Machine
end

section
/-! Every command answers a next state (R361, R362): an ill-formed one is refused, and of the others only an access of the device window
that the UCIe link does not carry faults. -/

namespace Sys2Proof.Machine

/-- The command answers a next state. -/
def Completes (o : Host.Outcome State Fault Refusal) : Prop := ∃ t, o = .next t

namespace Completes

variable {o o' : Host.Outcome State Fault Refusal} {s t : State}

theorem next : Completes (.next t) := ⟨t, rfl⟩

theorem ite {p : Prop} [Decidable p] (h : Completes o) (h' : Completes o') : Completes (if p then o else o') := by
  split
  · exact h
  · exact h'

/-- Two ways out. -/
theorem nexts {p : Prop} [Decidable p] {u : State} : Completes (if p then .next t else .next u) := ite next next

theorem whenFormed {c : Instr} (hwf : c.wf = true) (h : Completes o) : Completes (whenFormed c o) := by
  rwa [Machine.whenFormed, if_pos hwf]

end Completes

theorem whenFormed_of_not_wf {c : Instr} (hwf : c.wf = false) (o : Host.Outcome State Fault Refusal) :
    whenFormed c o = .refused .illFormed := if_neg (by simp [hwf])

section

variable (s : State)

/-- An access answers a next state outside the device window, and there if the UCIe link carries it (R362). -/
theorem State.access_completes (r : StewardReq)
    (h : s.power.coldReset = false → (deviceAddr r.addr).isSome = true → ucieOk r.size r.addr = true) : Completes (s.access r) := by
  unfold State.access
  split
  · exact .next
  case isFalse hcold =>
    split
    · exact .next
    case h_2 d hd =>
      rw [if_neg (by simp [h (Bool.eq_false_of_not_eq_true hcold) (by simp [hd])])]
      exact .nexts

/-- An access of the device window that the UCIe link does not carry faults. -/
theorem State.access_faults (r : StewardReq) (hcold : s.power.coldReset = false) (hdev : (deviceAddr r.addr).isSome = true)
    (hucie : ucieOk r.size r.addr = false) : s.access r = .fault .unsupportedAccess := by
  unfold State.access
  rw [if_neg (by simp [hcold])]
  obtain ⟨d, hd⟩ := Option.isSome_iff_exists.mp hdev
  simp [hd, hucie]

/-- An ill-formed command is refused. -/
theorem exec_of_not_wf {c : Instr} (hwf : c.wf = false) : exec c s = .refused .illFormed := by
  cases c
  case sliceWriteLand | readDataDeliver | hbmAccess | stewardAccess | registerWrite | linkFrameRx | linkUp | beatLock | dieEventSend
      | stewardEdge | levelSourceChange | whistleSound | coldResetAssert | logicFault | railPowerGood | powerWindow
      | powerReadingWindow | thermalThreshold | flashOpDone => exact whenFormed_of_not_wf hwf _
  all_goals cases hwf

/-- A well-formed command answers a next state, unless it is an access that faults. -/
theorem exec_completes {c : Instr} (hwf : c.wf = true) (hbad : badAccess c s = false) : Completes (exec c s) := by
  cases c
  case stewardAccess =>
    refine .whenFormed hwf (s.access_completes _ fun hcold hdev => ?_)
    simpa [badAccess, hwf, hcold, hdev] using hbad
  case registerWrite =>
    refine .whenFormed hwf (s.access_completes _ fun hcold hdev => ?_)
    simpa [badAccess, hwf, hcold, hdev] using hbad
  -- A command that acts on what one condition allows.
  case beatBoundary | nodeAdd | privateWireRequest | linkFrameTx | fabricClockStop | fabricClockRestart | ucieLinkDown | bootGo
      | whistleStop | scrubStart | scrubDone | coldResetRelease | sidelineTrainDone | sidelineFrame | bootReady | hangSnapshot =>
    exact .nexts
  case linkUp | dieEventSend => exact .whenFormed hwf .nexts
  case stewardEdge | levelSourceChange | whistleSound | coldResetAssert | powerWindow | powerReadingWindow | thermalThreshold
      | logicFault => exact .whenFormed hwf .next
  case startupTestEnd => exact .ite .nexts .next
  case fwVerifyDone => exact .ite .next .nexts
  case railPowerGood => exact .whenFormed hwf (.ite .nexts .nexts)
  case linkFrameRx => exact .whenFormed hwf (.ite .next .nexts)
  -- A command that acts on what it finds: the engine's command, the job, the thread's instruction.
  case sig | scoreboardIncrement | rwait | rotStore | feltQscan | feltQconv | feltBetaSet | feMma | feOut | feBern | napFill | catDraw
      | accStore | accLoad | accRed | lsMove =>
    dsimp only [exec, execSig, execScoreboardIncrement, execRwait, execRotStore, execFeltQscan, execFeltQconv, execFeltBetaSet,
      execFeMma, execFeOut, execFeBern, execNapFill, execCatDraw, execAccStore, execAccLoad, execAccRed, execLsMove]
    split <;> exact .next
  case deadlockDetect | wait | waitRelease | arrive | rwaitRelease | rally | mark | rotLoad | exchangeBeat | launchDeadlineWithdraw
      | goSend | goTimeoutWithdraw | dieInterruptMessage | secExportDone | feltRun | baseSend =>
    dsimp only [exec, execDeadlockDetect, execWait, execWaitRelease, execArrive, execRwaitRelease, execRally, execMark, execRotLoad,
      execExchangeBeat, execLaunchDeadlineWithdraw, execGoSend, execGoTimeoutWithdraw, execDieInterruptMessage, execSecExportDone,
      execFeltRun, execBaseSend]
    split
    · exact .next
    · exact .nexts
  case fatalEnd | fenceApply | clusterFence | overlayApply | counterLoad =>
    dsimp only [exec, execFatalEnd, execFenceApply, execClusterFence, execOverlayApply, execCounterLoad]
    split
    · exact .nexts
    · exact .next
  case flashOpDone =>
    dsimp only [exec, execFlashOpDone]
    refine .whenFormed hwf ?_
    split <;> exact .next
  case beatLock =>
    dsimp only [exec, execBeatLock]
    refine .whenFormed hwf ?_
    split
    · exact .next
    · exact .nexts
  -- A transfer that is due, if the domain runs.
  case sliceWriteLand =>
    dsimp only [exec, execSliceWriteLand]
    refine .whenFormed hwf (.ite ?_ .next)
    split <;> exact .next
  case hbmAccess | readDataDeliver =>
    dsimp only [exec, execHbmAccess, execReadDataDeliver]
    refine .whenFormed hwf (.ite ?_ .next)
    split
    · exact .next
    · exact .nexts
  case issue =>
    dsimp only [exec, execIssue]
    split
    · exact .next
    · exact .ite (.ite .next .nexts) .next
  case stagingMove =>
    dsimp only [exec, execStagingMove]
    split
    · exact .next
    · exact .ite .next (.ite .nexts (.ite .nexts .next))
  case exchSend =>
    dsimp only [exec, execExchSend]
    split
    · exact .next
    · split
      · split
        · exact .next
        · exact .ite .next .nexts
      · exact .next
  case replicaExchangeDecide =>
    dsimp only [exec, execReplicaExchangeDecide]
    split
    · exact .next
    · split
      · exact .next
      · split
        · exact .next
        · exact .nexts
  -- Mailboxes and jobs.
  case mbCommandTake =>
    dsimp only [exec, execMbCommandTake]
    refine .ite .next ?_
    split <;> exact .next
  case mbResponseWrite =>
    dsimp only [exec, execMbResponseWrite]
    split <;> exact .next
  case jobContainedEnd =>
    dsimp only [exec, execJobContainedEnd]
    split
    · split
      · exact .nexts
      · exact .next
    · exact .next
  case ctxSaveDone =>
    dsimp only [exec, execCtxSaveDone]
    split
    · exact .next
    · split
      · exact .nexts
      · exact .next
  case ctxSuspend =>
    dsimp only [exec, execCtxSuspend]
    split
    · exact .next
    · split
      · exact .next
      · exact .ite .next (.ite .next (.ite .next .nexts))
  case admission =>
    dsimp only [exec, execAdmission]
    split
    · exact .next
    · refine .ite .next (.ite .next (.ite .next ?_))
      split
      · exact .next
      · exact .ite .nexts .next
  case jobStart =>
    dsimp only [exec, execJobStart]
    split
    · exact .next
    · refine .ite .next ?_
      split <;> exact .next
  case jobDone =>
    dsimp only [exec, execJobDone]
    split
    · exact .next
    · exact .nexts
  case secImportDone =>
    dsimp only [exec, execSecImportDone]
    split
    · exact .next
    · refine .ite .next ?_
      split <;> exact .next
  -- The entropy source and the links.
  case entReadComplete =>
    dsimp only [exec, execEntReadComplete]
    split
    · exact .next
    · refine .ite (.ite ?_ .next) .nexts
      split <;> exact .next
  case entSample => exact .nexts
  case drbgInstantiate =>
    dsimp only [exec, execDrbgInstantiate]
    refine .ite ?_ .next
    split <;> exact .next
  case privateWireServe =>
    dsimp only [exec, execPrivateWireServe]
    split
    · exact .ite .next .nexts
    · exact .next
  case lockstepCompare =>
    dsimp only [exec, execLockstepCompare]
    refine .ite .next ?_
    split
    · exact .next
    · exact .nexts
  all_goals exact .next

end

end Sys2Proof.Machine
end

section

namespace Sys2Proof.Machine

/-- Settles O8: by form, and for the steward's accesses by what the UCIe link carries. -/
theorem everyCommandCompletesOrStopsByName : Obligations.EveryCommandCompletesOrStopsByName := by
  refine fun c s => ⟨exec_of_not_wf s, exec_completes s, fun hwf hbad => ?_⟩
  unfold badAccess at hbad
  split at hbad
  case h_1 | h_2 =>
    simp only [Bool.and_eq_true, Bool.not_eq_true'] at hbad
    obtain ⟨⟨⟨-, hcold⟩, hdev⟩, hucie⟩ := hbad
    exact (if_pos hwf).trans (s.access_faults _ hcold hdev hucie)
  case h_3 => cases hbad

end Sys2Proof.Machine
end

section

namespace Sys2Proof.Machine

/-- Settles O18: a MARK that is not to be recorded leaves the records of the beat. -/
theorem markEmitsItsRecord : Obligations.MarkEmitsItsRecord := by
  intro core thread s h j w late hready
  dsimp only [exec, execMark]
  rw [hready]
  dsimp only
  by_cases hrec : s.dcbF Dcb.traceCtrl 5 1 = 1 ∧ s.jobConf j = false
  · rw [if_pos (by simpa using hrec), if_pos hrec]
    refine ⟨_, rfl, ?_, rfl⟩
    rw [show ∀ (t : State) k r, (t.addTrace k r).core core.toNat = t.core core.toNat from fun _ _ _ => rfl, State.core_setCore_self,
      CoreState.retire_readyAt]
  · rw [if_neg (by simpa using hrec), if_neg hrec, List.append_nil]
    exact ⟨_, rfl, by rw [State.core_setCore_self, CoreState.retire_readyAt], rfl⟩

end Sys2Proof.Machine
end

section
/-! The interrupt controller (R399 to R410): binding leaves everything of a source but its binding, and events, edges, levels, claims and
completions leave their source as the rules say. -/

namespace Sys2Proof.Machine

/-- A command that cold reset would hold is carried out. -/
theorem State.next_outOfReset {s : State} (hreset : s.power.coldReset = false) (f : State → State) :
    (.next (s.outOfReset f) : Host.Outcome State Fault Refusal) = .next (f s) := congrArg _ (State.outOfReset_eq hreset f)

/-! ## Sources and contexts -/

theorem State.icSrc_setIcSrc (s : State) (n x : Nat) (q : IcSource) : (s.setIcSrc n q).icSrc x = if x = n then q else s.icSrc x :=
  tabGet_tabSet ..

@[simp] theorem State.icSrc_setIcSrc_self (s : State) (n : Nat) (q : IcSource) : (s.setIcSrc n q).icSrc n = q := tabGet_tabSet_self ..

@[simp] theorem State.icCtx_setIcCtx_self (s : State) (x : Nat) (c : IcContext) : (s.setIcCtx x c).icCtx x = c := tabGet_tabSet_self ..

@[simp] theorem State.icSrc_setIcCtx (s : State) (x n : Nat) (c : IcContext) : (s.setIcCtx x c).icSrc n = s.icSrc n := rfl

@[simp] theorem State.icCtx_setIcSrc (s : State) (x n : Nat) (q : IcSource) : (s.setIcSrc n q).icCtx x = s.icCtx x := rfl

/-- A source that is not pending, or is in service, cannot be bound (R406). -/
def IcSource.idle (q : IcSource) : Bool := !q.pend || q.active

/-! ## Binding (R406, R407) -/

/-- From `s` to `t` sources are bound or unbound: nothing else of the controller changes, and a source that cannot be bound and is not
stays unbound. -/
structure State.Rebound (s t : State) : Prop where
  eq : t = { s with free := t.free, ic := { s.ic with sources := t.ic.sources, last := t.ic.last } }
  src : ∀ n, t.icSrc n = { s.icSrc n with bound := (t.icSrc n).bound, ctx := (t.icSrc n).ctx }
  unbound : ∀ n, (s.icSrc n).idle = true → (s.icSrc n).bound = false → (t.icSrc n).bound = false

namespace State.Rebound

variable {s t u : State}

theorem refl (s : State) : Rebound s s := ⟨rfl, fun _ => rfl, fun _ _ h => h⟩

theorem ic (h : Rebound s t) : t.ic = { s.ic with sources := t.ic.sources, last := t.ic.last } := congrArg State.ic h.eq

theorem pend (h : Rebound s t) (n : Nat) : (t.icSrc n).pend = (s.icSrc n).pend := by rw [h.src n]
theorem active (h : Rebound s t) (n : Nat) : (t.icSrc n).active = (s.icSrc n).active := by rw [h.src n]
theorem latch (h : Rebound s t) (n : Nat) : (t.icSrc n).latch = (s.icSrc n).latch := by rw [h.src n]
theorem events (h : Rebound s t) (n : Nat) : (t.icSrc n).events = (s.icSrc n).events := by rw [h.src n]
theorem asserted (h : Rebound s t) (n : Nat) : (t.icSrc n).asserted = (s.icSrc n).asserted := by rw [h.src n]

theorem icCtx (h : Rebound s t) (x : Nat) : t.icCtx x = s.icCtx x := by rw [State.icCtx, h.ic]; rfl

theorem trans (h : Rebound s t) (h' : Rebound t u) : Rebound s u where
  eq := by rw [h'.eq, h.eq]
  src n := by rw [h'.src n, h.src n]
  unbound n hidle hbound := by
    refine h'.unbound n ?_ (h.unbound n hidle hbound)
    rwa [IcSource.idle, h.pend, h.active]

theorem ite {p : Prop} [Decidable p] (h : Rebound s t) (h' : Rebound s u) : Rebound s (if p then t else u) := by
  split
  · exact h
  · exact h'

theorem foldl {α : Type} {f : State → α → State} (h : ∀ (t : State) (a : α), Rebound t (f t a)) (l : List α) (s : State) :
    Rebound s (l.foldl f s) :=
  List.foldlRecOn (motive := fun t : State => Rebound s t) l f (refl s) fun _ ht a _ => ht.trans (h _ a)

/-- The binding of one source is written. -/
theorem setIcSrc (s : State) {n : Nat} {q : IcSource} (hq : q = { s.icSrc n with bound := q.bound, ctx := q.ctx })
    (hbound : (s.icSrc n).idle = true → (s.icSrc n).bound = false → q.bound = false) : Rebound s (s.setIcSrc n q) where
  eq := rfl
  src x := by
    rw [State.icSrc_setIcSrc]
    split
    next h => rw [h, ← hq]
    next => rfl
  unbound x hidle hx := by
    rw [State.icSrc_setIcSrc]
    split
    next h => exact hbound (h ▸ hidle) (h ▸ hx)
    next => exact hx

theorem icUnbind (s : State) (n : Nat) : Rebound s (s.icUnbind n) := by
  have hset : Rebound s (s.setIcSrc n { s.icSrc n with bound := false, ctx := BitVec.ofNat 5 s.freeVal.toNat }) :=
    setIcSrc s rfl fun _ _ => rfl
  exact hset.trans ⟨rfl, fun _ => rfl, fun _ _ h => h⟩

theorem icBind (s : State) (n : Nat) : Rebound s (s.icBind n) := by
  unfold State.icBind
  extract_lets q
  split
  case isFalse => exact refl s
  case isTrue hq =>
    split
    · exact refl s
    · refine trans (setIcSrc s rfl fun hidle _ => ?_) ⟨rfl, fun _ => rfl, fun _ _ h => h⟩
      simp_all [q, IcSource.idle]

theorem icSettle (s : State) : Rebound s s.icSettle :=
  ite (trans (foldl (fun _ _ => ite (icUnbind ..) (refl _)) _ _) (foldl icBind _ _)) (refl s)

end State.Rebound

/-! ## Events (R399, R402) -/

/-- Events of a source set PEND and count. -/
theorem State.icEvents_spec (s : State) (n k : Nat) :
    ((s.icEvents n k).icSrc n).pend = true ∧ ((s.icEvents n k).icSrc n).events = (s.icSrc n).events + BitVec.ofNat 16 k := by
  have hset := State.Rebound.icSettle
    (s.setIcSrc n { s.icSrc n with pend := true, events := (s.icSrc n).events + BitVec.ofNat 16 k })
  exact ⟨(hset.pend n).trans (by simp), (hset.events n).trans (by simp)⟩

/-- Events change nothing of the controller but its sources and what binds them. -/
theorem State.icEvents_ic (s : State) (n k : Nat) :
    (s.icEvents n k).ic = { s.ic with sources := (s.icEvents n k).ic.sources, last := (s.icEvents n k).ic.last } :=
  (State.Rebound.icSettle (s.setIcSrc n _)).ic

/-- An edge is an event while the fabric clock runs, and a set latch while it is stopped. -/
theorem State.icEdge_spec (s : State) (n : Nat) :
    (s.ic.clock = true → ((s.icEdge n).icSrc n).pend = true ∧ ((s.icEdge n).icSrc n).events = (s.icSrc n).events + 1) ∧
    (s.ic.clock = false → ((s.icEdge n).icSrc n).latch = true ∧ ((s.icEdge n).icSrc n).events = (s.icSrc n).events) := by
  unfold State.icEdge
  refine ⟨fun hclock => ?_, fun hclock => ?_⟩
  · rw [if_pos hclock]
    exact s.icEvents_spec n 1
  · rw [if_neg (by simp [hclock])]
    simp

/-- An edge changes nothing beside the sources and what binds them. -/
theorem State.icEdge_eq (s : State) (n : Nat) :
    s.icEdge n = { s with
      free := (s.icEdge n).free
      ic := { s.ic with sources := (s.icEdge n).ic.sources, last := (s.icEdge n).ic.last } } := by
  unfold State.icEdge
  split
  · exact (State.Rebound.icSettle (s.setIcSrc n _)).eq
  · rfl

/-- A level source holds its level, and is pending exactly while it is asserted and not in service. -/
theorem State.icAssert_spec (s : State) (n : Nat) (a : Bool) :
    ((s.icAssert n a).icSrc n).asserted = a ∧ ((s.icAssert n a).icSrc n).pend = (a && !(s.icSrc n).active) := by
  have hset := State.Rebound.icSettle (s.setIcSrc n { s.icSrc n with asserted := a, pend := a && !(s.icSrc n).active })
  exact ⟨(hset.asserted n).trans (by simp), (hset.pend n).trans (by simp)⟩

/-- Settles O49: an edge on a software source, or the flag. -/
theorem softwareSourcesAreEdges : Obligations.SoftwareSourcesAreEdges := by
  intro source s hreset
  have heq : exec (.icSwset source) s = .next (s.icSwsetWrite source.toNat) := State.next_outOfReset hreset _
  have hlt := source.isLt
  obtain ⟨hrun, hstop⟩ := s.icEdge_spec source.toNat
  refine ⟨fun hsoft hclock => ⟨_, heq, ?_⟩, fun hsoft hclock => ⟨_, heq, ?_⟩, fun hother => ⟨_, heq, ?_⟩⟩
  · rw [State.icSwsetWrite, if_pos (by omega)]
    exact hrun hclock
  · rw [State.icSwsetWrite, if_pos (by omega)]
    exact hstop hclock
  · rw [State.icSwsetWrite, if_neg (by omega)]
    exact ⟨rfl, rfl⟩

/-! ## Claim and completion (R408, R409) -/

/-- A claim without a bound source changes no source. -/
theorem State.icClaimRead_none {s : State} {x : Nat} (h : s.icTop x = 0) :
    s.icClaimRead x = { s with ic := { s.ic with claimed := 0 } } := by
  simp [State.icClaimRead, h]

/-- The state in which the source that a claim returns is in service, before sources are bound again. -/
def State.inService (s : State) (x n : Nat) : State :=
  (State.setIcSrc { s with ic := { s.ic with claimed := BitVec.ofNat 32 n } } n
    { s.icSrc n with bound := false, pend := false, active := true, ctx := BitVec.ofNat 5 x }).setIcCtx x
    { s.icCtx x with claimed := (s.icCtx x).claimed ++ [n] }

theorem State.icClaimRead_some {s : State} {x : Nat} (h : s.icTop x ≠ 0) :
    s.icClaimRead x = (s.inService x (s.icTop x)).icSettle := by
  rw [State.icClaimRead]
  exact if_neg h

theorem State.icClaimRead_spec (s : State) (x : Nat) :
    (s.icClaimRead x).ic.claimed = BitVec.ofNat 32 (s.icTop x) ∧
      (s.icTop x = 0 → (s.icClaimRead x).ic.sources = s.ic.sources) ∧
      (s.icTop x ≠ 0 → ((s.icClaimRead x).icSrc (s.icTop x)).active = true ∧
        ((s.icClaimRead x).icSrc (s.icTop x)).pend = false ∧ ((s.icClaimRead x).icSrc (s.icTop x)).bound = false ∧
        ((s.icClaimRead x).icCtx x).claimed = (s.icCtx x).claimed ++ [s.icTop x]) := by
  by_cases htop : s.icTop x = 0
  · rw [State.icClaimRead_none htop]
    exact ⟨by simp [htop], fun _ => rfl, fun h => absurd htop h⟩
  · rw [State.icClaimRead_some htop]
    have hset := State.Rebound.icSettle (s.inService x (s.icTop x))
    refine ⟨by rw [hset.ic]; rfl, fun h => absurd h htop, fun _ => ⟨?_, ?_, ?_, ?_⟩⟩
    · rw [hset.active]
      simp [State.inService]
    · rw [hset.pend]
      simp [State.inService]
    · exact hset.unbound _ (by simp [State.inService, IcSource.idle]) (by simp [State.inService])
    · rw [hset.icCtx]
      simp [State.inService]

theorem State.icCompleteWrite_spec {s : State} {x n : Nat}
    (h : (s.icSrc n).active = true ∧ (s.icCtx x).claimed.contains n = true) :
    ((s.icCompleteWrite x n).icSrc n).active = false ∧
      ((s.icCompleteWrite x n).icCtx x).claimed = (s.icCtx x).claimed.erase n ∧
      ((s.icCompleteWrite x n).icSrc n).pend = ((s.icSrc n).pend || (icLevel n && (s.icSrc n).asserted)) := by
  unfold State.icCompleteWrite
  rw [if_pos h]
  extract_lets q c t u
  have hset : u.Rebound (u.icUnbind n).icSettle := (State.Rebound.icUnbind u n).trans (.icSettle _)
  refine ⟨?_, ?_, ?_⟩
  · rw [hset.active]
    simp [u]
  · rw [hset.icCtx]
    simp [u, t, c]
  · rw [hset.pend]
    simp [u, q]

theorem State.icSrcSet_spec (s : State) (n v : Nat) :
    ((s.icSrcSet n v).icSrc n).prio = (if icReserved n then 0 else BitVec.ofNat 4 v) ∧
      ((s.icSrcSet n v).icSrc n).mode = v.testBit 4 ∧ ((s.icSrcSet n v).icSrc n).elig = BitVec.ofNat 16 (v / 2 ^ 16) := by
  unfold State.icSrcSet
  rw [(State.Rebound.icSettle _).src n]
  simp

/-- Settles O50: each access of the controller by what it writes before sources are bound again. -/
theorem claimsAndCompletions : Obligations.ClaimsAndCompletions := by
  intro s hreset
  have hnext := State.next_outOfReset hreset
  refine ⟨fun ctx => ⟨_, hnext _, s.icClaimRead_spec _⟩, fun ctx source => ⟨fun hgood => ?_, fun hbad => ?_⟩,
    fun source hlo hhi => ?_, fun source a hlo hhi => ?_, fun source v => ⟨_, hnext _, s.icSrcSet_spec _ _⟩,
    fun ctx v => ⟨_, hnext _, ?_⟩⟩
  · exact ⟨_, hnext _, State.icCompleteWrite_spec hgood⟩
  · exact (hnext _).trans (congrArg _ (if_neg hbad))
  · have hwf : (Instr.stewardEdge source).wf = true := decide_eq_true ⟨hlo, hhi⟩
    obtain ⟨hrun, hstop⟩ := s.icEdge_spec source.toNat
    exact ⟨_, (if_pos hwf).trans (hnext _), hrun, fun hclock => (hstop hclock).1⟩
  · have hwf : (Instr.levelSourceChange source a).wf = true := decide_eq_true ⟨hlo, hhi⟩
    exact ⟨_, (if_pos hwf).trans (hnext _), s.icAssert_spec _ _⟩
  · unfold State.icThreshSet
    rw [(State.Rebound.icSettle _).icCtx]
    simp

/-! ## Messages and latches (R400 to R403) -/

theorem State.markEnd_ic (s : State) (h : Handle) (st : JobSt) (record : Word) : (s.markEnd h st record).ic = s.ic := by
  rw [State.markEnd_eq]
  unfold State.modJob
  split <;> rfl

theorem State.soundWhistle_ic (s : State) (src : Nat) : (s.soundWhistle src).ic = s.ic := by
  unfold State.soundWhistle
  split
  · rfl
  · split
    · split
      · exact State.setDcbF_ic ..
      · rfl
    · rw [State.setDcb_ic, State.setDcbF_ic, State.setDcbF_ic, State.setDcbF_ic]

/-- The controller with other latches of the die. -/
def Ic.withLatches (x : Ic) (l : Tab Nat) : Ic := { x with latches := l }

/-- An error that is entered changes the latches of the controller alone. -/
theorem State.enterError_ic (s : State) (unit code : Nat) (i : ErrInfo) :
    ∃ l, (s.enterError unit code i).ic = s.ic.withLatches l := by
  unfold State.enterError
  extract_lets r u pushed u' s₁ s₂ e s₃
  obtain ⟨l, h₁⟩ : ∃ l, s₁.ic = s.ic.withLatches l := ⟨_, rfl⟩
  have h₂ : s₂.ic = s₁.ic := State.markEnd_ic ..
  have h₃ : s₃.ic = s₂.ic := rfl
  refine ⟨l, ?_⟩
  rw [← h₁]
  clear_value s₁ s₂ s₃
  split
  · rfl
  · split
    · exact State.markEnd_ic ..
    · split
      · rw [State.soundWhistle_ic, h₃, h₂]
      · rw [h₃, h₂]

/-- A message that is good is events of its source. -/
theorem State.icMessage_good (s : State) (w : Word) (hn : 1 ≤ w.toNat % 512 ∧ w.toNat % 512 < 176)
    (hk : w.toNat / 65536 % 256 ≠ 0) : s.icMessage w = s.icEvents (w.toNat % 512) (w.toNat / 65536 % 256) := by
  have hn' : bitsOf w.toNat 0 9 = w.toNat % 512 := bitsOf_zero ..
  have hk' : bitsOf w.toNat 16 8 = w.toNat / 65536 % 256 := by
    rw [bitsOf, Nat.shiftRight_eq_div_pow]
    rfl
  unfold State.icMessage
  rw [hn', hk']
  refine if_neg ?_
  simp only [icReserved, Bool.or_eq_true, Bool.and_eq_true, beq_iff_eq, decide_eq_true_eq]
  omega

/-- A bad message is counted and flagged. -/
theorem State.icMessage_bad (s : State) (w : Word)
    (h : w.toNat % 512 = 0 ∨ 176 ≤ w.toNat % 512 ∨ w.toNat / 65536 % 256 = 0) :
    s.icMessage w = { s with ic := { s.ic with
      badmsg := BitVec.ofNat 32 (satAdd 32 s.ic.badmsg.toNat 1), flags := s.ic.flags ||| 1 } } := by
  have hn' : bitsOf w.toNat 0 9 = w.toNat % 512 := bitsOf_zero ..
  have hk' : bitsOf w.toNat 16 8 = w.toNat / 65536 % 256 := by
    rw [bitsOf, Nat.shiftRight_eq_div_pow]
    rfl
  unfold State.icMessage
  rw [hn', hk']
  refine if_pos ?_
  simp only [icReserved, Bool.or_eq_true, Bool.and_eq_true, beq_iff_eq, decide_eq_true_eq]
  omega

/-- A count of 32 bits, saturated. -/
theorem toNat_satAdd_one (x : Word) : (BitVec.ofNat 32 (satAdd 32 x.toNat 1)).toNat = min (x.toNat + 1) (2 ^ 32 - 1) := by
  rw [BitVec.toNat_ofNat, satAdd]
  exact Nat.mod_eq_of_lt (by omega)

theorem or_one_mod_two (x : BitVec 3) : (x ||| 1).toNat % 2 = 1 := by
  revert x
  decide

/-- An event of a source whose latch is taken. -/
def IcSource.taken (q : IcSource) : IcSource := { q with latch := false, pend := true, events := q.events + 1 }

/-- What each taken latch leaves stands while further latches are taken. -/
theorem State.foldl_taken {n : Nat} (l : Tab IcSource) {s : State}
    (h : (∃ e ∈ l, e.1 = n) ∨ (s.icSrc n).latch = false ∧ (s.icSrc n).pend = true) :
    ((l.foldl (fun s e => s.setIcSrc e.1 (s.icSrc e.1).taken) s).icSrc n).latch = false ∧
      ((l.foldl (fun s e => s.setIcSrc e.1 (s.icSrc e.1).taken) s).icSrc n).pend = true := by
  induction l generalizing s with
  | nil => simpa using h
  | cons e l ih =>
    refine ih ?_
    by_cases he : n = e.1
    · exact .inr (by simp [he, IcSource.taken])
    · rw [State.icSrc_setIcSrc, if_neg he]
      refine h.imp_left fun ⟨x, hx, hxn⟩ => ⟨x, (List.mem_cons.1 hx).resolve_left fun hxe => he ?_, hxn⟩
      rw [← hxn, hxe]

/-- A source whose latch is set is one of the table's. -/
theorem State.mem_latched {s : State} {n : Nat} (h : (s.icSrc n).latch = true) :
    ∃ e ∈ s.ic.sources.filter (fun e => e.2.latch), e.1 = n := by
  cases hfind : tabFind s.ic.sources n with
  | none => simp [State.icSrc, tabGet, hfind, IcSource.reset] at h
  | some q =>
    have hlatch : q.latch = true := by simpa [State.icSrc, tabGet, hfind] using h
    exact ⟨(n, q), List.mem_filter.2 ⟨mem_of_tabFind hfind, hlatch⟩, rfl⟩

theorem State.icTakeLatches_spec {s : State} {n : Nat} (h : (s.icSrc n).latch = true) :
    (s.icTakeLatches.icSrc n).latch = false ∧ (s.icTakeLatches.icSrc n).pend = true :=
  State.foldl_taken _ (.inl (State.mem_latched h))

theorem State.icTakeLatches_clock (s : State) : s.icTakeLatches.ic.clock = s.ic.clock :=
  List.foldlRecOn (motive := fun t : State => t.ic.clock = s.ic.clock) _ _ rfl fun _ ht _ _ => ht

/-- Settles O48: latches, messages, the fabric clock and the link. -/
theorem dieEventsTravelAsMessages : Obligations.DieEventsTravelAsMessages := by
  refine ⟨fun source s hlo hhi hreset => ?_, fun s w rest hmsg hclock => ?_,
    fun s hreset => ⟨fun hstopen hclock hmsg hflash hq hsrc => ?_, fun hclock => ?_, fun hup => ?_, ⟨_, rfl, rfl, rfl⟩⟩⟩
  · have hwf : (Instr.dieEventSend source).wf = true := decide_eq_true ⟨hlo, hhi⟩
    refine ⟨fun hup hlatch => ?_, fun hup => ?_⟩
    · refine ⟨_, (if_pos hwf).trans (if_pos ⟨hup, hlatch, by simp [hreset]⟩), ?_, ?_⟩
      · simp
      · rw [Nat.mul_comm 65536]
        rfl
    · exact (if_pos hwf).trans (if_neg (by simp [hup]))
  · have heq : exec .dieInterruptMessage s = .next (State.icMessage { s with ic := { s.ic with messages := rest } } w) := by
      dsimp only [exec, execDieInterruptMessage]
      rw [hmsg]
      exact if_pos hclock
    refine ⟨fun ⟨hn1, hn2, hk⟩ => ⟨_, heq, ?_⟩, fun hbad => ⟨_, heq, ?_⟩⟩
    · rw [State.icMessage_good _ _ ⟨hn1, hn2⟩ hk]
      exact ⟨by rw [State.icEvents_ic], State.icEvents_spec ..⟩
    · rw [State.icMessage_bad _ _ hbad]
      exact ⟨rfl, rfl, toNat_satAdd_one _, or_one_mod_two _⟩
  · have hquiet : (s.ic.sources.all fun e => !(e.2.pend && e.2.prio != 0) && !e.2.bound) = true := by
      refine List.all_eq_true.2 fun e he => ?_
      obtain ⟨hbound, hpend⟩ := hsrc e he
      rcases hpend with hpend | hprio
      · simp [hbound, hpend]
      · simp [hbound, hprio]
    exact ⟨_, if_pos ⟨hstopen, hclock, by simp [hreset], hquiet, by simp [hmsg], by simp [hflash], hq⟩, rfl, rfl⟩
  · have hset := State.Rebound.icSettle (State.icTakeLatches { s with ic := { s.ic with clock := true } })
    refine ⟨_, if_neg (by simp [hclock]), ?_, fun n hn => ?_⟩
    · rw [hset.ic]
      exact State.icTakeLatches_clock _
    · rw [hset.latch, hset.pend]
      exact State.icTakeLatches_spec hn
  · obtain ⟨l, hic⟩ := State.enterError_ic { s with ic := { s.ic with ucieUp := false } } UnitNo.ucie 0x19 { detail := 2 }
    refine ⟨_, if_pos ⟨hup, by simp [hreset]⟩, ?_, ?_⟩
    · rw [State.icEdge_eq, hic]
      rfl
    · obtain ⟨hrun, hstop⟩ := State.icEdge_spec
        (State.enterError { s with ic := { s.ic with ucieUp := false } } UnitNo.ucie 0x19 { detail := 2 }) 266
      rw [hic] at hrun hstop
      exact ⟨fun hclock => (hrun hclock).1, fun hclock => (hstop hclock).1⟩

end Sys2Proof.Machine
end

section
/-! The Whistle (R457 to R461): what a sounding records, that nothing which the stop makes of the commands in the engines changes the
sounding that is recorded, and the release. -/

namespace Sys2Proof.Machine

/-! ## A sounding (R457) -/

/-- The state before WHISTLE_BEAT is written: the sounding is noted, and WHISTLE_STAT names its source and cycle. -/
def State.sounding (s : State) (src : Nat) : State :=
  ((State.setDcbF { s with whistle := { s.whistle with pending := true, beat := s.beat, cycle := s.cycle } } Dcb.whistleStat 1 3
    src).setDcbF Dcb.whistleStat 4 10 s.cycle).setDcbF Dcb.whistleStat 14 2 0

theorem State.soundWhistle_eq {s : State} (src : Nat) (hrun : s.halted = false) (hfirst : s.whistle.pending = false) :
    s.soundWhistle src = (s.sounding src).setDcb Dcb.whistleBeat s.beatCtr := by
  unfold State.soundWhistle
  rw [if_neg (by simp [hrun]), if_neg (by simp [hfirst])]
  rfl

/-- A field of WHISTLE_STAT does not change when WHISTLE_BEAT is written. -/
theorem State.whistleStat_of_soundWhistle {s : State} (src : Nat) (hrun : s.halted = false) (hfirst : s.whistle.pending = false)
    (lo n : Nat) : (s.soundWhistle src).dcbF Dcb.whistleStat lo n = (s.sounding src).dcbF Dcb.whistleStat lo n := by
  rw [State.soundWhistle_eq src hrun hfirst, State.dcbF, State.dcbReg_setDcb, if_neg (by decide), State.dcbF]

/-- The first sounding is recorded with its source, beat and cycle. -/
theorem State.soundWhistle_spec {s : State} {src : Nat} (hsrc : src < 8) (hrun : s.halted = false)
    (hfirst : s.whistle.pending = false) :
    (s.soundWhistle src).whistle = { s.whistle with pending := true, beat := s.beat, cycle := s.cycle } ∧
      (s.soundWhistle src).dcbF Dcb.whistleStat 1 3 = src ∧ (s.soundWhistle src).dcbReg Dcb.whistleBeat = s.beatCtr ∧
      (s.soundWhistle src).dcbF Dcb.whistleStat 4 10 = s.cycle % 1024 := by
  have hstat := State.whistleStat_of_soundWhistle src hrun hfirst
  refine ⟨?_, ?_, ?_, ?_⟩
  · rw [State.soundWhistle_eq src hrun hfirst]
    simp [State.sounding]
  · rw [hstat, State.sounding, State.dcbF_setDcbF_beside _ _ _ (by decide) (by decide),
      State.dcbF_setDcbF_beside _ _ _ (by decide) (by decide), State.dcbF_setDcbF_self _ _ _ (by decide)]
    exact Nat.mod_eq_of_lt hsrc
  · rw [State.soundWhistle_eq src hrun hfirst, State.dcbReg_setDcb_self]
  · rw [hstat, State.sounding, State.dcbF_setDcbF_beside _ _ _ (by decide) (by decide),
      State.dcbF_setDcbF_self _ _ _ (by decide)]
    rfl

/-- While the die is halted no sounding has an effect. -/
theorem State.soundWhistle_halted {s : State} (src : Nat) (h : s.halted = true) : s.soundWhistle src = s := if_pos h

/-! ## What keeps a recorded sounding -/

/-- From `s` to `t` a sounding that is recorded stands. -/
structure State.KeepsWhistle (s t : State) : Prop where
  stands : s.whistle.pending = true → t.whistle = s.whistle

namespace State.KeepsWhistle

variable {s t u : State}

theorem of_eq (h : t.whistle = s.whistle) : KeepsWhistle s t := ⟨fun _ => h⟩

theorem refl (s : State) : KeepsWhistle s s := of_eq rfl

theorem trans (h : KeepsWhistle s t) (h' : KeepsWhistle t u) : KeepsWhistle s u := ⟨fun hp =>
  (h'.stands (by rwa [h.stands hp])).trans (h.stands hp)⟩

/-- What stands from `t` on stands from `s` on, where the two have the same sounding. -/
theorem after (h : KeepsWhistle t u) (heq : t.whistle = s.whistle) : KeepsWhistle s u := trans (of_eq heq) h

theorem ite {p : Prop} [Decidable p] (h : KeepsWhistle s t) (h' : KeepsWhistle s u) : KeepsWhistle s (if p then t else u) := by
  split
  · exact h
  · exact h'

theorem foldl {α : Type} {f : State → α → State} (h : ∀ (t : State) (a : α), KeepsWhistle t (f t a)) (l : List α) (s : State) :
    KeepsWhistle s (l.foldl f s) :=
  List.foldlRecOn (motive := fun t : State => KeepsWhistle s t) l f (refl s) fun _ ht a _ => ht.trans (h _ a)

theorem modCore (s : State) (c : Nat) (f : CoreState → CoreState) : KeepsWhistle s (s.modCore c f) := of_eq rfl

theorem modJob (s : State) (h : Handle) (f : Job → Job) : KeepsWhistle s (s.modJob h f) := by
  unfold State.modJob
  split <;> exact of_eq rfl

/-- A sounding before the stop of an earlier one changes no more than its source. -/
theorem soundWhistle (s : State) (src : Nat) : KeepsWhistle s (s.soundWhistle src) := by
  refine ⟨fun hp => ?_⟩
  unfold State.soundWhistle
  rw [if_pos hp]
  split
  · rfl
  · split
    · exact State.setDcbF_whistle ..
    · rfl

theorem enterError (s : State) (unit code : Nat) (i : ErrInfo) : KeepsWhistle s (s.enterError unit code i) := by
  unfold State.enterError
  extract_lets r u pushed u' s₁ s₂ e s₃
  have h₁ : KeepsWhistle s s₁ := of_eq rfl
  have h₂ : KeepsWhistle s₁ s₂ := trans (of_eq (State.setDcbF_whistle ..)) (modJob ..)
  have h₃ : KeepsWhistle s s₃ := (h₁.trans h₂).trans (of_eq rfl)
  exact ite h₁ (ite (h₁.trans (modJob ..)) (ite (h₃.trans (soundWhistle ..)) h₃))

theorem enterJobFault (s : State) (c code detail addr engine : Nat) : KeepsWhistle s (s.enterJobFault c code detail addr engine) :=
  ite (refl s) ((enterError ..).trans (modCore ..))

theorem feltWrite (s : State) (c : Nat) (ws : List FeltWrite) : KeepsWhistle s (s.feltWrite c ws) :=
  ite (((modCore s c _).trans (modCore ..)).trans (enterJobFault ..)) (modCore ..)

/-! ## The engines' work -/

theorem watchCmd (s : State) (c : Nat) (h : Handle) (acc : Option Nat) (i : Issued) (vs : List Watched) :
    KeepsWhistle s (s.watchCmd c h acc i vs) :=
  foldl (fun t _ => by
    dsimp only
    exact ite (ite (of_eq rfl) (of_eq rfl)) (refl t)) _ _

theorem feltCycle (s : State) (runs : List (Nat × Issued)) (cyc : Nat) : KeepsWhistle s (s.feltCycle runs cyc) := by
  have hstage (t : State) (as : List FeltAct) (n : Nat) : KeepsWhistle t (t.stageAll as n) := foldl (fun _ _ => modCore ..) _ _
  unfold State.feltCycle
  extract_lets now s' acts s1 s2 s3
  have hpos : KeepsWhistle s s' := foldl (fun _ _ => modCore ..) _ _
  have hstages : KeepsWhistle s' s2 := (hstage s' acts 0).trans (hstage s1 acts 1)
  have hcounts : KeepsWhistle s2 s3 := foldl (f := fun t a => t.stepCounts s' s1 a) (fun _ _ => of_eq rfl) _ _
  exact ((hpos.trans hstages).trans hcounts).trans (foldl (fun _ _ => modCore ..) _ _)

theorem feltUpTo (s : State) (j : Job) (beat stop : Nat) : KeepsWhistle s (s.feltUpTo j beat stop) :=
  (foldl (fun t _ => ite (refl t) (feltCycle ..)) _ _).trans (foldl (fun _ _ => modCore ..) _ _)

theorem feMma (s : State) (c : Nat) (h : Handle) (j : Job) (i : Issued) : KeepsWhistle s (s.feMma c h j i) :=
  ite (watchCmd ..) ((modCore ..).trans (watchCmd ..))

theorem feOut (s : State) (c : Nat) (h : Handle) (i : Issued) : KeepsWhistle s (s.feOut c h i) :=
  ((modCore s c _).trans (ite (feltWrite ..) (refl _))).trans (watchCmd ..)

theorem feBern (s : State) (c : Nat) (h : Handle) (i : Issued) : KeepsWhistle s (s.feBern c h i) :=
  ((modCore s c _).trans (ite (feltWrite ..) (refl _))).trans (watchCmd ..)

theorem catDraw (s : State) (c : Nat) (i : Issued) : KeepsWhistle s (s.catDraw c i) := by
  have hlong (x : Cat) : KeepsWhistle s (s.catLong c x) := by
    have hopen : KeepsWhistle s (s.openRow c) := of_eq rfl
    unfold State.catLong
    exact trans (ite hopen (refl s)) (modCore ..)
  exact ite (ite (hlong _) (refl s)) (modCore ..)

/-! ## The stop (R458) -/

theorem cutCmd (s : State) (c : Nat) (h : Handle) (j : Job) (i : Issued) (last : Nat) : KeepsWhistle s (s.cutCmd c h j i last) :=
  ite (feltUpTo ..) (ite (feMma ..) (ite (feOut ..) (ite (feBern ..) (ite (of_eq rfl) (ite (catDraw ..) (refl s))))))

theorem traceCmd (s : State) (c engine : Nat) (i : Issued) (endCycle : Nat) (cut : Bool) :
    KeepsWhistle s (s.traceCmd c engine i endCycle cut) := by
  unfold State.traceCmd
  extract_lets
  exact ite (of_eq rfl) (refl s)

theorem cutCore (s : State) (c last : Nat) : KeepsWhistle s (s.cutCore c last) := by
  unfold State.cutCore
  split
  · exact refl s
  · refine foldl (fun t n => ?_) _ _
    split
    · exact (cutCmd ..).trans (traceCmd ..)
    · exact refl t

end State.KeepsWhistle

/-- A snapshot changes its core alone. -/
theorem State.CoresOnly.takeSnapshot (s : State) (c cause : Nat) : CoresOnly s (s.takeSnapshot c cause) := by
  unfold State.takeSnapshot State.putSnapshot
  exact modCore ..

/-- The stop leaves the die halted, and records the last cycle, 23 after the sounding. -/
theorem State.haltNow_spec (s : State) : s.haltNow.halted = true ∧
    (s.whistle.pending = true → s.haltNow.whistle.stopBeat = (s.whistle.beat * beatCycles + s.whistle.cycle + 23) / beatCycles ∧
      s.haltNow.whistle.stopCycle = (s.whistle.beat * beatCycles + s.whistle.cycle + 23) % beatCycles) := by
  unfold State.haltNow
  extract_lets last sb sc w tr noted cut traced stop
  have hcut : noted.KeepsWhistle cut := by
    refine .foldl (fun t c => ?_) _ _
    exact .trans (.after (.cutCore { t with beat := sb, cycle := sc } c last) rfl) (.of_eq rfl)
  have hstop : stop.halted = true := by
    rw [State.halted, State.dcbF_setDcbF_self _ _ _ (by decide)]
    rfl
  have hwhistle : stop.whistle = cut.whistle := State.setDcbF_whistle ..
  generalize (List.range 1024).filter stop.usable = cs
  rw [(State.CoresOnly.foldl (fun t c => .takeSnapshot t c 3) cs stop).eq]
  refine ⟨hstop, fun hp => ?_⟩
  rw [hwhistle, hcut.stands hp]
  exact ⟨rfl, rfl⟩

/-! ## The commands -/

section

variable {mb : MailboxNum} {s : State} {x : TakenCmd}

theorem execDbgWhistle_free (hheld : holds s mb 0x70 x) (hocc : s.occupied mb.toNat = false) :
    execDbgWhistle mb s = .next ((s.soundWhistle 2).answer mb.toNat x Status.ok []) := by
  unfold execDbgWhistle
  dsimp only
  rw [State.onTaken_of_holds hheld, if_neg (by simp [hocc])]

theorem execDbgRelease_halted (hheld : holds s mb 0x72 x) (hocc : s.occupied mb.toNat = false) (hscan : s.scanning = false)
    (hhalt : s.halted = true) (hnone : s.cp.release = none) :
    execDbgRelease mb s = .next (State.answer { s with cp := { s.cp with release := some (s.beat + 1) } } mb.toNat x Status.ok
      (wordsOf (s.beat + 1))) := by
  unfold execDbgRelease
  dsimp only
  rw [State.onTaken_of_holds hheld, if_neg (by simp [hocc, hscan]), if_neg (by simp [hhalt]), hnone, Option.getD_none]

theorem execDbgRelease_running (hheld : holds s mb 0x72 x) (hocc : s.occupied mb.toNat = false) (hscan : s.scanning = false)
    (hrun : s.halted = false) : execDbgRelease mb s = .next (s.answer mb.toNat x Status.refused []) := by
  unfold execDbgRelease
  dsimp only
  rw [State.onTaken_of_holds hheld, if_neg (by simp [hocc, hscan]), if_pos (by simp [hrun])]

end

/-- A sounding by source 4 takes the TAP out of its reset state first. -/
def State.tapOut (s : State) (source : BitVec 3) : State :=
  if source = 4 then { s with power := { s.power with tapReset := false } } else s

theorem State.tapOut_eq (s : State) (source : BitVec 3) : s.tapOut source = { s with power := (s.tapOut source).power } := by
  unfold State.tapOut
  split <;> rfl

theorem execWhistleSound_eq {source : BitVec 3} {s : State} (hlo : 1 ≤ source.toNat) (hhi : source.toNat ≤ 5)
    (hreset : s.power.coldReset = false) :
    execWhistleSound source s = .next ((s.tapOut source).soundWhistle source.toNat) := by
  have hwf : (Instr.whistleSound source).wf = true := decide_eq_true ⟨hlo, hhi⟩
  exact (if_pos hwf).trans (State.next_outOfReset hreset _)

/-- Settles O51: soundings, the stop, and DBG_WHISTLE and DBG_RELEASE. -/
theorem theWhistleStopsAndReleases : Obligations.TheWhistleStopsAndReleases := by
  refine ⟨fun source s hlo hhi hreset => ⟨fun hrun hfirst => ?_, fun hhalt hother => ?_⟩, fun s hpend hrun hreset => ?_,
    fun mb s x hocc => ⟨fun hheld hrun hfirst => ?_, fun hheld hscan hhalt hnone => ?_, fun hheld hscan hrun => ?_⟩⟩
  · have hsound := execWhistleSound_eq hlo hhi hreset
    rw [State.tapOut_eq] at hsound
    obtain ⟨hwhistle, hsrc, hbeat, hcycle⟩ :=
      State.soundWhistle_spec (s := { s with power := (s.tapOut source).power }) source.isLt hrun hfirst
    refine ⟨_, hsound, ?_, ?_, ?_, hsrc, hbeat, hcycle⟩
    all_goals rw [hwhistle]
  · have hsound := execWhistleSound_eq hlo hhi hreset
    rw [State.tapOut, if_neg fun h => hother (by simp [h]), State.soundWhistle_halted _ hhalt] at hsound
    exact hsound
  · refine ⟨_, if_pos ⟨hpend, by simp [hrun], by simp [hreset]⟩, (State.haltNow_spec _).1, fun hpassed => ?_⟩
    have hstop : State.runToStop 24 s = s := if_pos hpassed
    obtain ⟨hbeat, hcycle⟩ := s.haltNow_spec.2 hpend
    rw [hstop, hbeat, hcycle, State.beat_of_queueClock s.haltNow_queueClock,
      State.cycle_of_queueClock s.haltNow_queueClock]
    exact ⟨rfl, rfl, rfl, rfl⟩
  · obtain ⟨hwhistle, hsrc, -, -⟩ := State.soundWhistle_spec (src := 2) (by decide) hrun hfirst
    refine ⟨_, execDbgWhistle_free hheld hocc, answered_answer _ _ _ ?_, ?_, hsrc⟩
    · exact State.mb_of_mbs (State.mbs_of_coresUnits (State.soundWhistle_coresUnits ..)) _
    · exact congrArg Whistle.pending hwhistle
  · exact ⟨_, execDbgRelease_halted hheld hocc hscan hhalt hnone, answered_answer _ _ _ rfl, rfl⟩
  · exact ⟨_, execDbgRelease_running hheld hocc hscan hrun, answered_answer _ _ _ rfl, rfl⟩

end Sys2Proof.Machine
end

section
/-! The debug commands (R454, R455, R460 to R465): scan-out, hang snapshots on request, and the watch units. -/

namespace Sys2Proof.Machine

section

variable {mb : MailboxNum} {s : State} {x : TakenCmd} {j : Job}

/-- An accepted command waits at its mailbox, which is occupied (R367). -/
theorem State.mb_accept_self (s : State) (m : Nat) (x : TakenCmd) : (s.accept m x).mb m =
    { s.mb m with taken := none, waiting := some x, active := true, tag := x.outerTag } := State.mb_modMb_self ..

/-! ## Scan-out (R460) -/

theorem State.scanning_answer (s : State) (m : Nat) (x : TakenCmd) (status : Nat) (words : List Word) :
    (s.answer m x status words).scanning = s.scanning := rfl

/-- The records of the cores from `first` on, each written at its place. -/
def State.scanned (s : State) (x : TakenCmd) : State :=
  (List.range (x.arg 4)).foldl (fun t i => t.putBytes (x.arg64 0 + i * x.arg 2) (s.scanRecord (x.arg 3 + i))) s

theorem State.scanned_mbs (s : State) (x : TakenCmd) : (s.scanned x).mbs = s.mbs :=
  List.foldlRecOn (motive := fun t : State => t.mbs = s.mbs) _ _ rfl fun _ ht _ _ => ht

theorem State.scanned_one (h : x.arg 4 = 1) :
    bytesRead (s.scanned x).mem (x.arg64 0) (s.scanRecord (x.arg 3)).length = s.scanRecord (x.arg 3) := by
  have hone : s.scanned x = s.putBytes (x.arg64 0 + 0 * x.arg 2) (s.scanRecord (x.arg 3 + 0)) := by
    rw [State.scanned, h]
    rfl
  rw [hone, Nat.zero_mul, Nat.add_zero, Nat.add_zero]
  exact bytesRead_bytesWrite_self ..

theorem execDbgScanout_good (hheld : holds s mb 0x71 x) (hocc : s.occupied mb.toNat = false) (hscan : s.scanning = false)
    (hhalt : s.halted = true) (hdest : x.arg64 0 % 4096 = 0) (hstride : x.arg 2 % 4096 = 0) (hlen : recordBytes ≤ x.arg 2)
    (hcount : 1 ≤ x.arg 4) (hcores : x.arg 3 + x.arg 4 ≤ 1024)
    (hrange : s.scanRangeOk (x.arg64 0) (recordsSpan (x.arg 4) (x.arg 2)) = true) :
    execDbgScanout mb s = .next (((s.scanned x).setDcbF Dcb.whistleStat 14 2 1).answer mb.toNat x Status.ok []) := by
  have hargs : ¬(x.arg64 0 % 4096 ≠ 0 ∨ x.arg 2 % 4096 ≠ 0 ∨ x.arg 2 < recordBytes ∨ 1024 ≤ x.arg 3 ∨ x.arg 4 = 0 ∨
      1024 < x.arg 3 + x.arg 4 ∨ (!s.scanRangeOk (x.arg64 0) (recordsSpan (x.arg 4) (x.arg 2))) = true) := by
    rw [hrange]
    simp only [Bool.not_true, Bool.false_eq_true, or_false]
    omega
  unfold execDbgScanout
  dsimp only
  rw [State.onTaken_of_holds hheld, if_neg hargs, if_neg (by simp [hocc, hscan]), if_neg (by simp [hhalt])]
  rfl

/-! ## Hang snapshots on request (R462, R463) -/

theorem execDbgSnapshot_waits (hheld : holds s mb 0x73 x) (hocc : s.occupied mb.toNat = false) (hj : s.job x.jobHandle = some j)
    (harg : x.arg 0 < 2 ^ 16) (hallowed : s.debugRefused j = false) (hengines : j.engines ≠ []) :
    execDbgSnapshot mb s = .next { s.accept mb.toNat x with
      cp := { s.cp with snapshots := s.cp.snapshots ++ [(mb.toNat, x.jobHandle, s.beat, j.engines.map (·.2))] } } := by
  unfold execDbgSnapshot
  dsimp only
  rw [State.onTaken_of_holds hheld, hj]
  dsimp only
  rw [if_neg (not_not.2 (Nat.div_eq_of_lt harg)), if_neg (by simp [hocc]), if_neg (by simp [hallowed]), if_neg hengines]
  rfl

/-- The snapshot that a boundary takes of a core for a request: the deadlock detector's stands. -/
def State.requestedSnapshot (s : State) (c : Nat) : State :=
  if s.deadlockSnapshot c then s
  else if (s.core c).hangHeld = [] then s.takeSnapshot c 2 else s.putSnapshot c 2 (s.core c).hangHeld

/-- The snapshot has been taken, and the core holds no body for a later one. -/
def State.snapshotDone (s : State) (c : Nat) : State := (s.requestedSnapshot c).modCore c fun k => { k with hangHeld := [] }

theorem State.putSnapshot_core (s : State) (c cause : Nat) (b : List Byte) :
    ((s.putSnapshot c cause b).core c).reg Reg.dbgSnapstat = BitVec.ofNat 64 (1 + 2 * cause) := by
  unfold State.putSnapshot
  rw [State.core_modCore_self, CoreState.reg_setReg_self]

theorem State.snapshotDone_coresOnly (s : State) (c : Nat) : s.CoresOnly (s.snapshotDone c) := by
  have hput (b : List Byte) : s.CoresOnly (s.putSnapshot c 2 b) := by
    unfold State.putSnapshot
    exact .modCore ..
  exact .trans (.ite (.refl s) (.ite (.takeSnapshot ..) (hput _))) (.modCore ..)

theorem State.snapshotDone_stat {c : Nat} (h : s.deadlockSnapshot c = false) :
    ((s.snapshotDone c).core c).reg Reg.dbgSnapstat = 5 := by
  have htaken : ((s.requestedSnapshot c).core c).reg Reg.dbgSnapstat = 5 := by
    unfold State.requestedSnapshot
    rw [if_neg (by simp [h])]
    split <;> exact State.putSnapshot_core ..
  unfold State.snapshotDone
  rw [State.core_modCore_self]
  exact htaken

theorem State.snapshotDone_stands {c : Nat} (h : s.deadlockSnapshot c = true) :
    (s.snapshotDone c).core c = { s.core c with hangHeld := [] } := by
  unfold State.snapshotDone
  rw [State.core_modCore_self, State.requestedSnapshot, if_pos h]

/-- No request waits for a core. -/
def State.noRequests (s : State) : State := { s with cp := { s.cp with snapshots := [] } }

/-- The last core that a request waits for completes it. -/
theorem execHangSnapshot_last {core : CoreNum} {m : Nat} {h : Handle} {b : Nat} (hcycle : s.cycle = 0)
    (hwaits : s.cp.snapshots = [(m, h, b, [core.toNat])]) (hb : b < s.beat) :
    execHangSnapshot core s = .next ((s.snapshotDone core.toNat).noRequests.complete m Status.ok (wordsOf s.beat) 0) := by
  have hcp : (s.snapshotDone core.toNat).cp = s.cp := by rw [(s.snapshotDone_coresOnly _).eq]
  have hwants : s.wantsSnapshot core.toNat (m, h, b, [core.toNat]) = true := by simp [State.wantsSnapshot, hb]
  unfold execHangSnapshot
  extract_lets c held t t' rest cp t''
  rw [if_neg (by simp [hcycle, hwaits, hwants, c])]
  have hdone : t' = s.snapshotDone c := rfl
  have hrest : rest = [(m, h, b, [])] := by simp [rest, hdone, c, hcp, hwaits, hwants]
  have hend : t'' = (s.snapshotDone c).noRequests := by
    simp only [t'', cp, hrest, hdone]
    rfl
  rw [hrest, hend]
  rfl

/-! ## Watch units (R454, R455) -/

/-- A watch unit of a core is written. -/
def State.putWatch (s : State) (c u : Nat) (w : Watch) : State :=
  s.modCore c fun k => { k with watches := tabSet Watch.reset k.watches u w }

theorem State.watch_putWatch (s : State) (c u : Nat) (w : Watch) : tabGet Watch.reset ((s.putWatch c u w).core c).watches u = w := by
  unfold State.putWatch
  rw [State.core_modCore_self, tabGet_tabSet_self]

/-- The unit as DBG_WATCH leaves it: stopped by SRC 2, else armed with the command's selection. -/
def State.watchSet (s : State) (x : TakenCmd) (c : Nat) : Watch :=
  if bitsOf (x.arg 0) 18 2 = 2 then { tabGet Watch.reset (s.core c).watches x.unit with armed := false }
  else { Watch.reset with
    armed := true, handle := x.jobHandle, srcAcc := bitsOf (x.arg 0) 18 2 == 1, tile := BitVec.ofNat 4 (x.arg 0 >>> 20)
    any := (x.arg 0).testBit 24, matchBeat := BitVec.ofNat 8 (x.arg 2)
    matchCycle := BitVec.ofNat 10 (x.arg 2 >>> 8), since := s.now }

/-- DBG_WATCH with good arguments, of a job that may be watched, answers OK; a unit on this module is set. -/
theorem execDbgWatch_good (hheld : holds s mb 0x74 x) (hocc : s.occupied mb.toNat = false) (hj : s.job x.jobHandle = some j)
    (hengine : x.watchEngine < j.image.e) (h0 : x.arg 0 < 2 ^ 25) (h1 : x.arg 1 < 2 ^ 17) (h2 : x.arg 2 < 2 ^ 18)
    (hsrc : bitsOf (x.arg 0) 18 2 ≠ 3) (hallowed : s.debugRefused j = false) (hconf : s.anyPartConf j.parts = false) :
    execDbgWatch mb s = .next (match j.coreOf x.watchEngine with
      | none => s.answer mb.toNat x Status.ok []
      | some c => (s.putWatch c x.unit (s.watchSet x c)).answer mb.toNat x Status.ok []) := by
  have hargs : ¬(bitsOf (x.arg 0) 18 2 = 3 ∨ x.arg 0 / 2 ^ 25 ≠ 0 ∨ x.arg 1 / 2 ^ 17 ≠ 0 ∨ x.arg 2 / 2 ^ 18 ≠ 0 ∨
      j.image.e ≤ x.watchEngine) := by
    rw [Nat.div_eq_of_lt h0, Nat.div_eq_of_lt h1, Nat.div_eq_of_lt h2]
    omega
  unfold execDbgWatch
  extract_lets m
  rw [State.onTaken_of_holds hheld, hj]
  extract_lets src
  simp only [m, src]
  rw [if_neg hargs, if_neg (by simp [hocc]), if_neg (by simp [hallowed, hconf])]
  rfl

/-- DBG_WATCHREAD of a unit that holds statistics of the job answers them, and clears them if it asks so. -/
theorem execDbgWatchread_held {c : Nat} (hheld : holds s mb 0x75 x) (hocc : s.occupied mb.toNat = false)
    (hj : s.job x.jobHandle = some j) (hcore : j.coreOf x.watchEngine = some c) (hengine : x.watchEngine < j.image.e)
    (h0 : x.arg 0 < 2 ^ 19) (h1 : x.arg 1 < 2 ^ 17)
    (hhandle : (tabGet Watch.reset (s.core c).watches x.unit).handle = x.jobHandle) :
    execDbgWatchread mb s = .next ((if (x.arg 0).testBit 18 then
      s.putWatch c x.unit (tabGet Watch.reset (s.core c).watches x.unit).cleared else s).answer mb.toNat x Status.ok
        (tabGet Watch.reset (s.core c).watches x.unit).words) := by
  have hargs : ¬(x.arg 0 / 2 ^ 19 ≠ 0 ∨ x.arg 1 / 2 ^ 17 ≠ 0 ∨ j.image.e ≤ x.watchEngine) := by
    rw [Nat.div_eq_of_lt h0, Nat.div_eq_of_lt h1]
    omega
  unfold execDbgWatchread
  extract_lets m
  rw [State.onTaken_of_holds hheld, hj]
  dsimp only
  rw [if_neg hargs, if_neg (by simp [hocc, m]), hcore]
  exact congrArg _ (if_neg (not_not.2 hhandle))

end

/-- Settles O52: scan-out, snapshots on request and the watch units, each by what its command does with good arguments. -/
theorem debugCommandsSaveAndWatch : Obligations.DebugCommandsSaveAndWatch := by
  refine ⟨fun mb s x hheld hocc hscan hhalt hdest hstride hlen hcount hcores hrange => ?_, fun s hscan => ?_,
    fun mb s x j hheld hj harg hocc hallowed hengines => ?_, fun core s m h b w hcycle hwaits hb hwait => ?_,
    fun mb s x j c hj hocc hcore hengine h1 => ⟨fun hheld h0 h2 hallowed hconf => ?_, fun hheld h0 hhandle => ?_⟩,
    fun mb s x j hheld hj hocc hcore hengine h0 hsrc h1 h2 hallowed hconf => ?_⟩
  · refine ⟨_, execDbgScanout_good hheld hocc hscan hhalt hdest hstride hlen hcount hcores hrange, answered_answer _ _ _ ?_, ?_,
      fun hone => ?_⟩
    · exact State.mb_of_mbs ((State.setDcbF_mbs ..).trans (s.scanned_mbs x)) _
    · rw [State.scanning_answer, State.scanning, State.dcbF_setDcbF_self _ _ _ (by decide)]
      rfl
    · rw [State.answer_mem, State.setDcbF_mem]
      exact State.scanned_one hone
  · have hdone : execScanoutDone s = .next (s.setDcbF Dcb.whistleStat 14 2 2) := by rw [execScanoutDone, if_pos hscan]
    exact ⟨_, hdone, State.dcbF_setDcbF_self _ _ _ (by decide)⟩
  · refine ⟨_, execDbgSnapshot_waits hheld hocc hj harg hallowed hengines, ?_, ?_, rfl⟩
    · exact congrArg Mailbox.waiting (s.mb_accept_self mb.toNat x)
    · exact congrArg Mailbox.active (s.mb_accept_self mb.toNat x)
  · have hmb : (s.snapshotDone core.toNat).noRequests.mb m = s.mb m :=
      State.mb_of_mbs (s.snapshotDone_coresOnly _).mbs m
    have hdone := State.completed_complete (s := (s.snapshotDone core.toNat).noRequests) Status.ok (wordsOf s.beat) 0
      ((congrArg Mailbox.waiting hmb).trans hwait)
    have hcore : ((s.snapshotDone core.toNat).noRequests.complete m Status.ok (wordsOf s.beat) 0).core core.toNat =
        (s.snapshotDone core.toNat).core core.toNat := by rw [State.complete_eq]; rfl
    refine ⟨_, execHangSnapshot_last hcycle hwaits hb, completed_of_mb (congrArg Mailbox.ready hmb) rfl hdone, ?_, ?_, ?_⟩
    · rw [State.complete_eq]
      rfl
    · rw [hcore]
      exact State.snapshotDone_stat
    · rw [hcore]
      exact State.snapshotDone_stands
  · intro src hsrc
    have hset := execDbgWatch_good hheld hocc hj hengine h0 h1 h2 hsrc hallowed hconf
    rw [hcore] at hset
    have hunit := State.watch_putWatch s c x.unit (s.watchSet x c)
    refine ⟨_, hset, answered_answer _ _ _ rfl, fun hsrc2 => hunit.trans ?_, fun hsrc2 => hunit.trans ?_⟩
    · rw [State.watchSet, if_neg hsrc2, Nat.shiftRight_eq_div_pow, Nat.shiftRight_eq_div_pow]
    · rw [State.watchSet, if_pos hsrc2]
  · refine ⟨_, execDbgWatchread_held hheld hocc hj hcore hengine h0 h1 hhandle, answered_answer _ _ _ ?_, ?_⟩
    · split <;> rfl
    · split
      · exact State.watch_putWatch ..
      · rfl
  · have hset := execDbgWatch_good hheld hocc hj hengine h0 h1 h2 hsrc hallowed hconf
    rw [hcore] at hset
    exact ⟨_, hset, answered_answer _ _ _ rfl, rfl⟩

end Sys2Proof.Machine
end

section
/-! The management bus (R488, Table 17-11): the read commands, O58. -/

namespace Sys2Proof.Machine

/-- The endpoint's commands run when the supply is there and its address is on the bus. -/
theorem State.pmbus_addressed {s : State} (f : State → State) (hsupply : s.power.vin48 = true)
    (haddr : s.power.busAddr = s.pmbusAddress) :
    s.pmbus f = f (s.setPower fun p => { p with invalid := false }) :=
  if_pos ⟨hsupply, haddr⟩

/-- Without the supply, or with another address on the bus, the endpoint does nothing. -/
theorem State.pmbus_elsewhere {s : State} (f : State → State)
    (h : s.power.vin48 = false ∨ s.power.busAddr ≠ s.pmbusAddress) : s.pmbus f = s :=
  if_neg fun ⟨hsupply, haddr⟩ => h.elim (fun hno => by simp [hno] at hsupply) (· haddr)

/-- A read command sets the reply and takes the fault of an invalid command back; the rest of the state is kept. -/
theorem State.reply_addressed {s : State} (bs : State → List Byte) (hsupply : s.power.vin48 = true)
    (haddr : s.power.busAddr = s.pmbusAddress) :
    ∃ t, Host.Outcome.next (s.reply bs) = (.next t : Host.Outcome State Fault Refusal) ∧
      t.power.reply = bs (s.setPower fun p => { p with invalid := false }) ∧ t.power.invalid = false ∧
      t = { s with power := t.power } :=
  ⟨_, congrArg _ (State.pmbus_addressed _ hsupply haddr), rfl, rfl, rfl⟩

/-- Settles O58: every read command is one reply of the endpoint. -/
theorem managementBusReads : Obligations.ManagementBusReads := by
  unfold Obligations.ManagementBusReads
  refine fun s => ⟨fun hsupply haddr => ?_, fun h c hc => ?_⟩
  · refine ⟨?_, ?_, ?_, ?_, ?_, ?_, ?_, ?_, ?_, ?_, ?_, ?_, ?_, ?_, ?_, ?_, ?_⟩ <;>
      exact State.reply_addressed _ hsupply haddr
  · have hsame : ∀ bs, Host.Outcome.next (s.reply bs) = (.next s : Host.Outcome State Fault Refusal) :=
      fun _ => congrArg _ (State.pmbus_elsewhere _ h)
    simp only [List.mem_cons, List.not_mem_nil, or_false] at hc
    rcases hc with rfl | rfl | rfl | rfl | rfl | rfl | rfl | rfl | rfl | rfl | rfl | rfl | rfl | rfl | rfl | rfl | rfl <;>
      exact hsame _

/-! ## The write commands, O59 -/

/-- OPERATION on starts the rails of a module that is off, with VSTBY good and no SHUTDOWN to outlast. -/
theorem State.tryPowerOn_starts {s : State} (hop : s.power.operation = 0x80) (hoff : s.power.on = false)
    (hsupply : s.power.vin48 = true) (hstandby : s.power.railGood.toNat.testBit 0 = true)
    (hup : s.power.shutdown = false) :
    s.tryPowerOn.power.on = true ∧ s.tryPowerOn.dcbReg Dcb.rstCause = 1 := by
  unfold State.tryPowerOn
  rw [if_pos ⟨hop, by simp [hoff], hsupply, hstandby, .inl (by simp [hup])⟩]
  refine ⟨rfl, ?_⟩
  refine (State.dcbReg_of_dcb (s := s.setDcb _ _) rfl _).trans ((State.dcbReg_setDcb_self ..).trans ?_)
  rw [hup]
  rfl

/-- RST_CAUSE after a cold reset names its source. -/
theorem State.coldReset_rstCause (s : State) (cause : Nat) (keep : Bool) :
    (s.coldReset cause keep).dcbReg Dcb.rstCause = BitVec.ofNat 64 (2 ^ cause) :=
  State.dcbReg_setDcb_self ..

@[simp] theorem State.coldReset_power (s : State) (cause : Nat) (keep : Bool) :
    (s.coldReset cause keep).power = s.power.held := State.setDcb_power ..

/-- Settles O59: each write command of the endpoint by its code. -/
theorem managementBusWrites : Obligations.ManagementBusWrites := by
  unfold Obligations.ManagementBusWrites
  intro s hsupply haddr
  have hrun (f : State → State) : (.next (s.pmbus f) : Host.Outcome State Fault Refusal) =
      .next (f (s.setPower fun p => { p with invalid := false })) :=
    congrArg _ (State.pmbus_addressed f hsupply haddr)
  have hout (hreset : s.power.coldReset = false) (f : State → State) :
      (s.setPower fun p => { p with invalid := false }).outOfReset f = f (s.setPower fun p => { p with invalid := false }) :=
    State.outOfReset_eq (s := s.setPower fun p => { p with invalid := false }) hreset f
  refine ⟨fun hoff hstandby hup => ?_, fun hon => ?_, ?_, fun hreset hhalt hfirst => ?_, fun hreset => ?_,
    fun v => ⟨fun hne hne' => ?_, fun hne => ?_, fun hne => ?_, fun hne => ?_⟩, ?_, fun code => ?_⟩
  · exact ⟨_, (hrun _).trans (congrArg _ (if_pos rfl)), State.tryPowerOn_starts rfl hoff hsupply hstandby hup⟩
  · exact ⟨_, (hrun _).trans (congrArg _ ((if_neg (by decide)).trans ((if_pos rfl).trans (if_pos hon)))), rfl, rfl, rfl, rfl⟩
  · refine ⟨_, (hrun _).trans (congrArg _ (if_pos rfl)), ?_, State.coldReset_rstCause ..⟩
    rw [State.coldReset_power]
    rfl
  · obtain ⟨hwhistle, hsource, -⟩ := State.soundWhistle_spec (s := s.setPower fun p => { p with invalid := false }) (src := 3)
      (by decide) hhalt hfirst
    refine ⟨_, (hrun _).trans (congrArg _ ((if_pos rfl).trans (hout hreset _))), ?_, hsource⟩
    rw [hwhistle]
  · exact ⟨_, (hrun _).trans (congrArg _ ((if_pos rfl).trans (hout hreset _))), rfl⟩
  · exact (hrun _).trans (congrArg _ ((if_neg hne).trans (if_neg hne')))
  · exact (hrun _).trans (congrArg _ (if_neg hne))
  · exact (hrun _).trans (congrArg _ (if_neg hne))
  · exact (hrun _).trans (congrArg _ (if_neg hne))
  · exact ⟨_, hrun _, rfl, rfl⟩
  · refine ⟨_, hrun _, rfl, rfl, ?_, rfl⟩
    show (s.power.statusBits ||| 0x2#16).toNat.testBit 1 = true
    rw [BitVec.toNat_or, Nat.testBit_or, show Nat.testBit (0x2#16).toNat 1 = true from rfl, Bool.or_true]

end Sys2Proof.Machine
end

section
/-! What the entry of an error record leaves of the registers, and what a fatal record sets (R469 to R475, R492). -/

namespace Sys2Proof.Machine

theorem State.soundWhistle_err (s : State) (src : Nat) : (s.soundWhistle src).err = s.err := by
  unfold State.soundWhistle
  split
  · rfl
  · split
    · split
      · exact State.setDcbF_err ..
      · rfl
    · rw [State.setDcb_err, State.setDcbF_err, State.setDcbF_err, State.setDcbF_err]

/-- A sounding writes WHISTLE_STAT and WHISTLE_BEAT alone. -/
theorem State.soundWhistle_dcbReg (s : State) (src : Nat) {o : Nat} (hstat : o ≠ Dcb.whistleStat) (hbeat : o ≠ Dcb.whistleBeat) :
    (s.soundWhistle src).dcbReg o = s.dcbReg o := by
  unfold State.soundWhistle
  split
  · rfl
  · split
    · split
      · rw [State.dcbReg_setDcbF, if_neg hstat]
      · rfl
    · simp only [State.dcbReg_setDcb, State.dcbReg_setDcbF, if_neg hstat, if_neg hbeat]
      rfl

theorem State.modJob_dcb (s : State) (h : Handle) (f : Job → Job) : (s.modJob h f).dcb = s.dcb := by
  unfold State.modJob
  split <;> rfl

theorem State.modJob_err (s : State) (h : Handle) (f : Job → Job) : (s.modJob h f).err = s.err := by
  unfold State.modJob
  split <;> rfl

theorem State.markEnd_dcbReg (s : State) (h : Handle) (st : JobSt) (record : Word) (o : Nat) :
    (s.markEnd h st record).dcbReg o = s.dcbReg o := State.dcbReg_of_dcb (State.modJob_dcb ..) o

theorem State.markEnd_err (s : State) (h : Handle) (st : JobSt) (record : Word) : (s.markEnd h st record).err = s.err :=
  State.modJob_err ..

/-- The queue of the unit that enters a record. -/
def State.pushed (s : State) (unit code : Nat) (i : ErrInfo) : ErrUnit :=
  let u := s.errUnit unit
  { u.push (s.makeRecord unit code i) with seq := nextSeq u.seq, entered := tabSet none u.entered code (some s.beat) }

/-- The state when the record has been entered, before its consequences: queue, counter and latch of its class. -/
def State.recorded (s : State) (unit code : Nat) (i : ErrInfo) : State :=
  ((s.setErrUnit unit (s.pushed unit code i)).countDcb (Dcb.errCnt (s.makeRecord unit code i).cls) 1).dieEvent
    (169 + (s.makeRecord unit code i).cls)

/-- The state when a fatal record has marked its job and its boundary. -/
def State.fatalMarked (s : State) (h : Handle) (r : ErrRec) : State :=
  let t := (s.setDcbF Dcb.errGlobal 0 1 1).markEnd h .ended r.id
  { t with err := { t.err with last := some r, fatalNext := t.err.fatalNext.orElse fun _ => some (r.id, t.beat + 1) } }

/-- What a record brings after its entry, by its class. -/
def State.withConsequence (s : State) (h : Handle) (r : ErrRec) : State :=
  if r.cls = 0 then s
  else if r.cls = 1 then s.markEnd h .contained r.id
  else if (s.fatalMarked h r).dcbF Dcb.whistleCtrl 0 1 = 1 then (s.fatalMarked h r).soundWhistle 5
  else s.fatalMarked h r

theorem State.enterError_eq (s : State) (unit code : Nat) (i : ErrInfo) :
    s.enterError unit code i = (s.recorded unit code i).withConsequence i.handle (s.makeRecord unit code i) := rfl

theorem State.makeRecord_cls_le (s : State) (unit code : Nat) (i : ErrInfo) : (s.makeRecord unit code i).cls ≤ 2 := by
  have hbase : errBase code ≤ 2 := by
    unfold errBase
    split_ifs <;> decide
  rw [State.makeRecord_cls]
  split <;> omega

/-- A fatal code makes a fatal record. -/
theorem State.makeRecord_cls_fatal (s : State) (unit : Nat) {code : Nat} (i : ErrInfo) (h : errBase code = 2) :
    (s.makeRecord unit code i).cls = 2 := by
  rw [State.makeRecord_cls, h]
  split <;> rfl

theorem State.recorded_dcbReg (s : State) (unit code : Nat) (i : ErrInfo) {o : Nat} (h : Dcb.errLastFatal ≤ o) :
    (s.recorded unit code i).dcbReg o = s.dcbReg o := by
  have hcls := s.makeRecord_cls_le unit code i
  have hne : o ≠ Dcb.errCnt (s.makeRecord unit code i).cls := by
    simp only [Dcb.errCnt, Dcb.errLastFatal] at h ⊢
    omega
  unfold State.recorded
  rw [State.dcbReg_of_dcb (State.dieEvent_dcb ..), State.dcbReg_countDcb, if_neg hne]
  rfl

theorem State.fatalMarked_dcbReg (s : State) (h : Handle) (r : ErrRec) {o : Nat} (ho : o ≠ Dcb.errGlobal) :
    (s.fatalMarked h r).dcbReg o = s.dcbReg o := by
  refine (State.dcbReg_of_dcb (s := (s.setDcbF Dcb.errGlobal 0 1 1).markEnd h .ended r.id) rfl o).trans ?_
  rw [State.markEnd_dcbReg, State.dcbReg_setDcbF, if_neg ho]

/-- A consequence writes ERR_GLOBAL and the Whistle's registers at most. -/
theorem State.withConsequence_dcbReg (s : State) (h : Handle) (r : ErrRec) {o : Nat} (ho : Dcb.errLastFatal ≤ o) :
    (s.withConsequence h r).dcbReg o = s.dcbReg o := by
  have hafter {x : Nat} (hx : x < Dcb.errLastFatal) : o ≠ x := by omega
  have hfatal := s.fatalMarked_dcbReg h r (hafter (x := Dcb.errGlobal) (by decide))
  unfold State.withConsequence
  split
  · rfl
  · split
    · exact State.markEnd_dcbReg ..
    · split
      · exact (State.soundWhistle_dcbReg _ _ (hafter (by decide)) (hafter (by decide))).trans hfatal
      · exact hfatal

/-- The entry of a record writes no register behind those of the errors: power, temperatures, security. -/
theorem State.enterError_dcbReg (s : State) (unit code : Nat) (i : ErrInfo) {o : Nat} (h : Dcb.errLastFatal ≤ o) :
    (s.enterError unit code i).dcbReg o = s.dcbReg o :=
  (State.withConsequence_dcbReg _ _ _ h).trans (s.recorded_dcbReg unit code i h)

theorem State.fatalMarked_errUnits (s : State) (h : Handle) (r : ErrRec) : (s.fatalMarked h r).err.units = s.err.units := by
  unfold State.fatalMarked
  dsimp only
  rw [State.markEnd_err, State.setDcbF_err]

theorem State.withConsequence_errUnits (s : State) (h : Handle) (r : ErrRec) : (s.withConsequence h r).err.units = s.err.units := by
  unfold State.withConsequence
  split
  · rfl
  · split
    · rw [State.markEnd_err]
    · split
      · rw [State.soundWhistle_err, State.fatalMarked_errUnits]
      · rw [State.fatalMarked_errUnits]

/-- The queue of a unit after an entry there. -/
theorem State.enterError_errUnit (s : State) (unit code : Nat) (i : ErrInfo) :
    (s.enterError unit code i).errUnit unit = s.pushed unit code i := by
  rw [State.enterError_eq, State.errUnit, State.withConsequence_errUnits]
  exact tabGet_tabSet_self ..

/-- The records of a unit whose queue is not full have the new one behind them. -/
theorem State.enterError_recs {s : State} {unit : Nat} (code : Nat) (i : ErrInfo) (h : (s.errUnit unit).recs.length < 8) :
    ((s.enterError unit code i).errUnit unit).recs = (s.errUnit unit).recs ++ [s.makeRecord unit code i] := by
  rw [State.enterError_errUnit, State.pushed]
  dsimp only
  rw [ErrUnit.push, if_pos h]

/-- The marks of a fatal record. -/
theorem State.fatalMarked_spec (s : State) (h : Handle) (r : ErrRec) :
    (s.fatalMarked h r).fatal = true ∧ (s.fatalMarked h r).err.last = some r ∧
      (s.fatalMarked h r).err.fatalNext.isSome = true ∧ (s.fatalMarked h r).ic = s.ic := by
  refine ⟨?_, rfl, ?_, State.markEnd_ic ..⟩
  · have hreg : (s.fatalMarked h r).dcbReg Dcb.errGlobal = (s.setDcbF Dcb.errGlobal 0 1 1).dcbReg Dcb.errGlobal :=
      State.markEnd_dcbReg ..
    rw [State.fatal, State.dcbF_of_dcbReg hreg, State.dcbF_setDcbF_self _ _ _ (by decide)]
    rfl
  · rw [State.fatalMarked]
    dsimp only
    cases Errors.fatalNext _ <;> rfl

/-- A fatal record is copied to ERR_LASTFATAL, sets FATAL, marks the fatal boundary and raises its source (R471, R492). -/
theorem State.enterError_fatal (s : State) (unit : Nat) {code : Nat} (i : ErrInfo) (hbase : errBase code = 2) :
    (s.enterError unit code i).fatal = true ∧ (s.enterError unit code i).err.last = some (s.makeRecord unit code i) ∧
      (s.enterError unit code i).err.fatalNext.isSome = true ∧
      (s.enterError unit code i).latchCount 171 = min (s.latchCount 171 + 1) 255 := by
  have hcls := s.makeRecord_cls_fatal unit i hbase
  have hlatch : (s.recorded unit code i).latchCount 171 = min (s.latchCount 171 + 1) 255 := by
    unfold State.recorded
    rw [hcls, State.latchCount_dieEvent_self]
    rfl
  obtain ⟨hfatal, hlast, hnext, hic⟩ := (s.recorded unit code i).fatalMarked_spec i.handle (s.makeRecord unit code i)
  rw [State.enterError_eq, State.withConsequence, hcls, if_neg (by decide), if_neg (by decide), ← hlatch]
  split
  · have hreg := State.soundWhistle_dcbReg ((s.recorded unit code i).fatalMarked i.handle (s.makeRecord unit code i)) 5
      (o := Dcb.errGlobal) (by decide) (by decide)
    refine ⟨?_, ?_, ?_, State.latchCount_of_ic ((State.soundWhistle_ic ..).trans hic) _⟩
    · rw [State.fatal, State.dcbF_of_dcbReg hreg]
      exact hfatal
    · rw [State.soundWhistle_err, hlast]
    · rw [State.soundWhistle_err, hnext]
  · exact ⟨hfatal, hlast, hnext, State.latchCount_of_ic hic _⟩

end Sys2Proof.Machine
end

section
/-! Resets and power (R479, R480, R483, R485 to R487): O56. -/

namespace Sys2Proof.Machine

/-- A byte at an address that a filter of the cells keeps is as before. -/
theorem byteAt_filter {m : Bytes} {p : Nat → Bool} {a : Nat} (h : p a = true) : byteAt (m.filter fun e => p e.1) a = byteAt m a := by
  rw [byteAt, tabGet, tabFind_filter, if_pos h, byteAt, tabGet]

/-- A byte at an address that a filter of the cells drops is zero. -/
theorem byteAt_filter_zero {m : Bytes} {p : Nat → Bool} {a : Nat} (h : p a = false) : byteAt (m.filter fun e => p e.1) a = 0 := by
  rw [byteAt, tabGet, tabFind_filter, h]
  rfl

/-- A rail that has reached power-good is added to those that have. -/
theorem testBit_railGood (x : BitVec 11) {i : Nat} (h : i ≤ 10) (j : Nat) :
    (x ||| BitVec.ofNat 11 (2 ^ i)).toNat.testBit j = (x.toNat.testBit j || decide (i = j)) := by
  have hlt : 2 ^ i < 2 ^ 11 := Nat.pow_lt_pow_right (by decide) (by omega)
  rw [BitVec.toNat_or, Nat.testBit_or, BitVec.toNat_ofNat, Nat.mod_eq_of_lt hlt, Nat.testBit_two_pow]

/-- Settles O56: each reset and each change of power by what it leaves. -/
theorem resetsAndPowerTakeTheirState : Obligations.ResetsAndPowerTakeTheirState := by
  unfold Obligations.ResetsAndPowerTakeTheirState
  refine ⟨fun mb s x hheld hocc => ?_, fun s hreset => ⟨fun hasked => ?_, fun hnot => ?_⟩,
    fun s => ⟨?_, rfl, fun index hon => ?_, ?_, fun rail hrail => ⟨fun hne hon hlower => ?_, fun hzero hdown => ?_⟩⟩⟩
  · have hexec : exec (.stwReset mb) s =
        .next (State.answer { s with cp := { s.cp with stwReset := true } } mb.toNat x Status.ok []) :=
      congrArg Host.Outcome.next ((State.onTaken_of_holds hheld _).trans (if_neg (by simp [hocc])))
    exact ⟨_, hexec, answered_answer _ _ _ rfl, rfl⟩
  · have hexec : exec .stewardReset s = .next
        ((State.resetSteward { s with cp := { s.cp with stwReset := false } }).enterError UnitNo.ucie 0x19 { detail := 2 }) :=
      (State.next_outOfReset hreset _).trans (congrArg _ (if_pos hasked))
    refine ⟨_, hexec, ?_⟩
    generalize hu : State.resetSteward { s with cp := { s.cp with stwReset := false } } = u
    obtain ⟨l, hic⟩ := u.enterError_ic UnitNo.ucie 0x19 { detail := 2 }
    have hunits := u.enterError_coresUnits UnitNo.ucie 0x19 { detail := 2 }
    have hcores : (u.enterError UnitNo.ucie 0x19 { detail := 2 }).cores = u.cores := congrArg (fun x => x.1) hunits
    have hmbs : (u.enterError UnitNo.ucie 0x19 { detail := 2 }).mbs = u.mbs := congrArg (fun x => x.2.1) hunits
    have hcp : (u.enterError UnitNo.ucie 0x19 { detail := 2 }).cp = u.cp := congrArg (fun x => x.2.2.2.2.1) hunits
    have hsram : (u.enterError UnitNo.ucie 0x19 { detail := 2 }).sram = u.sram :=
      congrArg (fun x => x.2.2.2.2.2.2.2.1) hunits
    rw [hcores, hmbs, hcp, hsram, hic, State.enterError_mem, ← hu]
    refine ⟨rfl, rfl, fun a ha => byteAt_filter_zero (p := fun x => decide (x < 0x10000)) ?_, rfl, rfl, rfl, rfl⟩
    exact decide_eq_false (by omega)
  · exact (State.next_outOfReset hreset _).trans (congrArg _ (if_neg (by simp [hnot])))
  · refine ⟨_, rfl, rfl, rfl, ?_, rfl, fun a ha => ?_⟩
    · exact (State.dcbReg_of_dcb (s := s.coldReset 2 true) rfl _).trans (State.coldReset_rstCause ..)
    · exact byteAt_filter (p := isPlain) ha
  · obtain ⟨-, hlast, -⟩ := s.enterError_fatal UnitNo.power (code := 0x1F) { detail := index.toNat } rfl
    exact ⟨_, congrArg Host.Outcome.next (if_pos hon), rfl, rfl, rfl, rfl, rfl, hlast⟩
  · refine ⟨_, rfl, rfl, rfl, ?_, rfl, rfl⟩
    exact (State.dcbReg_of_dcb (s := s.powerDown.setDcb Dcb.rstCause 0) rfl _).trans (State.dcbReg_setDcb_self ..)
  · have hwf : (Instr.railPowerGood rail).wf = true := decide_eq_true hrail
    have hpos : rail.toNat ≠ 0 := fun h => hne (BitVec.eq_of_toNat_eq h)
    have hall : s.power.on = true ∧ (List.range rail.toNat).all (fun j => s.power.railGood.toNat.testBit j) = true :=
      ⟨hon, List.all_eq_true.2 fun j hj => hlower j (List.mem_range.1 hj)⟩
    refine ⟨_, (if_pos hwf).trans ((if_neg hpos).trans (if_pos hall)), ?_, rfl, fun i hi => ?_⟩
    · exact (testBit_railGood _ hrail _).trans (by simp)
    · exact (testBit_railGood _ hrail _).trans (by simp [hi.symm])
  · subst hzero
    have hdown' : ¬s.power.railGood.toNat.testBit 0 = true := by simp [hdown]
    refine ⟨_, if_neg hdown', ?_, rfl, rfl, ?_⟩
    · exact (testBit_railGood _ (i := 0) (by decide) 0).trans (by simp)
    · exact (State.dcbReg_of_dcb (s := s.setDcb Dcb.rstCause 1) rfl _).trans (State.dcbReg_setDcb_self ..)

end Sys2Proof.Machine
end

section
/-! The supervision of power (R438, R475, R482): O57 fails. A trip ends the jobs whose CTX_SAVE runs in its own step, and the end of a
job raises source 65 + n of the number n that the job holds as its mailbox. The statement speaks of every state, also of one where
that number is none of the 64 mailboxes; with n = 108 the source is 173, the warning's own. -/

namespace Sys2Proof.Machine

/-- A job whose CTX_SAVE runs, of the mailbox number 108. -/
def savingJob : Job :=
  { idleJob with mailbox := 108, st := .suspended, save := some ⟨0, 0, false, 0, 0, true, 0, []⟩ }

/-- The state that refutes O57: after reset, with one such job. -/
def savingState : State := { State.reset with jobs := [(1, savingJob)] }

/-- The count in the latch of source 173 in the state that a step answers. -/
def warningsOf : Host.Outcome State Fault Refusal → Nat
  | .next t => t.latchCount 173
  | _ => 0

/-- A window of 3,045.01 W warns and trips. -/
theorem savingState_warns :
    savingState.power.warnArmed = true ∧ 100 * savingState.dcbF Dcb.pwrCtrl 0 12 < (304501#20).toNat := by
  decide

/-- In it source 173 is raised twice: by the warning and by the end of the job. -/
theorem warningsOf_savingState :
    warningsOf (exec (.powerWindow 304501 (List.replicate 11 0)) savingState) = 2 := by
  decide

/-- Refutes O57: in one power window the warning raises source 173 and the trip ends a saving job whose mailbox number is 108, which
raises source 65 + 108 = 173 again, where the statement has it raised once. -/
theorem not_supervisionWarnsTripsAndShutsDown : ¬ Obligations.SupervisionWarnsTripsAndShutsDown := by
  unfold Obligations.SupervisionWarnsTripsAndShutsDown
  intro h
  obtain ⟨hpower, -⟩ := h savingState rfl
  obtain ⟨t, hexec, -, hwarn, -⟩ := (hpower 304501 (List.replicate 11 0) rfl).1 rfl
  obtain ⟨harmed, habove⟩ := savingState_warns
  obtain ⟨-, -, hlatch⟩ := hwarn harmed habove
  have htwice : warningsOf (.next t) = 2 := hexec ▸ warningsOf_savingState
  exact absurd (htwice.symm.trans hlatch) (by decide)

end Sys2Proof.Machine
end

section
/-! Mailboxes (R365 to R372): doorbells, the taking of commands and the writing of responses, O34. -/

namespace Sys2Proof.Machine

/-! ## Doorbells and acknowledgements (R367, R370) -/

/-- A doorbell that comes last stands at the end of the order. -/
theorem State.ringDoorbell_last {s : State} {m : Nat} (hpend : (s.mb m).pend = false)
    (hlast : ∀ d ∈ s.cp.doorbells, d ≤ 64 * s.now + m) :
    ((s.ringDoorbell m).mb m).pend = true ∧ (s.ringDoorbell m).cp.doorbells = s.cp.doorbells ++ [64 * s.now + m] := by
  let early := s.cp.doorbells.takeWhile fun d => !(d / 64 == s.now && decide (64 * s.now + m < d))
  have hearly : early = s.cp.doorbells := by
    refine List.takeWhile_eq_self_iff.2 fun d hd => ?_
    have := hlast d hd
    simp only [Bool.not_eq_true', Bool.and_eq_false_iff, decide_eq_false_iff_not]
    omega
  unfold State.ringDoorbell
  rw [if_neg (by simp [hpend])]
  refine ⟨?_, ?_⟩
  · exact congrArg Mailbox.pend
      ((State.mb_of_mbs (s := s.modMb m fun b => { b with pend := true }) rfl m).trans (State.mb_modMb_self ..))
  · show early ++ (64 * s.now + m) :: s.cp.doorbells.drop early.length = _
    rw [hearly, List.drop_length]

/-- A dropped write sets WRDROP alone. -/
theorem State.mb_mbDrop (s : State) (m : Nat) : (s.mbDrop m).mb m = { s.mb m with wrdrop := true } := by
  unfold State.mbDrop
  rw [State.mb_of_mbs (State.noteSet_mbs ..), State.mb_modMb_self]

/-! ## The taking of a command (R32, R370) -/

/-- What the checks common to all commands make of a command. -/
theorem State.takeCmd_spec (s : State) (m : MailboxNum) (x : TakenCmd) :
    (s.classOk m.toNat x = true → s.shapeOk x = true → ((s.takeCmd m.toNat x).mb m.toNat).taken = some x) ∧
      (s.classOk m.toNat x = false → answered s (s.takeCmd m.toNat x) m x Status.denied []) ∧
      (s.classOk m.toNat x = true → s.shapeOk x = false → answered s (s.takeCmd m.toNat x) m x Status.badArg []) := by
  unfold State.takeCmd
  refine ⟨fun hclass hshape => ?_, fun hclass => ?_, fun hclass hshape => ?_⟩
  · rw [if_neg (by simp [hclass]), if_neg (by simp [hshape]), State.mb_modMb_self]
  · rw [if_pos (by simp [hclass])]
    exact answered_answer _ _ _ rfl
  · rw [if_neg (by simp [hclass]), if_pos (by simp [hshape])]
    exact answered_answer _ _ _ rfl

/-- The checks change neither the order of doorbells nor PEND. -/
theorem State.takeCmd_keeps (s : State) (m : Nat) (x : TakenCmd) :
    (s.takeCmd m x).cp = s.cp ∧ ((s.takeCmd m x).mb m).pend = (s.mb m).pend := by
  unfold State.takeCmd
  split
  · exact ⟨rfl, by rw [State.mb_answer_self]⟩
  · split
    · exact ⟨rfl, by rw [State.mb_answer_self]⟩
    · exact ⟨rfl, by rw [State.mb_modMb_self]⟩

/-- The state in which the CP has copied the command of mailbox `m`: the doorbell is gone and PEND is 0. -/
def State.copied (s : State) (m : Nat) (rest : List Nat) : State :=
  State.modMb { s with cp := { s.cp with doorbells := rest } } m fun b => { b with pend := false }

theorem State.mb_copied (s : State) (m : Nat) (rest : List Nat) : (s.copied m rest).mb m = { s.mb m with pend := false } :=
  State.mb_modMb_self ..

/-! ## The writing of a response (R368) -/

/-- A table that is filled with the words of a list from number `n` on. -/
theorem tabGet_foldl_zipIdx {β : Type} [DecidableEq β] (d : β) (l : List β) (n : Nat) (t : Tab β) (k : Nat) :
    tabGet d ((l.zipIdx n).foldl (fun r e => tabSet d r e.2 e.1) t) k =
      if n ≤ k ∧ k < n + l.length then l.getD (k - n) d else tabGet d t k := by
  induction l generalizing n t with
  | nil => simp [show ¬(n ≤ k ∧ k < n) by omega]
  | cons x l ih =>
    rw [List.zipIdx_cons, List.foldl_cons, ih, tabGet_tabSet]
    by_cases hk : k = n
    · subst hk
      simp
    · by_cases hin : n + 1 ≤ k ∧ k < n + 1 + l.length
      · rw [if_pos hin, if_pos (by simp only [List.length_cons]; omega),
          show k - n = (k - (n + 1)) + 1 by omega, List.getD_cons_succ]
      · rw [if_neg hin, if_neg hk, if_neg (by simp only [List.length_cons]; omega)]

/-- The words of a response stand at the start of the response area. -/
theorem Mailbox.putResponse_rsp (b : Mailbox) (ws : List Word) {i : Nat} (h : i < ws.length) :
    tabGet 0 (b.putResponse ws).rsp i = ws.getD i 0 := by
  refine (tabGet_foldl_zipIdx 0 ws 0 b.rsp i).trans ?_
  rw [if_pos ⟨Nat.zero_le _, by omega⟩, Nat.sub_zero]

/-- The mailbox whose oldest response has been written. -/
def Mailbox.written (b : Mailbox) (ws : List Word) (r : Response) (rest : List Response) : Mailbox :=
  let b := { b.putResponse ws with ready := rest, done := true }
  if r.active then { b with active := false, armed := false, tag := 0, handle := 0 } else b

theorem Mailbox.written_spec (b : Mailbox) (ws : List Word) (r : Response) (rest : List Response) :
    (b.written ws r rest).ready = rest ∧ (b.written ws r rest).done = true ∧
      (r.active = true → (b.written ws r rest).active = false) ∧ (r.active = false → (b.written ws r rest).active = b.active) ∧
      (b.written ws r rest).rsp = (b.putResponse ws).rsp := by
  unfold Mailbox.written
  dsimp only
  split
  · next h => exact ⟨rfl, rfl, fun _ => rfl, fun h' => absurd (h.symm.trans h') (by decide), rfl⟩
  · next h => exact ⟨rfl, rfl, fun h' => absurd h' h, fun _ => rfl, rfl⟩

/-- The state in which the oldest response has been written, before its source is raised. -/
def State.responded (s : State) (m : Nat) (r : Response) (rest : List Response) : State :=
  let t := s.modMb m fun b => b.written (s.responseOut r) r rest
  match r.session with
  | some (p, _, _) => { t with sec := { t.sec with seqOut := tabSet 0 t.sec.seqOut p (tabGet 0 t.sec.seqOut p + 1) } }
  | none => t

theorem State.responded_mbs_ic (s : State) (m : Nat) (r : Response) (rest : List Response) :
    (s.responded m r rest).mb m = (s.mb m).written (s.responseOut r) r rest ∧ (s.responded m r rest).ic = s.ic := by
  have hmbs : (s.responded m r rest).mbs = (s.modMb m fun b => b.written (s.responseOut r) r rest).mbs := by
    unfold State.responded
    dsimp only
    split <;> rfl
  refine ⟨(State.mb_of_mbs hmbs m).trans (State.mb_modMb_self ..), ?_⟩
  unfold State.responded
  dsimp only
  split <;> rfl

theorem execMbResponseWrite_ready {mb : MailboxNum} {s : State} {r : Response} {rest : List Response}
    (hready : (s.mb mb.toNat).ready = r :: rest) (hdone : (s.mb mb.toNat).done = false) :
    exec (.mbResponseWrite mb) s = .next ((s.responded mb.toNat r rest).dieEvent (1 + mb.toNat)) := by
  show execMbResponseWrite mb s = _
  unfold execMbResponseWrite
  dsimp only
  rw [hready, hdone]
  rfl

/-- Settles O34: the doorbell, the acknowledgement, the taking of a command and the writing of a response. -/
theorem mailboxHandshake : Obligations.MailboxHandshake := by
  unfold Obligations.MailboxHandshake
  refine ⟨fun mb s hreset => ⟨fun hpend hlast => ?_, fun hpend => ?_, ?_⟩, fun s d rest hruns hfree hbells => ?_,
    fun mb s r rest hready hdone => ?_⟩
  · exact ⟨_, State.next_outOfReset hreset _, State.ringDoorbell_last hpend hlast⟩
  · have hdrop : s.ringDoorbell mb.toNat = s.mbDrop mb.toNat := if_pos hpend
    refine ⟨_, State.next_outOfReset hreset _, ?_⟩
    rw [hdrop, State.mb_mbDrop]
    exact ⟨rfl, hpend, rfl⟩
  · refine ⟨_, State.next_outOfReset hreset _, ?_⟩
    rw [State.ackMailbox, State.mb_modMb_self]
    exact ⟨rfl, rfl⟩
  · intro m x
    have hm : d % 64 = m.toNat := (BitVec.toNat_ofNat d 6).symm
    have hexec : exec .mbCommandTake s = .next ((s.copied m.toNat rest).takeCmd m.toNat x) := by
      show execMbCommandTake s = _
      unfold execMbCommandTake
      rw [if_neg (by simp [hruns, hfree]), hbells]
      dsimp only
      rw [hm]
      rfl
    have hmb := s.mb_copied m.toNat rest
    obtain ⟨hcp, hpend⟩ := (s.copied m.toNat rest).takeCmd_keeps m.toNat x
    obtain ⟨hgood, hdenied, hbad⟩ := (s.copied m.toNat rest).takeCmd_spec m x
    have hanswered {u : State} {status : Nat} (h : answered (s.copied m.toNat rest) u m x status []) :
        answered s u m x status [] := by
      rw [answered, hmb] at h
      exact h
    exact ⟨_, hexec, by rw [hcp]; rfl, by rw [hpend, hmb], hgood, fun h => hanswered (hdenied h),
      fun h h' => hanswered (hbad h h')⟩
  · obtain ⟨hmb, hic⟩ := s.responded_mbs_ic mb.toNat r rest
    obtain ⟨hrest, hset, hactive, hkept, hrsp⟩ := (s.mb mb.toNat).written_spec (s.responseOut r) r rest
    refine ⟨_, execMbResponseWrite_ready hready hdone, ?_⟩
    rw [State.mb_of_mbs (State.dieEvent_mbs ..), hmb]
    refine ⟨hrest, hset, hactive, hkept, ?_, fun i hi => ?_⟩
    · exact (State.latchCount_dieEvent_self ..).trans (by rw [State.latchCount_of_ic hic]; rfl)
    · rw [hrsp]
      exact Mailbox.putResponse_rsp _ _ hi

end Sys2Proof.Machine
end

section
/-! Overlays of the configuration (R384 to R387): O39. -/

namespace Sys2Proof.Machine

/-- The fields SET and CLEAR of CFG_OVERLAY's argument. -/
theorem overlayFields {a set clear : Nat} (hset : set < 256) (hclear : clear < 256) (ha : a = set + 256 * clear) :
    bitsOf a 0 8 = set ∧ bitsOf a 8 8 = clear ∧ bitsOf a 16 16 = 0 := by
  simp only [bitsOf_eq_div, ha]
  omega

/-- CFG_OVERLAY of a mask that is well formed, from a mailbox that is not occupied and while no lock-step job is held. -/
theorem execCfgOverlay_good {mb : MailboxNum} {s : State} {x : TakenCmd} {set clear : Nat} (hheld : holds s mb 0x10 x)
    (hset : set < 256) (hclear : clear < 256) (ha : x.arg 0 = set + 256 * clear) (hdisjoint : set &&& clear = 0)
    (hkinds : s.kindsClash ((s.overlayTarget ||| set) &&& (255 - clear)) = false)
    (hfull : ∀ n < 8, set.testBit n = true → s.overlayKind n ≠ 0) (hocc : s.occupied mb.toNat = false)
    (hlock : s.lockstepHeld = false) :
    exec (.cfgOverlay mb) s = .next (State.answer { s with cp := { s.cp with
        overlayNext := some (BitVec.ofNat 8 ((s.overlayTarget ||| set) &&& (255 - clear)), s.beat + 1) } } mb.toNat x Status.ok
      (BitVec.ofNat 32 ((s.overlayTarget ||| set) &&& (255 - clear)) :: wordsOf (s.beat + 1))) := by
  obtain ⟨hfset, hfclear, hrest⟩ := overlayFields hset hclear ha
  have hnone : (List.range 8).any (fun n => set.testBit n && s.overlayKind n == 0) = false := by
    refine List.any_eq_false.2 fun n hn => ?_
    rw [Bool.and_eq_true, beq_iff_eq]
    exact fun ⟨hbit, hkind⟩ => hfull n (List.mem_range.1 hn) hbit hkind
  show execCfgOverlay mb s = _
  unfold execCfgOverlay
  dsimp only
  rw [State.onTaken_of_holds hheld, hfset, hfclear, hrest, if_neg (by simp only [hdisjoint, hkinds, hnone]; decide),
    if_neg (by rw [hocc, hlock, Bool.false_and]; decide)]

/-! ## At the boundary (R385, R387) -/

/-- An entry of an overlay writes no register but those with RWS fields. -/
theorem State.applyEntry_dcbReg (s : State) (e : Nat × Word × Word) {o : Nat} (h : (dcbAccess o).rws = 0) :
    (s.applyEntry e).dcbReg o = s.dcbReg o := by
  unfold State.applyEntry
  dsimp only
  rw [State.dcbReg_setDcb]
  split
  · next heq =>
      rw [← heq, h]
      simp only [BitVec.and_zero, BitVec.ofNat_eq_ofNat, BitVec.or_zero]
      exact BitVec.and_allOnes
  · rfl

/-- The values under the overlays, before any is applied. -/
def State.overlayBase (s : State) : State := overlayRegs.foldl (fun s o => s.setDcb o (dcbDefault o)) s

/-- One overlay, where the mask holds it. -/
def State.applyOverlay (mask : Nat) (s : State) (n : Nat) : State :=
  if mask.testBit n then
    let v := tabGet Overlay.reset s.cp.overlays n
    let s := v.entries.foldl State.applyEntry s
    if v.kind = 4 then s.setDcbF Dcb.cfgLs 0 1 1 else s
  else s

theorem State.applyOverlays_eq (s : State) (mask : Nat) :
    s.applyOverlays mask = (List.range 8).foldl (State.applyOverlay mask) s.overlayBase := rfl

theorem State.overlayBase_eq (s : State) :
    s.overlayBase = (s.setDcb Dcb.cfgLs (dcbDefault Dcb.cfgLs)).setDcb Dcb.traceCtrl (dcbDefault Dcb.traceCtrl) := rfl

theorem State.applyOverlay_dcbReg (mask : Nat) (s : State) (n : Nat) {o : Nat} (hrws : (dcbAccess o).rws = 0)
    (hne : o ≠ Dcb.cfgLs) : (s.applyOverlay mask n).dcbReg o = s.dcbReg o := by
  have hentries (l : List (Nat × Word × Word)) : (l.foldl State.applyEntry s).dcbReg o = s.dcbReg o :=
    List.foldlRecOn (motive := fun t : State => t.dcbReg o = s.dcbReg o) l _ rfl
      fun t ht e _ => (t.applyEntry_dcbReg e hrws).trans ht
  unfold State.applyOverlay
  dsimp only
  split
  · split
    · rw [State.dcbReg_setDcbF, if_neg hne, hentries]
    · rw [hentries]
  · rfl

theorem State.applyOverlays_dcbReg (s : State) (mask : Nat) {o : Nat} (hrws : (dcbAccess o).rws = 0)
    (hls : o ≠ Dcb.cfgLs) (htrace : o ≠ Dcb.traceCtrl) : (s.applyOverlays mask).dcbReg o = s.dcbReg o := by
  rw [State.applyOverlays_eq]
  refine List.foldlRecOn (motive := fun t : State => t.dcbReg o = s.dcbReg o) _ _ ?_
    fun t ht n _ => (State.applyOverlay_dcbReg mask t n hrws hls).trans ht
  rw [State.overlayBase_eq, State.dcbReg_setDcb, if_neg htrace, State.dcbReg_setDcb, if_neg hls]

theorem State.applyOverlays_cp (s : State) (mask : Nat) : (s.applyOverlays mask).cp = s.cp := by
  have hentries (t : State) (l : List (Nat × Word × Word)) : (l.foldl State.applyEntry t).cp = t.cp :=
    List.foldlRecOn (motive := fun u : State => u.cp = t.cp) l _ rfl fun _ hu _ _ => (State.setDcb_cp ..).trans hu
  rw [State.applyOverlays_eq]
  refine List.foldlRecOn (motive := fun t : State => t.cp = s.cp) _ _ rfl fun t ht n _ => ?_
  rw [← ht]
  unfold State.applyOverlay
  dsimp only
  split
  · split
    · rw [State.setDcbF_cp, hentries]
    · exact hentries ..
  · rfl

/-- The empty mask leaves the base values. -/
theorem State.applyOverlays_zero (s : State) : s.applyOverlays 0 = s.overlayBase := by
  rw [State.applyOverlays_eq]
  refine List.foldlRecOn (motive := fun t : State => t = s.overlayBase) _ _ rfl fun t ht n _ => ?_
  unfold State.applyOverlay
  rw [if_neg (by simp), ht]

/-- Settles O39: the mask that is answered waits for the boundary, where it comes into force. -/
theorem overlaysComeIntoForceAtTheBoundary : Obligations.OverlaysComeIntoForceAtTheBoundary := by
  unfold Obligations.OverlaysComeIntoForceAtTheBoundary
  refine ⟨?_, fun s m b hnext hdue => ?_⟩
  · intro mb s x set clear hheld hset hclear ha hdisjoint mask hkinds hfull hocc hlock
    exact ⟨_, execCfgOverlay_good hheld hset hclear ha hdisjoint hkinds hfull hocc hlock, rfl, answered_answer _ _ _ rfl⟩
  · generalize hu : State.setDcbF { s with cp := { s.cp with overlayNext := none } } Dcb.cfgActive 0 8 m.toNat = u
    have hexec : exec .overlayApply s = .next (u.applyOverlays m.toNat) := by
      show execOverlayApply s = _
      unfold execOverlayApply
      rw [hnext]
      dsimp only
      rw [if_pos hdue, hu]
    refine ⟨_, hexec, ?_, ?_, ?_⟩
    · rw [State.applyOverlays_cp, ← hu]
      rfl
    · rw [State.dcbF_of_dcbReg (State.applyOverlays_dcbReg u _ (by decide) (by decide) (by decide)), ← hu,
        State.dcbF_setDcbF_self _ _ _ (by decide)]
      exact Nat.mod_eq_of_lt m.isLt
    · rintro rfl
      rw [show (0 : Byte).toNat = 0 from rfl, State.applyOverlays_zero, State.overlayBase_eq, State.dcbReg_setDcb_self,
        State.dcbReg_setDcb, if_neg (by decide), State.dcbReg_setDcb_self]
      exact ⟨rfl, rfl⟩

end Sys2Proof.Machine
end

section
/-! What the ends of jobs leave (R75, R329, R475): a core without a job, the registers below those of security but for LOCKSTEP_STAT,
the error records and the Whistle. -/

namespace Sys2Proof.Machine

/-- From `s` to `t` jobs were answered, marked, withdrawn or ended. -/
structure State.EndsJobs (s t : State) : Prop where
  clock : t.queueClock = s.queueClock
  reg : ∀ o < Dcb.secLcs, o ≠ Dcb.lockstepStat → t.dcbReg o = s.dcbReg o
  freeCore : ∀ c, (s.core c).job = none → t.core c = s.core c
  whistle : t.whistle = s.whistle
  err : t.err = s.err

namespace State.EndsJobs

variable {s t u : State}

theorem refl (s : State) : EndsJobs s s := ⟨rfl, fun _ _ _ => rfl, fun _ _ => rfl, rfl, rfl⟩

theorem trans (h : EndsJobs s t) (h' : EndsJobs t u) : EndsJobs s u where
  clock := h'.clock.trans h.clock
  reg o ho hne := (h'.reg o ho hne).trans (h.reg o ho hne)
  freeCore c hc := (h'.freeCore c ((congrArg CoreState.job (h.freeCore c hc)).trans hc)).trans (h.freeCore c hc)
  whistle := h'.whistle.trans h.whistle
  err := h'.err.trans h.err

theorem ite {p : Prop} [Decidable p] (h : EndsJobs s t) (h' : EndsJobs s u) : EndsJobs s (if p then t else u) := by
  split
  · exact h
  · exact h'

theorem foldl {α : Type} {f : State → α → State} (h : ∀ (t : State) (a : α), EndsJobs t (f t a)) (l : List α) (s : State) :
    EndsJobs s (l.foldl f s) :=
  List.foldlRecOn (motive := fun t : State => EndsJobs s t) l f (refl s) fun _ ht a _ => ht.trans (h _ a)

/-- Registers, cores, Whistle and error records stand. -/
theorem of_eq (hclock : t.queueClock = s.queueClock) (hdcb : t.dcb = s.dcb) (hcores : t.cores = s.cores)
    (hwhistle : t.whistle = s.whistle) (herr : t.err = s.err) : EndsJobs s t where
  clock := hclock
  reg o _ _ := State.dcbReg_of_dcb hdcb o
  freeCore c _ := by rw [State.core, hcores, State.core]
  whistle := hwhistle
  err := herr

/-- A register of security, or LOCKSTEP_STAT, is written. -/
theorem setDcb (s : State) {o : Nat} (v : Dword) (h : Dcb.secLcs ≤ o ∨ o = Dcb.lockstepStat) : EndsJobs s (s.setDcb o v) where
  clock := State.setDcb_queueClock ..
  reg x hx hne := by rw [State.dcbReg_setDcb, if_neg (by omega)]
  freeCore _ _ := rfl
  whistle := State.setDcb_whistle ..
  err := State.setDcb_err ..

theorem modJob (s : State) (h : Handle) (f : Job → Job) : EndsJobs s (s.modJob h f) := by
  refine of_eq (State.modJob_queueClock ..) (State.modJob_dcb ..) ?_ ?_ (State.modJob_err ..)
  · exact congrArg (fun x => x.1) (State.modJob_coresUnits s h f)
  · unfold State.modJob
    split <;> rfl

theorem markEnd (s : State) (h : Handle) (st : JobSt) (record : Word) : EndsJobs s (s.markEnd h st record) := modJob ..

theorem complete (s : State) (m status : Nat) (words : List Word) (record : Word) :
    EndsJobs s (s.complete m status words record) := by
  have heq := s.complete_eq m status words record
  exact of_eq (State.complete_queueClock ..) (State.complete_dcb ..) (by rw [heq]) (by rw [heq]) (by rw [heq])

theorem dieEvent (s : State) (n : Nat) : EndsJobs s (s.dieEvent n) := of_eq (State.dieEvent_queueClock ..) rfl rfl rfl rfl

theorem traceJob (s : State) (h : Handle) (j : Job) (beat : Nat) : EndsJobs s (s.traceJob h j beat) := by
  have heq := s.traceJob_eq h j beat
  exact of_eq (State.traceJob_queueClock ..) (by rw [heq]) (by rw [heq]) (by rw [heq]) (by rw [heq])

theorem releaseKeySlot (s : State) (n : Option Nat) : EndsJobs s (s.releaseKeySlot n) := by
  refine of_eq (State.releaseKeySlot_queueClock ..) ?_ ?_ ?_ ?_ <;> cases n <;> rfl

theorem setJob (s : State) (h : Handle) (j : Job) : EndsJobs s (s.setJob h j) := of_eq (State.setJob_queueClock ..) rfl rfl rfl rfl

/-- Only the core that leaves its job changes. -/
theorem leaveCore_core_ne (s : State) {c x : Nat} (h : x ≠ c) : (s.leaveCore c).core x = s.core x := by
  have hended : (s.modCore c CoreState.endJob).core x = s.core x := by rw [State.core_modCore, if_neg h]
  unfold State.leaveCore
  dsimp only
  split
  · unfold State.declareFor
    split
    · exact hended
    · split
      · rw [State.core_modCore, if_neg h, hended]
      · exact hended
  · exact hended

theorem leaveCore {s : State} {c : Nat} (hjob : (s.core c).job ≠ none) : EndsJobs s (s.leaveCore c) := by
  have heq := State.CoresOnly.eq (.leaveCore s c)
  refine ⟨State.leaveCore_queueClock .., fun o _ _ => State.dcbReg_of_dcb (by rw [heq]) o, fun x hx => ?_, by rw [heq], by rw [heq]⟩
  exact leaveCore_core_ne s fun h => hjob (h ▸ hx)

theorem leaveCores (s : State) (h : Handle) (j : Job) : EndsJobs s (s.leaveCores h j) :=
  foldl (f := fun s (x : Nat × Nat) => if (s.core x.2).job = some h then s.leaveCore x.2 else s) (fun t x => by
    split
    · next hjob => exact leaveCore (by rw [hjob]; nofun)
    · exact refl t) _ _

theorem jobLeft (s : State) (h : Handle) (j : Job) : EndsJobs s (s.jobLeft h j) := by
  have hleft := (releaseKeySlot s j.keySlot).trans (leaveCores _ h j)
  exact ite (hleft.trans (setDcb _ _ (.inr rfl))) hleft

theorem finishAt (s : State) (h : Handle) (st : JobSt) (record : Word) (beat : Nat) : EndsJobs s (s.finishAt h st record beat) := by
  cases hj : s.job h with
  | none =>
    unfold State.finishAt
    rw [hj]
    exact refl s
  | some j =>
    rw [State.finishAt_eq st record beat hj]
    exact (((jobLeft s h j).trans (setJob ..)).trans (dieEvent ..)).trans (traceJob ..)

theorem finishJob (s : State) (h : Handle) (st : JobSt) (record : Word) : EndsJobs s (s.finishJob h st record) := finishAt ..

theorem failSave (s : State) (j : Job) (record : Word) : EndsJobs s (s.failSave j record) := by
  unfold State.failSave
  split
  · exact complete ..
  · exact refl s

theorem setPartState (s : State) (p v : Nat) : EndsJobs s (s.setPartState p v) :=
  (setDcb s _ (.inl (by simp only [Dcb.secLcs, Dcb.secPstat]; omega))).trans (setDcb _ _ (.inl (Nat.le_refl _)))

theorem setSec (s : State) (x : Security) : EndsJobs s { s with sec := x } := of_eq rfl rfl rfl rfl rfl

theorem endSession (s : State) (p : Nat) : EndsJobs s (s.endSession p) := by
  unfold State.endSession
  extract_lets s₁ s₂ gone sec s₃
  have h₁ : EndsJobs s s₁ := (setPartState s p 2).trans (setDcb _ _ (.inl (by simp only [Dcb.secLcs, Dcb.secPstat]; omega)))
  have h₂ : EndsJobs s s₂ := h₁.trans (foldl (fun _ _ => markEnd ..) _ _)
  have h₃ : EndsJobs s s₃ := h₂.trans (setSec s₂ _)
  exact ite (h₃.trans (foldl (fun _ _ => complete ..) _ _)) (refl s)

theorem answerAdmit (s : State) (j : Job) (status : Nat) (record : Word) : EndsJobs s (s.answerAdmit j status record) := by
  unfold State.answerAdmit
  refine ite ?_ (refl s)
  dsimp only
  split
  · exact ite ((complete ..).trans (endSession ..)) (complete ..)
  · exact complete ..

theorem withdraw (s : State) (h : Handle) (status : Nat) : EndsJobs s (s.withdraw h status) := by
  unfold State.withdraw
  split
  · exact refl s
  · extract_lets t
    have ht : EndsJobs s t := ite (refl s) (setSec s _)
    exact (ht.trans (answerAdmit ..)).trans (finishJob ..)

theorem applyEnd (s : State) (h : Handle) : EndsJobs s (s.applyEnd h) := by
  unfold State.applyEnd
  split
  · exact refl s
  · split
    · exact refl s
    · exact ((failSave ..).trans (answerAdmit ..)).trans (finishJob ..)

theorem censusLost (s : State) : EndsJobs s s.censusLost := foldl (fun _ _ => withdraw ..) _ _

end State.EndsJobs

end Sys2Proof.Machine
end

section
/-! Fences of cores and clusters (R329 to R331, R448): O33. -/

namespace Sys2Proof.Machine

theorem testBit_eq_bitsOf (x i : Nat) : x.testBit i = (bitsOf x i 1 == 1) := by
  rw [Nat.testBit_eq_decide_div_mod_eq, bitsOf_eq_div]
  rfl

/-- A core is fenced where its bit of CORE_FENCE_MAP stands. -/
theorem State.fenced_eq (s : State) (c : Nat) : s.fenced c = (s.dcbF (Dcb.coreFenceMap (c / 64)) (c % 64) 1 == 1) :=
  testBit_eq_bitsOf ..

theorem coreFenceMap_ne {i j : Nat} (h : i ≠ j) : Dcb.coreFenceMap i ≠ Dcb.coreFenceMap j := by
  simp only [Dcb.coreFenceMap]
  omega

/-- A core's bit of CORE_FENCE_MAP is written; the bits of the others stand. -/
theorem State.fenced_setBit (s : State) (c x v : Nat) (hv : v < 2) :
    (s.setDcbF (Dcb.coreFenceMap (c / 64)) (c % 64) 1 v).fenced x = if x = c then decide (v = 1) else s.fenced x := by
  have hbit : c % 64 + 1 ≤ 64 := Nat.mod_lt c (by decide)
  rw [State.fenced_eq, State.fenced_eq]
  by_cases hx : x = c
  · subst hx
    rw [State.dcbF_setDcbF_self _ _ _ hbit, Nat.mod_eq_of_lt (by omega), if_pos rfl]
    rfl
  · rw [if_neg hx]
    by_cases hreg : x / 64 = c / 64
    · have hbit' : x % 64 + 1 ≤ 64 := Nat.mod_lt x (by decide)
      rw [hreg, State.dcbF_setDcbF_beside _ _ _ hbit' (by omega)]
    · rw [State.dcbF, State.dcbReg_setDcbF, if_neg (coreFenceMap_ne hreg), State.dcbF]

/-- A fence loses what the core held and is recorded; the other cores and their bits stand. -/
theorem State.fenceCore_spec (s : State) (c x : Nat) :
    (s.fenceCore c).core x = (if x = c then CoreState.reset else s.core x) ∧
      (s.fenceCore c).fenced x = if x = c then true else s.fenced x := by
  refine ⟨(State.core_of_coresUnits (State.setDcbF_coresUnits ..) x).trans (State.core_setCore ..), ?_⟩
  exact (State.fenced_setBit (s.setCore c CoreState.reset) c x 1 (by decide)).trans rfl

/-- Cores that are fenced one after the other. -/
theorem State.foldl_fenceCore_spec (l : List Nat) (f : Nat → Nat) (s : State) {x : Nat} (hx : x ∈ l.map f) :
    (l.foldl (fun t i => t.fenceCore (f i)) s).core x = CoreState.reset ∧
      (l.foldl (fun t i => t.fenceCore (f i)) s).fenced x = true := by
  have hstay (l : List Nat) (t : State) (h : t.core x = CoreState.reset ∧ t.fenced x = true) :
      (l.foldl (fun t i => t.fenceCore (f i)) t).core x = CoreState.reset ∧
        (l.foldl (fun t i => t.fenceCore (f i)) t).fenced x = true :=
    List.foldlRecOn (motive := fun t : State => t.core x = CoreState.reset ∧ t.fenced x = true) l _ h fun t ⟨hcore, hbit⟩ i _ => by
      obtain ⟨hcore', hbit'⟩ := t.fenceCore_spec (f i) x
      rw [hcore', hbit', hcore, hbit]
      exact ⟨ite_self _, ite_self _⟩
  induction l generalizing s with
  | nil => cases hx
  | cons i l ih =>
    rw [List.foldl_cons]
    rcases List.mem_cons.1 hx with rfl | hx
    · obtain ⟨hcore, hbit⟩ := s.fenceCore_spec (f i) (f i)
      exact hstay l _ ⟨hcore.trans (if_pos rfl), hbit.trans (if_pos rfl)⟩
    · exact ih _ hx

/-- A fenced core stays fenced and as after reset while jobs end. -/
theorem State.EndsJobs.fenced {s t : State} (h : s.EndsJobs t) {c : Nat} (hc : c < 1024) (hcore : s.core c = CoreState.reset)
    (hbit : s.fenced c = true) : t.fenced c = true ∧ t.core c = CoreState.reset := by
  refine ⟨?_, (h.freeCore c (by rw [hcore]; rfl)).trans hcore⟩
  rw [State.fenced, h.reg _ (by simp only [Dcb.coreFenceMap, Dcb.secLcs]; omega)
    (by simp only [Dcb.coreFenceMap, Dcb.lockstepStat]; omega)]
  exact hbit

theorem execFenceApply_due {core : CoreNum} {s : State} {b : Nat} (hfence : (s.core core.toNat).fenceAt = some b)
    (hdue : b ≤ s.beat) :
    exec (.fenceApply core) s =
      .next ((s.endOn (· == core.toNat)).fenceCore core.toNat).censusLost := by
  show execFenceApply core s = _
  unfold execFenceApply
  dsimp only
  rw [hfence]
  exact if_pos hdue

/-- The marked ends on a cluster's cores take place, before its fence. -/
def State.clusterEnded (s : State) (q : Nat) : State :=
  State.endOn { s with cp := { s.cp with clusterNext := s.cp.clusterNext.filter fun e => e.1 != q } } fun c => clusterOf c == q

theorem execClusterFence_due {cluster : BitVec 6} {s : State} {e : Nat × Nat}
    (hfind : s.cp.clusterNext.find? (fun e => e.1 == cluster.toNat) = some e) (hdue : e.2 ≤ s.beat) :
    exec (.clusterFence cluster) s = .next ((s.clusterEnded cluster.toNat).fenceCluster cluster.toNat).censusLost := by
  show execClusterFence cluster s = _
  unfold execClusterFence
  dsimp only
  rw [hfind]
  exact if_pos hdue

/-- The cores of a cluster after its fence, before CLUSTER_FENCE shows it. -/
def State.coresFenced (s : State) (q : Nat) : State := (List.range 16).foldl (fun t i => t.fenceCore (16 * q + i)) s

theorem State.fenceCluster_eq (s : State) (q : Nat) : s.fenceCluster q = (s.coresFenced q).setDcbF Dcb.clusterFence q 1 1 := rfl

/-- The bit of a cluster and the cores of the cluster after its fence. -/
theorem State.fenceCluster_spec (s : State) {q : Nat} (hq : q < 64) :
    (s.fenceCluster q).dcbF Dcb.clusterFence q 1 = 1 ∧
      ∀ i < 16, (s.fenceCluster q).core (16 * q + i) = CoreState.reset ∧ (s.fenceCluster q).fenced (16 * q + i) = true := by
  rw [State.fenceCluster_eq, State.dcbF_setDcbF_self _ _ _ hq]
  refine ⟨rfl, fun i hi => ?_⟩
  obtain ⟨hcore, hbit⟩ : (s.coresFenced q).core (16 * q + i) = CoreState.reset ∧ (s.coresFenced q).fenced (16 * q + i) = true :=
    State.foldl_fenceCore_spec (List.range 16) (fun i => 16 * q + i) s (List.mem_map.2 ⟨i, List.mem_range.2 hi, rfl⟩)
  have hne : Dcb.coreFenceMap ((16 * q + i) / 64) ≠ Dcb.clusterFence := by
    simp only [Dcb.coreFenceMap, Dcb.clusterFence]
    omega
  refine ⟨(State.core_of_coresUnits (State.setDcbF_coresUnits ..) _).trans hcore, ?_⟩
  rw [State.fenced_eq, State.dcbF_setDcbF_ne _ _ _ _ _ _ hne, ← State.fenced_eq, hbit]

/-! ## CORE_FENCE (R331) -/

section

variable {mb : MailboxNum} {s : State} {x : TakenCmd} {c : Nat}

/-- The fields of CORE_FENCE's argument for a single core. -/
theorem coreFenceFields {a c : Nat} {un : Bool} (hc : c < 1024) (ha : a = c + bit un * 2 ^ 16) :
    bitsOf a 0 10 = c ∧ a.testBit 16 = un ∧ a.testBit 17 = false ∧ bitsOf a 10 6 = 0 ∧ bitsOf a 18 14 = 0 := by
  have hbit : bit un ≤ 1 := by cases un <;> decide
  simp only [testBit_eq_bitsOf, bitsOf_eq_div, ha]
  refine ⟨by omega, ?_, ?_, by omega, by omega⟩
  · have : (c + bit un * 2 ^ 16) / 2 ^ 16 % 2 ^ 1 = bit un := by omega
    rw [this]
    cases un <;> rfl
  · have : (c + bit un * 2 ^ 16) / 2 ^ 17 % 2 ^ 1 = 0 := by omega
    rw [this]
    rfl

theorem execCoreFence_cases {un : Bool} (hheld : holds s mb 0x30 x) (hc : c < 1024) (hen : s.enabled c = true)
    (hocc : s.occupied mb.toNat = false) (ha : x.arg 0 = c + bit un * 2 ^ 16) :
    exec (.coreFence mb) s = .next
      (if un = true ∧ s.dcbF Dcb.clusterFence (clusterOf c) 1 = 1 then s.answer mb.toNat x Status.refused []
      else (if un = true then s.unfence c else s.fenceNext c).answer mb.toNat x Status.ok [BitVec.ofNat 32 (bit !un)]) := by
  obtain ⟨hcore, hun, hone, hlow, hhigh⟩ := coreFenceFields hc ha
  show execCoreFence mb s = _
  unfold execCoreFence
  dsimp only
  rw [State.onTaken_of_holds hheld, hcore, hun, hone, if_neg (by simp [hen, hlow, hhigh]), if_neg (by simp [hocc]),
    testBit_eq_bitsOf]
  simp only [beq_iff_eq]
  rfl

end

/-- The jobs on cores are marked at most. -/
theorem State.Reported.markOn (s : State) (on : Nat → Bool) (record : Word) : s.Reported (s.markOn on record) := .markAll ..

/-- A core that is not fenced has its fence due at the next beat. -/
theorem State.fenceNext_fenceAt {s : State} {c : Nat} (h : s.fenced c = false) :
    ((s.fenceNext c).core c).fenceAt = some (s.beat + 1) := by
  unfold State.fenceNext
  rw [if_neg (by simp [h]), State.core_of_coresUnits (State.Reported.markOn ..).coresUnits, State.core_modCore_self]

theorem State.fenceNext_mbs (s : State) (c : Nat) : (s.fenceNext c).mbs = s.mbs := by
  unfold State.fenceNext
  split
  · rfl
  · exact (State.mbs_of_coresUnits (State.Reported.markOn ..).coresUnits).trans (State.modCore_mbs ..)

/-- The core that is fenced no longer: its counters count from now where they were cleared. -/
theorem State.unfence_spec (s : State) (c : Nat) :
    (s.unfence c).fenced c = false ∧ ((s.unfence c).core c).fenceAt = none ∧
      (s.fenced c = true → ((s.unfence c).core c).cntBase = s.runCycles) := by
  have hcore : (s.unfence c).core c =
      { s.core c with fenceAt := none, cntBase := if s.fenced c then s.runCycles else (s.core c).cntBase } :=
    (State.core_of_coresUnits (State.setDcbF_coresUnits ..) c).trans (State.core_modCore_self ..)
  refine ⟨(State.fenced_setBit _ c c 0 (by decide)).trans (if_pos rfl), by rw [hcore], fun hfenced => ?_⟩
  rw [hcore, hfenced]
  rfl

/-- Settles O33: a fence that is due takes its cores, and CORE_FENCE sets it for the next beat or lifts it. -/
theorem fencesTakeTheirCores : Obligations.FencesTakeTheirCores := by
  unfold Obligations.FencesTakeTheirCores
  refine ⟨fun core s b hfence hdue => ?_, fun cluster s e hfind hdue => ?_,
    fun mb s x c hheld hc hen hocc => ⟨fun ha => ?_, fun ha hopen => ?_, fun ha hshut => ?_⟩⟩
  · obtain ⟨hcore, hbit⟩ := (s.endOn (· == core.toNat)).fenceCore_spec core.toNat core.toNat
    exact ⟨_, execFenceApply_due hfence hdue, (State.EndsJobs.censusLost _).fenced core.isLt (hcore.trans (if_pos rfl))
      (hbit.trans (if_pos rfl))⟩
  · obtain ⟨hmap, hcores⟩ := (s.clusterEnded cluster.toNat).fenceCluster_spec cluster.isLt
    have hends := State.EndsJobs.censusLost ((s.clusterEnded cluster.toNat).fenceCluster cluster.toNat)
    refine ⟨_, execClusterFence_due hfind hdue, ?_, fun i hi => ?_⟩
    · exact (State.dcbF_of_dcbReg (hends.reg _ (by decide) (by decide)) _ _).trans hmap
    · obtain ⟨hcore, hbit⟩ := hcores i hi
      exact hends.fenced (by have := cluster.isLt; omega) hcore hbit
  · have hexec := execCoreFence_cases (un := false) hheld hc hen hocc ha
    have hexec' := hexec.trans (congrArg _ (if_neg fun h => absurd h.1 (by decide)))
    exact ⟨_, hexec', answered_answer _ _ _ (State.mb_of_mbs (s.fenceNext_mbs c) _), State.fenceNext_fenceAt⟩
  · have hexec := execCoreFence_cases (un := true) hheld hc hen hocc ha
    have hexec' := hexec.trans (congrArg _ (if_neg fun h => absurd (hopen.symm.trans h.2) (by decide)))
    exact ⟨_, hexec', answered_answer _ _ _ rfl, s.unfence_spec c⟩
  · have hexec := execCoreFence_cases (un := true) hheld hc hen hocc ha
    exact ⟨_, hexec.trans (congrArg _ (if_pos ⟨rfl, hshut⟩)), answered_answer _ _ _ rfl⟩

end Sys2Proof.Machine
end

section
/-! The ends that the boundaries bring (R76, R459, R475, R492): O32. -/

namespace Sys2Proof.Machine

/-! ## The answer to the command of a job -/

/-- The answer marks jobs at most. -/
theorem State.answerAdmit_marked {s : State} (j : Job) (status : Nat) (record : Word) {h : Handle} {k : Job} (hk : s.job h = some k) :
    ∃ l, (s.answerAdmit j status record).job h = some l ∧ k.Marked l := by
  by_cases hst : j.st = .waiting ∨ j.st = .armed
  · exact (State.answerAdmit_spec status record hst).2.2 h k hk
  · unfold State.answerAdmit
    rw [if_neg hst]
    exact ⟨k, hk, .refl k⟩

theorem State.endSession_ic (s : State) (p : Nat) : (s.endSession p).ic = s.ic := by
  unfold State.endSession
  split
  · extract_lets s₁ s₂ gone sec s₃
    have h₁ : s₁.ic = s.ic := by
      simp only [s₁, State.setPartState, State.setAnyConf, State.setDcbF_ic]
    clear_value s₁
    have h₂ : s₂.ic = s₁.ic :=
      List.foldlRecOn (motive := fun t : State => t.ic = s₁.ic) _ _ rfl fun t ht _ _ => (State.markEnd_ic ..).trans ht
    have h₃ : s₃.ic = s.ic := h₂.trans h₁
    clear_value s₃
    exact List.foldlRecOn (motive := fun t : State => t.ic = s.ic) _ _ h₃ fun t ht _ _ => (State.complete_ic ..).trans ht
  · rfl

/-- The answer raises no source of the die. -/
theorem State.answerAdmit_ic (s : State) (j : Job) (status : Nat) (record : Word) : (s.answerAdmit j status record).ic = s.ic := by
  unfold State.answerAdmit
  dsimp only
  split
  · split
    · split
      · rw [State.endSession_ic, State.complete_ic]
      · exact State.complete_ic ..
    · exact State.complete_ic ..
  · rfl

/-- An answer other than FAULT ends no session, so that no job changes. -/
theorem State.answerAdmit_jobs (s : State) (j : Job) {status : Nat} (record : Word) (h : status ≠ Status.fault) :
    (s.answerAdmit j status record).jobs = s.jobs := by
  unfold State.answerAdmit
  dsimp only
  split
  · split
    · rw [if_neg fun hfault => h hfault.1, State.complete_jobs]
    · exact State.complete_jobs ..
  · rfl

theorem State.failSave_jobs_ic (s : State) (j : Job) (record : Word) :
    (s.failSave j record).jobs = s.jobs ∧ (s.failSave j record).ic = s.ic := by
  unfold State.failSave
  split
  · exact ⟨State.complete_jobs .., State.complete_ic ..⟩
  · exact ⟨rfl, rfl⟩

/-! ## The end of one job -/

/-- The job that has ended holds none of its cores. -/
theorem State.finishAt_cores {s : State} {h : Handle} {j : Job} (st : JobSt) (record : Word) (beat : Nat) (hj : s.job h = some j) :
    ∀ x ∈ j.engines, ((s.finishAt h st record beat).core x.2).job ≠ some h := by
  intro x hx
  have hcores : (s.finishAt h st record beat).cores = (s.jobLeft h j).cores := by
    rw [State.finishAt_eq st record beat hj, State.traceJob_cores, State.dieEvent_cores, State.setJob_cores]
  have hleft : (s.jobLeft h j).cores = ((s.releaseKeySlot j.keySlot).leaveCores h j).cores := by
    unfold State.jobLeft
    dsimp only
    split
    · exact State.setDcbF_cores ..
    · rfl
  rw [State.core, hcores, hleft]
  exact State.leaveCores_job_ne _ h j x hx

/-- Other jobs stand. -/
theorem State.finishAt_job_ne (s : State) {h x : Handle} (st : JobSt) (record : Word) (beat : Nat) (hne : x ≠ h) :
    (s.finishAt h st record beat).job x = s.job x := by
  cases hj : s.job h with
  | none =>
    unfold State.finishAt
    rw [hj]
  | some j =>
    have hleft : (s.jobLeft h j).jobs = s.jobs := by
      have hcores := State.CoresOnly.leaveCores (s.releaseKeySlot j.keySlot) h j
      have hkey : (s.releaseKeySlot j.keySlot).jobs = s.jobs := by cases j.keySlot <;> rfl
      unfold State.jobLeft
      dsimp only
      split
      · rw [State.setDcbF_jobs, hcores.jobs, hkey]
      · rw [hcores.jobs, hkey]
    rw [State.finishAt_eq st record beat hj, State.job_of_jobs (State.traceJob_jobs ..), State.job_of_jobs (State.dieEvent_jobs ..),
      State.job_setJob, if_neg hne, State.job_of_jobs hleft]

/-- The state in which the commands that wait for a job have been answered, before the job ends. -/
def State.endAnswered (s : State) (j : Job) (x : JobSt × Word) : State :=
  (s.failSave j x.2).answerAdmit j (if x.1 = .ended then Status.refused else Status.fault) x.2

theorem State.applyEnd_eq {s : State} {h : Handle} {j : Job} {st : JobSt} {record : Word} {b : Nat} (hj : s.job h = some j)
    (hend : j.pendingEnd = some (st, record, b)) :
    s.applyEnd h = (s.endAnswered j (s.endOf st record)).finishJob h (s.endOf st record).1 (s.endOf st record).2 := by
  unfold State.applyEnd
  rw [hj]
  dsimp only
  rw [hend]
  rfl

theorem State.EndsJobs.endAnswered (s : State) (j : Job) (x : JobSt × Word) : s.EndsJobs (s.endAnswered j x) :=
  (failSave ..).trans (answerAdmit ..)

theorem State.endAnswered_marked {s : State} (j : Job) (x : JobSt × Word) {h : Handle} {k : Job} (hk : s.job h = some k) :
    ∃ l, (s.endAnswered j x).job h = some l ∧ k.Marked l :=
  State.answerAdmit_marked j _ _ ((State.job_of_jobs (s.failSave_jobs_ic j x.2).1 h).trans hk)

theorem State.endAnswered_ic (s : State) (j : Job) (x : JobSt × Word) : (s.endAnswered j x).ic = s.ic :=
  (State.answerAdmit_ic ..).trans (s.failSave_jobs_ic j x.2).2

/-- What the end of a job that has come due leaves. -/
theorem State.applyEnd_spec {s : State} {h : Handle} {j : Job} {st : JobSt} {record : Word} {b : Nat} (hj : s.job h = some j)
    (hend : j.pendingEnd = some (st, record, b)) :
    ∃ k, (s.applyEnd h).job h = some k ∧ (k.st, k.record) = s.endOf st record ∧ k.endBeat = s.beat ∧ k.pendingEnd = none ∧
      (s.applyEnd h).latchCount (65 + j.mailbox) = min (s.latchCount (65 + j.mailbox) + 1) 255 ∧
      ∀ x ∈ j.engines, ((s.applyEnd h).core x.2).job ≠ some h := by
  obtain ⟨l, hl, hmark, -⟩ := State.endAnswered_marked j (s.endOf st record) hj
  have hmailbox : l.mailbox = j.mailbox := by rw [hmark]
  have hengines : l.engines = j.engines := by rw [hmark]
  have hbeat : (s.endAnswered j (s.endOf st record)).beat = s.beat :=
    congrArg (fun x => x.2.1) (State.EndsJobs.endAnswered s j (s.endOf st record)).clock
  obtain ⟨hjob, -, hlatch⟩ := State.finishAt_spec (s.endOf st record).1 (s.endOf st record).2 s.beat hl
  have hcores := State.finishAt_cores (s.endOf st record).1 (s.endOf st record).2 s.beat hl
  rw [State.applyEnd_eq hj hend, State.finishJob, hbeat]
  rw [hmailbox, State.latchCount_of_ic (s.endAnswered_ic ..)] at hlatch
  exact ⟨_, hjob, rfl, rfl, rfl, hlatch, hengines ▸ hcores⟩

/-! ## The end of every job -/

/-- A fatal end stays fatal. -/
theorem State.endOf_ended (s : State) (record : Word) : s.endOf .ended record = (.ended, record) := by
  unfold State.endOf
  split
  · exact if_neg fun h => h.1 rfl
  · rfl

/-- A fatal end of one job leaves the others as they are. -/
theorem State.applyEnd_job_ne {s : State} {h x : Handle} {j : Job} {record : Word} {b : Nat} (hj : s.job h = some j)
    (hend : j.pendingEnd = some (.ended, record, b)) (hne : x ≠ h) : (s.applyEnd h).job x = s.job x := by
  rw [State.applyEnd_eq hj hend, State.endOf_ended, State.finishJob, State.finishAt_job_ne _ _ _ _ hne]
  refine State.job_of_jobs ((State.answerAdmit_jobs _ _ _ ?_).trans (s.failSave_jobs_ic j _).1) x
  rw [if_pos rfl]
  decide

/-- The end that a job with a fatal record's end takes. -/
theorem State.applyEnd_st {s : State} {h : Handle} {j : Job} {record : Word} {b : Nat} (hj : s.job h = some j)
    (hend : j.pendingEnd = some (.ended, record, b)) : ∃ k, (s.applyEnd h).job h = some k ∧ k.st = .ended := by
  obtain ⟨k, hk, hst, -⟩ := State.applyEnd_spec hj hend
  rw [State.endOf_ended] at hst
  exact ⟨k, hk, congrArg Prod.fst hst⟩

/-- A job after a fatal record's boundary (R475, R492): it has ended, was halted by the Whistle, or had completed before the beat of
the record, `b`. -/
def State.Fatal (s : State) (b : Nat) (k : Job) : Prop :=
  k.st ≠ .waiting ∧ k.st ≠ .armed ∧ (k.st = .admitted → s.halted = true) ∧
    (k.st = .running → (s.halted = true ∧ s.haltedJob k = true) ∨ (k.compBeat + 1 < b ∧ k.pendingEnd = none))

/-- A job that is in none of the states that have not ended. -/
theorem State.Fatal.of_st (s : State) (b : Nat) {k : Job} (h : k.st ≠ .waiting ∧ k.st ≠ .armed ∧ k.st ≠ .admitted ∧ k.st ≠ .running) :
    s.Fatal b k :=
  ⟨h.1, h.2.1, fun hst => absurd hst h.2.2.1, fun hst => absurd hst h.2.2.2⟩

/-- Whether a job is halted depends on the Whistle alone. -/
theorem State.EndsJobs.fatal {s t : State} (h : s.EndsJobs t) {b : Nat} {k : Job} (hk : t.Fatal b k) : s.Fatal b k := by
  have hhalted : t.halted = s.halted := by
    rw [State.halted, State.dcbF_of_dcbReg (h.reg _ (by decide) (by decide)), State.halted]
  have hjob : t.haltedJob k = s.haltedJob k := by
    rw [State.haltedJob, State.completedBeforeStop, h.whistle, State.haltedJob, State.completedBeforeStop]
  rw [State.Fatal, hhalted, hjob] at hk
  exact hk

/-- A job is given the end of a fatal record, which takes place. -/
def State.endFatally (s : State) (h : Handle) (record : Word) : State :=
  (s.modJob h fun j => { j with pendingEnd := some (.ended, record, s.beat) }).applyEnd h

theorem State.endFatally_spec {s : State} {h : Handle} {j : Job} (record : Word) (hj : s.job h = some j) :
    (∃ k, (s.endFatally h record).job h = some k ∧ k.st = .ended) ∧ ∀ x, x ≠ h → (s.endFatally h record).job x = s.job x := by
  have hmod : (s.modJob h fun j => { j with pendingEnd := some (.ended, record, s.beat) }).job h =
      some { j with pendingEnd := some (.ended, record, s.beat) } := by
    rw [State.job_modJob, if_pos rfl, hj]
    rfl
  refine ⟨State.applyEnd_st hmod rfl, fun x hx => ?_⟩
  rw [State.endFatally, State.applyEnd_job_ne hmod rfl hx, State.job_modJob, if_neg hx]

theorem State.EndsJobs.endFatally (s : State) (h : Handle) (record : Word) : s.EndsJobs (s.endFatally h record) :=
  (modJob ..).trans (applyEnd ..)

/-- A withdrawal with REFUSED changes no other job. -/
theorem State.withdraw_job_ne (s : State) {h x : Handle} (hne : x ≠ h) : (s.withdraw h Status.refused).job x = s.job x := by
  unfold State.withdraw
  split
  · rfl
  · rw [if_neg (by decide)]
    dsimp only
    rw [State.finishJob, State.finishAt_job_ne _ _ _ _ hne]
    exact State.job_of_jobs (State.answerAdmit_jobs _ _ _ (by decide)) x

/-- A fatal record's end of one job. -/
theorem State.fatalJob_spec (s : State) (h : Handle) (record : Word) (b : Nat) :
    s.EndsJobs (s.fatalJob h record b) ∧ (∀ x, x ≠ h → (s.fatalJob h record b).job x = s.job x) ∧
      ∀ k, (s.fatalJob h record b).job h = some k → s.Fatal b k := by
  have hended {t : State} (ht : ∃ k, t.job h = some k ∧ k.st = .ended) (k : Job) (hk : t.job h = some k) : s.Fatal b k := by
    obtain ⟨l, hl, hst⟩ := ht
    cases hk.symm.trans hl
    exact .of_st s b (by rw [hst]; decide)
  have hsame {j : Job} (hj : s.job h = some j) (hfatal : s.Fatal b j) :
      s.EndsJobs s ∧ (∀ x, x ≠ h → s.job x = s.job x) ∧ ∀ k, s.job h = some k → s.Fatal b k :=
    ⟨.refl s, fun _ _ => rfl, fun k hk => Option.some.inj (hj.symm.trans hk) ▸ hfatal⟩
  have hgiven {j : Job} (hj : s.job h = some j) :
      s.EndsJobs (s.endFatally h record) ∧ (∀ x, x ≠ h → (s.endFatally h record).job x = s.job x) ∧
        ∀ k, (s.endFatally h record).job h = some k → s.Fatal b k :=
    ⟨.endFatally .., (State.endFatally_spec record hj).2, hended (State.endFatally_spec record hj).1⟩
  unfold State.fatalJob
  cases hj : s.job h with
  | none => exact ⟨.refl s, fun _ _ => rfl, fun k hk => absurd (hj.symm.trans hk) (by simp)⟩
  | some j =>
    dsimp only
    split
    · next hst =>
      obtain ⟨⟨l, hl, hwithdrawn⟩, -⟩ := State.withdraw_spec Status.refused hj (.inl hst)
      refine ⟨.withdraw .., fun x hx => s.withdraw_job_ne hx, fun k hk => ?_⟩
      cases hk.symm.trans hl
      exact .of_st s b (by rw [hwithdrawn]; decide)
    · exact hgiven hj
    · next hst =>
      split
      · next hhalted => exact hsame hj (by rw [State.Fatal, hst]; exact ⟨by decide, by decide, fun _ => hhalted, nofun⟩)
      · exact hgiven hj
    · next hst =>
      split
      · next hstays => exact hsame hj (by rw [State.Fatal, hst]; exact ⟨by decide, by decide, nofun, fun _ => hstays⟩)
      · split
        · next hend =>
          exact ⟨.applyEnd .., fun x hx => State.applyEnd_job_ne hj hend hx, hended (State.applyEnd_st hj hend)⟩
        · exact hgiven hj
    · next hwaiting harmed hadmitted hrunning => exact hsame hj (.of_st s b ⟨hwaiting, harmed, hadmitted, hrunning⟩)

/-- Every job that is in the list has had its end. -/
theorem State.foldl_fatalJob_spec (record : Word) (b : Nat) (l : List Handle) (s : State) :
    s.EndsJobs (l.foldl (fun t h => t.fatalJob h record b) s) ∧
      ∀ h k, (l.foldl (fun t h => t.fatalJob h record b) s).job h = some k →
        if h ∈ l then s.Fatal b k else s.job h = some k := by
  induction l generalizing s with
  | nil => exact ⟨.refl s, fun h k hk => by simpa using hk⟩
  | cons a l ih =>
    obtain ⟨hends, hothers, hself⟩ := s.fatalJob_spec a record b
    obtain ⟨hends', hjobs⟩ := ih (s.fatalJob a record b)
    rw [List.foldl_cons]
    refine ⟨hends.trans hends', fun h k hk => ?_⟩
    have hlater := hjobs h k hk
    by_cases hl : h ∈ l
    · rw [if_pos hl] at hlater
      rw [if_pos (List.mem_cons_of_mem _ hl)]
      exact hends.fatal hlater
    · rw [if_neg hl] at hlater
      by_cases ha : h = a
      · subst ha
        rw [if_pos (List.mem_cons_self ..)]
        exact hself k hlater
      · rw [if_neg (by simp [ha, hl]), ← hothers h ha]
        exact hlater

theorem execFatalEnd_due {s : State} {r : Word} {b : Nat} (hfatal : s.err.fatalNext = some (r, b)) (hdue : b ≤ s.beat) :
    exec .fatalEnd s = .next ((s.jobs.map fun e => BitVec.ofNat 16 e.1).foldl (fun t h => t.fatalJob h r b)
      { s with err := { s.err with fatalNext := none } }) := by
  show execFatalEnd s = _
  unfold execFatalEnd
  rw [hfatal]
  dsimp only
  rw [if_pos hdue, List.foldl_map, List.foldl_map]

theorem execJobContainedEnd_due {handle : Handle} {s : State} {j : Job} {r : Word} {b : Nat} (hj : s.job handle = some j)
    (hend : j.pendingEnd = some (.contained, r, b)) (hdue : b ≤ s.beat) :
    exec (.jobContainedEnd handle) s = .next (if s.halted && s.haltedJob j then s else s.applyEnd handle) := by
  show execJobContainedEnd handle s = _
  unfold execJobContainedEnd
  rw [hj]
  dsimp only
  rw [hend]
  dsimp only
  cases hhalted : s.halted && s.haltedJob j
  · rw [if_pos ⟨hdue, by simpa [Bool.and_eq_false_iff, imp_iff_not_or] using hhalted⟩]
    rfl
  · rw [if_neg (by simpa [hdue] using hhalted)]
    rfl

/-- Settles O32: each end by what it leaves of its job; the fatal end job by job, over the list of all. -/
theorem recordedEndsComeAtTheBoundary : Obligations.RecordedEndsComeAtTheBoundary := by
  unfold Obligations.RecordedEndsComeAtTheBoundary
  refine ⟨fun handle s j r b hj hend hdue => ⟨fun hhalted => ?_, fun hruns => ?_⟩, fun s r b hfatal hdue => ?_⟩
  · exact (execJobContainedEnd_due hj hend hdue).trans (congrArg _ (if_pos hhalted))
  · obtain ⟨k, hspec⟩ := State.applyEnd_spec hj hend
    exact ⟨_, k, (execJobContainedEnd_due hj hend hdue).trans (congrArg _ (if_neg (by simp [hruns]))), hspec⟩
  · obtain ⟨hends, hjobs⟩ := State.foldl_fatalJob_spec r b (s.jobs.map fun e => BitVec.ofNat 16 e.1)
      { s with err := { s.err with fatalNext := none } }
    refine ⟨_, execFatalEnd_due hfatal hdue, by rw [hends.err], fun h k hk => ?_⟩
    have hjob := hjobs h k hk
    split at hjob
    · exact hjob
    · next hout =>
      refine absurd (List.mem_map.2 ⟨(h.toNat, k), mem_of_tabFind hjob, ?_⟩) hout
      exact BitVec.ofNat_toNat ..

end Sys2Proof.Machine
end

section
/-! Faults of the CP, the network, the root of trust and the cores, and the error commands (R329, R330, R469 to R478): O55. -/

namespace Sys2Proof.Machine

/-! ## What a record names (R469, R470) -/

/-- A record of a partition gives it in FLAGS, and of an active one gives nothing else but its ID. -/
theorem State.makeRecord_spec {s : State} {unit p : Nat} (code : Nat) {i : ErrInfo} (hpart : s.errPart unit i = some p) (hp : p < 8) :
    (s.makeRecord unit code i).id = BitVec.ofNat 32 (unit * 2 ^ 20 + (s.errUnit unit).seq) ∧
      bitsOf (s.makeRecord unit code i).flags.toNat 4 3 = p ∧ bitsOf (s.makeRecord unit code i).flags.toNat 7 1 = 1 := by
  unfold State.makeRecord
  extract_lets u esc cls sec part flags id
  have hcls : cls < 4 := by
    have hbase : errBase code ≤ 2 := by
      unfold errBase
      split_ifs <;> decide
    dsimp only [cls]
    split <;> omega
  have hfields : bitsOf (BitVec.ofNat 8 flags).toNat 4 3 = p ∧ bitsOf (BitVec.ofNat 8 flags).toNat 7 1 = 1 := by
    have hgiven : part = some p := hpart
    have hesc : bit esc ≤ 1 := by cases esc <;> decide
    have hsec : bit sec ≤ 1 := by cases sec <;> decide
    have hflags : flags = cls + 4 * bit esc + 8 * bit sec + 16 * p + 128 := by
      dsimp only [flags]
      rw [hgiven]
      rfl
    simp only [bitsOf_eq_div, BitVec.toNat_ofNat, hflags]
    omega
  split
  · exact ⟨rfl, hfields⟩
  · exact ⟨rfl, hfields⟩

theorem State.makeRecord_active {s : State} {unit p : Nat} (code : Nat) {i : ErrInfo} (hpart : s.errPart unit i = some p)
    (hactive : s.partActive p = true) :
    (s.makeRecord unit code i).code = 0 ∧ (s.makeRecord unit code i).handle = 0 ∧ (s.makeRecord unit code i).beat = 0 ∧
      (s.makeRecord unit code i).cycleEngine = 0 ∧ (s.makeRecord unit code i).detail = 0 ∧ (s.makeRecord unit code i).core = 0 ∧
      (s.makeRecord unit code i).addr = 0 := by
  unfold State.makeRecord
  rw [hpart]
  dsimp only
  rw [if_pos (by exact hactive)]
  exact ⟨rfl, rfl, rfl, rfl, rfl, rfl, rfl⟩

theorem State.makeRecord_open {s : State} {unit p : Nat} (code : Nat) {i : ErrInfo} (hpart : s.errPart unit i = some p)
    (hactive : s.partActive p = false) :
    (s.makeRecord unit code i).code = BitVec.ofNat 8 code ∧ (s.makeRecord unit code i).handle = i.handle ∧
      (s.makeRecord unit code i).beat = s.beatCtr ∧ (s.makeRecord unit code i).addr = BitVec.ofNat 64 i.addr := by
  unfold State.makeRecord
  rw [hpart]
  dsimp only
  rw [if_neg (by simp [hactive])]
  exact ⟨rfl, rfl, rfl, rfl⟩

/-! ## ERR_ACK and ERR_INJECT (R473, R478) -/

/-- SECONDARY is computed anew in records that keep their IDs and their order. -/
theorem map_id_resecond (b : Nat) (done l : List ErrRec) :
    (resecond b done l).map ErrRec.id = done.map ErrRec.id ++ l.map ErrRec.id := by
  induction l generalizing done with
  | nil => simp [resecond]
  | cons r l ih =>
    have hid : (if r.entry = b then r.withSecondary done else r).id = r.id := by
      split <;> rfl
    rw [resecond, ih]
    simp [hid]

/-- The records of a unit after an acknowledgement. -/
theorem State.ackRecords_ids (s : State) (unit : Nat) (id : Word) :
    let recs := (s.errUnit unit).recs
    let n := (recs.takeWhile fun r => r.id != id).length + 1
    ((s.ackRecords unit id).errUnit unit).recs.map ErrRec.id =
      ((recs.take n).filter (fun r => r.entry == s.beat) ++ recs.drop n).map ErrRec.id := by
  intro recs n
  have hunits (t u : State) (h : u.err.units = t.err.units) : u.errUnit unit = t.errUnit unit := by
    rw [State.errUnit, h, State.errUnit]
  have hkept (t : State) (x : ErrUnit) : (t.setErrUnit unit x).errUnit unit = x := tabGet_tabSet_self ..
  unfold State.ackRecords
  extract_lets u n' gone kept t
  have hrecs : (t.errUnit unit).recs = kept := by rw [hkept]
  have hids : kept.map ErrRec.id =
      ((recs.take n).filter (fun r => r.entry == s.beat) ++ recs.drop n).map ErrRec.id := map_id_resecond ..
  rw [← hids, ← hrecs]
  split
  · split
    · rfl
    · exact congrArg (fun x : ErrUnit => x.recs.map ErrRec.id) (hunits t _ rfl)
  · rfl

theorem State.ackRecords_mbs (s : State) (unit : Nat) (id : Word) : (s.ackRecords unit id).mbs = s.mbs := by
  unfold State.ackRecords
  extract_lets u n' gone kept t
  split
  · split
    · rfl
    · rfl
  · rfl

section

variable {mb : MailboxNum} {s : State} {x : TakenCmd}

theorem execErrAck_held (hheld : holds s mb 0x80 x) (hocc : s.occupied mb.toNat = false)
    (hin : ∃ r ∈ (s.errUnit (x.arg 0 % 2 ^ 12)).recs, r.id = BitVec.ofNat 32 (x.arg 1)) :
    exec (.errAck mb) s =
      .next ((s.ackRecords (x.arg 0 % 2 ^ 12) (BitVec.ofNat 32 (x.arg 1))).answer mb.toNat x Status.ok []) := by
  have hany : (s.errUnit (x.arg 0 % 2 ^ 12)).recs.any (fun r => r.id == BitVec.ofNat 32 (x.arg 1)) = true := by
    obtain ⟨r, hr, hid⟩ := hin
    exact List.any_eq_true.2 ⟨r, hr, by simp [hid]⟩
  show execErrAck mb s = _
  unfold execErrAck
  dsimp only
  rw [State.onTaken_of_holds hheld, bitsOf_zero, hany, if_neg (by decide), if_neg (by simp [hocc])]

theorem execErrInject_good (hheld : holds s mb 0x81 x) (hocc : s.occupied mb.toNat = false)
    (hpart : (s.unitPart (x.arg 0 % 2 ^ 12)).any s.partActive = false)
    (hfits : injectFits (x.arg 0 % 2 ^ 12) (x.arg 0 / 2 ^ 12 % 2 ^ 8) = true)
    (hnone : (s.errUnit (x.arg 0 % 2 ^ 12)).inject = none) :
    exec (.errInject mb) s = .next ((s.setErrUnit (x.arg 0 % 2 ^ 12) { s.errUnit (x.arg 0 % 2 ^ 12) with
      inject := some (BitVec.ofNat 8 (x.arg 0 / 2 ^ 12 % 2 ^ 8)) }).answer mb.toNat x Status.ok []) := by
  show execErrInject mb s = _
  unfold execErrInject
  dsimp only
  rw [State.onTaken_of_holds hheld, bitsOf_zero, bitsOf_eq_div, hpart, hfits, hnone, if_neg (by decide), if_neg (by decide),
    if_neg (by simp [hocc])]

end

/-! ## Faults of logic (R329, R330, R471) -/

/-- The fence that a parity fault brings is due at the next beat. -/
theorem State.coreLogicFault_fenceAt {s : State} {c : Nat} (hc : c < 1024) (h : s.fenced c = false) :
    ((s.coreLogicFault c).core c).fenceAt = some (s.beat + 1) := by
  unfold State.coreLogicFault
  have hentered := State.Reported.enterError s (UnitNo.core c) 0x08 { handle := (s.core c).job.getD 0, core := c }
  have hfenced := (hentered.reg (Dcb.coreFenceMap (c / 64)) (by simp only [Dcb.coreFenceMap, Dcb.traceCtrl]; omega))
  rw [State.fenceNext_fenceAt, hentered.beat]
  rw [State.fenced, hfenced]
  exact h

/-- A router fault leaves the fence of its cluster due, where none is. -/
theorem State.routerFault_clusterNext {s : State} {c : Nat} (h : ∀ e ∈ s.cp.clusterNext, e.1 ≠ clusterOf c) :
    (s.routerFault c).cp.clusterNext = s.cp.clusterNext ++ [(clusterOf c, s.beat + 1)] := by
  unfold State.routerFault
  extract_lets q i id t
  have hreported : s.Reported t := (State.Reported.enterError ..).trans (.markOn ..)
  have hcp : t.cp = s.cp := congrArg (fun x => x.2.2.2.2.1) hreported.coresUnits
  have hbeat : t.beat = s.beat := hreported.beat
  have hnone : t.cp.clusterNext.any (fun e => e.1 == q) = false := by
    rw [hcp]
    exact List.any_eq_false.2 fun e he => by simpa using h e he
  clear_value t
  rw [if_neg (by simp [hnone]), hcp, hbeat]

/-- What a fault leaves. -/
def State.logicFaulted (s : State) : LogicFault → State
  | .coreLogic c => s.coreLogicFault c.toNat
  | .router c => s.routerFault c.toNat
  | .controlNetwork => s.enterError UnitNo.cp 0x1A {}
  | .rootOfTrust => s.enterError UnitNo.rot 0x1C {}
  | .storage c e off double => s.storageFault c.toNat e.toNat off.toNat double
  | .ucieRetry => s.enterError UnitNo.ucie 0x19 { detail := 1 }

theorem execLogicFault_eq {fault : LogicFault} {s : State} (hwf : (Instr.logicFault fault).wf = true)
    (hreset : s.power.coldReset = false) : exec (.logicFault fault) s = .next (s.logicFaulted fault) := by
  refine (if_pos hwf).trans ((State.next_outOfReset hreset _).trans ?_)
  cases fault <;> rfl

/-- Settles O55: the fatal records by `State.enterError_fatal`, the others by what they add to their unit's queue. -/
theorem errorRecordsAreEnteredAndAcknowledged : Obligations.ErrorRecordsAreEnteredAndAcknowledged := by
  unfold Obligations.ErrorRecordsAreEnteredAndAcknowledged
  refine ⟨fun c unit code s hreset hc => ?_, fun core s hreset => ⟨fun hfenced => ?_, fun hnone => ?_,
    fun engine offset double hengine hroom => ?_, fun hroom => ?_⟩, fun mb s x hocc => ⟨fun hheld hin => ?_,
    fun hheld hpart hfits hnone => ?_⟩, fun s unit code p i hpart hp => ?_⟩
  · rcases hc with ⟨rfl, rfl, rfl⟩ | ⟨rfl, rfl, rfl⟩ | ⟨rfl, rfl, rfl⟩
    · exact ⟨_, State.next_outOfReset hreset _, s.enterError_fatal UnitNo.cp {} rfl⟩
    · exact ⟨_, execLogicFault_eq rfl hreset, s.enterError_fatal UnitNo.cp {} rfl⟩
    · exact ⟨_, execLogicFault_eq rfl hreset, s.enterError_fatal UnitNo.rot {} rfl⟩
  · exact ⟨_, execLogicFault_eq rfl hreset, State.coreLogicFault_fenceAt core.isLt hfenced⟩
  · exact ⟨_, execLogicFault_eq rfl hreset, State.routerFault_clusterNext hnone⟩
  · have hwf : (Instr.logicFault (.storage core engine offset double)).wf = true := decide_eq_true hengine
    exact ⟨_, _, execLogicFault_eq hwf hreset, rfl, rfl,
      State.enterError_recs (s := s.stepFree) _ _ hroom⟩
  · exact ⟨_, execLogicFault_eq rfl hreset, State.enterError_recs _ _ hroom⟩
  · exact ⟨_, execErrAck_held hheld hocc hin, answered_answer _ _ _ (State.mb_of_mbs (s.ackRecords_mbs ..) _),
      s.ackRecords_ids ..⟩
  · refine ⟨_, execErrInject_good hheld hocc hpart hfits hnone, answered_answer _ _ _ rfl, ?_⟩
    have hkept (t : State) (u : Nat) (y : ErrUnit) : (t.setErrUnit u y).errUnit u = y := tabGet_tabSet_self ..
    refine (congrArg ErrUnit.inject (hkept s (x.arg 0 % 2 ^ 12) _)).trans (congrArg some (BitVec.eq_of_toNat_eq ?_))
    simp only [BitVec.toNat_ofNat, Nat.mod_mod]
  · obtain ⟨hid, hp', hvalid⟩ := State.makeRecord_spec code hpart hp
    exact ⟨hid, hp', hvalid, State.makeRecord_active code hpart, State.makeRecord_open code hpart⟩

end Sys2Proof.Machine
end

section
/-! Sessions, reports, the lifecycle and key sets (R418 to R420, R426, R429, R430, R432, R440): O53. -/

namespace Sys2Proof.Machine

/-! ## The state of a partition (R426) -/

theorem secPstat_ne_secLcs (p : Nat) : Dcb.secPstat p ≠ Dcb.secLcs := by
  simp only [Dcb.secPstat, Dcb.secLcs]
  omega

theorem State.partState_of_dcb {s t : State} (h : t.dcb = s.dcb) (p : Nat) : t.partState p = s.partState p :=
  State.dcbF_of_dcbReg (State.dcbReg_of_dcb h _) 2 2

theorem State.partState_setPartState (s : State) (p v : Nat) : (s.setPartState p v).partState p = v % 4 := by
  unfold State.setPartState State.setAnyConf State.partState
  rw [State.dcbF_setDcbF_ne _ _ _ _ _ _ (secPstat_ne_secLcs p), State.dcbF_setDcbF_self _ _ _ (by decide)]
  rfl

/-- The end of a session writes the registers of its partition's state alone. -/
theorem State.endSession_dcb {s : State} {p : Nat} (h : s.partState p = 1) :
    (s.endSession p).dcb = ((s.setPartState p 2).setDcbF (Dcb.secPstat p) 10 4 0).dcb := by
  unfold State.endSession
  rw [if_pos h]
  extract_lets s₁ s₂ gone sec s₃
  have h₂ : s₂.dcb = s₁.dcb :=
    List.foldlRecOn (motive := fun t : State => t.dcb = s₁.dcb) _ _ rfl fun t ht _ _ => (State.modJob_dcb ..).trans ht
  have h₃ : s₃.dcb = s₁.dcb := h₂
  clear_value s₃
  exact List.foldlRecOn (motive := fun t : State => t.dcb = s₁.dcb) _ _ h₃ fun t ht _ _ => (State.complete_dcb ..).trans ht

/-- The end of a session brings its partition into SCRUB. -/
theorem State.endSession_partState {s : State} {p : Nat} (h : s.partState p = 1) : (s.endSession p).partState p = 2 := by
  rw [State.partState_of_dcb (State.endSession_dcb h), State.partState, State.dcbF_setDcbF_beside _ _ _ (by decide) (by decide),
    ← State.partState, State.partState_setPartState]

/-- The end of a session counts no failure. -/
theorem State.endSession_secTagfail {s : State} {p : Nat} (h : s.partState p = 1) :
    (s.endSession p).dcbReg Dcb.secTagfail = s.dcbReg Dcb.secTagfail := by
  have hne : Dcb.secTagfail ≠ Dcb.secPstat p := by
    simp only [Dcb.secTagfail, Dcb.secPstat]
    omega
  rw [State.dcbReg_of_dcb (State.endSession_dcb h), State.dcbReg_setDcbF, if_neg hne, State.setPartState, State.setAnyConf,
    State.dcbReg_setDcbF, if_neg (by decide), State.dcbReg_setDcbF, if_neg hne]

/-! ## SEC_SPDM (R418, R429, R430) -/

/-- The responder's answer changes the free values and the mailbox alone. -/
theorem State.spdmAnswer_eq (s : State) (m p : Nat) (x : TakenCmd) :
    ∃ ws, s.spdmAnswer m p x = s.stepFree.answer m x Status.ok ws := ⟨_, rfl⟩

/-- What a message of this kind at the secure mailbox of partition `p` brings. -/
def State.spdmHandled (s : State) (m p : Nat) (x : TakenCmd) (kind : Nat) : State :=
  if kind = 1 ∧ s.partState p = 0 then s.keyExchange m p x
  else if kind = 2 ∧ s.partState p = 0 ∧ tabGet false s.sec.kex p then (s.spdmAnswer m p x).openSession p
  else if kind = 3 ∧ s.partState p = 1 then (s.spdmAnswer m p x).endSession p
  else if kind = 4 ∧ s.partState p = 1 then s.securedData m p x
  else if kind = 5 ∧ s.partState p = 1 then s.secTagFail.spdmAnswer m p x
  else s.spdmAnswer m p x

theorem execSecSpdm_held {mb : MailboxNum} {s : State} {x : TakenCmd} {p : Nat} (hheld : holds s mb 0x60 x)
    (hsecure : s.secureOf mb.toNat = some p) (hocc : s.occupied mb.toNat = false) (hlo : 1 ≤ bitsOf (x.arg 0) 0 10)
    (hhi : bitsOf (x.arg 0) 0 10 ≤ 1012) :
    exec (.secSpdm mb) s = .next (s.spdmHandled mb.toNat p x
      (Config.spdmKind s.free (tabGet 0 s.sec.sessionKeys p) (tabGet 0 s.sec.seqIn p) x.message)) := by
  show execSecSpdm mb s = _
  unfold execSecSpdm
  dsimp only
  rw [State.onTaken_of_holds hheld, hsecure]
  dsimp only
  rw [if_neg (by omega), if_neg (by simp [hocc])]
  rfl

/-- A key exchange writes no register. -/
theorem State.keyExchange_dcb (s : State) (m p : Nat) (x : TakenCmd) : (s.keyExchange m p x).dcb = s.dcb := by
  unfold State.keyExchange
  split <;> rfl

theorem State.takeCmd_dcb (s : State) (m : Nat) (x : TakenCmd) : (s.takeCmd m x).dcb = s.dcb := by
  unfold State.takeCmd
  split
  · rfl
  · split <;> rfl

theorem State.securedData_dcb (s : State) (m p : Nat) (x : TakenCmd) : (s.securedData m p x).dcb = s.dcb := by
  unfold State.securedData
  extract_lets n ws sec t c
  split
  · rfl
  · exact State.takeCmd_dcb ..

/-- A message that fails authentication counts, and leaves the partition's state. -/
theorem State.secTagFail_spec (s : State) (p : Nat) :
    s.secTagFail.partState p = s.partState p ∧
      s.secTagFail.dcbReg Dcb.secTagfail = BitVec.ofNat 64 (min ((s.dcbReg Dcb.secTagfail).toNat + 1) (2 ^ 32 - 1)) := by
  have hflags : Dcb.secPstat p ≠ Dcb.secFlags := by
    simp only [Dcb.secPstat, Dcb.secFlags]
    omega
  have htag : Dcb.secPstat p ≠ Dcb.secTagfail := by
    simp only [Dcb.secPstat, Dcb.secTagfail]
    omega
  unfold State.secTagFail
  refine ⟨State.dcbF_of_dcbReg ?_ 2 2, ?_⟩
  · rw [State.dcbReg_setDcbBits, if_neg hflags, State.dcbReg_countDcb32, if_neg htag]
  · rw [State.dcbReg_setDcbBits, if_neg (by decide), State.dcbReg_countDcb32, if_pos rfl, satAdd]

section

variable {s : State} {m : MailboxNum} {p : Nat} {x : TakenCmd}

/-- A message to an IDLE partition with a key waiting: KEY_EXCHANGE alone draws it. -/
theorem State.spdmHandled_idle {kind : Nat} {k : BitVec 256} {rest : List (Option (BitVec 256))} (hidle : s.partState p = 0)
    (hkex : tabGet false s.sec.kex p = false) (hkey : s.ent.wireKey = some k :: rest) :
    (∃ ws, answered s (s.spdmHandled m.toNat p x kind) m x Status.ok ws) ∧ (s.spdmHandled m.toNat p x kind).partState p = 0 ∧
      tabGet false (s.spdmHandled m.toNat p x kind).sec.kex p = (kind == 1) ∧
      (s.spdmHandled m.toNat p x kind).ent.wireKey = if kind = 1 then rest else s.ent.wireKey := by
  unfold State.spdmHandled
  by_cases hone : kind = 1
  · rw [if_pos ⟨hone, hidle⟩, if_pos hone, hone, State.partState_of_dcb (State.keyExchange_dcb ..)]
    unfold State.keyExchange
    rw [hkey]
    exact ⟨⟨_, answered_answer _ _ _ rfl⟩, hidle, tabGet_tabSet_self false s.sec.kex p true, rfl⟩
  · rw [if_neg (fun h => hone h.1), if_neg (by simp [hkex]), if_neg (by simp [hidle]), if_neg (by simp [hidle]),
      if_neg (by simp [hidle]), if_neg hone]
    exact ⟨⟨_, answered_answer _ _ _ rfl⟩, hidle, hkex.trans (by simp [hone]), rfl⟩

/-- A message in the handshake: FINISH alone opens the session. -/
theorem State.spdmHandled_handshake {kind : Nat} (hidle : s.partState p = 0) (hkex : tabGet false s.sec.kex p = true) :
    (s.spdmHandled m.toNat p x kind).partState p = if kind = 2 then 1 else 0 := by
  unfold State.spdmHandled
  by_cases hone : kind = 1
  · rw [if_pos ⟨hone, hidle⟩, State.partState_of_dcb (State.keyExchange_dcb ..), hidle, if_neg (by omega)]
  · rw [if_neg (fun h => hone h.1)]
    by_cases htwo : kind = 2
    · rw [if_pos ⟨htwo, hidle, hkex⟩, if_pos htwo, State.openSession, State.partState_setPartState]
    · rw [if_neg (fun h => htwo h.1), if_neg (by simp [hidle]), if_neg (by simp [hidle]), if_neg (by simp [hidle]), if_neg htwo]
      exact hidle

/-- A message in SESSION: END_SESSION alone ends it, and a failed authentication alone counts. -/
theorem State.spdmHandled_session {kind : Nat} (hopen : s.partState p = 1) :
    (s.spdmHandled m.toNat p x kind).partState p = (if kind = 3 then 2 else 1) ∧
      (s.spdmHandled m.toNat p x kind).dcbReg Dcb.secTagfail =
        if kind = 5 then BitVec.ofNat 64 (min ((s.dcbReg Dcb.secTagfail).toNat + 1) (2 ^ 32 - 1))
        else s.dcbReg Dcb.secTagfail := by
  have hanswer : (s.spdmAnswer m.toNat p x).dcb = s.dcb := rfl
  unfold State.spdmHandled
  rw [if_neg (by simp [hopen]), if_neg (by simp [hopen])]
  by_cases hthree : kind = 3
  · have hopen' : (s.spdmAnswer m.toNat p x).partState p = 1 := (State.partState_of_dcb hanswer p).trans hopen
    rw [if_pos ⟨hthree, hopen⟩, if_pos hthree, if_neg (by omega), State.endSession_partState hopen',
      State.endSession_secTagfail hopen', State.dcbReg_of_dcb hanswer]
    exact ⟨rfl, rfl⟩
  · rw [if_neg (fun h => hthree h.1), if_neg hthree]
    by_cases hfour : kind = 4
    · have hdcb := s.securedData_dcb m.toNat p x
      rw [if_pos ⟨hfour, hopen⟩, if_neg (by omega), State.partState_of_dcb hdcb, State.dcbReg_of_dcb hdcb]
      exact ⟨hopen, rfl⟩
    · rw [if_neg (fun h => hfour h.1)]
      by_cases hfive : kind = 5
      · obtain ⟨hstate, hcount⟩ := s.secTagFail_spec p
        rw [if_pos ⟨hfive, hopen⟩, if_pos hfive]
        exact ⟨hstate.trans hopen, hcount⟩
      · rw [if_neg (fun h => hfive h.1), if_neg hfive]
        exact ⟨hopen, State.dcbReg_of_dcb hanswer _⟩

end

/-! ## SEC_REPORT, SEC_LIFECYCLE, SEC_KEYSET and SEC_KEYDEL -/

section

variable {mb : MailboxNum} {s : State} {x : TakenCmd}

theorem execSecReport_good (hheld : holds s mb 0x61 x) (hocc : s.occupied mb.toNat = false) (hlive : s.dcbF Dcb.secLcs 0 2 ≠ 2)
    (hpart : bitsOf (x.arg 0) 0 8 = 0xFF ∨ (bitsOf (x.arg 0) 0 8 ≤ 7 ∧ s.partValid (bitsOf (x.arg 0) 0 8) = true)) :
    exec (.secReport mb) s = .next (s.answer mb.toNat x Status.ok (wordsOfBytes
      (s.reportBody (bitsOf (x.arg 0) 0 8) (wordBytes (x.args.drop 1)) ++ octets (ecdsaSign s.sec.aliasKey
        (sha384 (s.reportBody (bitsOf (x.arg 0) 0 8) (wordBytes (x.args.drop 1))))) 0 96))) := by
  have hgood : ¬((7 < bitsOf (x.arg 0) 0 8 ∧ bitsOf (x.arg 0) 0 8 ≠ 0xFF) ∨
      (bitsOf (x.arg 0) 0 8 ≤ 7 ∧ (!s.partValid (bitsOf (x.arg 0) 0 8)) = true)) := by
    rcases hpart with hall | ⟨hle, hvalid⟩
    · omega
    · simp [hvalid]
      omega
  show execSecReport mb s = _
  unfold execSecReport
  dsimp only
  rw [State.onTaken_of_holds hheld, if_neg hlive, if_neg hgood, if_neg (by simp [hocc])]

/-- SEC_LIFECYCLE of a live part without an active partition. -/
theorem execSecLifecycle_live (hheld : holds s mb 0x63 x) (hocc : s.occupied mb.toNat = false) (hconf : s.anyConf = false)
    (hlive : s.dcbF Dcb.secLcs 0 2 = 1) (hop : bitsOf (x.arg 0) 0 2 < 2) :
    exec (.secLifecycle mb) s = .next
      (if bitsOf (x.arg 0) 0 2 = 0 then s.newChallenge.answer mb.toNat x Status.ok (wordsOfBytes s.newChallenge.sec.challenge)
      else if s.returnTokenOk (wordBytes (x.args.drop 1)) then (s.setDcbF Dcb.secLcs 4 1 1).answer mb.toNat x Status.ok []
      else s.answer mb.toNat x Status.refused []) := by
  show execSecLifecycle mb s = _
  unfold execSecLifecycle
  dsimp only
  rw [State.onTaken_of_holds hheld, if_neg (by omega), if_neg (by simp [hocc]), if_neg (by simp [hconf, hlive])]

/-- A key set that takes a value, and its bit of KEYSETS. -/
theorem State.setKeySet_spec (s : State) {p k : Nat} (y : KeySet) (hk : k < 4) :
    (s.setKeySet p k y).keySet p k = y ∧ (s.setKeySet p k y).dcbF (Dcb.secPstat p) (10 + k) 1 = bit y.installed := by
  refine ⟨tabGet_tabSet_self .., ?_⟩
  unfold State.setKeySet
  rw [State.dcbF_setDcbF_self _ _ _ (by omega)]
  cases y.installed <;> rfl

theorem execSecKeyset_free {p k : Nat} {g : Byte} (hheld : holds s mb 0x64 x) (hocc : s.occupied mb.toNat = false)
    (hsession : x.session = some (p, k, g)) (hfree : s.keySetHeld p k = false) :
    exec (.secKeyset mb) s = .next ((s.setKeySet p k { KeySet.reset with
      wkey := x.key 0, xkey := x.key 8, tkey := x.key 16, installed := true }).answer mb.toNat x Status.ok []) := by
  show execSecKeyset mb s = _
  unfold execSecKeyset
  dsimp only
  rw [State.onTaken_of_holds hheld, hsession]
  dsimp only
  rw [if_neg (by simp [hocc, hfree])]

theorem execSecKeydel_free {p k : Nat} {g : Byte} (hheld : holds s mb 0x65 x) (hocc : s.occupied mb.toNat = false)
    (hsession : x.session = some (p, k, g)) (hfree : s.keySetHeld p k = false) :
    exec (.secKeydel mb) s = .next ((s.setKeySet p k KeySet.reset).answer mb.toNat x Status.ok []) := by
  show execSecKeydel mb s = _
  unfold execSecKeydel
  dsimp only
  rw [State.onTaken_of_holds hheld, hsession]
  dsimp only
  rw [if_neg (by simp [hocc, hfree])]

end

/-- Settles O53: each message by the state of its partition, and the other commands by what they answer. -/
theorem securityCommandsAnswer : Obligations.SecurityCommandsAnswer := by
  unfold Obligations.SecurityCommandsAnswer
  refine ⟨fun mb s x p hheld hsecure hocc hlo hhi => ?_, fun mb s x hocc => ⟨fun hheld hlive hpart => ?_,
    fun hheld hconf hlive => ⟨fun hop => ?_, fun hop => ?_⟩, fun p k g hsession hk hfree => ⟨fun hheld => ?_, fun hheld => ?_⟩⟩⟩
  · have hexec := execSecSpdm_held hheld hsecure hocc hlo hhi
    intro kind
    refine ⟨fun key rest hidle hkex hkey => ?_, fun hidle hkex => ?_, fun hopen => ?_⟩
    · obtain ⟨⟨ws, hanswered⟩, hspec⟩ := State.spdmHandled_idle (m := mb) (x := x) (kind := kind) hidle hkex hkey
      exact ⟨_, ws, hexec, hanswered, hspec⟩
    · exact ⟨_, hexec, State.spdmHandled_handshake hidle hkex⟩
    · exact ⟨_, hexec, State.spdmHandled_session hopen⟩
  · exact ⟨_, execSecReport_good hheld hocc hlive hpart, answered_answer _ _ _ rfl⟩
  · have hexec := (execSecLifecycle_live hheld hocc hconf hlive (by omega)).trans (congrArg _ (if_pos hop))
    exact ⟨_, hexec, answered_answer _ _ _ rfl, rfl⟩
  · have hexec := (execSecLifecycle_live hheld hocc hconf hlive (by omega)).trans (congrArg _ (if_neg (by omega)))
    refine ⟨_, hexec, ?_⟩
    split
    · refine ⟨answered_answer _ _ _ rfl, State.dcbF_setDcbF_self s _ _ (by decide), ?_⟩
      exact (State.dcbF_setDcbF_beside s _ _ (by decide) (by decide)).trans hlive
    · exact ⟨answered_answer _ _ _ rfl, rfl⟩
  · exact ⟨_, execSecKeyset_free hheld hocc hsession hfree, answered_answer _ _ _ rfl, s.setKeySet_spec _ hk⟩
  · exact ⟨_, execSecKeydel_free hheld hocc hsession hfree, answered_answer _ _ _ rfl, s.setKeySet_spec _ hk⟩

end Sys2Proof.Machine
end

section
/-! Boot (R330, R389, R391 to R393, R417, R428): O40. -/

namespace Sys2Proof.Machine

/-! ## BOOT_GO (R391, R392) -/

/-- A GO that is dropped leaves the state of the boot and sets WRDROP. -/
theorem State.setWrdrop_spec (s : State) :
    (s.setDcbBits Dcb.bootStat 0x10).bootState = s.bootState ∧ (s.setDcbBits Dcb.bootStat 0x10).dcbF Dcb.bootStat 4 1 = 1 := by
  refine ⟨?_, State.dcbF_setDcbBits_self _ _ (by decide)⟩
  rw [State.bootState, State.dcbF, State.dcbReg_setDcbBits, if_pos rfl, bitsOf_or_of_zero _ (by decide), State.bootState, State.dcbF]

theorem execBootGo_eq {s : State} (hreset : s.power.coldReset = false) : exec .bootGo s = .next s.bootGo :=
  if_neg (by simp [hreset])

/-! ## The configuration and the calibration (R383, R389) -/

/-- From `s` to `t` the state of the boot, the identity of the firmware and the root of trust stand, but for the hash of the
configuration. -/
structure State.Configured (s t : State) : Prop where
  boot : t.bootState = s.bootState
  fwId : t.dcbReg Dcb.fwId = s.dcbReg Dcb.fwId
  abiId : t.dcbReg Dcb.abiId = s.dcbReg Dcb.abiId
  sec : t.sec = { s.sec with cfgHash := t.sec.cfgHash }

namespace State.Configured

variable {s t u : State}

theorem refl (s : State) : Configured s s := ⟨rfl, rfl, rfl, rfl⟩

theorem trans (h : Configured s t) (h' : Configured t u) : Configured s u where
  boot := h'.boot.trans h.boot
  fwId := h'.fwId.trans h.fwId
  abiId := h'.abiId.trans h.abiId
  sec := by rw [h'.sec, h.sec]

theorem ite {p : Prop} [Decidable p] (h : Configured s t) (h' : Configured s u) : Configured s (if p then t else u) := by
  split
  · exact h
  · exact h'

theorem foldl {α : Type} {f : State → α → State} (h : ∀ (t : State) (a : α), Configured t (f t a)) (l : List α) (s : State) :
    Configured s (l.foldl f s) :=
  List.foldlRecOn (motive := fun t : State => Configured s t) l f (refl s) fun _ ht a _ => ht.trans (h _ a)

/-- The registers stand, and so does the root of trust but for the hash. -/
theorem of_dcb (hdcb : t.dcb = s.dcb) (hsec : t.sec = { s.sec with cfgHash := t.sec.cfgHash }) : Configured s t :=
  ⟨State.dcbF_of_dcbReg (State.dcbReg_of_dcb hdcb _) 0 3, State.dcbReg_of_dcb hdcb _, State.dcbReg_of_dcb hdcb _, hsec⟩

theorem setCp (s : State) (x : Cp) : Configured s { s with cp := x } := of_dcb rfl rfl

/-- A register other than BOOT_STAT, FW_ID and ABI_ID is written. -/
theorem setDcb (s : State) {o : Nat} (v : Dword) (h : Dcb.bootStat ≠ o ∧ Dcb.fwId ≠ o ∧ Dcb.abiId ≠ o) : Configured s (s.setDcb o v) := by
  obtain ⟨hboot, hfw, habi⟩ := h
  have hreg {x : Nat} (hx : x ≠ o) : (s.setDcb o v).dcbReg x = s.dcbReg x := by rw [State.dcbReg_setDcb, if_neg hx]
  exact ⟨State.dcbF_of_dcbReg (hreg hboot) 0 3, hreg hfw, hreg habi, by rw [State.setDcb_sec]⟩

theorem setDcbF (s : State) {o : Nat} (lo n v : Nat) (h : Dcb.bootStat ≠ o ∧ Dcb.fwId ≠ o ∧ Dcb.abiId ≠ o) :
    Configured s (s.setDcbF o lo n v) := setDcb s _ h

theorem linkCtrl_ne (l : Nat) : Dcb.bootStat ≠ Dcb.linkCtrl l ∧ Dcb.fwId ≠ Dcb.linkCtrl l ∧ Dcb.abiId ≠ Dcb.linkCtrl l := by
  simp only [Dcb.bootStat, Dcb.fwId, Dcb.abiId, Dcb.linkCtrl]
  omega

theorem setBase (s : State) (master : Bool) (id masterId up linkEn base size priv : Nat) (parts : Nat → Nat) :
    Configured s (s.setBase master id masterId up linkEn base size priv parts) := by
  unfold State.setBase
  extract_lets cp s₁ s₂ s₃ s₄
  have h₁ : Configured s s₁ := of_dcb rfl rfl
  have h₂ : Configured s s₂ := ((h₁.trans (setDcbF _ _ _ _ (by decide))).trans (setDcbF _ _ _ _ (by decide))).trans
    (setDcbF _ _ _ _ (by decide))
  have h₃ : Configured s s₃ := h₂.trans (foldl (fun t l => (setDcbF t _ _ _ (linkCtrl_ne l)).trans (setDcbF _ _ _ _ (linkCtrl_ne l))) _ _)
  have h₄ : Configured s s₄ := h₃.trans (setDcbF _ _ _ _ (by decide))
  exact (h₄.trans (setDcbF _ _ _ _ (by decide))).trans (setDcbF _ _ _ _ (by decide))

theorem setPartition (s : State) (i stat clusters res : Nat) : Configured s (s.setPartition i stat clusters res) := by
  unfold State.setPartition
  refine ((setDcb s _ ?_).trans (setDcb _ _ ?_)).trans (setDcb _ _ ?_) <;>
    (simp only [Dcb.bootStat, Dcb.fwId, Dcb.abiId, Dcb.secPstat, Dcb.secPclu, Dcb.secPres]; omega)

theorem loadOverlays (s : State) : Configured s s.loadOverlays := by
  unfold State.loadOverlays
  refine foldl (fun t n => ?_) _ _
  dsimp only
  split
  · exact (setCp t _).trans (setDcbF (o := Dcb.cfgActive) _ _ _ _ (by decide))
  · exact setDcbF (o := Dcb.cfgStat) _ _ _ _ (by decide)

theorem applyConfig (s : State) : Configured s s.applyConfig := by
  unfold State.applyConfig
  extract_lets cp sec s₁ t₁ t₂
  have h₁ : Configured s s₁ := of_dcb rfl rfl
  have ht₁ : Configured s t₁ := h₁.trans (setBase ..)
  have ht₂ : Configured s t₂ := ht₁.trans (foldl (fun _ _ => ite (setPartition ..) (setPartition ..)) _ _)
  exact ite (ht₂.trans (loadOverlays _))
    (((h₁.trans (setBase ..)).trans (setPartition ..)).trans (setDcbF _ _ _ _ (by decide)))

theorem entTrim (s : State) (n : Nat) (v : Dword) : Configured s (s.entTrim true n v) := by
  have hreg {o : Nat} (hstat : o ≠ Dcb.entStat) (htrim : o ≠ Dcb.entTrim n) : (s.entTrim true n v).dcbReg o = s.dcbReg o :=
    (State.entSetRestart_dcbReg _ hstat).trans (by rw [State.dcbReg_setDcb, if_neg htrim])
  have htrim {o : Nat} (h : o < 0x3040) : o ≠ Dcb.entTrim n := by
    simp only [Dcb.entTrim]
    omega
  refine ⟨State.dcbF_of_dcbReg (hreg (by decide) (htrim (by decide))) 0 3, hreg (by decide) (htrim (by decide)),
    hreg (by decide) (htrim (by decide)), ?_⟩
  rfl

theorem applyCalibration (s : State) : Configured s s.applyCalibration := by
  unfold State.applyCalibration
  extract_lets ok t
  have ht : Configured s t := foldl (fun _ _ => entTrim ..) _ _
  refine ht.trans ⟨State.dcbF_setDcbF_beside _ _ _ (by decide) (by decide), ?_, ?_, by rw [State.setDcbF_sec]⟩
  · rw [State.dcbReg_setDcbF, if_neg (by decide)]
  · rw [State.dcbReg_setDcbF, if_neg (by decide)]

end State.Configured

/-! ## FW_VERIFY_DONE (R391, R393, R417) -/

/-- The state when the image has passed its checks, before its configuration. -/
def State.imageTaken (s : State) : State :=
  ((State.setDcbF { s with sec := Security.deriveKeys { s.sec with fwHash := BitVec.ofNat 384 (beNat s.fwHash) } } Dcb.bootStat 0 3
    3).setDcb Dcb.fwId (BitVec.ofNat 64 (s.fwAt 8 4))).setDcb Dcb.abiId (BitVec.ofNat 64 (s.fwAt 0x0C 2))

/-- The state when a check of the image has failed. -/
def State.imageRefused (s : State) : State :=
  ((s.setDcbF Dcb.bootStat 0 3 2).setDcbF Dcb.bootStat 16 2 s.fwReason).setDcbF Dcb.bootStat 8 8
    (min (s.dcbF Dcb.bootStat 8 8 + 1) 255)

theorem execFwVerifyDone_eq {s : State} (h : s.bootState = 1) :
    exec .fwVerifyDone s = .next (if s.fwReason = 0 then s.imageTaken.applyConfig.applyCalibration else s.imageRefused) := by
  show execFwVerifyDone s = _
  unfold execFwVerifyDone
  rw [if_neg (by simp [h])]
  dsimp only
  split
  · rfl
  · rfl

theorem State.imageTaken_regs (s : State) : s.imageTaken.bootState = 3 ∧
    s.imageTaken.dcbReg Dcb.fwId = BitVec.ofNat 64 (s.fwAt 8 4) ∧
    s.imageTaken.dcbReg Dcb.abiId = BitVec.ofNat 64 (s.fwAt 0x0C 2) := by
  unfold State.imageTaken
  refine ⟨?_, ?_, State.dcbReg_setDcb_self ..⟩
  · rw [State.bootState, State.dcbF, State.dcbReg_setDcb, if_neg (by decide), State.dcbReg_setDcb, if_neg (by decide), ← State.dcbF,
      State.dcbF_setDcbF_self _ _ _ (by decide)]
    rfl
  · rw [State.dcbReg_setDcb, if_neg (by decide), State.dcbReg_setDcb_self]

theorem State.fwReason_le (s : State) : s.fwReason ≤ 3 := by
  unfold State.fwReason
  split_ifs <;> decide

theorem State.imageRefused_regs (s : State) : s.imageRefused.bootState = 2 ∧ s.imageRefused.dcbF Dcb.bootStat 16 2 = s.fwReason ∧
    s.imageRefused.dcbF Dcb.bootStat 8 8 = min (s.dcbF Dcb.bootStat 8 8 + 1) 255 := by
  have hreason := s.fwReason_le
  unfold State.imageRefused
  refine ⟨?_, ?_, ?_⟩
  · rw [State.bootState, State.dcbF_setDcbF_beside _ _ _ (by decide) (by decide),
      State.dcbF_setDcbF_beside _ _ _ (by decide) (by decide), State.dcbF_setDcbF_self _ _ _ (by decide)]
    rfl
  · rw [State.dcbF_setDcbF_beside _ _ _ (by decide) (by decide), State.dcbF_setDcbF_self _ _ _ (by decide)]
    omega
  · rw [State.dcbF_setDcbF_self _ _ _ (by decide)]
    omega

/-! ## BOOT_READY (R330, R389, R393, R428) -/

/-- The fence of a cluster adds its 16 cores to those that are fenced. -/
theorem State.fenced_foldl_fenceCore (l : List Nat) (f : Nat → Nat) (s : State) (x : Nat) :
    (l.foldl (fun t i => t.fenceCore (f i)) s).fenced x = (s.fenced x || decide (x ∈ l.map f)) := by
  induction l generalizing s with
  | nil => simp
  | cons i l ih =>
    rw [List.foldl_cons, ih, (s.fenceCore_spec (f i) x).2]
    by_cases hx : x = f i <;> simp [hx]

theorem State.fenced_fenceCluster (s : State) (q c : Nat) : (s.fenceCluster q).fenced c = (s.fenced c || decide (clusterOf c = q)) := by
  have hne : Dcb.coreFenceMap (c / 64) ≠ Dcb.clusterFence := by
    simp only [Dcb.coreFenceMap, Dcb.clusterFence]
    omega
  have hmem : c ∈ (List.range 16).map (fun i => 16 * q + i) ↔ clusterOf c = q := by
    simp only [List.mem_map, List.mem_range, clusterOf]
    exact ⟨fun ⟨i, hi, h⟩ => by omega, fun h => ⟨c % 16, by omega, by omega⟩⟩
  rw [State.fenced, State.fenceCluster_eq, State.dcbReg_setDcbF, if_neg hne, ← State.fenced, State.coresFenced,
    State.fenced_foldl_fenceCore]
  simp only [hmem]

/-- The fence of a cluster writes its bit of CLUSTER_FENCE. -/
theorem State.clusterFence_fenceCluster (s : State) {q x : Nat} (hq : q < 64) (hx : x < 64) :
    ((s.fenceCluster q).dcbReg Dcb.clusterFence).toNat.testBit x = ((s.dcbReg Dcb.clusterFence).toNat.testBit x || decide (x = q)) := by
  have hcores : (s.coresFenced q).dcbReg Dcb.clusterFence = s.dcbReg Dcb.clusterFence := by
    refine List.foldlRecOn (motive := fun t : State => t.dcbReg Dcb.clusterFence = s.dcbReg Dcb.clusterFence) _ _ rfl fun t ht i _ => ?_
    have hne : Dcb.clusterFence ≠ Dcb.coreFenceMap ((16 * q + i) / 64) := by
      simp only [Dcb.coreFenceMap, Dcb.clusterFence]
      omega
    rw [State.fenceCore, State.dcbReg_setDcbF, if_neg hne, ← ht]
    rfl
  rw [testBit_eq_bitsOf, testBit_eq_bitsOf, State.fenceCluster_eq, ← State.dcbF]
  by_cases hxq : x = q
  · subst hxq
    rw [State.dcbF_setDcbF_self _ _ _ hq]
    simp
  · rw [State.dcbF_setDcbF_beside _ _ _ hx (by omega), State.dcbF, hcores]
    simp [hxq]

/-- Clusters that are fenced one after the other. -/
theorem State.foldl_fenceCluster_spec (l : List Nat) (hl : ∀ q ∈ l, q < 64) (s : State) :
    (∀ c, (l.foldl State.fenceCluster s).fenced c = (s.fenced c || decide (clusterOf c ∈ l))) ∧
      ∀ x < 64, ((l.foldl State.fenceCluster s).dcbReg Dcb.clusterFence).toNat.testBit x =
        ((s.dcbReg Dcb.clusterFence).toNat.testBit x || decide (x ∈ l)) := by
  induction l generalizing s with
  | nil => simp
  | cons q l ih =>
    obtain ⟨hcores, hmap⟩ := ih (fun x hx => hl x (List.mem_cons_of_mem _ hx)) (s.fenceCluster q)
    rw [List.foldl_cons]
    refine ⟨fun c => ?_, fun x hx => ?_⟩
    · rw [hcores, State.fenced_fenceCluster]
      simp [Bool.or_assoc, List.mem_cons]
    · rw [hmap x hx, State.clusterFence_fenceCluster s (hl q (List.mem_cons_self ..)) hx]
      simp [Bool.or_assoc, List.mem_cons]

/-- The clusters whose routers the checks at boot found faulty. -/
def faultyClusters (faulty : Dword) : List Nat := (List.range 64).filter fun q => faulty.toNat.testBit q

/-- The clusters with a faulty router are fenced. -/
def State.routersChecked (s : State) (faulty : Dword) : State := (faultyClusters faulty).foldl State.fenceCluster s

/-- The stacks' TRAINED bits are written. -/
def State.stacksTrained (s : State) (trained : Word) : State :=
  (List.range 32).foldl (fun s k => s.setDcbF (Dcb.hbmStat k) 0 1 (bit (trained.toNat.testBit k))) s

/-- Memory is zeroed on a part with confidential mode. -/
def State.memoryZeroed (s : State) : State := if s.dcbF Dcb.secLcs 2 1 = 1 then s.zeroMemory else s

/-- Enabled ports start to train. -/
def State.portsStarted (s : State) : State :=
  (List.range 16).foldl (fun s l =>
    if s.dcbF (Dcb.linkCtrl l) 0 1 = 1 ∧ s.dcbF (Dcb.linkStat l) 0 2 = 0 then s.setDcbF (Dcb.linkStat l) 0 2 1 else s) s

/-- STATE is READY. -/
def State.bootEnded (s : State) : State := ((s.setDcbF Dcb.bootStat 0 3 4).setDcb Dcb.bootTime s.beatCtr).dieEvent 129

theorem execBootReady_eq {trained : Word} {faulty : Dword} {s : State} (hinit : s.bootState = 3) (hreset : s.power.coldReset = false) :
    exec (.bootReady trained faulty) s =
      .next ((s.routersChecked faulty).stacksTrained trained).memoryZeroed.portsStarted.bootEnded := by
  show execBootReady trained faulty s = _
  unfold execBootReady
  rw [if_neg (by simp [hinit, hreset])]
  rfl

/-- The fences of clusters write the maps alone. -/
theorem State.routersChecked_dcbReg (s : State) (faulty : Dword) {o : Nat} (hmap : o ≠ Dcb.clusterFence)
    (hcores : o < 0x4080 ∨ 0x4100 ≤ o) : (s.routersChecked faulty).dcbReg o = s.dcbReg o := by
  refine List.foldlRecOn (motive := fun t : State => t.dcbReg o = s.dcbReg o) _ _ rfl fun t ht q hq => ?_
  rw [State.fenceCluster_eq, State.dcbReg_setDcbF, if_neg hmap, ← ht]
  refine List.foldlRecOn (motive := fun u : State => u.dcbReg o = t.dcbReg o) _ _ rfl fun u hu i hi => ?_
  have hq' : q < 64 := List.mem_range.1 (List.mem_filter.1 hq).1
  have hi' : i < 16 := List.mem_range.1 hi
  have hne : o ≠ Dcb.coreFenceMap ((16 * q + i) / 64) := by
    simp only [Dcb.coreFenceMap]
    omega
  rw [State.fenceCore, State.dcbReg_setDcbF, if_neg hne, ← hu]
  rfl

theorem State.stacksTrained_dcbReg (s : State) (trained : Word) {o : Nat} (h : ∀ k < 32, o ≠ Dcb.hbmStat k) :
    (s.stacksTrained trained).dcbReg o = s.dcbReg o := by
  refine List.foldlRecOn (motive := fun t : State => t.dcbReg o = s.dcbReg o) _ _ rfl fun t ht k hk => ?_
  rw [State.dcbReg_setDcbF, if_neg (h k (List.mem_range.1 hk)), ht]

/-- Each stack's bit is the one that was brought. -/
theorem State.stacksTrained_bit (s : State) (trained : Word) {k : Nat} (hk : k < 32) :
    (s.stacksTrained trained).dcbF (Dcb.hbmStat k) 0 1 = bit (trained.toNat.testBit k) := by
  have hlow (b : Bool) : bit b % 2 ^ 1 = bit b := by cases b <;> rfl
  have hfold (l : List Nat) (t : State) : (l.foldl (fun s k => s.setDcbF (Dcb.hbmStat k) 0 1 (bit (trained.toNat.testBit k))) t).dcbF
      (Dcb.hbmStat k) 0 1 = if k ∈ l then bit (trained.toNat.testBit k) else t.dcbF (Dcb.hbmStat k) 0 1 := by
    induction l generalizing t with
    | nil => simp
    | cons x l ih =>
      rw [List.foldl_cons, ih]
      by_cases hkl : k ∈ l
      · rw [if_pos hkl, if_pos (List.mem_cons_of_mem _ hkl)]
      · rw [if_neg hkl]
        by_cases hkx : k = x
        · subst hkx
          rw [if_pos (List.mem_cons_self ..), State.dcbF_setDcbF_self _ _ _ (by decide), hlow]
        · have hne : Dcb.hbmStat k ≠ Dcb.hbmStat x := by
            simp only [Dcb.hbmStat]
            omega
          rw [if_neg (by simp [hkx, hkl]), State.dcbF_setDcbF_ne _ _ _ _ _ _ hne]
  exact (hfold (List.range 32) s).trans (if_pos (List.mem_range.2 hk))

theorem State.memoryZeroed_dcb (s : State) : s.memoryZeroed.dcb = s.dcb := by
  unfold State.memoryZeroed
  split <;> rfl

theorem State.portsStarted_dcbReg (s : State) {o : Nat} (h : o < 0x5000) : s.portsStarted.dcbReg o = s.dcbReg o := by
  refine List.foldlRecOn (motive := fun t : State => t.dcbReg o = s.dcbReg o) _ _ rfl fun t ht l _ => ?_
  split
  · have hne : o ≠ Dcb.linkStat l := by
      simp only [Dcb.linkStat]
      omega
    rw [State.dcbReg_setDcbF, if_neg hne, ht]
  · exact ht

theorem State.bootEnded_dcbReg (s : State) {o : Nat} (hstat : o ≠ Dcb.bootStat) (htime : o ≠ Dcb.bootTime) :
    s.bootEnded.dcbReg o = s.dcbReg o := by
  rw [State.bootEnded, State.dcbReg_of_dcb (State.dieEvent_dcb ..), State.dcbReg_setDcb, if_neg htime, State.dcbReg_setDcbF, if_neg hstat]

/-- What the ports and the end of the boot leave of the registers. -/
theorem State.bootTail_dcbReg (s : State) {o : Nat} (h : o < 0x5000) (hstat : o ≠ Dcb.bootStat) (htime : o ≠ Dcb.bootTime) :
    s.memoryZeroed.portsStarted.bootEnded.dcbReg o = s.dcbReg o := by
  rw [State.bootEnded_dcbReg _ hstat htime, State.portsStarted_dcbReg _ h, State.dcbReg_of_dcb s.memoryZeroed_dcb]

/-- Neither memory, nor the sources, nor the beat change before memory is zeroed. -/
theorem State.trained_keeps (s : State) (trained : Word) (faulty : Dword) :
    ((s.routersChecked faulty).stacksTrained trained).mem = s.mem ∧ ((s.routersChecked faulty).stacksTrained trained).ic = s.ic ∧
      ((s.routersChecked faulty).stacksTrained trained).beat = s.beat := by
  have hcluster (t : State) (q : Nat) : (t.fenceCluster q).mem = t.mem ∧ (t.fenceCluster q).ic = t.ic ∧
      (t.fenceCluster q).beat = t.beat := by
    refine ⟨State.fenceCluster_mem .., ?_, congrArg (fun x => x.2.1) (t.fenceCluster_queueClock q)⟩
    rw [State.fenceCluster_eq, State.setDcbF_ic]
    exact List.foldlRecOn (motive := fun u : State => u.ic = t.ic) _ _ rfl fun u hu i _ => (State.setDcbF_ic ..).trans hu
  have hchecked : (s.routersChecked faulty).mem = s.mem ∧ (s.routersChecked faulty).ic = s.ic ∧
      (s.routersChecked faulty).beat = s.beat :=
    List.foldlRecOn (motive := fun t : State => t.mem = s.mem ∧ t.ic = s.ic ∧ t.beat = s.beat) _ _ ⟨rfl, rfl, rfl⟩
      fun t ⟨hmem, hic, hbeat⟩ q _ => by
        obtain ⟨hmem', hic', hbeat'⟩ := hcluster t q
        exact ⟨hmem'.trans hmem, hic'.trans hic, hbeat'.trans hbeat⟩
  refine List.foldlRecOn (motive := fun t : State => t.mem = s.mem ∧ t.ic = s.ic ∧ t.beat = s.beat) _ _ hchecked
    fun t ⟨hmem, hic, hbeat⟩ k _ => ?_
  exact ⟨(State.setDcbF_mem ..).trans hmem, (State.setDcbF_ic ..).trans hic, (State.setDcbF_beat ..).trans hbeat⟩

/-- The ports' training changes registers alone. -/
theorem State.portsStarted_keeps (s : State) :
    s.portsStarted.mem = s.mem ∧ s.portsStarted.ic = s.ic ∧ s.portsStarted.beat = s.beat := by
  refine List.foldlRecOn (motive := fun t : State => t.mem = s.mem ∧ t.ic = s.ic ∧ t.beat = s.beat) _ _ ⟨rfl, rfl, rfl⟩
    fun t ⟨hmem, hic, hbeat⟩ l _ => ?_
  split
  · exact ⟨(State.setDcbF_mem ..).trans hmem, (State.setDcbF_ic ..).trans hic, (State.setDcbF_beat ..).trans hbeat⟩
  · exact ⟨hmem, hic, hbeat⟩

theorem State.memoryZeroed_keeps (s : State) : s.memoryZeroed.ic = s.ic ∧ s.memoryZeroed.beat = s.beat := by
  unfold State.memoryZeroed
  split <;> exact ⟨rfl, rfl⟩

theorem State.zeroMemory_mem (s : State) : s.zeroMemory.mem = s.mem.filter fun e => !isPlain e.1 := rfl

theorem State.bootEnded_mem (s : State) : s.bootEnded.mem = s.mem := rfl

/-- STATE and BOOT_TIME at the end of the boot, and its source. -/
theorem State.bootEnded_spec (s : State) : s.bootEnded.bootState = 4 ∧ s.bootEnded.dcbReg Dcb.bootTime = s.beatCtr ∧
    s.bootEnded.latchCount 129 = min (s.latchCount 129 + 1) 255 := by
  have hreg (o : Nat) : s.bootEnded.dcbReg o = ((s.setDcbF Dcb.bootStat 0 3 4).setDcb Dcb.bootTime s.beatCtr).dcbReg o :=
    State.dcbReg_of_dcb (State.dieEvent_dcb ..) o
  refine ⟨?_, ?_, ?_⟩
  · rw [State.bootState, State.dcbF, hreg, State.dcbReg_setDcb, if_neg (by decide), ← State.dcbF,
      State.dcbF_setDcbF_self _ _ _ (by decide)]
    rfl
  · rw [hreg, State.dcbReg_setDcb_self]
  · rw [State.bootEnded, State.latchCount_dieEvent_self, State.latchCount_of_ic (State.setDcb_ic ..),
      State.latchCount_of_ic (State.setDcbF_ic ..)]

/-- Settles O40: BOOT_GO by the state that it meets, the image by its checks, BOOT_READY by the registers of each of its parts. -/
theorem bootGoesThroughItsStates : Obligations.BootGoesThroughItsStates := by
  unfold Obligations.BootGoesThroughItsStates
  refine ⟨fun s hreset => ⟨fun hstart => ?_, fun hrom hbad => ?_⟩, fun s hverify => ?_, fun trained faulty s hinit hreset => ?_⟩
  · refine ⟨_, (execBootGo_eq hreset).trans (congrArg _ (if_pos hstart)), ?_⟩
    rw [State.bootState, State.dcbF_setDcbF_self _ _ _ (by decide)]
    rfl
  · exact ⟨_, (execBootGo_eq hreset).trans (congrArg _ (if_neg (not_or.2 ⟨hrom, hbad⟩))), s.setWrdrop_spec⟩
  · refine ⟨_, execFwVerifyDone_eq hverify, ?_⟩
    by_cases hgood : s.fwReason = 0
    · have hkept : s.imageTaken.Configured s.imageTaken.applyConfig.applyCalibration :=
        (State.Configured.applyConfig _).trans (.applyCalibration _)
      obtain ⟨hboot, hfw, habi⟩ := s.imageTaken_regs
      rw [if_pos hgood, if_pos hgood, hkept.boot, hkept.fwId, hkept.abiId, hkept.sec]
      exact ⟨hboot, fun _ => ⟨hfw, habi, rfl, rfl, rfl⟩, fun hne => absurd hgood hne⟩
    · obtain ⟨hboot, hregs⟩ := s.imageRefused_regs
      rw [if_neg hgood, if_neg hgood]
      exact ⟨hboot, fun h => absurd h hgood, fun _ => hregs⟩
  · refine ⟨_, execBootReady_eq hinit hreset, ?_⟩
    generalize hu : (s.routersChecked faulty).stacksTrained trained = u
    obtain ⟨hmem, hic, hbeat⟩ := s.trained_keeps trained faulty
    obtain ⟨hmem', hic', hbeat'⟩ := u.memoryZeroed.portsStarted_keeps
    obtain ⟨hic'', hbeat''⟩ := u.memoryZeroed_keeps
    obtain ⟨hboot, htime, hlatch⟩ := u.memoryZeroed.portsStarted.bootEnded_spec
    have hbits : ∀ q ∈ faultyClusters faulty, q < 64 := fun q hq => List.mem_range.1 (List.mem_filter.1 hq).1
    have hfaulty {q : Nat} (hq : q < 64) : decide (q ∈ faultyClusters faulty) = faulty.toNat.testBit q := by
      simp [faultyClusters, hq]
    obtain ⟨hcores, hmap⟩ := State.foldl_fenceCluster_spec (faultyClusters faulty) hbits s
    have htrained {o : Nat} (h : ∀ k < 32, o ≠ Dcb.hbmStat k) : u.dcbReg o = (s.routersChecked faulty).dcbReg o := by
      rw [← hu, State.stacksTrained_dcbReg _ _ h]
    have hlcs : u.dcbF Dcb.secLcs 2 1 = s.dcbF Dcb.secLcs 2 1 := by
      refine State.dcbF_of_dcbReg ((htrained fun k hk => ?_).trans (s.routersChecked_dcbReg faulty (by decide) (.inr (by decide)))) 2 1
      simp only [Dcb.secLcs, Dcb.hbmStat]
      omega
    rw [hu] at hmem hic hbeat
    refine ⟨hboot, ?_, ?_, fun q hq => ?_, fun c hc => ?_, fun k hk => ?_, fun hconf a ha => ?_, fun hopen => ?_⟩
    · rw [htime, State.beatCtr, hbeat', hbeat'', hbeat, State.beatCtr]
    · exact hlatch.trans (by rw [State.latchCount_of_ic (hic'.trans (hic''.trans hic))]; rfl)
    · rw [State.bootTail_dcbReg _ (by decide) (by decide) (by decide), htrained, ← hfaulty hq]
      · exact hmap q hq
      · intro k _
        simp only [Dcb.clusterFence, Dcb.hbmStat]
        omega
    · have hfence : Dcb.coreFenceMap (c / 64) < 0x4100 ∧ 0x4080 ≤ Dcb.coreFenceMap (c / 64) := by
        simp only [Dcb.coreFenceMap]
        omega
      obtain ⟨hhi, hlo⟩ := hfence
      have hne {o : Nat} (h : o < 0x4080) : Dcb.coreFenceMap (c / 64) ≠ o := by omega
      rw [State.fenced, State.bootTail_dcbReg _ (by omega) (hne (by decide)) (hne (by decide)), htrained,
        ← hfaulty (q := clusterOf c) (by simp only [clusterOf]; omega)]
      · exact hcores c
      · intro k _
        simp only [Dcb.hbmStat]
        omega
    · have hlo : 0x4100 ≤ Dcb.hbmStat k ∧ Dcb.hbmStat k < 0x5000 := by
        simp only [Dcb.hbmStat]
        omega
      have hne {o : Nat} (h : o < 0x4100) : Dcb.hbmStat k ≠ o := by omega
      rw [State.dcbF_of_dcbReg (State.bootTail_dcbReg u hlo.2 (hne (by decide)) (hne (by decide))), ← hu]
      exact State.stacksTrained_bit _ _ hk
    · rw [State.bootEnded_mem, hmem', State.memoryZeroed, if_pos (hlcs.trans hconf), State.zeroMemory_mem]
      exact byteAt_filter_zero (p := fun x => !isPlain x) (by simp [ha])
    · rw [State.bootEnded_mem, hmem', State.memoryZeroed, if_neg (by rw [hlcs, hopen]; decide), hmem]

end Sys2Proof.Machine
end

section
/-! The flash controller (R396, Table 13-16). -/

namespace Sys2Proof.Machine

/-! ## The array -/

/-- An operation of the device changes the array alone. -/
theorem Flash.apply_eq (f : Flash) (err : Bool) (op : FlashOp) (free : Nat) :
    (f.apply err op free).1 = { f with array := (f.apply err op free).1.array } := by
  unfold Flash.apply
  extract_lets v code a n run
  have hrun (a : Nat) (old new : List Byte) : (run a old new).1 = { f with array := (run a old new).1.array } := by
    dsimp only [run]
    split <;> rfl
  clear_value run
  split
  · rfl
  · split
    · split
      · exact hrun ..
      · rfl
    · exact hrun ..
    · rfl

/-- An operation that changes no array, and a program without data, leave the array. -/
theorem Flash.apply_array {op : FlashOp} (f : Flash) (err : Bool) (free : Nat)
    (h : op.cmd.toNat.testBit 9 = false ∨
      (Config.flashKind (BitVec.ofNat 8 op.cmd.toNat) = 1 ∧ op.cmd.toNat.testBit 8 = false)) :
    (f.apply err op free).1.array = f.array := by
  unfold Flash.apply
  extract_lets v code a n run
  split
  · rfl
  · next hchanges =>
    obtain ⟨hkind, hdata⟩ := h.resolve_left fun h => hchanges (by simp [v, h])
    rw [show Config.flashKind code = 1 from hkind]
    rw [if_neg (by simp [v, hdata])]
    rfl

/-- A program clears bits of the array from the data of the operation. -/
theorem Flash.apply_program {op : FlashOp} (f : Flash) (free : Nat) (hkind : Config.flashKind (BitVec.ofNat 8 op.cmd.toNat) = 1)
    (hdata : op.cmd.toNat.testBit 8 = true) (hchanges : op.cmd.toNat.testBit 9 = true) {i : Nat} (hi : i < flashLen op.cmd.toNat) :
    byteAt (f.apply false op free).1.array (op.addr % 2 ^ 28 + i) =
      byteAt f.array (op.addr % 2 ^ 28 + i) &&& byteAt op.buf i := by
  unfold Flash.apply
  extract_lets v code a n run
  rw [if_neg (by simp [v, hchanges]), show Config.flashKind code = 1 from hkind]
  rw [if_pos (show v.testBit 8 = true from hdata)]
  show byteAt (bytesWrite f.array a (List.zipWith (· &&& ·) (bytesRead f.array a n) (bytesRead op.buf 0 n))) _ = _
  have hlen : i < (List.zipWith (fun x1 x2 => x1 &&& x2) (bytesRead f.array a n) (bytesRead op.buf 0 n)).length := by
    rw [List.length_zipWith, length_bytesRead, length_bytesRead, Nat.min_self]
    exact hi
  rw [byteAt_bytesWrite, if_pos ⟨Nat.le_add_right .., by omega⟩, Nat.add_sub_cancel_left, List.getD_eq_getElem _ _ hlen]
  simp [bytesRead]
  rfl

/-! ## The end of an operation -/

/-- The controller when the operation has ended, before the array changes. -/
def Flash.ended (f : Flash) (err : Bool) (data : List Byte) (v : Nat) : Flash :=
  let f : Flash := { f with op := none }
  let f := if err then f.setReg 8 (f.reg 8 ||| 2) else f
  if v.testBit 8 then f else { f with buf := bytesWrite f.buf 0 ((List.range (flashLen v)).map fun i => data.getD i 0) }

theorem Flash.ended_keeps (f : Flash) (err : Bool) (data : List Byte) (v : Nat) :
    (f.ended err data v).op = none ∧ (f.ended err data v).array = f.array := by
  unfold Flash.ended
  dsimp only
  split <;> split <;> exact ⟨rfl, rfl⟩

/-- A read leaves its data in FL_BUF; other operations leave FL_BUF. -/
theorem Flash.ended_buf (f : Flash) (err : Bool) (data : List Byte) (v : Nat) :
    (v.testBit 8 = false → ∀ i < flashLen v, byteAt (f.ended err data v).buf i = data.getD i 0) ∧
      (v.testBit 8 = true → (f.ended err data v).buf = f.buf) := by
  unfold Flash.ended
  refine ⟨fun hread i hi => ?_, fun hwrite => ?_⟩
  · have hlen : ((List.range (flashLen v)).map fun i => data.getD i 0).length = flashLen v := by simp
    rw [if_neg (by simp [hread])]
    dsimp only
    rw [byteAt_bytesWrite, if_pos ⟨Nat.zero_le i, by omega⟩, Nat.sub_zero, List.getD_eq_getElem _ _ (by omega)]
    simp
  · rw [if_pos hwrite]
    split <;> rfl

/-- An error sets ERR. -/
theorem Flash.ended_err (f : Flash) (data : List Byte) (v : Nat) : bitsOf ((f.ended true data v).reg 8).toNat 1 1 = 1 := by
  have hset : (f.setReg 8 (f.reg 8 ||| 2)).reg 8 = f.reg 8 ||| 2 := tabGet_tabSet_self ..
  have hreg : (f.ended true data v).reg 8 = f.reg 8 ||| 2 := by
    unfold Flash.ended
    dsimp only
    split
    · exact hset
    · exact hset
  rw [hreg, bitsOf_eq_extract, BitVec.extractLsb'_or]
  generalize BitVec.extractLsb' 1 1 _ = y
  revert y
  decide

/-- The reads that have stalled change the queue and the data that they bring alone. -/
theorem State.flashReads_eq (s : State) : s.flashReads = { s with
    stewardQ := s.stewardQ.filter fun r => !inFlash r.addr
    readData := s.flashReads.readData } := by
  unfold State.flashReads
  generalize (s.stewardQ.filter fun r => !inFlash r.addr) = q, (s.stewardQ.filter fun r => inFlash r.addr) = l
  exact List.foldlRecOn (motive := fun t : State => t = { s with stewardQ := q, readData := t.readData }) l _ rfl
    fun t ht r _ => by rw [ht]

/-- The state in which the operation has ended and the stalled reads have been made, before the source is raised. -/
def State.flashEnded (s : State) (err : Bool) (data : List Byte) (op : FlashOp) : State :=
  let r := (s.flash.ended err data op.cmd.toNat).apply err op s.free
  State.flashReads { s with flash := r.1, free := s.free + r.2 }

theorem execFlashOpDone_eq {err : Bool} {data : List Byte} {s : State} {op : FlashOp} (hlen : data.length ≤ 256)
    (hop : s.flash.op = some op) : exec (.flashOpDone err data) s = .next ((s.flashEnded err data op).icEdge 264) := by
  have hwf : (Instr.flashOpDone err data).wf = true := decide_eq_true hlen
  show execFlashOpDone err data s = _
  unfold execFlashOpDone
  rw [whenFormed, if_pos hwf, hop]
  rfl

end Sys2Proof.Machine
end

section
/-! The Ethernet MACs (R395, Table 13-15), and O60. -/

namespace Sys2Proof.Machine

/-! ## The registers of a MAC -/

theorem Mac.reg_set (x : Mac) (o y : Nat) (v : Dword) : (x.set o v).reg y = if y = o then v else x.reg y := by
  unfold Mac.reg Mac.set
  by_cases h : y = o
  · subst h
    simp
  · simp only [h, if_false]
    unfold tabGet tabSet
    split
    · rw [tabFind_tabDel]
      simp [h]
    · rw [tabFind_tabIns _ _ _ _ (by simp [tabFind_tabDel]), tabFind_tabDel]
      simp [h]

@[simp] theorem Mac.reg_set_self (x : Mac) (o : Nat) (v : Dword) : (x.set o v).reg o = v := by rw [Mac.reg_set, if_pos rfl]

theorem Mac.reg_set_ne (x : Mac) {o y : Nat} (v : Dword) (h : y ≠ o) : (x.set o v).reg y = x.reg y := by
  rw [Mac.reg_set, if_neg h]

theorem Mac.f_set_ne (x : Mac) {o y : Nat} (v : Dword) (lo n : Nat) (h : y ≠ o) : (x.set o v).f y lo n = x.f y lo n := by
  rw [Mac.f, Mac.reg_set_ne x v h, Mac.f]

theorem State.mac_setMac (s : State) (p : Nat) (x : Mac) : (s.setMac p x).mac p = x := tabGet_tabSet_self ..

theorem State.mac_macSet (s : State) (p o : Nat) (v : Dword) : (s.macSet p o v).mac p = (s.mac p).set o v := State.mac_setMac ..

theorem State.mac_of_macs {s t : State} (h : t.macs = s.macs) (p : Nat) : t.mac p = s.mac p := by rw [State.mac, h, State.mac]

theorem State.Rebound.macs {s t : State} (h : s.Rebound t) : t.macs = s.macs :=
  Eq.trans (congrArg State.macs h.eq) rfl

/-- A level of a source changes no MAC. -/
theorem State.icAssert_macs (s : State) (n : Nat) (a : Bool) : (s.icAssert n a).macs = s.macs :=
  (State.Rebound.icSettle (s.setIcSrc n _)).macs

/-- The level of one of a MAC's sources follows its flag. -/
def State.macLevel (p : Nat) (v : Dword) (s : State) (f : Nat) : State :=
  if (s.icSrc (256 + 4 * p + f)).asserted = v.toNat.testBit f then s else s.icAssert (256 + 4 * p + f) (v.toNat.testBit f)

theorem State.macFlags_eq (s : State) (p : Nat) (v : Dword) :
    s.macFlags p v = State.macLevel p v ([0, 1, 2].foldl (State.macLevel p v) (s.macSet p 8 v)) 3 := rfl

theorem State.macLevel_macs (p : Nat) (v : Dword) (s : State) (f : Nat) : (s.macLevel p v f).macs = s.macs := by
  unfold State.macLevel
  split
  · rfl
  · exact State.icAssert_macs ..

theorem State.macLevel_asserted (p : Nat) (v : Dword) (s : State) (f : Nat) :
    ((s.macLevel p v f).icSrc (256 + 4 * p + f)).asserted = v.toNat.testBit f := by
  unfold State.macLevel
  split
  · assumption
  · exact (State.icAssert_spec ..).1

/-- The flags of a MAC are its register ETH_FLAGS and the levels of its sources. -/
theorem State.macFlags_spec (s : State) (p : Nat) (v : Dword) :
    (s.macFlags p v).mac p = (s.mac p).set 8 v ∧ ((s.macFlags p v).icSrc (259 + 4 * p)).asserted = v.toNat.testBit 3 := by
  have hlevels : ([0, 1, 2].foldl (State.macLevel p v) (s.macSet p 8 v)).macs = (s.macSet p 8 v).macs :=
    List.foldlRecOn (motive := fun u : State => u.macs = (s.macSet p 8 v).macs) _ _ rfl fun u hu f _ =>
      (State.macLevel_macs ..).trans hu
  rw [State.macFlags_eq]
  refine ⟨(State.mac_of_macs ((State.macLevel_macs ..).trans hlevels) p).trans (State.mac_macSet ..), ?_⟩
  rw [show 259 + 4 * p = 256 + 4 * p + 3 by omega]
  exact State.macLevel_asserted ..

theorem State.mac_macFlag (s : State) (p f : Nat) :
    (s.macFlag p f).mac p = (s.mac p).set 8 ((s.mac p).reg 8 ||| BitVec.ofNat 64 (2 ^ f)) := (s.macFlags_spec p _).1

theorem State.mac_macCount (s : State) (p o n : Nat) :
    (s.macCount p o n).mac p = (s.mac p).set o (BitVec.ofNat 64 (satAdd 64 ((s.mac p).reg o).toNat n)) := State.mac_macSet ..

theorem State.mac_macAdvance (s : State) (p : Nat) (r : Nat × Nat × Nat) :
    (s.macAdvance p r).mac p = (s.mac p).set r.2.1 (BitVec.ofNat 64 (((s.mac p).head r + 1) % (s.mac p).ringSize r)) :=
  State.mac_macSet ..

/-! ## Memory as the MACs reach it -/

theorem State.meetWords_macs (s : State) (write hbm : Bool) (p c e addr : Nat) (h : Handle) (ce fresh words : Byte) (capar : Bool)
    (data : Granule) : (s.meetWords write hbm p c e addr h ce fresh words capar data).2.2.macs = s.macs := by
  have hunits : (s.meetWords write hbm p c e addr h ce fresh words capar data).2.2.coresUnits = s.coresUnits := by
    simp [State.meetWords]
  exact congrArg (fun x => x.2.2.2.2.2.1) hunits

theorem State.memRead_macs (s : State) (hbm : Bool) (p a n : Nat) (err : XferErr) : (s.memRead hbm p a n err).2.macs = s.macs := by
  unfold State.memRead
  split
  · rfl
  · split
    · rfl
    · exact State.meetWords_macs ..

theorem State.memPut_macs (s : State) (hbm : Bool) (p a : Nat) (bs : List Byte) (err : XferErr) :
    (s.memPut hbm p a bs err).macs = s.macs := by
  unfold State.memPut
  split
  · rfl
  · split
    · rfl
    · exact State.meetWords_macs ..

theorem State.dmaRead_macs (s : State) (a n : Nat) : (s.dmaRead a n).2.macs = s.macs := by
  refine List.foldlRecOn (motive := fun x : List Byte × State => x.2.macs = s.macs) _ _ rfl fun x hx q _ => ?_
  refine Eq.trans ?_ hx
  unfold State.dmaPiece
  split
  · rfl
  · split
    · rfl
    · split
      · exact State.memRead_macs ..
      · exact State.memRead_macs ..
      · rfl

theorem State.dmaWrite_macs (s : State) (a : Nat) (bs : List Byte) : (s.dmaWrite a bs).macs = s.macs := by
  refine List.foldlRecOn (motive := fun t : State => t.macs = s.macs) _ _ rfl fun t ht q _ => ?_
  rw [← ht]
  unfold State.dmaPutPiece
  split
  · split <;> rfl
  · split
    · rfl
    · split
      · exact State.memPut_macs ..
      · exact State.memPut_macs ..
      · rfl

/-! ## Rings -/

theorem Mac.ringSize_pos_le (x : Mac) (r : Nat × Nat × Nat) : 0 < x.ringSize r ∧ x.ringSize r ≤ 2 ^ 15 := by
  have hlt : x.f r.1 48 4 < 16 := Nat.mod_lt _ (by decide)
  exact ⟨Nat.pow_pos (by decide), Nat.pow_le_pow_right (by decide) (by omega)⟩

/-- HEAD is what was written to it, where it is an index of the ring. -/
theorem Mac.head_set (x : Mac) {r : Nat × Nat × Nat} (hring : r.1 ≠ r.2.1) {h : Nat} (hh : h < x.ringSize r) :
    (x.set r.2.1 (BitVec.ofNat 64 h)).head r = h := by
  obtain ⟨-, hle⟩ := x.ringSize_pos_le r
  have hsize : (x.set r.2.1 (BitVec.ofNat 64 h)).ringSize r = x.ringSize r := by
    rw [Mac.ringSize, Mac.f_set_ne _ _ _ _ hring, Mac.ringSize]
  rw [Mac.head, hsize, Mac.f, Mac.reg_set_self, bitsOf_zero, BitVec.toNat_ofNat, Nat.mod_eq_of_lt (a := h) (by omega),
    Nat.mod_eq_of_lt (a := h) (by omega), Nat.mod_eq_of_lt hh]

/-- HEAD and the size of a ring do not depend on another register. -/
theorem Mac.ring_set_ne (x : Mac) {r : Nat × Nat × Nat} {o : Nat} (v : Dword) (hbase : r.1 ≠ o) (hhead : r.2.1 ≠ o) :
    (x.set o v).head r = x.head r ∧ (x.set o v).ringSize r = x.ringSize r := by
  have hsize : (x.set o v).ringSize r = x.ringSize r := by rw [Mac.ringSize, Mac.f_set_ne _ _ _ _ hbase, Mac.ringSize]
  exact ⟨by rw [Mac.head, hsize, Mac.f_set_ne _ _ _ _ hhead, Mac.head], hsize⟩

/-- The MAC after a frame of a ring: counted in `count`, HEAD advanced, flag `f` set. -/
def Mac.framed (x : Mac) (r : Nat × Nat × Nat) (count f : Nat) : Mac :=
  let y := x.set count (BitVec.ofNat 64 (satAdd 64 (x.reg count).toNat 1))
  let z := y.set r.2.1 (BitVec.ofNat 64 ((y.head r + 1) % y.ringSize r))
  z.set 8 (z.reg 8 ||| BitVec.ofNat 64 (2 ^ f))

theorem State.mac_framed (s : State) (p : Nat) (r : Nat × Nat × Nat) (count f : Nat) :
    (((s.macCount p count 1).macAdvance p r).macFlag p f).mac p = (s.mac p).framed r count f := by
  rw [State.mac_macFlag, State.mac_macAdvance, State.mac_macCount]
  rfl

theorem Mac.framed_spec (x : Mac) {r : Nat × Nat × Nat} {count : Nat} (f : Nat) (hring : r.1 ≠ r.2.1) (hcount : r.1 ≠ count)
    (hcount' : r.2.1 ≠ count) (hflags : r.1 ≠ 8) (hflags' : r.2.1 ≠ 8) (hne : count ≠ 8) :
    (x.framed r count f).head r = (x.head r + 1) % x.ringSize r ∧
      (x.framed r count f).reg count = BitVec.ofNat 64 (min ((x.reg count).toNat + 1) (2 ^ 64 - 1)) ∧
      (x.framed r count f).sent = x.sent ∧
      ∀ o, o ≠ count → o ≠ r.2.1 → o ≠ 8 → (x.framed r count f).reg o = x.reg o := by
  unfold Mac.framed
  extract_lets y z
  obtain ⟨hhead, hsize⟩ := x.ring_set_ne (BitVec.ofNat 64 (satAdd 64 (x.reg count).toNat 1)) hcount hcount'
  obtain ⟨hhead', -⟩ := z.ring_set_ne (z.reg 8 ||| BitVec.ofNat 64 (2 ^ f)) hflags hflags'
  refine ⟨?_, ?_, rfl, fun o hc hh h8 => ?_⟩
  · rw [hhead', y.head_set hring (Nat.mod_lt _ (y.ringSize_pos_le r).1), hhead, hsize]
  · rw [Mac.reg_set_ne _ _ hne, Mac.reg_set_ne _ _ hcount'.symm, Mac.reg_set_self, satAdd]
  · rw [Mac.reg_set_ne _ _ h8, Mac.reg_set_ne _ _ hh, Mac.reg_set_ne _ _ hc]

/-! ## Frames -/

/-- A MAC that appends a frame to those it has sent. -/
def Mac.sending (x : Mac) (frame : List Byte) : Mac := { x with sent := x.sent ++ [frame] }

/-- The state in which a port has sent the frame of the descriptor at HEAD. -/
def State.frameSent (s : State) (p : Nat) : State :=
  let d := (s.mac p).descriptor txRing
  let r := s.dmaRead d 16
  let w := natOf (r.1.take 8)
  let b := r.2.dmaRead (bitsOf w 0 48) (bitsOf w 48 14)
  let u := b.2.dmaWrite (d + 8) (bytesOf 8 (putBits (natOf (r.1.drop 8)) 0 1 0))
  let v := ((u.macCount p 0x40 1).macAdvance p txRing).macFlag p 0
  v.setMac p ((v.mac p).sending b.1)

theorem State.mac_frameSent (s : State) (p : Nat) :
    let r := s.dmaRead ((s.mac p).descriptor txRing) 16
    let w := natOf (r.1.take 8)
    (s.frameSent p).mac p =
      ((s.mac p).framed txRing 0x40 0).sending (r.2.dmaRead (bitsOf w 0 48) (bitsOf w 48 14)).1 := by
  intro r w
  unfold State.frameSent
  extract_lets d r' w' b u v
  have hmacs : u.macs = s.macs := by
    rw [State.dmaWrite_macs, State.dmaRead_macs, State.dmaRead_macs]
  rw [State.mac_setMac, State.mac_framed, State.mac_of_macs hmacs]

/-- An enabled port with its link sends the frame of an owned descriptor. -/
theorem execEthTransmit_owned {port : BitVec 1} {s : State} (hreset : s.power.coldReset = false)
    (hon : (s.mac port.toNat).f 0 0 1 = 1) (hlink : (s.mac port.toNat).f 4 0 1 = 1) (hloop : (s.mac port.toNat).f 0 2 1 = 0)
    (hoffered : (s.mac port.toNat).offered txRing = true)
    (hown : (natOf ((s.dmaRead ((s.mac port.toNat).descriptor txRing) 16).1.drop 8)).testBit 0 = true) :
    exec (.ethTransmit port) s = .next (s.frameSent port.toNat) := by
  refine (State.next_outOfReset hreset _).trans (congrArg Host.Outcome.next ?_)
  extract_lets p x d r w ctl b u v
  rw [if_neg (by simp [x, p, hon, hlink, hoffered]), if_neg (by simp [ctl, r, d, x, p, hown]), if_neg (by simp [x, p, hloop])]
  rfl

section

variable {port : BitVec 1} {frame : List Byte} {codewords : BitVec 16} {s : State}

/-- The frame of a linked port without loopback is received once its codewords have been counted. -/
theorem execEthReceive_linked (hreset : s.power.coldReset = false) (hlink : (s.mac port.toNat).f 4 0 1 = 1)
    (hloop : (s.mac port.toNat).f 0 2 1 = 0) :
    exec (.ethReceive port frame true codewords) s =
      .next ((s.macCount port.toNat 0x60 codewords.toNat).macReceive port.toNat frame true) := by
  refine (State.next_outOfReset hreset _).trans (congrArg _ ?_)
  exact if_neg (by simp [hlink, hloop])

/-- An accepted frame that no descriptor is offered for is dropped. -/
theorem State.macReceive_dropped {p : Nat} (hon : (s.mac p).f 0 0 1 = 1) (hacc : (s.mac p).accepts frame = true)
    (hoffered : (s.mac p).offered rxRing = false) : s.macReceive p frame true = s.macDrop p := by
  unfold State.macReceive
  dsimp only
  rw [if_neg (by simp [hon, hacc])]
  exact if_pos (.inl (by simp [hoffered]))

/-- A good, accepted frame that fits an owned buffer is counted, and HEAD advances. -/
theorem State.mac_macReceive_taken {p : Nat} (hon : (s.mac p).f 0 0 1 = 1) (hacc : (s.mac p).accepts frame = true)
    (hlimit : frame.length ≤ (s.mac p).f 0xC 0 14) (hoffered : (s.mac p).offered rxRing = true)
    (hown : (natOf ((s.dmaRead ((s.mac p).descriptor rxRing) 16).1.drop 8)).testBit 0 = true)
    (hroom : frame.length ≤ bitsOf (natOf ((s.dmaRead ((s.mac p).descriptor rxRing) 16).1.take 8)) 48 14) :
    (s.macReceive p frame true).mac p = (s.mac p).framed rxRing 0x48 1 := by
  unfold State.macReceive
  dsimp only
  rw [if_neg (by simp [hon, hacc])]
  refine (congrArg (fun t : State => t.mac p) ((if_neg ?_).trans (if_neg ?_))).trans ?_
  · simpa [hoffered] using hlimit
  · simpa [hown] using hroom
  · rw [State.mac_framed]
    refine congrArg (fun x : Mac => x.framed rxRing 0x48 1) (State.mac_of_macs ?_ p)
    rw [State.dmaWrite_macs, State.dmaWrite_macs]
    exact State.dmaRead_macs ..

end

/-- A dropped frame is counted, and RXOVF is set. -/
theorem State.mac_macDrop (s : State) (p : Nat) :
    ((s.macDrop p).mac p).reg 0x58 = BitVec.ofNat 64 (min (((s.mac p).reg 0x58).toNat + 1) (2 ^ 64 - 1)) ∧
      ((s.macDrop p).mac p).f 8 2 1 = 1 := by
  unfold State.macDrop
  rw [State.mac_macFlag, State.mac_macCount]
  refine ⟨?_, ?_⟩
  · rw [Mac.reg_set_ne _ _ (by decide), Mac.reg_set_self, satAdd]
  · rw [Mac.f, Mac.reg_set_self, bitsOf_eq_extract, BitVec.extractLsb'_or]
    generalize BitVec.extractLsb' 2 1 (Mac.reg _ 8) = y
    revert y
    decide

/-- ETH_STAT takes the state of the link, and a change sets LINKCHG and its source. -/
theorem execEthLinkChange_spec {port : BitVec 1} {link pcs : Bool} {s : State} (hreset : s.power.coldReset = false) :
    ∃ t, exec (.ethLinkChange port link pcs) s = .next t ∧ (t.mac port.toNat).f 4 0 1 = bit link ∧
      (t.mac port.toNat).f 4 1 1 = bit pcs ∧ ((s.mac port.toNat).f 4 0 1 ≠ bit link →
        (t.mac port.toNat).f 8 3 1 = 1 ∧ (t.icSrc (259 + 4 * port.toNat)).asserted = true) := by
  generalize hp : port.toNat = p
  let v : Dword := BitVec.ofNat 64 (bit link + 2 * bit pcs)
  have hexec : exec (.ethLinkChange port link pcs) s =
      .next (if (s.mac p).f 4 0 1 = bit link then s.macSet p 4 v else (s.macSet p 4 v).macFlag p 3) := by
    rw [← hp]
    exact State.next_outOfReset hreset _
  have hlink : bitsOf v.toNat 0 1 = bit link ∧ bitsOf v.toNat 1 1 = bit pcs := by
    cases link <;> cases pcs <;> decide
  have hflag (y : Dword) : bitsOf (y ||| BitVec.ofNat 64 (2 ^ 3)).toNat 3 1 = 1 := by
    rw [bitsOf_eq_extract, BitVec.extractLsb'_or]
    generalize BitVec.extractLsb' 3 1 y = z
    revert z
    decide
  refine ⟨_, hexec, ?_⟩
  by_cases hsame : (s.mac p).f 4 0 1 = bit link
  · rw [if_pos hsame, State.mac_macSet, Mac.f, Mac.reg_set_self, Mac.f, Mac.reg_set_self]
    exact ⟨hlink.1, hlink.2, fun h => absurd hsame h⟩
  · obtain ⟨hmac, hlevel⟩ := (s.macSet p 4 v).macFlags_spec p (((s.macSet p 4 v).mac p).reg 8 ||| BitVec.ofNat 64 (2 ^ 3))
    have hreg (z : Dword) : (((s.mac p).set 4 v).set 8 z).reg 4 = v := by
      rw [Mac.reg_set_ne _ _ (by decide), Mac.reg_set_self]
    rw [if_neg hsame, State.macFlag, hmac, hlevel, State.mac_macSet, Mac.f, hreg, Mac.f, hreg]
    refine ⟨hlink.1, hlink.2, fun _ => ⟨?_, ?_⟩⟩
    · rw [Mac.f, Mac.reg_set_self, hflag]
    · rw [testBit_eq_bitsOf, hflag]
      rfl

/-! ## The end of a flash operation -/

/-- What an ended operation leaves beside the source that it raises. -/
theorem State.flashEnded_spec (s : State) (err : Bool) (data : List Byte) (op : FlashOp) :
    (s.flashEnded err data op).flash = ((s.flash.ended err data op.cmd.toNat).apply err op s.free).1 ∧
      (s.flashEnded err data op).stewardQ = s.stewardQ.filter (fun r => !inFlash r.addr) ∧
      (s.flashEnded err data op).ic = s.ic := by
  unfold State.flashEnded
  extract_lets r
  rw [State.flashReads_eq]
  exact ⟨rfl, rfl, rfl⟩

/-- An edge of a source leaves the controller and the steward's queue. -/
theorem State.icEdge_flash (s : State) (n : Nat) : (s.icEdge n).flash = s.flash ∧ (s.icEdge n).stewardQ = s.stewardQ := by
  rw [State.icEdge_eq]
  exact ⟨rfl, rfl⟩

/-- Settles O60, from what a flash operation leaves in the controller and what a frame of a ring leaves in its MAC. -/
theorem flashAndEthernetMoveTheirData : Obligations.FlashAndEthernetMoveTheirData := by
  unfold Obligations.FlashAndEthernetMoveTheirData
  intro s hreset
  refine ⟨fun v => ⟨fun hgo hidle => ?_, fun hno => ?_⟩, fun err data op hlen hop => ?_, fun port => ?_,
    fun port frame codewords => ?_, fun port link pcs => execEthLinkChange_spec hreset⟩
  · exact ⟨_, (State.next_outOfReset hreset _).trans (congrArg _ (if_pos ⟨hgo, by simp [hidle]⟩)), rfl⟩
  · refine (State.next_outOfReset hreset _).trans (congrArg _ (if_neg ?_))
    rintro ⟨hgo, hidle⟩
    rcases hno with hno | hbusy
    · exact absurd (hno.symm.trans hgo) (by decide)
    · exact hbusy (Option.isNone_iff_eq_none.1 hidle)
  · intro v
    obtain ⟨hflash, hqueue, hic⟩ := s.flashEnded_spec err data op
    obtain ⟨hflash', hqueue'⟩ := (s.flashEnded err data op).icEdge_flash 264
    obtain ⟨hclock, hstopped⟩ := (s.flashEnded err data op).icEdge_spec 264
    obtain ⟨hop', harray⟩ := s.flash.ended_keeps err data v.toNat
    obtain ⟨hread, hwrite⟩ := s.flash.ended_buf err data v.toNat
    have happly := (s.flash.ended err data v.toNat).apply_eq err op s.free
    refine ⟨_, execFlashOpDone_eq hlen hop, ?_⟩
    rw [hflash', hflash, hqueue', hqueue]
    refine ⟨?_, ?_, ?_, fun hno => ?_, fun hkind hno => ?_, fun hkind hdata hchanges herr i hi => ?_, rfl, fun herr => ?_,
      fun hc => (hclock (by rw [hic]; exact hc)).1, fun hc => (hstopped (by rw [hic]; exact hc)).1⟩
    · rw [happly]
      exact hop'
    · rw [happly]
      exact hread
    · rw [happly]
      exact hwrite
    · exact ((s.flash.ended err data v.toNat).apply_array err s.free (.inl hno)).trans harray
    · exact ((s.flash.ended err data v.toNat).apply_array err s.free (.inr ⟨hkind, hno⟩)).trans harray
    · subst herr
      rw [Flash.apply_program _ _ hkind hdata hchanges hi, harray]
    · subst herr
      rw [happly]
      exact s.flash.ended_err data v.toNat
  · intro p x r w hon hlink hloop hoffered hown
    obtain ⟨hhead, hcount, hsent, -⟩ := x.framed_spec (r := txRing) (count := 0x40) 0 (by decide) (by decide) (by decide) (by decide)
      (by decide) (by decide)
    refine ⟨_, execEthTransmit_owned hreset hon hlink hloop hoffered hown, ?_⟩
    rw [State.mac_frameSent]
    exact ⟨by rw [Mac.sending, hsent], hhead, hcount⟩
  · intro p x u r hon hlink hloop hacc hlimit
    have hne {o : Nat} (h : o ≠ 0x60) : (u.mac p).reg o = x.reg o := by
      rw [State.mac_macCount, Mac.reg_set_ne _ _ h]
    have hf {o : Nat} (lo n : Nat) (h : o ≠ 0x60) : (u.mac p).f o lo n = x.f o lo n := by rw [Mac.f, hne h, Mac.f]
    obtain ⟨hhead, hsize⟩ : (u.mac p).head rxRing = x.head rxRing ∧ (u.mac p).ringSize rxRing = x.ringSize rxRing := by
      rw [State.mac_macCount]
      exact x.ring_set_ne _ (by decide) (by decide)
    have hexec : exec (.ethReceive port frame true codewords) s = .next (u.macReceive p frame true) :=
      execEthReceive_linked hreset hlink hloop
    have hon' : (u.mac p).f 0 0 1 = 1 := (hf _ _ (by decide)).trans hon
    have hacc' : (u.mac p).accepts frame = true := by
      rw [Mac.accepts, hf _ _ (by decide), hf _ _ (by decide)]
      exact hacc
    have hoffered : (u.mac p).offered rxRing = x.offered rxRing := by
      rw [Mac.offered, hhead, hsize, hf _ _ (by decide), Mac.offered]
    have hdescriptor : (u.mac p).descriptor rxRing = x.descriptor rxRing := by
      rw [Mac.descriptor, hhead, hf _ _ (by decide), Mac.descriptor]
    refine ⟨fun hoff hown hroom => ⟨_, hexec, ?_⟩, fun hoff => ⟨_, hexec, ?_⟩⟩
    · obtain ⟨hhead', hcount, -, hkeeps⟩ := (u.mac p).framed_spec (r := rxRing) (count := 0x48) 1 (by decide) (by decide) (by decide)
        (by decide) (by decide) (by decide)
      rw [State.mac_macReceive_taken hon' hacc' (by rwa [hf _ _ (by decide)]) (hoffered.trans hoff) (by rwa [hdescriptor])
        (by rwa [hdescriptor]), hhead', hcount, hkeeps 0x60 (by decide) (by decide) (by decide), hhead, hsize, hne (by decide),
        State.mac_macCount, Mac.reg_set_self]
      exact ⟨rfl, rfl, rfl⟩
    · rw [State.macReceive_dropped hon' hacc' (hoffered.trans hoff), ← hne (o := 0x58) (by decide)]
      exact u.mac_macDrop p

end Sys2Proof.Machine
end

section
/-! The frames of a link port (R337, R342 to R346), and O45. -/

namespace Sys2Proof.Machine

/-! ## What the work on a frame keeps of the ports -/

/-- What a port holds of the frames that it has received: the echo of the last kept one, and the run of lost ones. -/
def LinkPort.receipt (p : LinkPort) : Dword × Nat × Nat := (p.echoBeat, p.echoCycle, p.lostRun)

/-- The offsets of LINK_STAT and LINK_LOST of the 16 ports. -/
abbrev Dcb.isReceipt (o : Nat) : Prop := (0x5000 ≤ o ∧ o < 0x5400) ∧ (o % 64 = 0x04 ∨ o % 64 = 0x20)

theorem Dcb.isReceipt_port {l : Nat} (h : l < 16) : Dcb.isReceipt (Dcb.linkStat l) ∧ Dcb.isReceipt (Dcb.linkLost l) := by
  simp only [Dcb.isReceipt, Dcb.linkStat, Dcb.linkLost]
  omega

/-- The other registers of a port. -/
theorem Dcb.not_isReceipt_port (l : Nat) : ¬Dcb.isReceipt (Dcb.linkFlags l) ∧ ¬Dcb.isReceipt (Dcb.linkCe l) ∧
    ¬Dcb.isReceipt (Dcb.linkUe l) ∧ ¬Dcb.isReceipt (Dcb.linkFreedrop l) ∧ ¬Dcb.isReceipt (Dcb.linkTagerr l) := by
  simp only [Dcb.isReceipt, Dcb.linkFlags, Dcb.linkCe, Dcb.linkUe, Dcb.linkFreedrop, Dcb.linkTagerr]
  omega

/-- From `s` to `t` the ports hold the same of the frames that they have received. -/
structure State.KeepsReceipts (s t : State) : Prop where
  link : ∀ l, (t.link l).receipt = (s.link l).receipt
  reg : ∀ o, Dcb.isReceipt o → t.dcbReg o = s.dcbReg o

namespace State.KeepsReceipts

variable {s t u : State}

theorem of_eq (hlinks : t.links = s.links) (hdcb : t.dcb = s.dcb) : KeepsReceipts s t :=
  ⟨fun l => by rw [State.link_of_links hlinks], fun o _ => State.dcbReg_of_dcb hdcb o⟩

theorem refl (s : State) : KeepsReceipts s s := of_eq rfl rfl

theorem trans (h : KeepsReceipts s t) (h' : KeepsReceipts t u) : KeepsReceipts s u :=
  ⟨fun l => (h'.link l).trans (h.link l), fun o ho => (h'.reg o ho).trans (h.reg o ho)⟩

theorem ite {p : Prop} [Decidable p] (h : KeepsReceipts s t) (h' : KeepsReceipts s u) : KeepsReceipts s (if p then t else u) := by
  split
  · exact h
  · exact h'

theorem foldl {α : Type} {f : State → α → State} (h : ∀ (t : State) (a : α), KeepsReceipts t (f t a)) (l : List α) (s : State) :
    KeepsReceipts s (l.foldl f s) :=
  List.foldlRecOn (motive := fun t : State => KeepsReceipts s t) l f (refl s) fun _ ht a _ => ht.trans (h _ a)

theorem setDcb (s : State) {o : Nat} (v : Dword) (h : ¬Dcb.isReceipt o) : KeepsReceipts s (s.setDcb o v) :=
  ⟨fun _ => rfl, fun x hx => by
    rw [State.dcbReg_setDcb, if_neg]
    rintro rfl
    exact h hx⟩

theorem setDcbF (s : State) {o : Nat} (lo n v : Nat) (h : ¬Dcb.isReceipt o) : KeepsReceipts s (s.setDcbF o lo n v) :=
  setDcb s _ h

theorem countDcb (s : State) {o : Nat} (n : Nat) (h : ¬Dcb.isReceipt o) : KeepsReceipts s (s.countDcb o n) := setDcb s _ h

theorem countDcb32 (s : State) {o : Nat} (n : Nat) (h : ¬Dcb.isReceipt o) : KeepsReceipts s (s.countDcb32 o n) := setDcb s _ h

theorem setDcbBits (s : State) {o : Nat} (m : Dword) (h : ¬Dcb.isReceipt o) : KeepsReceipts s (s.setDcbBits o m) :=
  (setDcb s _ h).trans (of_eq rfl rfl)

/-- A port that takes another value keeps what it has received where the value does. -/
theorem setLink (s : State) (l : Nat) {p : LinkPort} (h : p.receipt = (s.link l).receipt) : KeepsReceipts s (s.setLink l p) :=
  ⟨fun x => by
    rw [State.link_setLink]
    split
    · next hx => rw [h, hx]
    · rfl, fun _ _ => rfl⟩

theorem modCore (s : State) (c : Nat) (f : CoreState → CoreState) : KeepsReceipts s (s.modCore c f) := of_eq rfl rfl

theorem modJob (s : State) (h : Handle) (f : Job → Job) : KeepsReceipts s (s.modJob h f) := by
  unfold State.modJob
  split <;> exact of_eq rfl rfl

/-! ## Records -/

theorem soundWhistle (s : State) (src : Nat) : KeepsReceipts s (s.soundWhistle src) := by
  have hlinks : (s.soundWhistle src).links = s.links := by
    unfold State.soundWhistle
    split
    · rfl
    · split
      · split
        · exact State.setDcbF_links ..
        · rfl
      · rw [State.setDcb_links, State.setDcbF_links, State.setDcbF_links, State.setDcbF_links]
  have hne {o x : Nat} (ho : Dcb.isReceipt o) (hx : ¬Dcb.isReceipt x) : o ≠ x := fun h => hx (h ▸ ho)
  exact ⟨fun l => by rw [State.link_of_links hlinks], fun o ho =>
    s.soundWhistle_dcbReg src (hne (x := Dcb.whistleStat) ho (by decide)) (hne (x := Dcb.whistleBeat) ho (by decide))⟩

theorem enterError (s : State) (unit code : Nat) (i : ErrInfo) : KeepsReceipts s (s.enterError unit code i) := by
  have hcls := s.makeRecord_cls_le unit code i
  unfold State.enterError
  extract_lets r u pushed u' s₁ s₂ e s₃
  have hcount : ¬Dcb.isReceipt (Dcb.errCnt r.cls) := by
    simp only [Dcb.isReceipt, Dcb.errCnt]
    omega
  have hpush : KeepsReceipts s (s.setErrUnit unit pushed) := of_eq rfl rfl
  have hraise : KeepsReceipts ((s.setErrUnit unit pushed).countDcb (Dcb.errCnt r.cls) 1) s₁ := of_eq rfl rfl
  have h₁ : KeepsReceipts s s₁ := (hpush.trans (countDcb _ 1 hcount)).trans hraise
  have h₂ : KeepsReceipts s₁ s₂ := (setDcbF s₁ 0 1 1 (by decide)).trans (modJob ..)
  have h₃ : KeepsReceipts s s₃ := (h₁.trans h₂).trans (of_eq rfl rfl)
  exact ite h₁ (ite (h₁.trans (modJob ..)) (ite (h₃.trans (soundWhistle ..)) h₃))

theorem enterJobFault (s : State) (c code detail addr engine : Nat) : KeepsReceipts s (s.enterJobFault c code detail addr engine) :=
  ite (refl s) ((enterError ..).trans (modCore ..))

theorem enterFor (s : State) (unit code detail : Nat) (hs : List Handle) : KeepsReceipts s (s.enterFor unit code detail hs) :=
  (enterError ..).trans (foldl (fun _ _ => modJob ..) _ _)

/-! ## Transfers -/

theorem feltWrite (s : State) (c : Nat) (ws : List FeltWrite) : KeepsReceipts s (s.feltWrite c ws) :=
  ite (((modCore s c _).trans (modCore ..)).trans (enterJobFault ..)) (modCore ..)

theorem takeInject (s : State) (unit : Nat) : KeepsReceipts s (s.takeInject unit).2 := by
  unfold State.takeInject
  split <;> exact of_eq rfl rfl

theorem spoil (s : State) (g : Granule) (m : Byte) : KeepsReceipts s (s.spoil g m).2 := by
  refine List.foldlRecOn (motive := fun x : Granule × State => KeepsReceipts s x.2) _ _ (refl s) fun x hx i _ => ?_
  split
  · exact hx.trans (of_eq rfl rfl)
  · exact hx

theorem recordWords (s : State) (hbm : Bool) (p c e addr : Nat) (h : Handle) (ce ue : Byte) (capar : Bool) :
    KeepsReceipts s (s.recordWords hbm p c e addr h ce ue capar) := by
  have hflag (t : State) (m : Dword) : KeepsReceipts t (t.setDcbBits Dcb.memFlags m) := setDcbBits t m (by decide)
  have hrecord (t : State) (unit code : Nat) (i : ErrInfo) : KeepsReceipts t (t.stepFree.enterError unit code i) :=
    trans (t := t.stepFree) (of_eq rfl rfl) (enterError ..)
  unfold State.recordWords
  extract_lets s₁ s₂ s₃ s₄ unit word i
  have h₁ : KeepsReceipts s s₁ := by
    refine (countDcb s _ ?_).trans (countDcb _ _ ?_) <;> cases hbm <;> decide
  have h₂ : KeepsReceipts s s₂ := ite h₁ (h₁.trans (hflag ..))
  have h₃ : KeepsReceipts s s₃ := ite h₂ (h₂.trans (hflag ..))
  have h₄ : KeepsReceipts s s₄ := ite (h₃.trans (hflag ..)) h₃
  exact ite (h₄.trans (enterError ..)) (ite (h₄.trans (hrecord ..)) (ite (h₄.trans (hrecord ..)) h₄))

theorem meetErrors (s : State) (write hbm : Bool) (p c e addr : Nat) (h : Handle) (x : XferErr) (data : Granule) :
    KeepsReceipts s (s.meetErrors write hbm p c e addr h x data).2.2 :=
  ((takeInject ..).trans (spoil ..)).trans (recordWords ..)

theorem putGranule (s : State) (a : Nat) (mask : BitVec 64) (data : Granule) (bad : Byte) :
    KeepsReceipts s (s.putGranule a mask data bad) := by
  unfold State.putGranule
  split
  · exact of_eq rfl rfl
  · exact of_eq rfl rfl
  · exact ite (modCore ..) (feltWrite ..)
  · exact refl s

theorem stageGranule (s : State) (c : Nat) (j : Job) (x : Landing) (g : Granule) : KeepsReceipts s (s.stageGranule c j x g) := by
  unfold State.stageGranule
  exact modCore ..

theorem landFlit (s : State) (h : Handle) (j : Job) (x : Landing) (g : Granule) : KeepsReceipts s (s.landFlit h j x g) := by
  unfold State.landFlit
  refine ite ?_ ?_
  · split
    · exact (meetErrors ..).trans (putGranule ..)
    · exact refl s
  · split
    · exact refl s
    · exact ite (refl s) (ite ((meetErrors ..).trans (stageGranule ..)) (ite ((meetErrors ..).trans (putGranule ..))
        ((meetErrors ..).trans (enterJobFault ..))))

/-! ## The parts of a frame -/

theorem landJob (s : State) (l : Nat) (f : RxFrame) (x : Handle × Job × List Landing) : KeepsReceipts s (s.landJob l f x) := by
  obtain ⟨hflags, -, -, -, htag⟩ := Dcb.not_isReceipt_port l
  unfold State.landJob
  dsimp only
  split
  · exact ((countDcb32 s 1 htag).trans (setDcbBits _ _ hflags)).trans (enterError ..)
  · exact foldl (fun t y => (ite (refl t) (enterError ..)).trans (landFlit ..)) _ _

theorem queueFree (s : State) (l : Nat) (m : FreeMsg) : KeepsReceipts s (s.queueFree l m) := by
  obtain ⟨hflags, -, -, hdrop, -⟩ := Dcb.not_isReceipt_port l
  exact ite (setLink s l rfl) ((countDcb32 s 1 hdrop).trans (setDcbBits _ _ hflags))

theorem takeKeyRecord (s : State) (l : Nat) (m : FreeMsg) : KeepsReceipts s (s.takeKeyRecord l m) := by
  unfold State.takeKeyRecord
  refine ite (foldl (fun _ _ => queueFree ..) _ _) ?_
  dsimp only
  split
  · exact ite (of_eq rfl rfl) (refl s)
  · exact (countDcb32 s 1 (by decide)).trans (setDcbBits _ _ (by decide))

theorem takeAddressed (s : State) (m : FreeMsg) : KeepsReceipts s (s.takeAddressed m) := by
  unfold State.takeAddressed
  dsimp only
  split
  · split
    · exact foldl (fun _ _ => modCore ..) _ _
    · exact refl s
  · exact refl s

theorem sendUp (s : State) (c : CtlMsg) : KeepsReceipts s (s.sendUp c) := by
  unfold State.sendUp
  exact ite (of_eq rfl rfl) (ite (ite (setLink s _ rfl) (refl s)) (refl s))

theorem sendDown (s : State) (ports : List Nat) (c : CtlMsg) : KeepsReceipts s (s.sendDown ports c) := by
  refine foldl (fun t l => ?_) _ _
  exact ite (setLink t l rfl) (refl t)

theorem takeGo (s : State) (token : Dword) : KeepsReceipts s (s.takeGo token) := by
  unfold State.takeGo
  split
  · exact ite (refl s) (of_eq (State.complete_links ..) (State.complete_dcb ..))
  · exact refl s

theorem takeBase (s : State) (token : Dword) (target b : Nat) : KeepsReceipts s (s.takeBase token target b) := by
  unfold State.takeBase
  split
  · exact ite (of_eq rfl rfl) (refl s)
  · exact refl s

theorem takeControl (s : State) (l : Nat) (c : List Byte) : KeepsReceipts s (s.takeControl l c) := by
  unfold State.takeControl
  extract_lets ctl at8 up s₁ n s₂
  have h₁ : KeepsReceipts s s₁ := ite (refl s) (ite (sendUp ..) (ite (sendUp ..) (refl s)))
  have h₂ : KeepsReceipts s s₂ := ite h₁ (ite (ite (h₁.trans (takeBase ..)) (h₁.trans (sendDown ..)))
    (ite ((h₁.trans (sendDown ..)).trans (takeGo ..)) h₁))
  exact ite (h₂.trans (of_eq rfl rfl)) h₂

theorem countWords (s : State) (l : Nat) (f : RxFrame) (jobs : List (Handle × Job × List Landing)) (kept : Bool) :
    KeepsReceipts s (s.countWords l f jobs kept) := by
  obtain ⟨hflags, hce, hue, -, -⟩ := Dcb.not_isReceipt_port l
  refine foldl (fun t w => ?_) _ _
  have hbad (m : Dword) : KeepsReceipts t ((t.countDcb (Dcb.linkUe l) 1).setDcbBits (Dcb.linkFlags l) m) :=
    (countDcb t 1 hue).trans (setDcbBits _ _ hflags)
  exact ite (ite ((hbad _).trans (enterError ..)) (hbad _)) (ite (refl t) ((countDcb t 1 hce).trans (enterError ..)))

theorem lockDropped (s : State) : KeepsReceipts s s.lockDropped := by
  have hfield (t : State) (lo v : Nat) : KeepsReceipts t (t.setDcbF Dcb.beatSync lo 1 v) :=
    setDcbF t (o := Dcb.beatSync) lo 1 v (by decide)
  have hbits (t : State) (m : Dword) : KeepsReceipts t (t.setDcbBits Dcb.beatSync m) :=
    setDcbBits t (o := Dcb.beatSync) m (by decide)
  unfold State.lockDropped
  exact (((hfield ..).trans (hfield ..)).trans (hbits ..)).trans (of_eq (State.dieEvent_links ..) (State.dieEvent_dcb ..))

theorem lockLoss (s : State) : KeepsReceipts s s.lockLoss := by
  by_cases hlock : s.locked = true ∨ s.dcbF Dcb.beatSync 2 1 = 1
  · obtain ⟨id, hid⟩ := State.lockLoss_eq hlock
    rw [hid]
    exact ((lockDropped s).trans (enterError ..)).trans (foldl (fun _ _ => modJob ..) _ _)
  · rw [State.lockLoss, if_neg hlock]
    exact refl s

/-- From the dropped port on, a fall keeps what the ports have received. -/
theorem linkFall {s : State} {l : Nat} (h : s.linkState l = 2) :
    KeepsReceipts ((s.portDropped l).setLink l { (s.portDropped l).link l with lostRun := 0 }) (s.linkFall l) := by
  unfold State.linkFall
  rw [if_pos h]
  exact ite ((enterFor ..).trans (lockLoss _)) (enterFor ..)

end State.KeepsReceipts

/-! ## The sender -/

theorem execLinkFrameTx_eq {port : BitVec 4} {s : State} (hreset : s.power.coldReset = false) (hon : s.linkState port.toNat ≠ 0)
    (hsent : (s.link port.toNat).sent ≠ some s.beat) : exec (.linkFrameTx port) s = .next (s.setLink port.toNat
      { s.link port.toNat with
        up := (s.link port.toNat).up.drop 1, down := (s.link port.toNat).down.drop 1, free := (s.buildFrame port.toNat).2
        payload := [], payloadJob := [], sent := some s.beat, out := frameOf (s.buildFrame port.toNat).1 }) :=
  if_neg (by simp [hreset, hon, hsent])

/-! ## The receiver -/

/-- The state when lanes and codewords of a frame have been counted. -/
def State.worded (s : State) (l : Nat) (f : RxFrame) : State :=
  (s.laneState l f).countWords l f (s.landingsOf l (s.beatOf64 f.beat)) f.kept

theorem execLinkFrameRx_up {port : BitVec 4} {frame : List Byte} (late : List Nat) {s : State} (hreset : s.power.coldReset = false)
    (hlen : frame.length = 64000) (hup : s.linkState port.toNat = 2) (hinject : (s.errUnit (UnitNo.link port.toNat)).inject = none) :
    let f : RxFrame := ⟨(List.range 100).map fun w => decodeCodeword (octets (frame.drop (640 * w)) 0 640), late⟩
    exec (.linkFrameRx port frame late) s = .next (if f.kept then (s.worded port.toNat f).takeFrame port.toNat f
      else (s.worded port.toNat f).loseFrame port.toNat) := by
  intro f
  have hwf : (Instr.linkFrameRx port frame late).wf = true := decide_eq_true hlen
  have htake : s.takeInject (UnitNo.link port.toNat) = (none, s) := by rw [State.takeInject, hinject]
  show execLinkFrameRx port frame late s = _
  unfold execLinkFrameRx
  rw [whenFormed, if_pos hwf]
  dsimp only
  rw [if_neg (by simp [hup, hreset])]
  simp only [hup, beq_self_eq_true, if_true, Bool.not_true, Bool.false_eq_true, if_false, htake]
  rfl

/-- The lanes write one field of LINK_STAT. -/
theorem State.laneState_eq (s : State) (l : Nat) (f : RxFrame) : ∃ v, s.laneState l f = s.setDcbF (Dcb.linkStat l) 3 6 v := by
  unfold State.laneState
  split
  · exact ⟨_, rfl⟩
  · exact ⟨_, rfl⟩

/-- The counts of a frame leave the port's state, its echo and its lost frames. -/
theorem State.worded_spec (s : State) {l : Nat} (f : RxFrame) (hl : l < 16) :
    ((s.worded l f).link l).receipt = (s.link l).receipt ∧ (s.worded l f).linkState l = s.linkState l ∧
      (s.worded l f).dcbReg (Dcb.linkLost l) = s.dcbReg (Dcb.linkLost l) ∧ (s.worded l f).cycle = s.cycle := by
  obtain ⟨hstat, hlost⟩ := Dcb.isReceipt_port hl
  obtain ⟨v, hv⟩ := s.laneState_eq l f
  have hwords := State.KeepsReceipts.countWords (s.setDcbF (Dcb.linkStat l) 3 6 v) l f (s.landingsOf l (s.beatOf64 f.beat)) f.kept
  have hne : Dcb.linkLost l ≠ Dcb.linkStat l := by
    simp only [Dcb.linkLost, Dcb.linkStat]
    omega
  unfold State.worded
  rw [hv]
  refine ⟨hwords.link l, ?_, ?_, ?_⟩
  · rw [State.linkState, State.dcbF_of_dcbReg (hwords.reg _ hstat), State.dcbF_setDcbF_beside _ _ _ (by decide) (by decide),
      State.linkState]
  · rw [hwords.reg _ hlost, State.dcbReg_setDcbF, if_neg hne]
  · rw [State.cycle_of_queueClock (State.countWords_queueClock ..), State.setDcbF_cycle]

/-! ## A kept frame -/

/-- The port that echoes a frame, and what it says of its sender's lock. -/
def LinkPort.echoing (p : LinkPort) (f : RxFrame) (cycle now : Nat) : LinkPort :=
  let flags := natOf (octets (f.flit 0) 18 1)
  { p with
    echoBeat := BitVec.ofNat 64 f.beat, echoCycle := cycle, lostRun := 0, peerMaster := flags.testBit 0
    peerLocked := flags.testBit 1, peerBeat := BitVec.ofNat 64 f.beat, peerAt := some now }

/-- The state when a kept frame is echoed and has named the peer. -/
def State.peerNamed (s : State) (l : Nat) (f : RxFrame) : State :=
  ((s.setLink l ((s.link l).echoing f s.cycle s.now)).setDcbF (Dcb.linkStat l) 16 6 (natOf (octets (f.flit 0) 16 1))).setDcbF
    (Dcb.linkStat l) 24 4 (natOf (octets (f.flit 0) 17 1))

theorem State.takeFrame_keeps {s : State} {l : Nat} (f : RxFrame) (hup : s.linkState l = 2) :
    (s.peerNamed l f).KeepsReceipts (s.takeFrame l f) := by
  unfold State.takeFrame
  extract_lets h flags up p s₁ s₂ jobs used s₃
  rw [if_neg (by simp [up, hup])]
  have h₃ : (s.peerNamed l f).KeepsReceipts s₃ := (State.KeepsReceipts.takeControl ..).trans (.foldl (fun _ _ => .landJob ..) _ _)
  exact h₃.trans (.foldl (fun _ _ => .ite (.takeKeyRecord ..) (.takeAddressed ..)) _ _)

/-- A kept frame is echoed with its beat and this cycle, ends the run of lost frames and names the peer. -/
theorem State.takeFrame_spec {s : State} {l : Nat} (f : RxFrame) (hl : l < 16) (hup : s.linkState l = 2) :
    ((s.takeFrame l f).link l).receipt = (BitVec.ofNat 64 f.beat, s.cycle, 0) ∧
      (s.takeFrame l f).dcbF (Dcb.linkStat l) 16 6 = natOf (octets (f.flit 0) 16 1) % 64 ∧
      (s.takeFrame l f).dcbF (Dcb.linkStat l) 24 4 = natOf (octets (f.flit 0) 17 1) % 16 := by
  have hkeeps := State.takeFrame_keeps f hup
  have hreg := hkeeps.reg _ (Dcb.isReceipt_port hl).1
  refine ⟨?_, ?_, ?_⟩
  · rw [hkeeps.link, State.peerNamed, State.link_of_links (State.setDcbF_links ..), State.link_of_links (State.setDcbF_links ..),
      State.link_setLink, if_pos rfl]
    rfl
  · rw [State.dcbF_of_dcbReg hreg, State.peerNamed, State.dcbF_setDcbF_beside _ _ _ (by decide) (by decide),
      State.dcbF_setDcbF_self _ _ _ (by decide)]
    rfl
  · rw [State.dcbF_of_dcbReg hreg, State.peerNamed, State.dcbF_setDcbF_self _ _ _ (by decide)]
    rfl

/-! ## A lost frame -/

/-- The state when a lost frame has been counted. -/
def State.lostCounted (s : State) (l : Nat) : State :=
  ((s.setLink l { s.link l with lostRun := (s.link l).lostRun + 1 }).countDcb32 (Dcb.linkLost l) 1).setDcbBits (Dcb.linkFlags l) 0x2

/-- A lost frame ends jobs, and the third in a row takes the port DOWN. -/
theorem State.loseFrame_eq (s : State) (l : Nat) : ∃ hs,
    s.loseFrame l = if (s.link l).lostRun + 1 = 3 then ((s.lostCounted l).enterFor (UnitNo.link l) 0x11 3 hs).linkFall l
      else (s.lostCounted l).enterFor (UnitNo.link l) 0x11 3 hs := ⟨_, rfl⟩

theorem State.lostCounted_spec (s : State) (l : Nat) :
    ((s.lostCounted l).link l).lostRun = (s.link l).lostRun + 1 ∧ (s.lostCounted l).linkState l = s.linkState l ∧
      (s.lostCounted l).dcbReg (Dcb.linkLost l) =
        BitVec.ofNat 64 (min ((s.dcbReg (Dcb.linkLost l)).toNat + 1) (2 ^ 32 - 1)) := by
  have hreg {o : Nat} (h : o ≠ Dcb.linkFlags l) : (s.lostCounted l).dcbReg o = (s.countDcb32 (Dcb.linkLost l) 1).dcbReg o := by
    rw [State.lostCounted, State.dcbReg_setDcbBits, if_neg h]
    rfl
  have hflags : Dcb.linkLost l ≠ Dcb.linkFlags l ∧ Dcb.linkStat l ≠ Dcb.linkFlags l ∧ Dcb.linkStat l ≠ Dcb.linkLost l := by
    simp only [Dcb.linkLost, Dcb.linkStat, Dcb.linkFlags]
    omega
  obtain ⟨hlost, hstat, hne⟩ := hflags
  refine ⟨?_, ?_, ?_⟩
  · rw [State.lostCounted, State.link_of_links (State.setDcbBits_links ..), State.link_of_links (State.countDcb32_links ..),
      State.link_setLink, if_pos rfl]
  · rw [State.linkState, State.dcbF_of_dcbReg (hreg hstat), State.dcbF, State.dcbReg_countDcb32, if_neg hne]
    rfl
  · rw [hreg hlost, State.dcbReg_countDcb32, if_pos rfl, satAdd]

theorem State.loseFrame_spec {s : State} {l : Nat} (hl : l < 16) (hup : s.linkState l = 2) :
    (s.loseFrame l).dcbReg (Dcb.linkLost l) = BitVec.ofNat 64 (min ((s.dcbReg (Dcb.linkLost l)).toNat + 1) (2 ^ 32 - 1)) ∧
      ((s.link l).lostRun + 1 ≠ 3 → ((s.loseFrame l).link l).lostRun = (s.link l).lostRun + 1) ∧
      ((s.link l).lostRun + 1 = 3 → ((s.loseFrame l).link l).lostRun = 0 ∧ (s.loseFrame l).linkState l = 1) := by
  obtain ⟨hstat, hlost⟩ := Dcb.isReceipt_port hl
  obtain ⟨hrun, hstate, hcount⟩ := s.lostCounted_spec l
  obtain ⟨hs, heq⟩ := s.loseFrame_eq l
  have hfor := State.KeepsReceipts.enterFor (s.lostCounted l) (UnitNo.link l) 0x11 3 hs
  generalize (s.lostCounted l).enterFor (UnitNo.link l) 0x11 3 hs = u at heq hfor
  have hup' : u.linkState l = 2 := by
    rw [State.linkState, State.dcbF_of_dcbReg (hfor.reg _ hstat), ← State.linkState, hstate, hup]
  have hrun' (t : State) (p : LinkPort) (h : (t.link l).receipt = p.receipt) : (t.link l).lostRun = p.lostRun :=
    congrArg (fun x => x.2.2) h
  by_cases hthird : (s.link l).lostRun + 1 = 3
  · have hfall := State.KeepsReceipts.linkFall hup'
    obtain ⟨hreg, -⟩ := State.linkFall_keeps hup'
    have hbelow : Dcb.linkStat l < Dcb.traceCtrl ∧ Dcb.linkLost l < Dcb.traceCtrl ∧ Dcb.linkStat l ≠ Dcb.beatSync ∧
        Dcb.linkLost l ≠ Dcb.beatSync ∧ Dcb.linkLost l ≠ Dcb.linkStat l ∧ Dcb.linkLost l ≠ Dcb.linkFlags l := by
      simp only [Dcb.linkStat, Dcb.linkLost, Dcb.linkFlags, Dcb.traceCtrl, Dcb.beatSync]
      omega
    obtain ⟨hstat', hlost', hsync, hsync', hne, hne'⟩ := hbelow
    rw [heq, if_pos hthird]
    refine ⟨?_, fun h => absurd hthird h, fun _ => ⟨?_, ?_⟩⟩
    · rw [hreg _ hlost' hsync', State.portDropped, State.dcbReg_of_dcb (State.dieEvent_dcb ..), State.dcbReg_setDcbBits, if_neg hne',
        State.dcbReg_setDcbF, if_neg hne, hfor.reg _ hlost, hcount]
    · exact (hrun' _ _ (hfall.link l)).trans (by rw [State.link_setLink, if_pos rfl])
    · rw [State.linkState, State.dcbF_of_dcbReg (hreg _ hstat' hsync)]
      exact (u.portDropped_fields l).1
  · rw [heq, if_neg hthird]
    exact ⟨(hfor.reg _ hlost).trans hcount, fun _ => (hrun' _ _ (hfor.link l)).trans hrun, fun h => absurd h hthird⟩

/-- Settles O45: one frame of a port sent, one received. -/
theorem linkFramesAreSentAndTaken : Obligations.LinkFramesAreSentAndTaken := by
  refine ⟨fun port s hreset hon => ⟨fun hsent => ?_, fun hsent => ?_⟩, fun port frame late s hreset hlen hup hinject => ?_⟩
  · refine ⟨_, execLinkFrameTx_eq hreset hon hsent, ?_⟩
    rw [State.link_setLink, if_pos rfl]
    simp only [and_self]
  · show execLinkFrameTx port s = _
    unfold execLinkFrameTx
    dsimp only
    rw [if_pos (.inr (.inl hsent))]
  · intro f n
    obtain ⟨hreceipt, hstate, hlost, hcycle⟩ := s.worded_spec f port.isLt
    have hrun : ((s.worded port.toNat f).link port.toNat).lostRun = (s.link port.toNat).lostRun := congrArg (fun x => x.2.2) hreceipt
    have hn : n = ((s.worded port.toNat f).link port.toNat).lostRun + 1 := congrArg (· + 1) hrun.symm
    have hexec : exec (.linkFrameRx port frame late) s = .next (if f.kept then (s.worded port.toNat f).takeFrame port.toNat f
      else (s.worded port.toNat f).loseFrame port.toNat) := execLinkFrameRx_up late hreset hlen hup hinject
    clear_value f n
    refine ⟨_, hexec, fun hkept => ?_, fun hkept => ?_⟩
    · obtain ⟨hecho, hmodule, hport⟩ := State.takeFrame_spec f port.isLt (hstate.trans hup)
      simp only [LinkPort.receipt, Prod.mk.injEq, hcycle] at hecho
      obtain ⟨hbeat, hnow, hrun'⟩ := hecho
      rw [if_pos hkept]
      exact ⟨hbeat, hnow, hrun', hmodule, hport⟩
    · rw [if_neg (by simp [hkept]), ← hlost, hn]
      exact State.loseFrame_spec port.isLt (hstate.trans hup)

end Sys2Proof.Machine
end

section
/-! Where writes land and reads arrive (R306, R310, R313, R315, R320), and O29. -/

namespace Sys2Proof.Machine

/-! ## Bytes -/

/-- A number written byte by byte. -/
theorem bytesLanded_bytesWrite (m : Bytes) (a n v : Nat) : bytesLanded m (bytesWrite m a (bytesOf n v)) a n v := by
  intro b
  rw [byteAt_bytesWrite, length_bytesOf]
  split
  · next hb => exact getD_bytesOf v (by omega)
  · rfl

/-- The first bytes of a granule written. -/
theorem bytesLanded_granule (m : Bytes) (a : Nat) {n : Nat} (g : Granule) (hn : n ≤ 64) :
    bytesLanded m (bytesWrite m a ((granBytes g).take n)) a n g.toNat := by
  rw [granBytes, take_bytesOf _ hn]
  exact bytesLanded_bytesWrite m a n g.toNat

/-- A granule written under its mask. -/
theorem byteAt_masked (m : Bytes) (a : Nat) (mask : BitVec 64) (g : Granule) (b : Nat) :
    byteAt (bytesWrite m a (maskBytes mask.toNat (bytesRead m a 64) (granBytes g))) b =
      if a ≤ b ∧ b < a + 64 ∧ mask.toNat.testBit (b - a) = true then BitVec.ofNat 8 (g.toNat >>> (8 * (b - a))) else byteAt m b := by
  have hlen : (maskBytes mask.toNat (bytesRead m a 64) (granBytes g)).length = 64 := by
    rw [maskBytes, List.length_map, List.length_range, length_bytesRead]
  rw [byteAt_bytesWrite, hlen]
  by_cases hb : a ≤ b ∧ b < a + 64
  · obtain ⟨i, rfl⟩ := Nat.exists_eq_add_of_le hb.1
    have hi : i < 64 := by omega
    have hnew : (granBytes g).getD i 0 = BitVec.ofNat 8 (g.toNat >>> (8 * i)) := getD_bytesOf _ hi
    have hold : (bytesRead m a 64).getD i 0 = byteAt m (a + i) := by simp [bytesRead, hi]
    have hbyte : (maskBytes mask.toNat (bytesRead m a 64) (granBytes g)).getD i 0 =
        if mask.toNat.testBit i then (granBytes g).getD i 0 else (bytesRead m a 64).getD i 0 := by
      rw [List.getD_eq_getElem _ _ (by omega)]
      simp [maskBytes]
    rw [if_pos hb, Nat.add_sub_cancel_left, hbyte, hnew, hold]
    simp only [hb.1, hb.2, true_and]
  · rw [if_neg hb, if_neg fun h => hb ⟨h.1, h.2.1⟩]

/-! ## What records leave of the transfers -/

theorem State.soundWhistle_transfers (s : State) (src : Nat) : (s.soundWhistle src).transfers = s.transfers := by
  unfold State.soundWhistle
  split
  · rfl
  · split
    · split
      · exact State.setDcbF_transfers ..
      · rfl
    · rw [State.setDcb_transfers, State.setDcbF_transfers, State.setDcbF_transfers, State.setDcbF_transfers]

theorem State.modJob_transfers (s : State) (h : Handle) (f : Job → Job) : (s.modJob h f).transfers = s.transfers := by
  unfold State.modJob
  split <;> rfl

theorem State.enterError_transfers (s : State) (unit code : Nat) (i : ErrInfo) :
    (s.enterError unit code i).transfers = s.transfers := by
  unfold State.enterError
  extract_lets r u pushed u' s₁ s₂ e s₃
  have h₂ : s₂.transfers = s.transfers := State.modJob_transfers ..
  split
  · rfl
  · split
    · exact State.modJob_transfers ..
    · split
      · exact (State.soundWhistle_transfers ..).trans h₂
      · exact h₂

theorem State.enterJobFault_transfers (s : State) (c code detail addr engine : Nat) :
    (s.enterJobFault c code detail addr engine).transfers = s.transfers := by
  unfold State.enterJobFault
  dsimp only
  split
  · rfl
  · exact State.enterError_transfers ..

theorem State.slotError_transfers (s : State) (c e a : Nat) : (s.slotError c e a).transfers = s.transfers :=
  State.enterJobFault_transfers ..

theorem State.recordWords_transfers (s : State) (hbm : Bool) (p c e addr : Nat) (h : Handle) (ce ue : Byte) (capar : Bool) :
    (s.recordWords hbm p c e addr h ce ue capar).transfers = s.transfers := by
  have hite (q : Prop) [Decidable q] (t u : State) (ht : t.transfers = s.transfers) (hu : u.transfers = s.transfers) :
      (if q then t else u).transfers = s.transfers := by
    split
    · exact ht
    · exact hu
  unfold State.recordWords
  extract_lets s₁ s₂ s₃ s₄ unit word i
  have h₂ : s₂.transfers = s.transfers := hite _ _ _ rfl rfl
  have h₃ : s₃.transfers = s.transfers := hite _ _ _ h₂ h₂
  have h₄ : s₄.transfers = s.transfers := hite _ _ _ h₃ h₃
  have hrecord (t : State) (unit code : Nat) (i : ErrInfo) (ht : t.transfers = s.transfers) :
      (t.enterError unit code i).transfers = s.transfers := (State.enterError_transfers ..).trans ht
  exact hite _ _ _ (hrecord _ _ _ _ h₄) (hite _ _ _ (hrecord _ _ _ _ h₄) (hite _ _ _ (hrecord _ _ _ _ h₄) h₄))

/-- A transfer that was not made counts in MEM_SLOTERR (R313). -/
theorem State.slotError_count (s : State) (c e a : Nat) :
    (s.slotError c e a).dcbReg Dcb.memSloterr = BitVec.ofNat 64 (min ((s.dcbReg Dcb.memSloterr).toNat + 1) (2 ^ 64 - 1)) := by
  have hfault (t : State) : (t.enterJobFault c 0x0B 0 (granuleOf a) e).dcbReg Dcb.memSloterr = t.dcbReg Dcb.memSloterr := by
    unfold State.enterJobFault
    dsimp only
    split
    · rfl
    · exact (State.Reported.enterError ..).reg Dcb.memSloterr (by decide)
  rw [State.slotError, hfault, State.dcbReg_setDcbBits, if_neg (by decide), State.dcbReg_countDcb, if_pos rfl, satAdd]

/-! ## Transfers without errors on the way -/

theorem State.spoil_zero (s : State) (g : Granule) : s.spoil g 0 = (g, s) := by simp [State.spoil, List.range_succ]

/-- Where no word comes wrong the data arrives as it was sent; a read may meet words stored bad. -/
theorem State.meetWords_fine (s : State) (write hbm : Bool) (p c e addr : Nat) (h : Handle) (words : Byte) (data : Granule) :
    (s.meetWords write hbm p c e addr h 0 0 words false data).1 = data ∧
      (s.meetWords write hbm p c e addr h 0 0 words false data).2.2.transfers = s.transfers := by
  unfold State.meetWords
  extract_lets fresh stored ue d
  have hd : d = (data, s) := s.spoil_zero data
  rw [hd]
  exact ⟨rfl, State.recordWords_transfers ..⟩

theorem xferErr_inject_none : XferErr.inject XferErr.none none = XferErr.none := by simp [XferErr.inject, XferErr.none]

/-- Where nothing is injected either. -/
theorem State.meetErrors_fine {s : State} {hbm : Bool} {p : Nat}
    (hinject : (s.errUnit (if hbm then UnitNo.hbm p else UnitNo.slice p)).inject = none) (write : Bool) (c e a : Nat) (h : Handle)
    (g : Granule) : s.meetErrors write hbm p c e a h XferErr.none g = s.meetWords write hbm p c e a h 0 0 0xFF false g := by
  have htake : s.takeInject (if hbm then UnitNo.hbm p else UnitNo.slice p) = (none, s) := by rw [State.takeInject, hinject]
  rw [State.meetErrors, htake]
  dsimp only
  rw [xferErr_inject_none]
  rfl

/-- The way through a slice port without an error. -/
theorem State.passPort_fine {s : State} {x : Transfer} (hinject : (s.errUnit (UnitNo.slice x.port)).inject = none) (g : Granule) :
    s.passPort x XferErr.none g = (g, 0, s.noErrors) := by
  have htake : s.takeInject (UnitNo.slice x.port) = (none, s) := by rw [State.takeInject, hinject]
  have hrecord : s.recordWords false x.port x.core x.engine x.addr x.handle 0#8 0#8 false = s.noErrors := by
    simp [State.recordWords, State.noErrors, popcount]
  have hspoil : s.spoil g 0#8 = (g, s) := s.spoil_zero g
  simp [State.passPort, htake, XferErr.none, hspoil, hrecord]

/-! ## Writes -/

section

variable {s : State} {x : Transfer}

/-- A write into slice or HBM memory. -/
theorem State.land_memory (htarget : x.target = .memory) (hregion : (∃ p, regionOf x.addr = .slice p) ∨ ∃ p, regionOf x.addr = .hbm p)
    (data : Granule) (bad : Byte) : s.land x data bad = s.memWrite x.addr x.mask (granBytes data) bad := by
  rw [State.land, htarget]
  unfold State.putGranule
  rcases hregion with ⟨p, hp⟩ | ⟨p, hp⟩ <;> rw [hp]

/-- A write whose data arrives as it was sent, in a state with the same memory and transfers. -/
theorem State.landed_spec {u : State} (htarget : x.target = .memory)
    (hregion : (∃ p, regionOf x.addr = .slice p) ∨ ∃ p, regionOf x.addr = .hbm p) (hmem : u.mem = s.mem)
    (htransfers : u.transfers = s.transfers) (bad : Byte) :
    ((u.land x x.data bad).logTransfer x x.data).transfers = s.transfers ∧
      ((u.land x x.data bad).logTransfer x x.data).mem = bytesWrite s.mem (granuleOf x.addr)
        (maskBytes x.mask.toNat (bytesRead s.mem (granuleOf x.addr) 64) (granBytes x.data)) := by
  rw [State.logTransfer_transfers, State.logTransfer_mem, State.land_memory htarget hregion, ← hmem]
  exact ⟨htransfers, rfl⟩

/-- A write that meets no error lands under its mask. -/
theorem State.landWrite_fits (htarget : x.target = .memory)
    (hregion : (∃ p, regionOf x.addr = .slice p) ∨ ∃ p, regionOf x.addr = .hbm p)
    (hslice : (s.errUnit (UnitNo.slice x.port)).inject = none)
    (hhbm : x.hbm = true → (s.errUnit (UnitNo.hbm x.port)).inject = none) (hfits : x.mismatch = false) :
    (s.landWrite x XferErr.none).transfers = s.transfers ∧ (s.landWrite x XferErr.none).mem =
      bytesWrite s.mem (granuleOf x.addr) (maskBytes x.mask.toNat (bytesRead s.mem (granuleOf x.addr) 64) (granBytes x.data)) := by
  cases hport : x.hbm with
  | false =>
    rw [State.landWrite_none hport hfits hslice]
    exact State.landed_spec htarget hregion rfl rfl 0
  | true =>
    have hinject : (s.noErrors.errUnit (if true then UnitNo.hbm x.port else UnitNo.slice x.port)).inject = none := hhbm hport
    unfold State.landWrite
    simp only [hfits, hport, Bool.false_eq_true, if_false, if_true, State.passPort_fine hslice, State.meetErrors_fine hinject]
    obtain ⟨hdata, htransfers⟩ := s.noErrors.meetWords_fine true true x.port x.core x.engine x.addr x.handle 0xFF x.data
    rw [hdata]
    exact State.landed_spec htarget hregion (State.meetWords_mem ..) htransfers _

/-- A misdirected write does not land. -/
theorem State.landWrite_mismatch (h : x.mismatch = true) (err : XferErr) : s.landWrite x err = s.slotError x.core x.engine x.addr :=
  if_pos h

end

theorem execSliceWriteLand_due {port : PortNum} {s : State} {x : Transfer} {rest : List Transfer} (hruns : s.domainRuns = true)
    (hdue : takeDue s.transfers (fun y => y.write && !y.hbm && y.port == port.toNat && decide (y.dueAt ≤ s.now)) Transfer.dueAt =
      some (x, rest)) :
    exec (.sliceWriteLand port XferErr.none) s = .next ((s.withTransfers rest).landWrite x XferErr.none) := by
  have hwf : (Instr.sliceWriteLand port XferErr.none).wf = true := rfl
  show execSliceWriteLand port XferErr.none s = _
  unfold execSliceWriteLand
  rw [whenFormed, if_pos hwf]
  dsimp only
  rw [if_pos hruns, hdue]
  rfl

/-- The access of a pseudo-channel whose slot has come. -/
theorem execHbmAccess_due {port : PortNum} {s : State} {x : Transfer} {rest : List Transfer} (hruns : s.domainRuns = true)
    (hdue : takeDue s.transfers (fun y => y.hbm && y.port == port.toNat && !y.taken && decide (y.dueAt ≤ s.now)) Transfer.dueAt =
      some (x, rest)) :
    (x.write = true → exec (.hbmAccess port XferErr.none) s = .next ((s.withTransfers rest).landWrite x XferErr.none)) ∧
      (x.write = false → (s.errUnit (UnitNo.hbm port.toNat)).inject = none → exec (.hbmAccess port XferErr.none) s =
        .next ((s.transfers.filter x.mergesWith).foldl (s.serveMember XferErr.none)
          (s.withTransfers (s.transfers.filter fun y => !x.mergesWith y)))) := by
  have hwf : (Instr.hbmAccess port XferErr.none).wf = true := rfl
  refine ⟨fun hwrite => ?_, fun hread hinject => ?_⟩
  all_goals
    show execHbmAccess port XferErr.none s = _
    unfold execHbmAccess
    rw [whenFormed, if_pos hwf]
    dsimp only
    rw [if_pos hruns, hdue]
    dsimp only
  · rw [if_pos hwrite]
    rfl
  · have htake : s.takeInject (UnitNo.hbm port.toNat) = (none, s) := by rw [State.takeInject, hinject]
    rw [if_neg (by simp [hread]), htake]
    dsimp only
    rw [xferErr_inject_none]
    rfl

/-- Either landing of a write that is due. -/
theorem exec_landWrite {c : Instr} {hbm : Bool} {port : PortNum} {s : State} {x : Transfer} {rest : List Transfer}
    (hruns : s.domainRuns = true) (h : (c = .sliceWriteLand port XferErr.none ∧ hbm = false ∧
        takeDue s.transfers (fun y => y.write && !y.hbm && y.port == port.toNat && decide (y.dueAt ≤ s.now)) Transfer.dueAt =
          some (x, rest) ∧ (∃ p, regionOf x.addr = .slice p)) ∨
      (c = .hbmAccess port XferErr.none ∧ hbm = true ∧ x.write = true ∧
        takeDue s.transfers (fun y => y.hbm && y.port == port.toNat && !y.taken && decide (y.dueAt ≤ s.now)) Transfer.dueAt =
          some (x, rest) ∧ (∃ p, regionOf x.addr = .hbm p))) :
    exec c s = .next ((s.withTransfers rest).landWrite x XferErr.none) ∧ x.hbm = hbm ∧
      ((∃ p, regionOf x.addr = .slice p) ∨ ∃ p, regionOf x.addr = .hbm p) := by
  rcases h with ⟨rfl, rfl, hdue, hregion⟩ | ⟨rfl, rfl, hwrite, hdue, hregion⟩
  · have hmeets := takeDue_spec hdue
    simp only [Bool.and_eq_true, Bool.not_eq_true'] at hmeets
    obtain ⟨⟨⟨-, hslice⟩, -⟩, -⟩ := hmeets
    exact ⟨execSliceWriteLand_due hruns hdue, hslice, .inl hregion⟩
  · have hmeets := takeDue_spec hdue
    simp only [Bool.and_eq_true] at hmeets
    obtain ⟨⟨⟨hhbm, -⟩, -⟩, -⟩ := hmeets
    exact ⟨(execHbmAccess_due hruns hdue).1 hwrite, hhbm, .inr hregion⟩

/-! ## Reads of a pseudo-channel -/

/-- A member of a merged read takes its data, and joins the transfers again. -/
theorem State.serveMember_fine (s t : State) (x : Transfer) :
    (s.serveMember XferErr.none t x).transfers = t.transfers ++ [s.takeData x] ∧ (s.serveMember XferErr.none t x).mem = t.mem := by
  unfold State.serveMember
  extract_lets y r
  split
  · exact ⟨rfl, rfl⟩
  · obtain ⟨hdata, htransfers⟩ := t.meetWords_fine false true y.port y.core y.engine y.addr y.handle 0xFF y.data
    have hdata' : r.1 = y.data := hdata
    refine ⟨?_, State.meetWords_mem ..⟩
    rw [hdata']
    exact congrArg (· ++ [y]) htransfers

theorem State.foldl_serveMember (s : State) (l : List Transfer) (t : State) :
    (l.foldl (s.serveMember XferErr.none) t).transfers = t.transfers ++ l.map s.takeData ∧
      (l.foldl (s.serveMember XferErr.none) t).mem = t.mem := by
  induction l generalizing t with
  | nil => exact ⟨(List.append_nil _).symm, rfl⟩
  | cons x l ih =>
    obtain ⟨hserved, hmem⟩ := s.serveMember_fine t x
    obtain ⟨hrest, hmem'⟩ := ih (s.serveMember XferErr.none t x)
    rw [List.foldl_cons, hrest, hserved, hmem', hmem, List.map_cons, List.append_assoc]
    exact ⟨rfl, rfl⟩

/-! ## Delivery -/

/-- The data of a read that meets no error on its way. -/
theorem State.arriveRead_fine {s : State} {x : Transfer} (hinject : (s.errUnit (UnitNo.slice x.port)).inject = none) :
    (s.arriveRead x XferErr.none).1 = x.data ∧ (s.arriveRead x XferErr.none).2.transfers = s.transfers ∧
      (s.arriveRead x XferErr.none).2.mem = s.mem ∧ ∀ c, (s.arriveRead x XferErr.none).2.core c = s.core c := by
  unfold State.arriveRead
  dsimp only
  split
  · rw [State.passPort_fine hinject]
    exact ⟨rfl, rfl, rfl, fun _ => rfl⟩
  · rw [State.meetErrors_fine (hbm := false) hinject]
    obtain ⟨hdata, htransfers⟩ := s.meetWords_fine false false x.port x.core x.engine x.addr x.handle 0xFF x.data
    exact ⟨hdata, htransfers, State.meetWords_mem .., fun c => State.core_of_coresUnits (by simp [State.meetWords]) c⟩

/-- The payload of a transfer adds to the core's digest alone. -/
theorem State.core_logTransfer (s : State) (x : Transfer) (data : Granule) (c : Nat) :
    ((s.logTransfer x data).core c).store = (s.core c).store ∧ ((s.logTransfer x data).core c).engines = (s.core c).engines := by
  unfold State.logTransfer State.logPayload
  split
  · split
    · rw [State.core_modCore]
      split
      · next hc =>
        subst hc
        exact ⟨rfl, rfl⟩
      · exact ⟨rfl, rfl⟩
    · exact ⟨rfl, rfl⟩
  · exact ⟨rfl, rfl⟩

/-- The granule of a read at its place in scratch or with its engine. -/
theorem CoreState.takeRead_spec (k : CoreState) (x : Transfer) (g : Granule) :
    (∀ off n, x.dest = .scratch off n → n ≤ 64 → bytesLanded k.store (k.takeRead x g).store (Win.scratch + off) n g.toNat) ∧
      ∀ n, x.dest = .operand n → (k.takeRead x g).store = k.store ∧ (k.job = some x.handle →
        (k.engine x.engine).cmd.isSome = true → tabFind ((k.takeRead x g).engine x.engine).operand n = some g) := by
  unfold CoreState.takeRead
  refine ⟨fun off n hdest hn => ?_, fun n hdest => ?_⟩
  · rw [hdest]
    exact bytesLanded_granule _ _ g hn
  · rw [hdest]
    dsimp only
    refine ⟨?_, fun hjob hcmd => ?_⟩
    · split <;> rfl
    · rw [if_pos ⟨hjob, hcmd⟩, CoreState.engine, CoreState.setEngine, tabGet_tabSet_self, tabFind_tabPut, if_pos rfl]

/-- The state in which the data of a read has reached its core. -/
def State.delivered (s : State) (x : Transfer) : State :=
  let r := s.arriveRead x XferErr.none
  (r.2.modCore x.core fun k => k.takeRead x r.1).logTransfer x r.1

theorem execReadDataDeliver_due {core : CoreNum} {s : State} {x : Transfer} {rest : List Transfer} (hruns : s.domainRuns = true)
    (hdue : takeDue s.transfers (fun y => !y.write && y.core == core.toNat && (y.taken || !y.hbm) && decide (y.deliverAt ≤ s.now))
      Transfer.deliverAt = some (x, rest)) (hfits : (if x.taken then x else s.takeData x).mismatch = false) :
    exec (.readDataDeliver core XferErr.none) s = .next ((s.withTransfers rest).delivered (if x.taken then x else s.takeData x)) := by
  have hwf : (Instr.readDataDeliver core XferErr.none).wf = true := rfl
  show execReadDataDeliver core XferErr.none s = _
  unfold execReadDataDeliver
  rw [whenFormed, if_pos hwf]
  dsimp only
  rw [if_pos hruns, hdue]
  exact if_neg (by simp [hfits])

theorem State.delivered_spec {s : State} {x : Transfer} (hinject : (s.errUnit (UnitNo.slice x.port)).inject = none) :
    (s.delivered x).transfers = s.transfers ∧ (s.delivered x).mem = s.mem ∧
      ((s.delivered x).core x.core).store = ((s.core x.core).takeRead x x.data).store ∧
      ((s.delivered x).core x.core).engines = ((s.core x.core).takeRead x x.data).engines := by
  obtain ⟨hdata, htransfers, hmem, hcore⟩ := State.arriveRead_fine hinject
  unfold State.delivered
  extract_lets r
  obtain ⟨hstore, hengines⟩ := (r.2.modCore x.core fun k => k.takeRead x r.1).core_logTransfer x r.1 x.core
  have hread : (r.2.modCore x.core fun k => k.takeRead x r.1).core x.core = (s.core x.core).takeRead x x.data := by
    rw [State.core_modCore_self, show r.1 = x.data from hdata, show r.2.core x.core = s.core x.core from hcore _]
  rw [hstore, hengines, hread, State.logTransfer_transfers, State.logTransfer_mem]
  exact ⟨htransfers, hmem, rfl, rfl⟩

/-- Settles O29: writes at the slice ports and pseudo-channels, reads of a pseudo-channel, and delivery. -/
theorem writesLandAndReadsArrive : Obligations.WritesLandAndReadsArrive := by
  unfold Obligations.WritesLandAndReadsArrive
  refine ⟨fun c hbm port s x rest hruns hcase htarget hslice hhbm => ?_, fun port s x rest hruns hread hdue hinject => ?_,
    fun core s x rest hruns hdue hinject => ?_, fun _ s => ⟨rfl, rfl⟩⟩
  · obtain ⟨hexec, hport, hregion⟩ := exec_landWrite hruns hcase
    refine ⟨_, hexec, ?_⟩
    cases hfits : x.mismatch with
    | false =>
      obtain ⟨htransfers, hmem⟩ := State.landWrite_fits (s := s.withTransfers rest) htarget hregion hslice
        (fun h => hhbm (hport.symm.trans h)) hfits
      refine ⟨htransfers, fun _ b => ?_, fun h => absurd h (by decide)⟩
      rw [hmem, byteAt_masked]
      rfl
    | true =>
      rw [State.landWrite_mismatch hfits]
      exact ⟨State.slotError_transfers .., fun h => absurd h (by decide), fun _ =>
        ⟨State.slotError_mem .., State.slotError_count ..⟩⟩
  · obtain ⟨htransfers, hmem⟩ := s.foldl_serveMember (s.transfers.filter x.mergesWith)
      (s.withTransfers (s.transfers.filter fun y => !x.mergesWith y))
    exact ⟨_, (execHbmAccess_due hruns hdue).2 hread hinject, hmem, htransfers⟩
  · intro y hfits
    have hmeets := takeDue_spec hdue
    simp only [Bool.and_eq_true, beq_iff_eq] at hmeets
    obtain ⟨⟨⟨-, hcore⟩, -⟩, -⟩ := hmeets
    have hsame : y.core = x.core ∧ y.port = x.port ∧ y.dest = x.dest ∧ y.engine = x.engine ∧ y.handle = x.handle := by
      dsimp only [y]
      split <;> exact ⟨rfl, rfl, rfl, rfl, rfl⟩
    obtain ⟨hcore', hport, hdest, hengine, hhandle⟩ := hsame
    have hexec := execReadDataDeliver_due hruns hdue hfits
    rw [← hcore, ← hcore', ← hdest, ← hengine, ← hhandle]
    obtain ⟨htransfers, hmem, hstore, hengines⟩ := State.delivered_spec (s := s.withTransfers rest) (x := y)
      (by rw [hport]; exact hinject)
    obtain ⟨hscratch, hoperand⟩ := (s.core y.core).takeRead_spec y y.data
    refine ⟨_, hexec, htransfers, hmem, fun off n hd hn => ?_, fun n hd => ⟨?_, fun hjob hcmd => ?_⟩⟩
    · rw [hstore]
      exact hscratch off n hd hn
    · rw [hstore]
      exact (hoperand n hd).1
    · rw [CoreState.engine, hengines]
      exact (hoperand n hd).2 hjob hcmd

end Sys2Proof.Machine
end

section
/-! The steward's accesses (R323, R361 to R363), and O30. -/

namespace Sys2Proof.Machine

/-! ## Bytes and numbers -/

theorem ofNat_natOf (bs : List Byte) (j : Nat) : BitVec.ofNat 8 (natOf bs >>> (8 * j)) = bs.getD j 0 := by
  refine BitVec.eq_of_toNat_eq ?_
  rw [BitVec.toNat_ofNat]
  exact bitsOf_natOf bs j

/-- The bytes of a granule made of 64 bytes. -/
theorem granBytes_natOf {bs : List Byte} (h : bs.length = 64) : granBytes (BitVec.ofNat 512 (natOf bs)) = bs := by
  refine List.ext_getElem (by rw [length_granBytes, h]) fun i h1 h2 => ?_
  have hi : i < 64 := by omega
  rw [← List.getD_eq_getElem _ 0 h1, granBytes, getD_bytesOf _ hi, BitVec.toNat_ofNat, byte_mod 512 _ (by omega), ofNat_natOf,
    List.getD_eq_getElem _ _ h2]

theorem take_drop_bytesRead (m : Bytes) (a : Nat) {k n w : Nat} (h : k + n ≤ w) :
    ((bytesRead m a w).drop k).take n = bytesRead m (a + k) n := by
  refine List.ext_getElem (by simp [bytesRead]; omega) fun i h1 h2 => ?_
  simp [bytesRead, Nat.add_assoc]

theorem natOf_ones (n : Nat) : natOf (ones n) = 2 ^ (8 * n) - 1 := by
  induction n with
  | zero => rfl
  | succ n ih =>
    have hcons : natOf (ones (n + 1)) = 255 + 256 * natOf (ones n) := rfl
    have hpow : 2 ^ (8 * (n + 1)) = 256 * 2 ^ (8 * n) := by rw [Nat.mul_add, Nat.pow_add, Nat.mul_comm]
    have hpos : 0 < 2 ^ (8 * n) := Nat.pow_pos (by decide)
    rw [hcons, ih, hpow]
    omega

/-- The mask of the `n` bytes at `a` in their granule. -/
theorem testBit_byteMask (a n : Nat) {i : Nat} (hi : i < 64) :
    (byteMask a n).toNat.testBit i = decide (a % 64 ≤ i ∧ i < a % 64 + n) := by
  rw [byteMask, BitVec.toNat_ofNat, Nat.testBit_mod_two_pow, Nat.testBit_mul_two_pow, Nat.testBit_two_pow_sub_one]
  by_cases hlo : a % 64 ≤ i
  · simp only [hi, hlo, decide_true, Bool.true_and, true_and]
    exact decide_eq_decide.2 (by omega)
  · simp [hlo]

/-! ## What a cycle keeps of the steward's accesses -/

/-- From `s` to `t` the waiting accesses and the data of the last read stand. -/
structure State.KeepsSteward (s t : State) : Prop where
  queue : t.stewardQ = s.stewardQ
  data : t.readData = s.readData

namespace State.KeepsSteward

variable {s t u : State}

theorem refl (s : State) : KeepsSteward s s := ⟨rfl, rfl⟩

theorem trans (h : KeepsSteward s t) (h' : KeepsSteward t u) : KeepsSteward s u := ⟨h'.queue.trans h.queue, h'.data.trans h.data⟩

theorem ite {p : Prop} [Decidable p] (h : KeepsSteward s t) (h' : KeepsSteward s u) : KeepsSteward s (if p then t else u) := by
  split
  · exact h
  · exact h'

theorem foldl {α : Type} {f : State → α → State} (h : ∀ (t : State) (a : α), KeepsSteward t (f t a)) (l : List α) (s : State) :
    KeepsSteward s (l.foldl f s) :=
  List.foldlRecOn (motive := fun t : State => KeepsSteward s t) l f (refl s) fun _ ht a _ => ht.trans (h _ a)

theorem modCore (s : State) (c : Nat) (f : CoreState → CoreState) : KeepsSteward s (s.modCore c f) := ⟨rfl, rfl⟩

theorem modJob (s : State) (h : Handle) (f : Job → Job) : KeepsSteward s (s.modJob h f) := by
  unfold State.modJob
  split <;> exact ⟨rfl, rfl⟩

theorem setDcbF (s : State) (o lo n v : Nat) : KeepsSteward s (s.setDcbF o lo n v) := ⟨rfl, rfl⟩

/-! ### Records -/

theorem soundWhistle (s : State) (src : Nat) : KeepsSteward s (s.soundWhistle src) := by
  unfold State.soundWhistle
  refine ite (refl s) (ite (ite (setDcbF ..) (refl s)) ?_)
  have hset (t : State) (o : Nat) (v : Dword) : KeepsSteward t (t.setDcb o v) := ⟨rfl, rfl⟩
  have hpending (w : Whistle) : KeepsSteward s { s with whistle := w } := ⟨rfl, rfl⟩
  exact (((hpending _).trans (setDcbF ..)).trans (setDcbF ..)).trans ((setDcbF ..).trans (hset ..))

theorem enterError (s : State) (unit code : Nat) (i : ErrInfo) : KeepsSteward s (s.enterError unit code i) := by
  unfold State.enterError
  extract_lets r u pushed u' s₁ s₂ e s₃
  have h₁ : KeepsSteward s s₁ := ⟨rfl, rfl⟩
  have h₂ : KeepsSteward s₁ s₂ := (setDcbF ..).trans (modJob ..)
  have h₃ : KeepsSteward s₂ s₃ := ⟨rfl, rfl⟩
  have hfatal : KeepsSteward s s₃ := (h₁.trans h₂).trans h₃
  exact ite h₁ (ite (h₁.trans (modJob ..)) (ite (hfatal.trans (soundWhistle ..)) hfatal))

theorem enterJobFault (s : State) (c code detail addr engine : Nat) : KeepsSteward s (s.enterJobFault c code detail addr engine) :=
  ite (refl s) ((enterError ..).trans (modCore ..))

theorem takeInject (s : State) (unit : Nat) : KeepsSteward s (s.takeInject unit).2 := by
  unfold State.takeInject
  split <;> exact ⟨rfl, rfl⟩

theorem stepFree (s : State) : KeepsSteward s s.stepFree := ⟨rfl, rfl⟩

theorem spoil (s : State) (g : Granule) (m : Byte) : KeepsSteward s (s.spoil g m).2 := by
  refine List.foldlRecOn (motive := fun x : Granule × State => KeepsSteward s x.2) _ _ (refl s) fun x hx i _ => ?_
  split
  · exact hx.trans (stepFree _)
  · exact hx

theorem recordWords (s : State) (hbm : Bool) (p c e addr : Nat) (h : Handle) (ce ue : Byte) (capar : Bool) :
    KeepsSteward s (s.recordWords hbm p c e addr h ce ue capar) := by
  have hflag (t : State) (m : Dword) : KeepsSteward t (t.setDcbBits Dcb.memFlags m) := ⟨rfl, rfl⟩
  have hrecord (t : State) (unit code : Nat) (i : ErrInfo) : KeepsSteward t (t.stepFree.enterError unit code i) :=
    (stepFree t).trans (enterError ..)
  unfold State.recordWords
  extract_lets s₁ s₂ s₃ s₄ unit word i
  have h₁ : KeepsSteward s s₁ := ⟨rfl, rfl⟩
  have h₂ : KeepsSteward s s₂ := ite h₁ (h₁.trans (hflag ..))
  have h₃ : KeepsSteward s s₃ := ite h₂ (h₂.trans (hflag ..))
  have h₄ : KeepsSteward s s₄ := ite (h₃.trans (hflag ..)) h₃
  exact ite (h₄.trans (enterError ..)) (ite (h₄.trans (hrecord ..)) (ite (h₄.trans (hrecord ..)) h₄))

theorem meetWords (s : State) (write hbm : Bool) (p c e addr : Nat) (h : Handle) (ce fresh words : Byte) (capar : Bool)
    (data : Granule) : KeepsSteward s (s.meetWords write hbm p c e addr h ce fresh words capar data).2.2 :=
  (spoil ..).trans (recordWords ..)

/-! ### Transfers that leave -/

theorem logTransfer (s : State) (x : Transfer) (data : Granule) : KeepsSteward s (s.logTransfer x data) := by
  unfold State.logTransfer State.logPayload
  split
  · exact ite (modCore ..) (refl s)
  · exact refl s

theorem readSource (s : State) (x : Transfer) (a : Nat) : KeepsSteward s (s.readSource x a).2 := by
  unfold State.readSource
  split
  · split
    · exact (takeInject ..).trans (meetWords ..)
    · exact enterJobFault ..
  · exact enterJobFault ..

theorem fillData (s : State) (x : Transfer) : KeepsSteward s (s.fillData x).2 := by
  unfold State.fillData
  split
  · exact refl s
  · exact refl s
  · exact refl s
  · exact readSource ..

theorem tapSend (s : State) (x : Transfer) (f : Nat) (data : Granule) : KeepsSteward s (s.tapSend x f data) := by
  have hlinks (l : Tab LinkPort) : KeepsSteward s { s with links := l } := ⟨rfl, rfl⟩
  exact (hlinks _).trans (logTransfer ..)

theorem advance (r : List Transfer × State) (x : Transfer) : KeepsSteward r.2 (State.advance r x).2 := by
  unfold State.advance
  split
  · split
    · dsimp only
      split
      · exact (fillData ..).trans (tapSend ..)
      · exact fillData ..
    · exact refl _
  · split
    · exact refl _
    · exact refl _

theorem advanceAll (s : State) : KeepsSteward s s.advanceAll := by
  have hfold : KeepsSteward s (s.transfers.foldl State.advance ([], s)).2 :=
    List.foldlRecOn (motive := fun r : List Transfer × State => KeepsSteward s r.2) _ _ (refl s) fun r hr x _ => hr.trans (advance r x)
  exact hfold.trans ⟨rfl, rfl⟩

/-! ### Cores -/

theorem applyIncs (s : State) (c : Nat) : KeepsSteward s (s.applyIncs c) := by
  have hset (t : State) (k : CoreState) : KeepsSteward t (t.setCore c k) := ⟨rfl, rfl⟩
  unfold State.applyIncs
  refine ite (refl s) ((hset ..).trans (foldl (fun t sb => ?_) _ _))
  exact ite (ite ((hset ..).trans (enterJobFault ..)) (hset ..)) (refl t)

theorem countEngine (s : State) (c e : Nat) : KeepsSteward s (s.countEngine c e) := by
  unfold State.countEngine
  split
  · exact ⟨rfl, rfl⟩
  · split
    · exact modCore ..
    · exact modCore ..
    · exact modCore ..
    · exact refl s

theorem coreCycle (s : State) (c : Nat) : KeepsSteward s (s.coreCycle c) :=
  ite (((applyIncs ..).trans (foldl (fun _ _ => countEngine ..) _ _)).trans (modCore ..)) (refl s)

theorem forgetCycle (s : State) : KeepsSteward s s.forgetCycle := by
  have hcores := foldl (f := fun s c => if (s.core c).old = [] ∧ (s.core c).setNow = [] then s else s.modCore c CoreState.forgetCycle)
    (fun t c => ite (refl t) (modCore ..)) (s.cores.map (·.1)) s
  exact hcores.trans ⟨rfl, rfl⟩

/-- What the steward's slots leave of the accesses and of the data read stands to the next cycle. -/
theorem nextCycle (s : State) : KeepsSteward s.stewardSlots s.nextCycle := by
  have hend : KeepsSteward s.stewardSlots s.cycleEnd := by
    have hcores := foldl (f := State.coreCycle) coreCycle (s.stewardSlots.cores.map (·.1)) s.stewardSlots
    exact ite ((hcores.trans (forgetCycle _)).trans ⟨rfl, rfl⟩) (forgetCycle _)
  have hcycle : KeepsSteward s.cycleEnd { s.cycleEnd with cycle := s.cycle + 1 } := ⟨rfl, rfl⟩
  exact (hend.trans hcycle).trans (ite (advanceAll _) (refl _))

end State.KeepsSteward

/-- A tick within the beat does what the steward's slots do to memory, to the waiting accesses and to the data read. -/
theorem State.tick_slots {s : State} (hreset : s.power.coldReset = false) (hcycle : s.cycle + 1 < beatCycles) :
    s.tick.mem = s.stewardSlots.mem ∧ s.stewardSlots.KeepsSteward s.tick := by
  have htick : s.tick = s.nextCycle := by
    unfold State.tick
    rw [if_neg (by simp [hreset]), if_pos hcycle]
  rw [htick]
  refine ⟨?_, .nextCycle s⟩
  rw [State.nextCycle, State.cycleStart_mem]
  exact s.cycleEnd_mem

/-! ## Accesses to memory -/

section

variable {s : State} {hbm : Bool} {p d n : Nat}
  (hblocked : s.blocked d = false) (hboot : hbm = true → s.bootState = 4) (hfits : d % 64 + n ≤ 64)
include hblocked hboot hfits

/-- A steward write without an error puts exactly its bytes. -/
theorem State.memPut_lands (v : Nat) :
    bytesLanded s.mem (s.memPut hbm p d (bytesOf n v) XferErr.none).mem d n v ∧
      (s.memPut hbm p d (bytesOf n v) XferErr.none).stewardQ = s.stewardQ := by
  have hbits (m : Byte) : (0 : Byte) &&& m = 0 := BitVec.zero_and
  unfold State.memPut
  rw [if_neg (by simp [hblocked]), if_neg fun h => h.2 (hboot h.1), length_bytesOf]
  extract_lets m g r
  have hr : r = s.meetWords true hbm p 0 0 d 0 0 0 m false g := by
    dsimp only [r]
    rw [show XferErr.none.ce &&& m = 0 from hbits m, show XferErr.none.ue &&& m = 0 from hbits m]
    exact congrArg (fun b => s.meetWords true hbm p 0 0 d 0 0 0 m b g) (Bool.and_false hbm)
  have hdata : r.1 = g := by
    rw [hr]
    exact (s.meetWords_fine ..).1
  have hmem : r.2.2.mem = s.mem := by
    rw [hr]
    exact State.meetWords_mem ..
  have hqueue : r.2.2.stewardQ = s.stewardQ := by
    rw [hr]
    exact (State.KeepsSteward.meetWords ..).queue
  refine ⟨fun b => ?_, hqueue⟩
  have hput : (r.2.2.memWrite d (byteMask d n) (granBytes r.1) (r.2.1 &&& m)).mem =
      bytesWrite s.mem (granuleOf d) (maskBytes (byteMask d n).toNat (bytesRead s.mem (granuleOf d) 64) (granBytes g)) := by
    rw [← hmem, ← hdata]
    rfl
  have hgran : granuleOf d + d % 64 = d := Nat.div_add_mod' d 64
  rw [hput, byteAt_masked]
  by_cases hb : d ≤ b ∧ b < d + n
  · obtain ⟨j, rfl⟩ := Nat.exists_eq_add_of_le hb.1
    have hplace : d + j - granuleOf d = d % 64 + j := by omega
    have hbyte : BitVec.ofNat 8 (g.toNat >>> (8 * (d % 64 + j))) = BitVec.ofNat 8 (v >>> (8 * j)) := by
      rw [BitVec.toNat_ofNat, byte_mod 512 _ (by omega), ← Nat.shiftLeft_eq, Nat.mul_add, Nat.shiftRight_add,
        Nat.shiftLeft_shiftRight, ofNat_natOf, getD_bytesOf _ (by omega)]
    rw [if_pos hb, Nat.add_sub_cancel_left, hplace, testBit_byteMask _ _ (by omega), hbyte,
      if_pos ⟨by omega, by omega, decide_eq_true (by omega)⟩]
  · rw [if_neg hb, if_neg]
    rintro ⟨hlo, hhi, hbit⟩
    rw [testBit_byteMask _ _ (by omega), decide_eq_true_eq] at hbit
    omega

/-- A steward read without an error brings the bytes. -/
theorem State.memRead_reads (hregion : (∃ p, regionOf d = .slice p) ∨ ∃ p, regionOf d = .hbm p) :
    (s.memRead hbm p d n XferErr.none).1 = bytesRead s.mem d n ∧ (s.memRead hbm p d n XferErr.none).2.stewardQ = s.stewardQ := by
  have hbits (m : Byte) : (0 : Byte) &&& m = 0 := BitVec.zero_and
  have hfetch : s.fetch d = BitVec.ofNat 512 (natOf (bytesRead s.mem (granuleOf d) 64)) := by
    unfold State.fetch
    rcases hregion with ⟨p, hp⟩ | ⟨p, hp⟩ <;> rw [hp] <;> rfl
  have hgran : granuleOf d + d % 64 = d := Nat.div_add_mod' d 64
  unfold State.memRead
  rw [if_neg (by simp [hblocked]), if_neg fun h => h.2 (hboot h.1)]
  extract_lets m r
  have hr : r = s.meetWords false hbm p 0 0 d 0 0 0 m false (s.fetch d) := by
    dsimp only [r]
    rw [show XferErr.none.ce &&& m = 0 from hbits m, show XferErr.none.ue &&& m = 0 from hbits m]
    exact congrArg (fun b => s.meetWords false hbm p 0 0 d 0 0 0 m b (s.fetch d)) (Bool.and_false hbm)
  rw [hr, (s.meetWords_fine ..).1, hfetch, granBytes_natOf (length_bytesRead ..), take_drop_bytesRead _ _ hfits, hgran]
  exact ⟨rfl, (State.KeepsSteward.meetWords ..).queue⟩

end

/-! ## The slot of an access -/

/-- What the UCIe link carries lies within a granule. -/
theorem ucieOk_spec {size a d : Nat} (hok : ucieOk size a = true) (hd : deviceAddr a = some d) :
    1 ≤ size ∧ size ≤ 64 ∧ (size ≠ 64 → size ≤ 8) ∧ d % 64 + size ≤ 64 := by
  simp only [ucieOk, Bool.and_eq_true, Bool.or_eq_true, beq_iff_eq] at hok
  obtain ⟨hsize, hmod⟩ := hok
  unfold deviceAddr at hd
  split at hd
  · next hin =>
    have hd' : a - 0x100000000000 = d := Option.some.inj hd
    refine ⟨by omega, by omega, by omega, ?_⟩
    rcases hsize with (h | h) | h <;> rw [h] at hmod ⊢ <;> omega
  · cases hd

/-- Without its waiting accesses. -/
def State.emptied (s : State) : State := { s with stewardQ := [] }

/-- The one access that waits is served where its slot has come. -/
theorem State.stewardSlots_single {s : State} {r : StewardReq} {d p : Nat} (hq : s.stewardQ = [r]) (hd : deviceAddr r.addr = some d)
    (hp : stewardPort d = some p) (hslot : stewardSlot s.cycle p = true) : s.stewardSlots = s.emptied.serveAt r d := by
  have hport : r.port = some p := by rw [StewardReq.port, hd, Option.bind_some, hp]
  have hsplit : serveSplit s.cycle [] [r] = ([r], []) := by simp [serveSplit, hport, hslot]
  unfold State.stewardSlots
  rw [hq, if_neg (by simp), hsplit]
  show State.serveSteward s.emptied r = _
  rw [State.serveSteward, hd]

/-- An access to memory that reaches it. -/
theorem State.serveAt_memory {s : State} {write : Bool} {size a d : Nat} {data : Granule} (hblocked : s.blocked d = false)
    (hregion : (∃ p, regionOf d = .slice p) ∨ ((∃ p, regionOf d = .hbm p) ∧ s.bootState = 4)) (hsize : size ≤ 64)
    (hfits : d % 64 + size ≤ 64) :
    let t := s.serveAt ⟨write, size, a, data, XferErr.none⟩ d
    t.stewardQ = s.stewardQ ∧ (write = true → bytesLanded s.mem t.mem d size data.toNat) ∧
      (write = false → t.mem = s.mem ∧ t.readData = BitVec.ofNat 512 (natAt s.mem d size)) := by
  have hmemory : ∃ (hbm : Bool) (p : Nat), (hbm = true → s.bootState = 4) ∧
      ((∃ p, regionOf d = .slice p) ∨ ∃ p, regionOf d = .hbm p) ∧
      (∀ bs, s.crossWrite d bs XferErr.none = s.memPut hbm p d bs XferErr.none) ∧
      s.crossRead d size XferErr.none = s.memRead hbm p d size XferErr.none := by
    rcases hregion with ⟨p, hp⟩ | ⟨⟨p, hp⟩, hboot⟩
    · exact ⟨false, p, fun h => absurd h (by decide), .inl ⟨p, hp⟩, fun bs => by rw [State.crossWrite, hp],
        by rw [State.crossRead, hp]⟩
    · exact ⟨true, p, fun _ => hboot, .inr ⟨p, hp⟩, fun bs => by rw [State.crossWrite, hp], by rw [State.crossRead, hp]⟩
  obtain ⟨hbm, p, hboot, hregion', hput, hget⟩ := hmemory
  have hbytes : (granBytes data).take size = bytesOf size data.toNat := take_bytesOf _ hsize
  cases write with
  | true =>
    have hserve : s.serveAt ⟨true, size, a, data, XferErr.none⟩ d = s.memPut hbm p d (bytesOf size data.toNat) XferErr.none := by
      rw [← hput, ← hbytes]
      exact if_pos rfl
    obtain ⟨hlands, hqueue⟩ := State.memPut_lands (p := p) hblocked hboot hfits data.toNat
    rw [hserve]
    exact ⟨hqueue, fun _ => hlands, fun h => absurd h (by decide)⟩
  | false =>
    obtain ⟨hread, hqueue⟩ := State.memRead_reads (p := p) hblocked hboot hfits hregion'
    have hserve : s.serveAt ⟨false, size, a, data, XferErr.none⟩ d = State.answerRead (s.memRead hbm p d size XferErr.none) := by
      rw [← hget]
      exact if_neg Bool.false_ne_true
    rw [hserve]
    refine ⟨hqueue, fun h => absurd h (by decide), fun _ => ⟨State.memRead_mem .., ?_⟩⟩
    rw [State.answerRead, hread, natAt]

/-! ## Accesses that take effect at once -/

section

variable {write : Bool} {size : Nat} {addr : BitVec 48} {data : Granule} {s : State}

/-- Where an access goes, outside cold reset. -/
theorem State.access_eq {r : StewardReq} (hreset : s.power.coldReset = false) :
    (deviceAddr r.addr = none → s.access r = .next (s.localAccess r)) ∧
      (∀ d, deviceAddr r.addr = some d → ucieOk r.size r.addr = false → s.access r = .fault .unsupportedAccess) ∧
      ∀ d p, deviceAddr r.addr = some d → ucieOk r.size r.addr = true → stewardPort d = some p →
        s.access r = .next { s with stewardQ := s.stewardQ ++ [r] } := by
  unfold State.access
  rw [if_neg (by simp [hreset])]
  refine ⟨fun hlocal => ?_, fun d hd hbad => ?_, fun d p hd hok hp => ?_⟩
  · rw [hlocal]
  · rw [hd]
    exact if_pos (by simp [hbad])
  · rw [hd]
    exact (if_neg (by simp [hok])).trans (if_pos (by simp [hp]))

theorem execStewardAccess_eq {err : XferErr} (hlo : 1 ≤ size) (hhi : size ≤ 64) (herr : err.wf = true) :
    exec (.stewardAccess write size addr data err) s = s.access ⟨write, size, addr.toNat, data, err⟩ := by
  have hwf : (Instr.stewardAccess write size addr data err).wf = true := by
    simp [Instr.wf, herr, hlo, hhi]
  show execStewardAccess write size addr data err s = _
  rw [execStewardAccess, whenFormed, if_pos hwf]

theorem execRegisterWrite_eq {value : Dword} (hlo : 1 ≤ size) (hhi : size ≤ 8) :
    exec (.registerWrite size addr value) s = s.access ⟨true, size, addr.toNat, value.setWidth 512, XferErr.none⟩ := by
  have hwf : (Instr.registerWrite size addr value).wf = true := decide_eq_true ⟨hlo, hhi⟩
  show execRegisterWrite size addr value s = _
  rw [execRegisterWrite, whenFormed, if_pos hwf]

/-- An access to the steward die that does not stall. -/
theorem execStewardAccess_local (hreset : s.power.coldReset = false) (hlo : 1 ≤ size) (hhi : size ≤ 64)
    (hlocal : deviceAddr addr.toNat = none) (hflash : inFlash addr.toNat = false) :
    exec (.stewardAccess write size addr data XferErr.none) s = .next
      (if write then s.localWrite addr.toNat (bytesOf size data.toNat) else State.answerRead (s.localRead addr.toNat size)) := by
  rw [execStewardAccess_eq hlo hhi (by decide), (s.access_eq hreset).1 hlocal]
  unfold State.localAccess
  dsimp only
  rw [granBytes, take_bytesOf _ hhi, if_neg (c := inFlash addr.toNat = true ∧ _) (by simp [hflash])]

/-- Words read one after the other, each without a change to the state. -/
theorem State.foldl_localWord {f : Nat → List Byte} {l : List Nat} (h : ∀ w ∈ l, s.localWord w = (f w, s)) (bs : List Byte) :
    (l.foldl (fun (x : List Byte × State) w => let y := x.2.localWord w; (x.1 ++ y.1, y.2)) (bs, s)) = (bs ++ l.flatMap f, s) := by
  induction l generalizing bs with
  | nil => simp
  | cons w l ih =>
    obtain ⟨hw, hl⟩ := List.forall_mem_cons.1 h
    rw [List.foldl_cons]
    dsimp only
    rw [hw, ih hl, List.flatMap_cons, List.append_assoc]

/-- The aligned words that an access touches lie between its ends, rounded to words. -/
theorem mem_wordsTouched {a n w : Nat} (h : w ∈ wordsTouched a n) : a / 4 * 4 ≤ w ∧ w < a + n ∧ w % 4 = 0 := by
  obtain ⟨i, hi, rfl⟩ := List.mem_map.1 h
  have := List.mem_range.1 hi
  omega

end

/-- Bytes read word by word. -/
theorem flatMap_bytesRead (m : Bytes) (a k : Nat) :
    ((List.range k).map fun i => a + 4 * i).flatMap (fun w => bytesRead m w 4) = bytesRead m a (4 * k) := by
  induction k with
  | zero => rfl
  | succ k ih =>
    rw [List.range_succ, List.map_append, List.flatMap_append, ih]
    simp [bytesRead, Nat.mul_add, List.range_add, Nat.add_assoc]

theorem flatMap_ones (l : List Nat) : l.flatMap (fun _ => ones 4) = ones (4 * l.length) := by
  induction l with
  | nil => rfl
  | cons a l ih =>
    rw [List.flatMap_cons, ih, ones, ones, ones, List.replicate_append_replicate, List.length_cons]
    congr 1
    omega

/-- SRAM is read as it is. -/
theorem State.localRead_sram (s : State) {a n : Nat} (hlo : 0x1000000 ≤ a) (hhi : a + n ≤ 0x1800000) :
    s.localRead a n = (bytesRead s.sram a n, s) := by
  have hwords : ∀ w ∈ wordsTouched a n, s.localWord w = (bytesRead s.sram w 4, s) := by
    intro w hw
    obtain ⟨hbelow, habove, -⟩ := mem_wordsTouched hw
    have hin : inSram w = true := by
      simp only [inSram, Bool.or_eq_true, Bool.and_eq_true, decide_eq_true_eq]
      omega
    rw [State.localWord, if_pos hin]
  unfold State.localRead
  rw [State.foldl_localWord hwords, List.nil_append, wordsTouched, flatMap_bytesRead]
  dsimp only
  rw [take_drop_bytesRead _ _ (by omega), show a / 4 * 4 + a % 4 = a by omega]

/-- Where nothing lies, a read brings ones. -/
theorem State.localRead_hole (s : State) {a n : Nat} (h : ∀ w ∈ wordsTouched a n, s.localWord w = (ones 4, s)) :
    s.localRead a n = (ones n, s) := by
  unfold State.localRead
  rw [State.foldl_localWord h, List.nil_append, flatMap_ones, wordsTouched, List.length_map, List.length_range]
  dsimp only
  rw [ones, List.drop_replicate, List.take_replicate, Nat.min_eq_left (by omega), ones]

/-- The address lies in no block of the steward die. -/
def isHole (a : Nat) : Prop := (0x2111000 ≤ a ∧ a < 0x8000000) ∨ 0x18000000 ≤ a

theorem isHole_blocks {a : Nat} (h : isHole a) : inSram a = false ∧ ¬(0x2000000 ≤ a ∧ a < 0x2100000) ∧
    ¬(0x2100000 ≤ a ∧ a < 0x2110000) ∧ ¬(0x2110000 ≤ a ∧ a < 0x2111000) ∧ inFlash a = false := by
  unfold isHole at h
  simp only [inSram, inFlash, Bool.or_eq_false_iff, Bool.and_eq_false_iff, decide_eq_false_iff_not]
  omega

theorem State.localWord_hole (s : State) {a : Nat} (h : isHole a) : s.localWord a = (ones 4, s) := by
  obtain ⟨hsram, hic, hmac, hflash, hwindow⟩ := isHole_blocks h
  rw [State.localWord, if_neg (by simp [hsram]), if_neg hic, if_neg hmac, if_neg hflash, if_neg (by simp [hwindow])]

theorem State.localWrite_hole (s : State) {a : Nat} (bs : List Byte) (h : isHole a) : s.localWrite a bs = s := by
  obtain ⟨hsram, hic, hmac, hflash, -⟩ := isHole_blocks h
  rw [State.localWrite, if_neg (by simp [hsram]), if_neg hic, if_neg hmac, if_neg hflash]

/-- Settles O30: the queue, the slot, and accesses that take effect at once. -/
theorem stewardMovesBytes : Obligations.StewardMovesBytes := by
  refine ⟨fun write size addr data err value s d p hreset hd hp hok => ?_, fun write size addr data s d hreset hd hok hblocked hq hcase => ?_,
    fun write size addr data s hreset hlo hhi => ?_⟩
  · obtain ⟨hlo, hhi, hsmall, -⟩ := ucieOk_spec hok hd
    exact ⟨fun herr => (execStewardAccess_eq hlo hhi herr).trans ((s.access_eq hreset).2.2 d p hd hok hp),
      fun hsize => (execRegisterWrite_eq hlo (hsmall hsize)).trans ((s.access_eq hreset).2.2 d p hd hok hp)⟩
  · obtain ⟨-, hhi, -, hfits⟩ := ucieOk_spec hok hd
    have hcycle : s.cycle + 1 < beatCycles := by
      rcases hcase with ⟨-, h⟩ | ⟨-, -, h⟩ <;> rw [h] <;> decide
    have hslot : ∃ p, stewardPort d = some p ∧ stewardSlot s.cycle p = true := by
      rcases hcase with ⟨⟨p, hp⟩, h⟩ | ⟨⟨p, hp⟩, -, h⟩
      · have hbelow : p < 1024 := by
          unfold regionOf at hp
          split_ifs at hp with h1 h2
          cases hp
          omega
        exact ⟨1024 + p, by rw [stewardPort, hp], by rw [stewardSlot, if_pos (by omega), h]; rfl⟩
      · exact ⟨2048 + p, by rw [stewardPort, hp], by rw [stewardSlot, if_neg (by omega), h]; rfl⟩
    obtain ⟨p, hp, hslot⟩ := hslot
    have hregion : (∃ p, regionOf d = .slice p) ∨ ((∃ p, regionOf d = .hbm p) ∧ s.emptied.bootState = 4) :=
      hcase.imp (fun h => h.1) fun h => ⟨h.1, h.2.1⟩
    have hserved := State.serveAt_memory (s := s.emptied) (write := write) (a := addr.toNat) (data := data) hblocked hregion hhi hfits
    obtain ⟨hmem, hkeeps⟩ := State.tick_slots hreset hcycle
    rw [State.stewardSlots_single hq hd hp hslot] at hmem hkeeps
    rw [hkeeps.queue, hkeeps.data, hmem]
    exact hserved
  · intro c
    refine ⟨fun hbelow habove => ?_, fun hhole => ?_, fun hdev hbad => ?_⟩
    · have hlocal : deviceAddr addr.toNat = none := if_neg (by omega)
      have hflash : inFlash addr.toNat = false := by
        simp only [inFlash, Bool.and_eq_false_iff, decide_eq_false_iff_not]
        omega
      have hin : inSram addr.toNat = true := by
        simp only [inSram, Bool.or_eq_true, Bool.and_eq_true, decide_eq_true_eq]
        omega
      refine ⟨_, execStewardAccess_local hreset hlo hhi hlocal hflash, ?_⟩
      cases write with
      | true =>
        rw [if_pos rfl, State.localWrite, if_pos hin, if_neg (by omega),
          List.take_of_length_le (by rw [length_bytesOf]; omega)]
        exact ⟨rfl, fun _ => bytesLanded_bytesWrite s.sram addr.toNat size data.toNat, fun h => absurd h (by decide)⟩
      | false =>
        rw [if_neg (by decide), State.localRead_sram s hbelow habove]
        exact ⟨rfl, fun h => absurd h (by decide), fun _ => ⟨rfl, rfl⟩⟩
    · have hlocal : deviceAddr addr.toNat = none := if_neg (by omega)
      have hole : isHole addr.toNat := by
        unfold isHole
        omega
      have hwords : ∀ w ∈ wordsTouched addr.toNat size, s.localWord w = (ones 4, s) := by
        intro w hw
        obtain ⟨hw1, hw2, -⟩ := mem_wordsTouched hw
        refine s.localWord_hole ?_
        unfold isHole
        omega
      have hexec := execStewardAccess_local (write := write) (data := data) hreset hlo hhi hlocal (isHole_blocks hole).2.2.2.2
      rw [State.localWrite_hole s _ hole, State.localRead_hole s hwords, State.answerRead, natOf_ones] at hexec
      exact hexec
    · obtain ⟨d, hd⟩ := Option.isSome_iff_exists.1 hdev
      exact (execStewardAccess_eq hlo hhi (by decide)).trans ((s.access_eq hreset).2.1 d hd hbad)

end Sys2Proof.Machine
end
